-- ==== Sys2Proof/Word.lean ====
section
/-! DEFINITION. The word types of the G480: bit 0 is the least significant bit (R3), multi-byte values are
little-endian (R4). -/

namespace Sys2Proof

/-- One byte. -/
abbrev Byte := BitVec 8

/-- A 32-bit register or memory word. -/
abbrev Word32 := BitVec 32

/-- A 64-bit register or memory word. -/
abbrev Word64 := BitVec 64

/-- R7: an event code, the block code in [15:8] and the event byte in [7:0]. -/
abbrev EventCode := BitVec 16

end Sys2Proof
end

