-- ==== Sys2Proof/Types.lean ====
section
/-! DEFINITION. The operand types of the commands: what the outside world, or a unit whose inside the spec does not
give, supplies with a happening (who made an access, what a packet carried, what a monitor measured). -/

namespace Sys2Proof

/-- R330: who makes a register or memory access. A thread's mode is read from the state, never claimed. -/
inductive Agent
  | host
  | thread (t : Fin 256)
  | runner (ch : Fin 32)
  | peer (chip : Fin 4) (k : Fin 5)
  | unit (u : Fin 35)
  | isp (p : Fin 8)
  | pat | tap | walker
  | assayer
  deriving DecidableEq, Repr

/-- Access kinds of R332 to R340. -/
inductive Access
  | read | write | execute
  deriving DecidableEq, Repr

/-- The outcome of the SEC-DED check of the words an access reads (R285, R516, R518). -/
inductive Ecc
  | clean | corrected | uncorrectable
  /-- R334: a read of the translation walk, where the access makes one. -/
  | walkUncorrectable
  deriving DecidableEq, Repr

/-- The header ECC outcome of a CSI-2 packet (R157). -/
inductive HeaderEcc
  | ok | fixed | failed
  deriving DecidableEq, Repr

/-- R145, R157: what a short or an unexpected packet brings: its port, virtual channel and header check. -/
structure PortPacket where
  port : Fin 8
  vc : BitVec 4
  hdr : HeaderEcc
  deriving DecidableEq, Repr

/-- R147, R157: what a long packet beside the pixels brings: its header check, its CRC and its bytes. -/
structure LongPacket where
  hdr : HeaderEcc
  crcOk : Bool
  payload : List Byte
  deriving DecidableEq, Repr

/-- R134: where a read of the pattern area meets an uncorrectable word: in a check of R132, counted from step 2, or in the copy
of its step 6. -/
inductive AreaFault
  | check (k : Fin 4)
  | copy
  deriving DecidableEq, Repr

/-- R134: what the reads of a load meet: the copy of its source, and the later reads of the pattern area. -/
structure LoadReads where
  source : Ecc
  area : Option AreaFault
  deriving DecidableEq, Repr

/-- R106: the lifecycle held in the fuses. -/
inductive Lifecycle
  | blank | secured | decommissioned
  deriving DecidableEq, Repr

/-- R61: the five power modes, coded 0 to 4 in PWR_MODE_REQ. -/
inductive PowerMode
  | run | trim | watch | hold | off
  deriving DecidableEq, Repr

/-- What the pins, the boot flash and the ROM self-test give a start sequence (R98, R103, R106, R412). -/
structure StartInputs where
  /-- BOOT_SEL[1:0] at the release of reset (R98). -/
  bootSel : BitVec 2
  /-- FLASK_ID[1:0] at the release of reset (R412). -/
  flaskId : BitVec 2
  /-- The boot flash's bytes, read when the source is 1 (R98). -/
  flash : List Byte
  /-- DRAM that answers initialisation, in units of 256 MiB, 0 to 256 (SYS_DRAM). -/
  dramUnits : Fin 257
  /-- R103 step 3: the forced comparator mismatch was reported. -/
  mismatchReported : Bool
  /-- R103 step 3: the ROM CRC holds. -/
  romCrcOk : Bool
  /-- R103 step 3 and R106: no uncorrectable fuse error. -/
  fuseEccOk : Bool
  /-- R100: the staged images, by their number, of which a read returned an uncorrectable error. -/
  badReads : List (Fin 3)
  /-- R134: where a read of the pattern area is uncorrectable. -/
  areaFault : Option AreaFault
  deriving DecidableEq, Repr

/-- The counts of one clock monitor window (R56, R57). -/
structure ClockCounts where
  refclk : Nat
  eclk : Nat
  nclk : Nat
  aclk : Nat
  pclk : Nat
  /-- Watch cycles the Assayer counted in 400,000 ACLK (R57). -/
  watchPerAclk : Nat
  deriving DecidableEq, Repr

/-- The monitored rails of R60. -/
inductive MonitoredRail
  | core | asy
  deriving DecidableEq, Repr

/-- An instruction that R271 does not list (R271, R280, R285): what it does to the thread. -/
inductive OrdinaryOp
  /-- An ordinary register or arithmetic instruction whose result is written to gd. -/
  | result (gd : BitVec 5) (value : Word64)
  /-- A word that is not an ordinary instruction: it raises ILLEGAL unless R271 lists it. -/
  | word (w : Word32)
  /-- The fetch of the instruction met an uncorrectable error (R285). -/
  | fetchUncorrectable
  /-- The register file's parity check failed (R285). -/
  | registerParity
  deriving DecidableEq, Repr

/-- How a vision engine command came to its end, as seen by the engine itself (R166, R179, R180). -/
inductive EngineEnd
  | ok
  | memFault (uncorrectable : Bool)
  | parity
  deriving DecidableEq, Repr

/-- How a tile of an array ended (R237, R249). -/
inductive TileEnd
  | ok (correctedErrors : Nat)
  | memFault (uncorrectable : Bool)
  | parity
  | bufferEcc
  deriving DecidableEq, Repr

/-- What a completion token shows about the unit that sent it (R407). -/
structure TokenView where
  /-- The unit named by phys or phys_mask, when it is another than the binding says (row 3). -/
  namesOther : Option (Fin 35)
  /-- The health sideband drives ok while the token says PARITY (row 1). -/
  sidebandOk : Bool
  deriving DecidableEq, Repr

/-- The score of a golden-signature test (R396). -/
structure TestOutcome where
  /-- CRC-32C of the output and the test token. -/
  signature : Word32
  /-- The token status is OK. -/
  statusOk : Bool
  /-- The cycle count equals the golden count. -/
  cyclesOk : Bool
  deriving DecidableEq, Repr

/-- The kinds of a Runner bus error (DMA_ERR_INFO.kind of R364). -/
inductive BusErrorKind
  | errorResponse | translation | firewall | uncorrectable
  deriving DecidableEq, Repr

/-- The peer's part of a training attempt (R412, R414, R425). -/
structure TrainInputs where
  /-- Lane lock and deskew of the eight lanes. -/
  lanes : BitVec 8
  /-- The index the peer reports. -/
  peerIndex : BitVec 2
  /-- The offset d over 256 round trips, as the sum of (t2 - t1) - (t4 - t3) in WCLK. -/
  offsetSum : Int
  /-- The peer is in a start sequence (R424). -/
  peerStarting : Bool
  /-- The flask_tag of the pattern that the peer runs, known with its active pattern (R414, R431). -/
  peerTag : Option Word32
  deriving DecidableEq, Repr

/-- The host resets of R475 and R487. -/
inductive HostResetKind
  | hot | functionLevel | linkDown | perstN
  deriving DecidableEq, Repr

/-- The base address registers of R457. -/
inductive Bar
  | bar0 | bar2 | bar4
  deriving DecidableEq, Repr

/-- A host access through a BAR (R458). -/
inductive HostOp
  | read (bytes : Nat)
  | write (data : List Byte)
  deriving DecidableEq, Repr

/-- The three discrete safety lines (R473). -/
inductive SafetyLine
  | safeA | safeB | faultN
  deriving DecidableEq, Repr

/-- The two safety channels (R462). -/
inductive Channel
  | a | b
  deriving DecidableEq, Repr

/-- R391: the six compute classes that rotate under test. -/
inductive TestClass
  | pyramid | warp | feature | flow | stereo | neural
  deriving DecidableEq, Repr

/-- What the 32 ACLK of a heartbeat burst reported (R369). -/
inductive BurstReport
  /-- Each forced lane, and no other, was reported 3 ACLK later. -/
  | exact
  /-- A forced mismatch unreported, a report off lane or off time, or a rail pair off code. -/
  | wrong
  deriving DecidableEq, Repr

/-- The reply of a write (R310, R327). -/
inductive WriteReply
  | ok
  | uncorrectable
  | linkFailure
  | peerRejected
  deriving DecidableEq, Repr

/-- R330, R416, R417: what an access from a peer chip does; a reservation access names the peer's thread. -/
inductive PeerOp
  | read | write | execute
  | reserve (t : Fin 256)
  | conditional (t : Fin 256)
  /-- The thread's reservation here is cleared at its own chip (R316). -/
  | release (t : Fin 256)
  deriving DecidableEq, Repr

/-- What an exchange line carries (R420, R421): its place in the exchange buffer and its bytes. -/
structure ExchangeLine where
  /-- Split node q, 0 to 3, in node_id order. -/
  q : Fin 4
  /-- The owner's pour_seq. -/
  seq : Word32
  /-- The sending chip. -/
  chip : Fin 4
  /-- Byte offset in xchg_buf, a multiple of 64. -/
  offset : Nat
  data : List Byte
  /-- The line completes its layer. -/
  lastOfLayer : Bool
  /-- The sender's physical arrays that ran the layer, sent with its last line (R245, R435). -/
  phys : BitVec 17
  deriving DecidableEq, Repr

/-- A counter of the counter block (R445, R446). -/
inductive CounterName
  | global (g : Fin 16)
  | sourceCmd (src : Fin 75)
  | sourceBusy (src : Fin 75)
  | sourceErr (src : Fin 75)
  | time
  deriving DecidableEq, Repr

end Sys2Proof
end

