-- ==== Sys2Proof/Syntax.lean ====
section
/-! DEFINITION. The commands of the G480: one constructor per row of spec/opcode_table.json (its operations and
events, each whole and indivisible, 95_what_each_step_holds.md), with the operands the outside world supplies. -/

namespace Sys2Proof

/-- The commands, in the order of the table. Each docstring names the row's rule. -/
inductive Instr
  /-- VDD_ASY_POWER_ON (R96): VDD_ASY rises within its limits and the device takes a cold reset that clears all state except the fuses. -/
  | vddAsyPowerOn
  /-- VDD_ASY_LOSS (R51): Loss of VDD_ASY deasserts SAFE_A and SAFE_B and asserts FAULT_N through the output structures alone; PMIC_EN falls through its pull-down. -/
  | vddAsyLoss (vddIoPresent : Bool)
  /-- VDD_CORE_POWER_ON (R96): VDD_CORE powers on while VDD_ASY is within limits, causing a warm reset with cause core_por. -/
  | vddCorePowerOn
  /-- RST_N_PULSE (R96): A low pulse on RST_N of at least 1.0 µs causes a warm reset; in HOLD it is the HOLD exit, and in OFF it starts the power-up of R67. -/
  | rstNPulse (lowEclk : Nat)
  /-- PMIC_EN_ASSERT (R498): 200 µs after VDD_ASY is within limits, the device drives PMIC_EN high so that the switched rails rise. -/
  | pmicEnAssert
  /-- POWER_UP_TIMEOUT (R498): When VDD_CORE, VDD_PHY or VDD_DDR is not within limits 20 ms after PMIC_EN rises, the device stays in reset with FAULT_N asserted and logs PWR_VDD_CORE_OOR. -/
  | powerUpTimeout
  /-- START_SEQUENCE (R103): At reset release under R499, the device runs the start sequence: internal reset, PLL lock, ROM self-test, standing grant ramp, staging, and verification of the firmware and the start pattern. -/
  | startSequence (inp : StartInputs)
  /-- BOOT_DOORBELL (R98): The host writes SYS_BOOT_DOORBELL.staged to signal that it has staged the images, and the boot ROM proceeds with a host-source start. -/
  | bootDoorbell (who : Agent)
  /-- FETCH_TIMEOUT (R100): A host-source fetch that has waited 1 s for the doorbell raises SYS_FETCH_TIMEOUT and goes on waiting. -/
  | fetchTimeout
  /-- SYS_READY (R103): When the start pattern is loaded and the first rotation has completed, whichever comes later, the device raises SYS_READY and the FGS accepts frame triggers. -/
  | sysReady
  /-- SOFT_RESET (R96): A keeper-mode write of 1 to SYS_RST_CTRL.full causes a warm reset with cause soft. -/
  | softReset (who : Agent)
  /-- PLL_UNLOCK (R58): The PLL lock detector drops, raising CLK_PLL_UNLOCK and entering S2. -/
  | pllUnlock
  /-- REFCLK_LOST (R56): REFCLK shows no edge for 1.0 µs, raising CLK_REF_LOST and entering S2. -/
  | refclkLost
  /-- CLOCK_MONITOR_WINDOW (R56): At the end of each 25,000-watch-cycle window, the clock monitor checks the counts of REFCLK and the derived clocks, and the watch count against ACLK, raising a clock event and S2 when a count is out of range. -/
  | clockMonitorWindow (counts : ClockCounts)
  /-- SUPPLY_EXCURSION (R60): VDD_CORE or VDD_ASY stays outside its monitor thresholds for more than 2.0 µs, raising PWR_VDD_CORE_OOR or PWR_VDD_ASY_OOR and entering S2. -/
  | supplyExcursion (rail : MonitoredRail) (millivolts : Nat) (eclk : Nat)
  /-- VDD_IO_LOW (R496): VDD_IO falls below 1.71 V while VDD_ASY is within limits, which raises SFP_LINE_STUCK and enters S2. -/
  | vddIoLow
  /-- TEMP_SAMPLE (R504): Every 1 ms the on-die sensor measures TJ into PWR_TEMP and raises PWR_TEMP_HIGH for a reading above 105 °C. -/
  | tempSample (celsius : BitVec 9)
  /-- TEMP_TRIP (R504): A second consecutive reading above 115 °C raises PWR_TEMP_TRIP and enters S2. -/
  | tempTrip
  /-- PWR_MODE_REQUEST (R71): A write to PWR_MODE_REQ requests a power mode; the request is refused for codes 5 to 7, held pending during a transition, or replaces a pending one. -/
  | pwrModeRequest (keeper host : Option (BitVec 3))
  /-- MODE_TRANSITION_START (R64): At the drain point, or at the request for an upward transition, the device starts the mode change, checking a TRIM request under R62 and deasserting SAFE_A and SAFE_B for WATCH, HOLD or OFF. -/
  | modeTransitionStart
  /-- MODE_TRANSITION_COMPLETE (R65): A mode transition completes, raising PWR_MODE_CHANGED, applying the new Ladle ceiling and standing grant, evaluating held presence frames, and starting any pending request. -/
  | modeTransitionComplete
  /-- HOLD_WAKE_TIMER (R66): Expiry of PWR_HOLD_CFG.wake_ms ends HOLD and exits to PWR_HOLD_CFG.exit_mode. -/
  | holdWakeTimer
  /-- VDD_CORE_MON_REARM (R74): After HOLD exit, once VDD_CORE has stayed within limits for 100.0 µs after PMIC_HOLD falls, the VDD_CORE monitor rearms. -/
  | vddCoreMonRearm
  /-- HOLD_CORE_TIMEOUT (R74): VDD_CORE has not reached its limits 10 ms after PMIC_HOLD falls, which raises PWR_VDD_CORE_OOR and enters S2. -/
  | holdCoreTimeout
  /-- LADLE_GRANT (R76): Ladle grants the queue head once it fits under the active ceiling and both the 256-ECLK stagger gap and the previous ramp have passed; a head that can no longer fit is refused. -/
  | ladleGrant
  /-- LADLE_RAMP_END (R77): A granted requester's ramp of 30 ECLK per ticket ends, and the requester begins its command. -/
  | ladleRampEnd (id : BitVec 10)
  /-- LADLE_CEILING_WRITE (R88): A write to LDL_CEIL is ignored when it lies outside 320 to 960 or below the peak declared draw of a loaded pattern, and otherwise applies from the next ECLK. -/
  | ladleCeilingWrite (who : Agent) (ceiling : BitVec 10)
  /-- TLOAD_GO (R86): A keeper write of go to LDL_TLOAD queues the test load in Ladle class 2; the write is ignored while the load is busy. -/
  | tloadGo (who : Agent) (n : Fin 2) (tickets : BitVec 8) (hold : BitVec 16)
  /-- TLOAD_STOP (R86): A keeper write of stop to LDL_TLOAD withdraws, ends the ramp of, or ends the draw of the test load, according to its phase. -/
  | tloadStop (who : Agent) (n : Fin 2)
  /-- TLOAD_HOLD_END (R86): The test load's hold time h expires, and the load releases its tickets. -/
  | tloadHoldEnd (n : Fin 2)
  /-- CURRENT_MONITOR_WINDOW (R92): At the end of each 1.0 µs window, the current monitor compares the measured VDD_CORE current with the allowance derived from the largest granted sum. -/
  | currentMonitorWindow (measured32 : Nat)
  /-- LDL_OVERRUN (R92): The measured current exceeds the allowance in LDL_MON_CFG.windows consecutive windows, so Ladle freezes, the exposed pours' records are invalidated, LDL_OVERRUN is raised and the device enters S1. -/
  | ldlOverrun
  /-- LDL_UNFREEZE (R93): After an overrun, the current stays within the allowance for LDL_MON_CFG.windows consecutive windows, and Ladle resumes granting. -/
  | ldlUnfreeze
  /-- LDL_UNDERRUN (R94): The measured current stays below half the granted sum for 8 consecutive windows, which raises LDL_UNDERRUN once for that run. -/
  | ldlUnderrun
  /-- FUSE_UNLOCK (R108): Writes of 0x5A5A and then 0xA5A5 to IDN_FUSE_UNLOCK, with no other IDN write between them, arm a fuse operation. -/
  | fuseUnlock (who : Agent)
  /-- FUSE_WRITE_KEY (R108): IDN_FUSE_CTRL op 1 programs a key hash and its usage into a slot, or is refused with IDN_FUSE_PROG_REFUSED. -/
  | fuseWriteKey (who : Agent) (slot : Fin 4) (usage : BitVec 2)
  /-- FUSE_REVOKE_SLOT (R108): IDN_FUSE_CTRL op 2 revokes a key slot, unless doing so would leave no valid slot with pattern usage. -/
  | fuseRevokeSlot (who : Agent) (slot : Fin 4)
  /-- FUSE_ADVANCE_ASY_SVN (R108): IDN_FUSE_CTRL op 3 raises the Assayer svn counter to the svn of the running image. -/
  | fuseAdvanceAsySvn (who : Agent)
  /-- FUSE_ADVANCE_KPR_SVN (R108): IDN_FUSE_CTRL op 4 raises the keeper svn counter to the svn of the running image. -/
  | fuseAdvanceKprSvn (who : Agent)
  /-- FUSE_DECOMMISSION (R108): IDN_FUSE_CTRL op 5 moves the lifecycle to DECOMMISSIONED. -/
  | fuseDecommission (who : Agent)
  /-- FUSE_PROG_DONE (R108): 2.0 ms after a fuse operation starts, programming ends with a read-back that raises IDN_FUSE_PROG_DONE or IDN_FUSE_VERIFY; the first key write moves BLANK to SECURED. -/
  | fuseProgDone (readBackOk : Bool)
  /-- ATT_GO (R111): A write of IDN_ATT_CTRL.go starts an attestation report, or raises IDN_ATT_BUSY when a report is in progress. -/
  | attGo (keeper host : Bool)
  /-- ATT_DONE (R111): The Assayer writes the signed report to IDN_ATT_BUF, sets done and raises IDN_ATT_DONE. -/
  | attDone
  /-- PATTERN_LOAD (R132): A write of PAT_CTRL.load copies a pattern into the pattern area and runs the header, signature, section and cross-record checks; it is refused when the mode or a busy load forbids it. -/
  | patternLoad (keeper host : Bool) (reads : LoadReads)
  /-- PATTERN_LOADED (R132): A load that passes every check copies the non-overlapping init content, stores the Witness parameters, raises PAT_LOADED, and leaves the pattern pending. -/
  | patternLoaded
  /-- SWAP_COMMIT (R135): A write of PAT_CTRL.commit releases a pending pattern that hold_swap is holding, so that its swap is requested. -/
  | swapCommit (who : Agent)
  /-- SWAP_POINT (R135): When the last pour in flight retires, the device switches the slot tables, Ladle declarations, age monitor and Witness table in one ECLK, copies the remaining init content, and raises PAT_SWAP_DONE. -/
  | swapPoint
  /-- TRIGGERS_ACCEPTED (R135): 2.0 µs plus the init copy time after the swap point, the new pattern accepts triggers and takes or drops each deferred trigger under R136. -/
  | triggersAccepted
  /-- SWAP_DRAIN_TIMEOUT (R137): When PAT_SWAP_TMO expires before the pours in flight have retired, the FGS aborts them and raises PAT_SWAP_ABORTED. -/
  | swapDrainTimeout
  /-- CSI_LANE_SYNC (R162): A receiver achieves lane or trio synchronisation, and frames before the next frame start are discarded. -/
  | csiLaneSync (p : Fin 8)
  /-- CSI_FRAME_START (R154): A frame start packet opens a frame, stamps FS, forces the end of an open frame, abandons a blanking test, or discards the frame when its half is busy. -/
  | csiFrameStart (p : Fin 8) (vc : BitVec 4) (hdr : HeaderEcc)
  /-- CSI_FRAME_END (R154): A frame end packet closes the frame, fills missing rows, sets the remaining band flags and the embedded and user flags, and writes the frame descriptor. -/
  | csiFrameEnd (p : Fin 8) (vc : BitVec 4) (hdr : HeaderEcc)
  /-- CSI_LINE_START (R154): A line start packet begins a row. -/
  | csiLineStart (p : Fin 8) (vc : BitVec 4) (hdr : HeaderEcc)
  /-- CSI_LINE_END (R145): A line end packet closes a row in line framing. -/
  | csiLineEnd (p : Fin 8) (vc : BitVec 4) (hdr : HeaderEcc)
  /-- CSI_PIXEL_ROW (R154): A pixel long packet is processed as one row through the ISP stages and written with its line mark, with short, long, CRC, overflow or header ECC handling. -/
  | csiPixelRow (p : Fin 8) (vc : BitVec 4) (dt : BitVec 6) (hdr : HeaderEcc) (crcOk : Bool) (payload : List Byte)
  /-- CSI_EMBEDDED_DATA (R147): An embedded 8-bit data packet on the node's VC is routed to the embedded buffer. -/
  | csiEmbeddedData (p : Fin 8) (vc : BitVec 4) (pkt : LongPacket)
  /-- CSI_USER_DATA (R147): A user-defined packet enabled in user_dt_mask is written unchanged to the user buffer. -/
  | csiUserData (p : Fin 8) (vc : BitVec 4) (kind : Fin 8) (pkt : LongPacket)
  /-- CSI_GENERIC_SHORT (R145): A generic short packet is counted and otherwise ignored. -/
  | csiGenericShort (pkt : PortPacket)
  /-- CSI_UNSUPPORTED_PACKET (R145): A packet of an unsupported data type is discarded, incrementing CSI_CNT_DT and raising CSI_DT_UNSUPPORTED once per frame. -/
  | csiUnsupportedPacket (pkt : PortPacket) (dt : BitVec 6)
  /-- CSI_LINE_TIMEOUT (R157): No packet arrives for line_tmo inside a frame, so the frame is forced to end as a short frame. -/
  | csiLineTimeout (p : Fin 8)
  /-- CSI_FRAME_LATE (R157): No frame start arrives within frame_period plus late_tol, so the next frame is marked late and CSI_FRAME_LATE is raised. -/
  | csiFrameLate (p : Fin 8)
  /-- CSI_PHY_SYNC_LOST (R157): Lane or trio synchronisation is lost, and the open frame ends as a short frame. -/
  | csiPhySyncLost (p : Fin 8)
  /-- ISP_BAND_FLAG (R154): 400 ECLK after the input row that a band needs, the pipe sets the node's band flags; the last band flag of a frame feeds the pair trigger. -/
  | ispBandFlag (p : Fin 8)
  /-- CSI_PAIR_LOST (R156): dmg_limit consecutive pours of a pair end by damage abort, which raises CSI_PAIR_LOST and enters S1. -/
  | csiPairLost (pair : Fin 4)
  /-- ISP_TEST_RESULT (R161): The Assayer compares the test frame's CRC-32C with test_sig; a mismatch raises ISP_TEST_FAIL, enters S1, and invalidates or recalls the pair's records. -/
  | ispTestResult (p : Fin 8) (sig : Word32)
  /-- ISP_TEST_STALE (R161): A pipe with no test pass for 8 ms raises ISP_TEST_STALE and enters S1. -/
  | ispTestStale (p : Fin 8)
  /-- VEN_COMMAND_END (R166): A vision engine instance ends its command with one completion token, stating OK, ABORTED, DEADLINE, MEM_FAULT or PARITY, and releases its tickets. -/
  | venCommandEnd (k : Fin 13) (how : EngineEnd) (view : TokenView)
  /-- FGS_TIMER_TRIGGER (R211): A kind 2 graph's trigger period elapses, and the graph's trigger fires. -/
  | fgsTimerTrigger (slot : Fin 8)
  /-- AGE_ORIGIN_RETURN (R214): The age monitor returns the pour's provisional exposure origin stamp to the FGS, after which nodes of the pour may start. -/
  | ageOriginReturn (slot : Fin 8) (seq : Word32)
  /-- FGS_NODE_SELECT (R216): Once a node's stamp, input flags, cap and resource conditions hold, the FGS selects it in deadline order, reserves its resource and sends its Ladle request or hands its task. -/
  | fgsNodeSelect (ecc : Ecc)
  /-- ENGINE_FLAG_SET (R220): Once a producer node's writes are confirmed, its output flag is set, which may satisfy edges, fire a kind 1 trigger, overset, or be ignored as foreign. -/
  | engineFlagSet (node : Nat) (flag : Nat) (seq : Word32)
  /-- FGS_DEADLINE (R223): A node reaches its deadline: a class 1–5 node in refine is cut with FGS_DEADLINE_CUT, and every other case raises FGS_DEADLINE_MISS and aborts the pour. -/
  | fgsDeadline (slot : Fin 8) (seq : Word32) (node : Nat)
  /-- POUR_RETIRE (R215): A pour retires once all its nodes and tasks have ended, freeing its flag parity and buffer halves, and possibly reaching a drain or swap point. -/
  | pourRetire (slot : Fin 8) (seq : Word32)
  /-- FGS_ABORT_WRITE (R224): A keeper write to FGS_ABORT.slot_mask aborts every pour of each named slot. -/
  | fgsAbortWrite (who : Agent) (mask : Byte)
  /-- FGS_DRAIN (R226): A write of FGS_CTRL.drain makes the FGS refuse every trigger with FGS_TRIGGER_REFUSED. -/
  | fgsDrain (who : Agent) (on : Bool)
  /-- FGS_GRAPH_LOST (R225): The count of consecutive non-damage aborts of a graph reaches abort_limit, which raises FGS_GRAPH_LOST and enters S1. -/
  | fgsGraphLost (slot : Fin 8)
  /-- NEU_TILE_END (R237): An array finishes a tile and passes it to an output stage, stalling when both stages hold unwritten tiles. -/
  | neuTileEnd (a : Fin 16) (how : TileEnd)
  /-- NEU_LAYER_BARRIER (R237): The last of a node's arrays finishes a layer and its stages empty; after 256 NCLK, the next layer starts once any split exchange counters allow it. -/
  | neuLayerBarrier (node : Nat) (seq : Word32) (view : TokenView)
  /-- BCC (R271): A conditional branch evaluates its condition and, after its delay slot, continues at the target or falls through. -/
  | bcc (t : Fin 256) (cond : BitVec 3) (ga gb : BitVec 5) (off : BitVec 13)
  /-- BAL (R271): A branch and link writes g31 with address + 8 and branches after its delay slot. -/
  | bal (t : Fin 256) (off : BitVec 26)
  /-- JR (R271): A register jump branches to the address in gs after its delay slot, raising ALIGN for a misaligned target. -/
  | jr (t : Fin 256) (gs : BitVec 5)
  /-- JALR (R271): A register jump with link writes g31 and branches to gs; gs equal to g31 raises ILLEGAL. -/
  | jalr (t : Fin 256) (gs : BitVec 5)
  /-- LOOPN (R274): LOOPN sets lcN and leN for a hardware loop, or skips the body when the count is 0. -/
  | loopn (t : Fin 256) (lvl : BitVec 1) (gs : BitVec 5) (len : BitVec 16)
  /-- MODE (R276): MODE changes the thread's mode at the third instruction after it, after a two-instruction shadow in the old mode. -/
  | mode (t : Fin 256) (m : BitVec 1)
  /-- RESLD (R315): RESLD loads 8 bytes and sets the thread's reservation on the granule that holds the address. -/
  | resld (t : Fin 256) (gd ga : BitVec 5) (off : BitVec 16) (ecc : Ecc)
  /-- CONDST (R315): CONDST stores 8 bytes only when the reservation is still valid for the granule, writes success to gd, and clears the reservation. -/
  | condst (t : Fin 256) (gs ga gd : BitVec 5) (off : BitVec 11) (ecc : Ecc)
  /-- SEAL (R312): SEAL completes once every older store has its write response, and no later access issues before that. -/
  | sealStores (t : Fin 256)
  /-- IOSEAL (R318): IOSEAL completes when every older access has completed, and then sets io_open and clears io_used. -/
  | ioseal (t : Fin 256)
  /-- TRAP (R280): TRAP completes and takes exception TRAP, with a resume point after any loop-end evaluation. -/
  | trap (t : Fin 256) (code : BitVec 16)
  /-- XRET (R278): XRET restores the mode and shadow from emode, clears exl and the reservation, restores io bits, and continues at epc. -/
  | xret (t : Fin 256)
  /-- MFS (R270): MFS copies a special register to gd in keeper mode. -/
  | mfs (t : Fin 256) (gd sr : BitVec 5)
  /-- MTS (R270): MTS copies gs to a special register in keeper mode, with the field rules for emode and epc. -/
  | mts (t : Fin 256) (sr gs : BitVec 5)
  /-- LOAD (R517): An ordinary load checks alignment, translation and the firewall, and reads 1 to 8 bytes, forwarding from pending own stores. -/
  | load (t : Fin 256) (gd : BitVec 5) (addr : BitVec 48) (size : BitVec 2) (ecc : Ecc)
  /-- STORE (R310): An ordinary store is checked at issue and enters the thread's 8-entry store queue. -/
  | store (t : Fin 256) (gs : BitVec 5) (addr : BitVec 48) (size : BitVec 2)
  /-- ORDINARY_INSTRUCTION (R280): An ordinary register or arithmetic instruction executes and completes, followed by loop-end evaluation when it lies at leN. -/
  | ordinaryInstruction (t : Fin 256) (op : OrdinaryOp)
  /-- ASYNC_DELIVERY_TAKEN (R281): A held asynchronous TASK_DELIVER or PREEMPT is taken by the thread at the first instruction boundary where it is allowed. -/
  | asyncDeliveryTaken (t : Fin 256)
  /-- THREAD_RELEASE (R287): A keeper write to RSR_THR_REL releases held threads into task mode, idle and awaiting delivery. -/
  | threadRelease (who : Agent) (word : Fin 8) (mask : Word32)
  /-- THREAD_RESET (R283): A keeper write to RSR_THR_RESET returns a thread to HELD with its exception state cleared. -/
  | threadReset (who : Agent) (t : Fin 256)
  /-- SPAWN (R292): A write of 1 to SCH_PORT_SPAWN submits the port's descriptor as a spawned task, or refuses it for a full table, a bad field or too many flag waits. -/
  | spawn (t : Fin 256)
  /-- TASK_END (R301): A write to SCH_PORT_END ends the thread's task with DONE, CANCELLED or FAULT, idles the thread, and starts sending to successors. -/
  | taskEnd (t : Fin 256) (status : BitVec 2) (ecc : Ecc)
  /-- SUCCESSOR_LINK (R301): One successor link per ECLK receives an operand or a token, which may poison or make its task ready, or be discarded as stale. -/
  | successorLink (ecc : Ecc)
  /-- OPERAND_SEND (R294): A write to SCH_PORT_SEND delivers an operand to a matching-store slot, or is discarded as stale or duplicate, or cancels its target on a full store. -/
  | operandSend (t : Fin 256) (slot : BitVec 13) (index : BitVec 2) (gen : Byte) (value : Word32) (ecc : Ecc)
  /-- SCH_CANCEL (R304): A keeper write to SCH_CANCEL cancels a task by its state, sending CANCELLED tokens to its successors. -/
  | schCancel (who : Agent) (slot : BitVec 13) (gen : Byte)
  /-- SCH_DELIVERY (R298): The scheduler selects a group by weighted credit and delivers the oldest ready task to an idle thread by TASK_DELIVER. -/
  | schDelivery (ecc : Ecc)
  /-- LOAD_RETURN (R309): A load's data returns, and the thread becomes ready again. -/
  | loadReturn (t : Fin 256) (peerData : Option Word64)
  /-- STORE_VISIBLE (R310): A store released from the store queue is accepted by its target and becomes visible to every initiator, clearing reservations on its granule. -/
  | storeVisible (t : Fin 256) (ecc : Ecc)
  /-- WRITE_RESPONSE (R310): A store's write response returns, confirming it for SEAL, IOSEAL and flag sets, or losing it on an error response. -/
  | writeResponse (t : Fin 256) (reply : WriteReply)
  /-- RESERVATION_LAPSE (R316): A reservation lapses 4,096 ECLK after its RESLD. -/
  | reservationLapse (t : Fin 256)
  /-- RESERVATION_HOLD_END (R317): A reservation hold ends after at most 64 ECLK, or 512 ECLK across a link, and other initiators' waiting writes proceed. -/
  | reservationHoldEnd (granule : Nat)
  /-- FLAG_SET (R321): A thread write to a flag slot's SET word adds 1 to the counter of its task's pour, subject to overset and foreign rules. -/
  | flagSet (t : Fin 256) (flag : Fin 4096)
  /-- FLAG_ADD (R322): A thread write to a flag slot's ADD word adds the value atomically, or is an overset when it would pass sets. -/
  | flagAdd (t : Fin 256) (flag : Fin 4096) (value : Word32)
  /-- PEER_ACCESS (R416): An access arriving from a peer chip is checked by this chip's firewall under its peer ID and performed, or receives an error response. -/
  | peerAccess (chip : Fin 4) (k : Fin 5) (op : PeerOp) (addr : BitVec 48) (bytes : Nat) (data : List Byte) (ecc : Ecc)
  /-- XLT_INV (R335): A keeper write to XLT_INV starts invalidation of the translation caches for one context or all. -/
  | xltInv (who : Agent) (ctx : BitVec 6) (everything : Bool)
  /-- XLT_INV_DONE (R335): Once no access can begin translation with an old cached entry, XLT_INV_STAT.busy clears. -/
  | xltInvDone
  /-- FWL_LOCK (R338): A write of FWL_REG.lock locks a programmable region until the next warm reset. -/
  | fwlLock (who : Agent) (r : Fin 64)
  /-- DMA_START (R347): A write of DMA_CH_CTRL.start starts a software channel, which requests its tickets; a start of an owned channel is ignored with DMA_CH_OWNED. -/
  | dmaStart (who : Agent) (ch : Fin 32)
  /-- DMA_DOORBELL (R350): A write of DMA_CH_CTRL.doorbell makes a ring channel fetch its head entry again. -/
  | dmaDoorbell (who : Agent) (ch : Fin 32)
  /-- DMA_STOP (R356): A write of DMA_CH_CTRL.stop stops a software channel at the next beat, discarding its buffer and returning it to IDLE. -/
  | dmaStop (who : Agent) (ch : Fin 32)
  /-- DMA_CLEAR_ERR (R366): A write of DMA_CH_CTRL.clear_err returns the failing channel from ERROR to IDLE. -/
  | dmaClearErr (who : Agent) (ch : Fin 32)
  /-- DMA_RESUME (R366): A keeper write of DMA_CTRL.resume lets halted channels request tickets again and continue, or is refused with DMA_RESUME_REFUSED. -/
  | dmaResume (who : Agent)
  /-- DMA_BURST_END (R351): A datapath burst ends and the datapath passes to the next ready channel in round-robin order, with buffered lines written first. -/
  | dmaBurstEnd (dp : Fin 2)
  /-- DMA_DESC_COMPLETE (R355): A descriptor reaches its confirmed or posted completion point, writing back a ring entry, setting notify, and ending the chain when due. -/
  | dmaDescComplete (ch : Fin 32)
  /-- DMA_PACE_POLL (R353): A paused channel reads the producer word at its poll interval and runs when the fill level reaches hi, or stops on a pacing error. -/
  | dmaPacePoll (ch : Fin 32)
  /-- DMA_BUS_ERROR (R364): A Runner access meets a bus error, so every channel stops at one common point, the failing channel enters ERROR and the others HALTED, and an owned node's pour is aborted. -/
  | dmaBusError (ch : Fin 32) (kind : BusErrorKind) (isWrite : Bool) (addr : BitVec 48) (onPosted : Bool)
  /-- ASY_LOCKSTEP (R368): The dual-rail comparator reports a mismatch between cores A and B, which raises ASY_LOCKSTEP and enters S2. -/
  | asyLockstep
  /-- S2_REPEAT (R36): A third S2 entry within 60 minutes holds the device in reset with FAULT_N asserted and logs ASY_S2_REPEAT. -/
  | s2Repeat
  /-- S2_COUNT_EXPIRE (R36): An S2 entry reaches 60 minutes of age by the watch oscillator and stops counting in s2_count. -/
  | s2CountExpire
  /-- HEARTBEAT_BURST (R369): Every 1 ms the comparator forces one mismatch per ACLK on 32 lanes and checks each report, raising ASY_HEARTBEAT and S2 on any discrepancy. -/
  | heartbeatBurst (report : BurstReport)
  /-- HEARTBEAT_MISSED (R369): No heartbeat burst occurs within 1.2 ms by the watch oscillator, which raises ASY_HEARTBEAT and enters S2. -/
  | heartbeatMissed
  /-- WITNESS_RESULT (R376): The Witness finishes a pour's disparity and occupancy, giving each zone's Witness distance and speed. -/
  | witnessResult (slot : Fin 8) (seq : Word32) (ecc : Ecc)
  /-- ASY_JUDGE_POUR (R378): With candidates and the Witness result in hand, the Assayer applies the identity, range, confidence, continuity and Witness checks to each candidate of the pour. -/
  | asyJudgePour (slot : Fin 8) (seq : Word32) (ecc : Ecc)
  /-- BATCH_RELEASE (R379): A passing pour's batch enters both safety queues once room exists, takes one release stamp, and is released or marked AGE_LATE, activating SAFE_x as due. -/
  | batchRelease
  /-- QUEUE_STALL (R469): A batch that has waited 1 ms for queue room raises SFP_QUEUE_STALL and enters S1. -/
  | queueStall
  /-- AGE_TICK (R381): At each 1 ms tick, every due pour that is neither judged nor invalidated is declared missing, with invalid notices, AGE_MISSING and S1. -/
  | ageTick
  /-- S1_EXIT (R35): After 8 ms without detection, a passing rotation and a release without DEGRADED, the device leaves S1, reasserts SAFE_A and SAFE_B and raises ASY_S1_EXIT. -/
  | s1Exit
  /-- TEST_START (R392): At the previous test start plus P, a class's next unit takes the test role, withholding its logical instance in tight mode. -/
  | testStart (cls : TestClass)
  /-- TEST_SCORE (R396): The Assayer scores an ended golden-signature test by CRC, status and cycle count, recording the pass or raising TST_SIG_FAIL. -/
  | testScore (cls : TestClass) (res : TestOutcome)
  /-- HANDOVER_FORCED (R393): A target unit still holds a command at the forcing point, so the pour is aborted with TST_HANDOVER_FORCED. -/
  | handoverForced (cls : TestClass)
  /-- TEST_STALE (R394): A surviving unit without a pass for 8 ms raises TST_STALE and enters S1. -/
  | testStale (u : Fin 35)
  /-- TOKEN_TIMEOUT (R407): A busy unit returns no token by its node's deadline plus 256 ECLK, so the unit is failed under row 5 of the pairings. -/
  | tokenTimeout (u : Fin 35)
  /-- TST_INJECT_SIGNATURE (R408): SYS_TST_INJECT op 1 corrupts the named unit's next test signature. -/
  | tstInjectSignature (who : Agent) (u : Fin 35)
  /-- TST_INJECT_PARITY (R408): SYS_TST_INJECT op 2 raises a parity error on the named unit's next command. -/
  | tstInjectParity (who : Agent) (u : Fin 35)
  /-- TST_INJECT_VIEW (R408): SYS_TST_INJECT op 3 produces a binding view conflict on the named unit's next token. -/
  | tstInjectView (who : Agent) (u : Fin 35)
  /-- LINK_TRAIN_ATTEMPT (R414): A 1.2 ms training attempt on a link performs lane lock, identity exchange, time alignment and lane group 0 admission, or fails. -/
  | linkTrainAttempt (l : Fin 3) (inp : TrainInputs)
  /-- LINK_TRAIN_RETRY (R414): After a failed attempt, training is retried after 1 ms, or after four failures raises LNK_TRAIN_FAIL and retries every 100 ms. -/
  | linkTrainRetry (l : Fin 3)
  /-- RESIDUAL_MEASURE (R426): Every 1 ms a non-reference chip measures its residual, raising LNK_TIME_DRIFT above 4.0 ns. -/
  | residualMeasure (offsetSum : Int)
  /-- LNK_TIME_LOST (R434): Eight consecutive drifting residuals raise LNK_TIME_LOST, and the non-reference chip enters S2. -/
  | lnkTimeLost
  /-- PEER_STATUS_SEND (R427): Every 1 ms each chip sends its ASY_STATE to every peer. -/
  | peerStatusSend
  /-- PEER_STATUS_RECEIVE (R427): A peer's state arrives and is shown in LNK_PEER_STATE and in the status messages. -/
  | peerStatusReceive (chip : Fin 4) (state : BitVec 2) (pendingTag : Option Word32) (swapped : Bool)
  /-- FLIT_REPLAY (R416): A flit that fails its CRC-16 is replayed from the sender's buffer, incrementing LNK_REPLAY_CNT. -/
  | flitReplay (l : Fin 3)
  /-- LINK_DOWN (R432): A link is lost, which raises LNK_DOWN, removes the peer window, fails accesses in flight, aborts exchanging pours, and may enter S1. -/
  | linkDown (l : Fin 3)
  /-- LANE_GROUP1_LOST (R433): Loss of lock on a lane of group 1 disables that group and raises LNK_LANE_DEGRADED. -/
  | laneGroup1Lost (l : Fin 3)
  /-- REMOTE_FLAG_SET (R419): A remote set arrives from the owner once its writes are confirmed, carrying the owner's pour_seq and origin, and may open a flask-graph pour. -/
  | remoteFlagSet (chip : Fin 4) (flag : Nat) (slot : Fin 8) (seq : Word32) (origin : Nat)
  /-- XCHG_LINE (R421): An exchange line from a peer is written to xchg_buf, and the layer's device flag counter advances when the layer is complete. -/
  | xchgLine (line : ExchangeLine)
  /-- PEER_ABORT (R430): A peer's abort of an owner pour arrives, and the chip aborts that pour once. -/
  | peerAbort (chip : Fin 4) (slot : Fin 8) (seq : Word32)
  /-- FLASK_SWAP_ANNOUNCE (R429): When every chip reports a pending pattern with the same flask_tag, chip 0 announces a swap request, or LNK_TAG_MISMATCH is raised. -/
  | flaskSwapAnnounce
  /-- FLASK_SWAP_TAKE (R429): Every chip takes the coordinated swap at the aligned ECLK 2.0 µs after the announcement. -/
  | flaskSwapTake
  /-- REMOTE_UNIT_FAILED (R435): A failure on a non-owner chip is reported to the owner, which recalls the pours it served. -/
  | remoteUnitFailed (chip : Fin 4) (u : Fin 35)
  /-- TAP_CTRL_WRITE (R452): A write to TAP_CTRL changes tracing from the next ECLK, and setting en is refused with TAP_BUF_BAD for an invalid ring. -/
  | tapCtrlWrite (keeper host : Option Word32)
  /-- TAP_LINE_WRITE (R441): Tap drains two records from the FIFO as one 64-byte line into the ring when the ring has room. -/
  | tapLineWrite (ecc : Ecc)
  /-- TAP_PAD (R441): A record that has waited 64 ECLK without a partner is paired with a pad record. -/
  | tapPad
  /-- TAP_WRITE_ERROR (R454): An error response to a Tap write stops tracing, discards the FIFO and raises TAP_WRITE_ERR. -/
  | tapWriteError
  /-- CTR_OVERFLOW (R448): A global counter wraps through 0, setting ovf, raising CTR_OVERFLOW and counting on. -/
  | ctrOverflow (g : Fin 16)
  /-- CTR_READ_LOW (R449): A 32-bit read of a counter's low word returns it and captures the whole value in the reader's snapshot latch. -/
  | ctrReadLow (who : Agent) (ctr : CounterName)
  /-- CTR_READ_HIGH (R449): A 32-bit read of a counter's high word returns the latched word and frees the latch, or the live word with CTR_SNAP_MISS. -/
  | ctrReadHigh (who : Agent) (ctr : CounterName)
  /-- HOST_ACCESS (R458): A host PCIe access through BAR0, BAR2 or BAR4 is checked for size, translation and firewall, and then performed or answered with an error completion. -/
  | hostAccess (bar : Bar) (offset : Nat) (op : HostOp) (ecc : Ecc)
  /-- HOST_RESET (R475): A PCIe hot reset, link-down, function-level reset or PERST_N resets the host interface alone and raises SYS_HOST_RESET. -/
  | hostReset (kind : HostResetKind)
  /-- EVT_POP (R460): A read of HIF_EVT_POP returns and removes the oldest event code from the event FIFO. -/
  | evtPop (who : Agent)
  /-- MSIX_PENDING_SEND (R459): 1.0 µs after a vector's previous message, a pending vector sends one merged MSI-X message. -/
  | msixPendingSend (v : Fin 64)
  /-- MSIX_UNMASK (R459): Unmasking a vector whose PBA bit is set sends its message. -/
  | msixUnmask (v : Fin 64)
  /-- SPI_CS_FALL (R462): On the fall of CS_N, the channel forms one message from its status and queue head and drives it on MISO. -/
  | spiCsFall (ch : Channel)
  /-- SPI_CS_RISE (R468): On the rise of CS_N, a fully clocked message is consumed, or a cut-short one is offered again with SFP_TRUNCATED. -/
  | spiCsRise (ch : Channel) (bytes : Nat)
  /-- SFP_POLL_LATE (R471): A channel with no consumed message for 2 ms raises SFP_POLL_LATE once for that gap. -/
  | sfpPollLate (ch : Channel)
  /-- SFP_LINE_STUCK (R473): A SAFE_A, SAFE_B or FAULT_N pad level differs from its driven value for 1.0 µs, which raises SFP_LINE_STUCK and enters S2. -/
  | sfpLineStuck (line : SafetyLine)
  /-- REGISTER_WRITE (R8): A write to a register field with no behaviour of its own acts by its access code, with reserved bits ignored. -/
  | registerWrite (who : Agent) (addr : BitVec 48) (size : BitVec 2) (value : Word64)
  /-- CRUCIBLE_SCRUB (R316): A Crucible scrub or ECC write-back reaches a granule and clears every reservation on it. -/
  | crucibleScrub (addr : BitVec 48)
  /-- HEALTH_SIDEBAND_FAULT (R407): A unit drives fault on its health sideband while its tokens say OK, so the unit is failed and the pour of its command is aborted under row 2 of the pairings. -/
  | healthSidebandFault (u : Fin 35)
  /-- NEU_ARRAY_STOPPED (R246): Within 256 NCLK of an abort or deadline stop, a node's last array stops, and the FGS forms the token with ABORTED or DEADLINE and releases the arrays' tickets. -/
  | neuArrayStopped (node : Nat) (seq : Word32)
  /-- LANE_GROUP_IDLE (R78): A Nortos Link lane group 1 returns to idle and releases its tickets to Ladle. -/
  | laneGroupIdle (l : Fin 3)
  /-- LANE_GROUP1_JOIN (R82): The peer chip's grant of lane group 1 arrives over the link, and the group activates because both end chips have now granted it. -/
  | laneGroup1Join (l : Fin 3)
  /-- PCIE_LINK_TRAINED (R519): The PCIe link trains to L0 after the rails return or after a host reset, setting HIF_STAT.link_up, speed and width. -/
  | pcieLinkTrained (speed : BitVec 3) (width : BitVec 4)
  deriving DecidableEq, Repr

end Sys2Proof
end

