-- ==== Sys2Proof/Decode.lean ====
section
/-! DEFINITION. The table of this block gives no row any bits, so no word spells a command. The Riser instruction words
of R271, which the spec does give, are read and written here: decodeRiser and encodeRiser. -/

namespace Sys2Proof

/-- The command a table word spells: the table gives its rows no bits, so none. -/
def decodeTableWord (_nbits _w : Nat) : Option Instr := none

/-- What a 32-bit instruction word says to a thread (R271). -/
inductive RiserWord
  /-- An instruction that R271 lists. -/
  | listed (i : Instr)
  /-- A listed op with a reserved field that is not 0, or a reserved field value: ILLEGAL. -/
  | illegal
  /-- An op that R271 does not list: an ordinary instruction, or unassigned. -/
  | other
  deriving DecidableEq, Repr

/-- Bits [hi:lo] of a word, as a field of width n. -/
def field (w : Word32) (lo n : Nat) : BitVec n := w.extractLsb' lo n

/-- R271: the instruction that thread t reads from the word w. -/
def decodeRiser (t : Fin 256) (w : Word32) : RiserWord :=
  let op := (field w 26 6).toNat
  if op = 0x10 then
    if field w 23 3 = 7 then .illegal
    else .listed (.bcc t (field w 23 3) (field w 18 5) (field w 13 5) (field w 0 13))
  else if op = 0x11 then .listed (.bal t (field w 0 26))
  else if op = 0x12 then
    if field w 0 20 ≠ 0 then .illegal
    else if field w 20 1 = 1 then .listed (.jalr t (field w 21 5))
    else .listed (.jr t (field w 21 5))
  else if op = 0x14 then
    if field w 0 4 ≠ 0 ∨ field w 4 16 = 0 then .illegal
    else .listed (.loopn t (field w 25 1) (field w 20 5) (field w 4 16))
  else if op = 0x18 then
    if field w 1 25 ≠ 0 then .illegal else .listed (.mode t (field w 0 1))
  else if op = 0x20 then .listed (.resld t (field w 21 5) (field w 16 5) (field w 0 16) .clean)
  else if op = 0x21 then
    .listed (.condst t (field w 21 5) (field w 16 5) (field w 11 5) (field w 0 11) .clean)
  else if op = 0x30 then
    if field w 0 26 ≠ 0 then .illegal else .listed (.sealStores t)
  else if op = 0x31 then
    if field w 0 26 ≠ 0 then .illegal else .listed (.ioseal t)
  else if op = 0x38 then
    if field w 16 10 ≠ 0 then .illegal else .listed (.trap t (field w 0 16))
  else if op = 0x39 then
    if field w 0 26 ≠ 0 then .illegal else .listed (.xret t)
  else if op = 0x3A then
    if field w 0 16 ≠ 0 then .illegal else .listed (.mfs t (field w 21 5) (field w 16 5))
  else if op = 0x3B then
    if field w 0 16 ≠ 0 then .illegal else .listed (.mts t (field w 16 5) (field w 21 5))
  else .other

/-- R271: the word of a listed Riser instruction; none for any other command. -/
def encodeRiser : Instr → Option Word32
  | .bcc _ cond ga gb off => some ((0x10 : BitVec 6) ++ cond ++ ga ++ gb ++ off)
  | .bal _ off => some ((0x11 : BitVec 6) ++ off)
  | .jr _ gs => some ((0x12 : BitVec 6) ++ gs ++ (0 : BitVec 21))
  | .jalr _ gs => some ((0x12 : BitVec 6) ++ gs ++ (1 : BitVec 1) ++ (0 : BitVec 20))
  | .loopn _ lvl gs len => some ((0x14 : BitVec 6) ++ lvl ++ gs ++ len ++ (0 : BitVec 4))
  | .mode _ m => some ((0x18 : BitVec 6) ++ (0 : BitVec 25) ++ m)
  | .resld _ gd ga off _ => some ((0x20 : BitVec 6) ++ gd ++ ga ++ off)
  | .condst _ gs ga gd off _ => some ((0x21 : BitVec 6) ++ gs ++ ga ++ gd ++ off)
  | .sealStores _ => some ((0x30 : BitVec 6) ++ (0 : BitVec 26))
  | .ioseal _ => some ((0x31 : BitVec 6) ++ (0 : BitVec 26))
  | .trap _ code => some ((0x38 : BitVec 6) ++ (0 : BitVec 10) ++ code)
  | .xret _ => some ((0x39 : BitVec 6) ++ (0 : BitVec 26))
  | .mfs _ gd sr => some ((0x3A : BitVec 6) ++ gd ++ sr ++ (0 : BitVec 16))
  | .mts _ sr gs => some ((0x3B : BitVec 6) ++ gs ++ sr ++ (0 : BitVec 16))
  | _ => none

end Sys2Proof
end

