-- ==== Sys2Proof/Machine/State.lean ====
section
/-! DEFINITION. The state of the G480 as plain data: one structure per block of the block map (01_overview.md), and
State over them. Times are ECLK counts (R6, R514) held as Nat. Every field has its value at reset as its default;
a default that the spec does not give is named in the assumption log (rows 2 to 9). -/

namespace Sys2Proof.Machine

/-- Why a step stops with a fault. No happening of this model does: each rule of the spec gives its happening an
outcome, and a happening that cannot occur in a state changes nothing (assumption 3). Raised by nobody; safe. -/
inductive Fault
  /-- Kept so that the type is inhabited: no meaning and no step raises it. Safe. -/
  | neverRaised
  deriving DecidableEq, Repr

/-- Why a command has no meaning. -/
inductive Refusal
  /-- Raised by an arm of exec whose command is not modelled yet. Safe. -/
  | notModelled (mnemonic : String)
  deriving DecidableEq, Repr

/-! ### Clocks, rails, start -/

/-- R514 and R511: the time-stamp counter, and the time the watch oscillator counts. -/
structure Clock where
  /-- R514: the 64-bit time-stamp counter, as its value in ECLK. -/
  tsc : Nat := 0
  /-- R511: elapsed time in nominal ECLK, counted in every mode while VDD_ASY is present. -/
  watch : Nat := 0
  deriving DecidableEq, Repr, Inhabited

/-- R59, R500: the level of VDD_CRU. -/
inductive CruLevel
  | off | run | retention
  deriving DecidableEq, Repr, Inhabited

/-- R59, R74, R498, R500: rails within limits, regulator control and monitor masking. -/
structure Rails where
  asy : Bool := true
  core : Bool := true
  io : Bool := true
  cru : CruLevel := .run
  phy : Bool := true
  ddr : Bool := true
  pll : Bool := true
  /-- PMIC_EN (R498). -/
  pmicEn : Bool := true
  /-- PMIC_HOLD (R500). -/
  pmicHold : Bool := false
  /-- R74: the VDD_CORE monitor is masked. -/
  coreMasked : Bool := false
  /-- Watch time at which VDD_ASY came within limits (R498 step 2). -/
  asyGoodAt : Nat := 0
  /-- Watch time at which PMIC_EN rose (R498 step 3). -/
  pmicEnAt : Nat := 0
  /-- Watch time at which PMIC_HOLD fell (R74). -/
  holdFellAt : Nat := 0
  /-- Watch time at which VDD_CORE came within its limits (R74, R499); none when it has been for long. -/
  coreAt : Option Nat := none
  /-- R495: FAULT_N floats, VDD_IO and VDD_ASY being absent. -/
  faultFloats : Bool := false
  deriving DecidableEq, Repr, Inhabited

/-- The VDD_ASY domain's retained state (R36, R96, R464): a warm reset keeps it. -/
structure Retained where
  /-- The retained event store, newest first. -/
  events : List EventCode := []
  /-- Watch times of the S2 entries that still count (R36). -/
  s2Times : List Nat := []
  /-- R36: the third entry holds the device in reset. -/
  s2Held : Bool := false
  /-- R36: the hold has been logged as ASY_S2_REPEAT. -/
  s2Logged : Bool := false
  faultCode : EventCode := 0
  faultCount : Byte := 0
  lastEvent : EventCode := 0
  /-- R111: starts since the last cold reset. -/
  starts : Nat := 0
  /-- R53, R390: S1 detections before step 6 that await the Assayer firmware. -/
  heldS1 : List EventCode := []
  deriving DecidableEq, Repr, Inhabited

/-- R106: one integrator key slot. -/
structure KeySlot where
  hash : List Byte := []
  usePattern : Bool := false
  useKeeper : Bool := false
  written : Bool := false
  revoked : Bool := false
  eccOk : Bool := true
  deriving DecidableEq, Repr, Inhabited

/-- R106, R110: the fuses. -/
structure Fuses where
  serial : Word64 := 0
  seed : BitVec 384 := 0
  lifecycle : Lifecycle := .blank
  slots : List KeySlot := List.replicate 4 {}
  romKey0Revoked : Bool := false
  asySvn : Nat := 0
  kprSvn : Nat := 0
  /-- R110: the two certificates in DER. -/
  certs : List Byte := []
  deriving DecidableEq, Repr, Inhabited

/-- SYS: system control (R96 to R105). -/
structure Sys where
  /-- SYS_RST_CAUSE: cold, core_por, pin, s2, soft, host from bit 0. -/
  rstCause : BitVec 6 := 1
  /-- SYS_BOOT_STAT.step. -/
  step : BitVec 4 := 1
  /-- SYS_BOOT_STAT.phase: 0 STARTING, 1 READY, 2 NO_PATTERN, 3 RUNNING (R105). -/
  phase : BitVec 2 := 0
  source : BitVec 2 := 0
  failed : Bool := false
  failCode : EventCode := 0
  /-- SYS_BOOT_DOORBELL.staged. -/
  doorbell : Bool := false
  /-- SYS_DRAM.size. -/
  dramUnits : Nat := 0
  /-- Reset is asserted: the start sequence has not begun. -/
  inReset : Bool := true
  /-- R97: watch time of the last reset. -/
  resetAt : Option Nat := none
  /-- R97: watch time at which SYS_RST_CAUSE last took a cause. -/
  causeAt : Option Nat := none
  /-- R97: watch time of the last host reset. -/
  hostAt : Option Nat := none
  /-- R97: the threads that were in keeper mode at the last reset; a write of theirs in its cycle is a source of it. -/
  resetKeepers : List Nat := []
  /-- R103 step 10, R68: the FGS accepts frame triggers. -/
  ready : Bool := false
  /-- R498: power-up timed out, the device stays in reset. -/
  powerUpFailed : Bool := false
  /-- R100: the host-source fetch waits for the doorbell since this ECLK. -/
  fetchWait : Option Nat := none
  /-- R100: SYS_FETCH_TIMEOUT was raised for this wait. -/
  fetchTimedOut : Bool := false
  /-- R98: ECLK in which a host-source fetch ended; SYS_BOOT_DOORBELL.staged clears in the next one. -/
  fetchEnded : Option Nat := none
  /-- The inputs of the start sequence that waits for the doorbell. -/
  startInputs : Option StartInputs := none
  /-- R113: the Assayer and the keeper image have been fetched once more. -/
  refetched : Bool × Bool := (false, false)
  /-- R343: ECLK in which the step became 9. -/
  step9At : Nat := 0
  /-- R111: svn and SHA-384 of the running images. -/
  asyFwSvn : Nat := 0
  kprFwSvn : Nat := 0
  asyFwHash : List Byte := []
  kprFwHash : List Byte := []
  /-- R132: physical address at which the pattern area begins. -/
  patternArea : Nat := 0x23800000
  /-- R107: a provisioning image runs. -/
  provisioning : Bool := false
  /-- R110: the derived identity matches the device certificate. -/
  identityOk : Bool := false
  /-- The FLASK_ID pins as sampled (R412). -/
  flaskId : BitVec 2 := 0
  deriving DecidableEq, Repr, Inhabited

/-- R62: a TRIM configuration that the device has accepted. -/
structure TrimSet where
  arrays : Nat := 16
  venEn : BitVec 5 := 0x1F
  ceiling : Nat := 400
  deriving DecidableEq, Repr, Inhabited

/-- R64: a mode transition in progress. -/
structure Transition where
  target : PowerMode
  source : PowerMode
  /-- ECLK of the request, on the watch time base. -/
  requestedAt : Nat
  /-- Set at the drain point or at once for an upward transition (MODE_TRANSITION_START). -/
  startedAt : Option Nat := none
  /-- R62: the TRIM configuration accepted at the start. -/
  trim : Option TrimSet := none
  deriving DecidableEq, Repr

/-- R69: one WATCH frame's level-3 cells, as the mean luma of each 16 x 16 cell. -/
abbrev CellFrame := List Nat

/-- PWR: power modes, presence detector, clock status, temperature (R61 to R75, R504). -/
structure Pwr where
  modeReq : BitVec 3 := 0
  cur : PowerMode := .run
  trans : Option Transition := none
  pend : Option PowerMode := none
  trimArrays : BitVec 5 := 16
  trimVen : BitVec 5 := 0x1F
  trimCeil : BitVec 10 := 400
  /-- The accepted TRIM configuration in force. -/
  trimNow : TrimSet := {}
  minHits : BitVec 4 := 6
  delta : BitVec 8 := 24
  cells : BitVec 10 := 4
  pipe : BitVec 3 := 0
  autoRun : Bool := true
  /-- PWR_WAKE_STAT.window, newest evidence bit in bit 0. -/
  window : BitVec 8 := 0
  count : BitVec 4 := 0
  fired : Bool := false
  /-- R69: the running reference frame. -/
  reference : Option CellFrame := none
  /-- R70: frames between the commit point and the completion, oldest first; none stands for a discarded one. -/
  heldFrames : List (Option CellFrame) := []
  /-- R70: the presence node holds the window since the carry-over. -/
  carried : Bool := false
  exitMode : BitVec 2 := 0
  wakeMs : BitVec 16 := 0
  /-- R66: PWR_HOLD_CFG as read at HOLD entry. -/
  holdExit : BitVec 2 := 0
  holdWake : BitVec 16 := 0
  /-- Watch time at which the HOLD entry completed. -/
  holdAt : Nat := 0
  pllLock : Bool := true
  refOk : Bool := true
  monOk : Bool := true
  pclkCount : BitVec 18 := 0
  /-- R56: watch time at which the last monitor window ended. -/
  windowAt : Option Nat := none
  temp : BitVec 9 := 0
  tempPeak : BitVec 9 := 0
  tempHigh : Bool := false
  /-- R504: the last reading lay above 115 degrees. -/
  hotRun : Nat := 0
  /-- R504: watch time of the last reading. -/
  tempAt : Option Nat := none
  deriving DecidableEq, Repr, Inhabited

/-! ### Ladle -/

/-- A pour: its graph slot and pour_seq (R214). -/
structure PourRef where
  slot : Nat
  seq : Nat
  deriving DecidableEq, Repr, Inhabited

/-- R83, R84: one entry of the grant queue. -/
structure Request where
  id : Nat
  cls : Nat
  /-- The absolute deadline; none is the maximum value. -/
  deadline : Option Nat
  madeAt : Nat
  tickets : Nat
  serves : Option PourRef
  deriving DecidableEq, Repr, Inhabited

/-- R76, R77: a grant that counts against the ceiling. -/
structure Grant where
  id : Nat
  tickets : Nat
  grantedAt : Nat
  rampEnd : Nat
  /-- The ramp has ended and the requester has begun. -/
  begun : Bool
  serves : Option PourRef
  /-- R89: the tickets are released in this ECLK. -/
  relAt : Option Nat := none
  deriving DecidableEq, Repr, Inhabited

/-- R86: the phases of a test load. -/
inductive LoadPhase
  | idle | queued | ramping
  | drawing (endsAt : Nat)
  /-- Stopped in its ramp or its draw: the draw ends, and the tickets go, in this ECLK. -/
  | stopping (endsAt : Nat)
  deriving DecidableEq, Repr, Inhabited

/-- R86: LDL_TLOAD[n]. -/
structure TestLoad where
  tickets : Byte := 0
  hold : BitVec 16 := 0
  phase : LoadPhase := .idle
  /-- The hold time of the go in progress, in ECLK. -/
  runHold : Nat := 0
  deriving DecidableEq, Repr, Inhabited

/-- LDL: the current budget (R76 to R95). -/
structure Ldl where
  ceil : Nat := 800
  activeCeil : Nat := 800
  standing : Nat := 240
  frozen : Bool := false
  marginAbs : Byte := 8
  marginRel : BitVec 4 := 4
  windows : BitVec 4 := 2
  measured : BitVec 11 := 0
  peak : BitVec 11 := 0
  /-- LDL_EVT: overrun, underrun, refused, ceil_rejected from bit 0. -/
  evt : BitVec 4 := 0
  waitMax : Nat := 0
  loads : List TestLoad := List.replicate 2 {}
  queue : List Request := []
  grants : List Grant := []
  lastGrant : Option Nat := none
  lastRampEnd : Nat := 0
  /-- R88: the ECLK of an accepted ceiling write, and the ceiling that still rules in it. -/
  oldCeil : Option (Nat × Nat) := none
  /-- R92: ECLK of the end of the last window. -/
  windowAt : Option Nat := none
  /-- R92: the largest granted sum of the current window. -/
  maxGranted : Nat := 240
  /-- R93: pours that held a grant in the current window. -/
  winPours : List PourRef := []
  /-- R92: consecutive windows above the allowance. -/
  overRun : Nat := 0
  /-- R93: consecutive windows within the allowance. -/
  withinRun : Nat := 0
  /-- R94: consecutive windows below half the granted sum. -/
  underRun : Nat := 0
  underRaised : Bool := false
  /-- R92: the current run of windows above the allowance has raised its event. -/
  overRaised : Bool := false
  /-- R93: pours that held a grant in an exceeding window. -/
  exposed : List PourRef := []
  deriving DecidableEq, Repr, Inhabited

/-! ### Identity -/

/-- R108: the fuse operations of IDN_FUSE_CTRL.op. -/
inductive FuseOp
  | writeKey (slot : Fin 4) (usage : BitVec 2) (hash : List Byte)
  | revoke (slot : Fin 4)
  | advanceAsy | advanceKpr | decommission
  deriving DecidableEq, Repr

/-- R111, R112: a report in progress, with the hashes current when go was set. -/
structure AttJob where
  startedAt : Nat
  nonce : List Byte
  patHash : List Byte
  slotHash : List Byte
  deriving DecidableEq, Repr, Inhabited

/-- IDN: fuse programming and attestation (R108 to R112). -/
structure Idn where
  fuseData : List Byte := List.replicate 48 0
  /-- R108 step 2: 0 none, 1 after 0x5A5A, 2 armed. -/
  unlock : Nat := 0
  /-- R108: the operations in progress with the ECLK of their start, oldest first. -/
  fuseOps : List (FuseOp × Nat) := []
  fuseDone : Bool := false
  fuseError : Bool := false
  nonce : List Byte := List.replicate 32 0
  att : Option AttJob := none
  attDone : Bool := false
  attError : Bool := false
  attBuf : List Byte := List.replicate 384 0
  deriving DecidableEq, Repr, Inhabited

/-! ### The pattern (R115 to R143) -/

/-- R116: the header fields that later rules use. -/
structure Header where
  totalLen : Nat
  patternId : Nat
  revision : Nat
  keySlot : Nat
  safetyCfg : Nat
  flaskSize : Nat
  chipIndex : Nat
  ageCeilUs : Nat
  resGranule : Nat
  sectionCount : Nat
  flaskTag : Nat
  deriving DecidableEq, Repr, Inhabited

/-- R119: a GRAPH record. -/
structure GraphRec where
  slot : Nat
  triggerKind : Nat
  triggerArg : Nat
  pairId : Nat
  buffering : Nat
  zones : Nat
  sensorW : Nat
  sensorH : Nat
  framePeriod : Nat
  deriving DecidableEq, Repr, Inhabited

/-- R121: a NODE record. -/
structure NodeRec where
  nodeId : Nat
  slot : Nat
  cls : Nat
  width : Nat
  dtype : Nat
  mode : Nat
  paramOff : Nat
  paramLen : Nat
  channel : Nat
  taskGroup : Nat
  deriving DecidableEq, Repr, Inhabited

/-- R123: an EDGE record. -/
structure EdgeRec where
  src : Nat
  dst : Nat
  buffer : Nat
  flag : Nat
  grain : Nat
  deriving DecidableEq, Repr, Inhabited

/-- R124: a BUFFER record. -/
structure BufRec where
  bufferId : Nat
  location : Nat
  peerChip : Nat
  base : Nat
  size : Nat
  initOff : Nat
  initLen : Nat
  deriving DecidableEq, Repr, Inhabited

/-- R125: a FLAG record. -/
structure FlagRec where
  flag : Nat
  producer : Nat
  sets : Nat
  clear : Nat
  deriving DecidableEq, Repr, Inhabited

/-- R126: a TICKET record. -/
structure TicketRec where
  kind : Nat
  target : Nat
  value : Nat
  deriving DecidableEq, Repr, Inhabited

/-- R129: a DEADLINE record. -/
structure DeadlineRec where
  node : Nat
  deadline : Nat
  deriving DecidableEq, Repr, Inhabited

/-- R130: a WITNESS record. -/
structure WitnessRec where
  zoneId : Nat
  pairId : Nat
  x0 : Nat
  y0 : Nat
  x1 : Nat
  y1 : Nat
  dispMin : Nat
  dispMax : Nat
  distTol : Nat
  speedTol : Nat
  minConf : Nat
  deriving DecidableEq, Repr, Inhabited

/-- A parsed pattern, its DATA section, its SHA-384 and the hash of the slot that verified it (R111). -/
structure Pattern where
  hdr : Header := default
  graphs : List GraphRec := []
  nodes : List NodeRec := []
  edges : List EdgeRec := []
  bufs : List BufRec := []
  flags : List FlagRec := []
  tickets : List TicketRec := []
  deadlines : List DeadlineRec := []
  witness : List WitnessRec := []
  data : List Byte := []
  hash : List Byte := []
  slotHash : List Byte := []
  deriving DecidableEq, Repr, Inhabited

/-- PAT_STAT.state. -/
inductive PatState
  | idle | copying | verifying | parsing | pending | draining | swapping
  deriving DecidableEq, Repr, Inhabited

/-- R136: a deferred trigger, at most one per source. -/
structure Deferred where
  /-- The trigger's source: its kind with the camera pair, the flag or the slot of the timer. -/
  source : Nat × Nat
  /-- FS stamp of the frame (or ECLK of a timer or flag trigger). -/
  stamp : Nat
  /-- Base and size of the two ISP luma buffers the frame was written to; empty for kinds 1 and 2. -/
  buffers : List (Nat × Nat)
  damaged : Option EventCode
  fsPair : Nat × Nat
  /-- Port and frame count of each frame of a camera pair. -/
  frames : List (Nat × Nat)
  /-- The pair trigger has come (R211). -/
  paired : Bool
  /-- R419: the owner of the pour that the trigger opens. -/
  owner : Option (Nat × PourRef) := none
  deriving DecidableEq, Repr, Inhabited

/-- PAT: loader and swap (R132 to R143). -/
structure Pat where
  holdSwap : Bool := false
  src : BitVec 48 := 0
  len : BitVec 23 := 0
  st : PatState := .idle
  failCode : EventCode := 0
  swapTmo : Word32 := 0
  /-- PAT_EVT: loaded, swapped, aborted, frame_drop, rejected from bit 0. -/
  evt : BitVec 5 := 0
  active : Option Pattern := none
  /-- A pattern whose checks have passed, before PATTERN_LOADED. -/
  checked : Option Pattern := none
  /-- R134: the pattern in the area holds an uncorrectable word that the copy of step 6 meets. -/
  initBad : Bool := false
  pending : Option Pattern := none
  /-- R135: commit was written while hold_swap held the swap. -/
  committed : Bool := false
  /-- ECLK of the swap request; the FGS accepts no new pour from then on. -/
  swapAt : Option Nat := none
  /-- ECLK from which the new pattern accepts triggers. -/
  acceptAt : Option Nat := none
  deferred : List Deferred := []
  /-- R136: the previous pattern, kept until triggers are accepted, to compare ISP buffers. -/
  previous : Option Pattern := none
  deriving DecidableEq, Repr, Inhabited

/-! ### Cameras and ISP pipes (R144 to R162) -/

/-- R148: what an ISP node fixes for its port, resolved from the pattern. -/
structure IspCfg where
  node : Nat := 0
  slot : Nat := 0
  pair : Nat := 0xFF
  /-- R119: the camera pair whose band flags trigger the graph. -/
  source : Nat := 0
  tile : Bool := false
  port : Nat := 0
  vc : Nat := 0
  dt : Nat := 0x2A
  mosaic : Nat := 0
  phase : Nat := 0
  side : Nat := 0
  chromaOn : Bool := false
  irOn : Bool := false
  /-- 0 U8, 1 U16 with the value in [11:0]. -/
  lumaFmt : Nat := 0
  bandRows : Nat := 16
  black : Nat := 0
  wbR : Nat := 0
  wbG : Nat := 0
  wbB : Nat := 0
  irR : Nat := 0
  irG : Nat := 0
  irB : Nat := 0
  /-- Base and size of each buffer. -/
  luma : Nat × Nat := (0, 0)
  chroma : Option (Nat × Nat) := none
  ir : Option (Nat × Nat) := none
  emb : Option (Nat × Nat) := none
  user : Option (Nat × Nat) := none
  userMask : Nat := 0
  dmgLimit : Nat := 1
  lateTol : Nat := 0
  syncTol : Nat := 0
  lineTmo : Nat := 1200
  testSig : Nat := 0
  w : Nat := 64
  h : Nat := 64
  framePeriod : Nat := 1200000
  /-- R154: the node's band flags, and the flags of emb_buf and user_buf. -/
  bandFlags : List Nat := []
  embFlags : List Nat := []
  userFlags : List Nat := []
  deriving DecidableEq, Repr, Inhabited

/-- R150, R151, R154: a frame in progress in a pipe, or closed and awaiting its last band flags. -/
structure Frame where
  /-- The parameters in force at its frame start (R160). -/
  cfg : IspCfg := {}
  /-- The frame count k of R149. -/
  index : Nat := 0
  fsStamp : Nat := 0
  feStamp : Nat := 0
  /-- Rows received. -/
  rows : Nat := 0
  /-- Unpacked rows, black not yet subtracted, oldest first. -/
  raw : List (List Nat) := []
  /-- ECLK at which each row came. -/
  rowAt : List Nat := []
  /-- Line framing: the row begun by a line start packet, with its mark bits. -/
  openRow : Option (List Nat × Nat) := none
  /-- Output rows written. -/
  written : Nat := 0
  /-- Line marks by row (R150). -/
  marks : List Word32 := []
  closed : Bool := false
  forced : Bool := false
  late : Bool := false
  skew : Bool := false
  /-- Code of the first condition that damaged the frame (R156, R224). -/
  damage : Option EventCode := none
  /-- Bands whose flags have been set. -/
  bandsSet : Nat := 0
  embOff : Nat := 0
  userOff : Nat := 0
  /-- Flag of emb_buf and user_buf set (R154). -/
  auxSet : Bool := false
  deriving DecidableEq, Repr, Inhabited

/-- CSI receiver n and ISP pipe n (R145 to R162). -/
structure Camera where
  /-- Started by the first pattern that names it (R162). -/
  powered : Bool := false
  sync : Bool := false
  /-- R162: frames before the next frame start are discarded. -/
  awaitFs : Bool := true
  /-- R158: the open frame is discarded. -/
  discarding : Bool := false
  /-- The open frame. -/
  frame : Option Frame := none
  /-- Closed frames whose last band flags are still to be set, oldest first. -/
  tail : List Frame := []
  frameCount : Nat := 0
  damageRun : Nat := 0
  /-- R156: CSI_PAIR_LOST was raised for this run. -/
  lostRaised : Bool := false
  cntEccFix : BitVec 16 := 0
  cntEccFail : BitVec 16 := 0
  cntCrc : BitVec 16 := 0
  cntLine : BitVec 16 := 0
  cntDt : BitVec 16 := 0
  csiEvt : BitVec 16 := 0
  /-- Events already raised for this frame and port (R157). -/
  raised : List EventCode := []
  lastFs : Option Nat := none
  lastPacket : Nat := 0
  nextLate : Bool := false
  /-- The parameters of the pattern's node for this port; a new frame takes them. -/
  cfg : Option IspCfg := none
  /-- The last frame whose last band flag was set and that the pair trigger has not taken (R155). -/
  ready : Option Frame := none
  /-- ISP_STAT.half. -/
  half : Nat := 0
  /-- R161: a blanking test in progress since this ECLK. -/
  testAt : Option Nat := none
  lastPass : Nat := 0
  testSig : Word32 := 0
  ispEvt : BitVec 16 := 0
  paramBad : Bool := false
  /-- R161: ISP_TEST_STALE was raised since the last pass. -/
  staleRaised : Bool := false
  /-- R145: generic short packets. -/
  shortCount : Nat := 0
  deriving DecidableEq, Repr, Inhabited

/-! ### Engines (R163 to R264) -/

/-- Why a started node was told to stop (R177, R223, R246); a refusal of one of a node's arrays stops the others (R87). -/
inductive StopKind
  | abort | deadline | refused
  deriving DecidableEq, Repr, Inhabited

/-- R165: the fields of a command beside its node, pour and origin, copied from the pattern as the FGS writes it. -/
structure CmdHead where
  cls : Nat := 0
  mode : Nat := 0
  inFirst : Nat := 0
  inCount : Nat := 0
  outCount : Nat := 0
  outFirst : Nat := 0
  paramOff : Nat := 0
  paramLen : Nat := 0
  deriving DecidableEq, Repr, Inhabited

/-- R165: the command an instance holds. -/
structure VenCmd where
  pour : PourRef
  node : Nat
  origin : Nat
  head : CmdHead := {}
  startedAt : Nat
  /-- R168, R176: how many of its blocks and rows, in the order of the two passes, have been written. -/
  written : Nat := 0
  stop : Option StopKind := none
  /-- ECLK in which the stop arrived. -/
  stopAt : Nat := 0
  deriving DecidableEq, Repr, Inhabited

/-- A logical vision engine instance Lk (R163 to R166, R181). -/
structure VenInst where
  /-- Physical index bound to it within its class; none when unbound or withheld for takeover. -/
  phys : Option Nat := none
  cmd : Option VenCmd := none
  /-- R217: reserved for a selected node that awaits its grant. -/
  reserved : Option (PourRef × Nat) := none
  /-- R393, R398, R401: the FGS dispatches nothing to it. -/
  withheld : Bool := false
  /-- R164: ECLK until which a change of binding lasts. -/
  bindUntil : Nat := 0
  lastStatus : BitVec 3 := 0
  skipCnt : Nat := 0
  cycCoarse : Nat := 0
  cycRefine : Nat := 0
  clsCnt : Nat := 0
  clsEvt : BitVec 3 := 0
  deriving DecidableEq, Repr, Inhabited

/-- VEN: the vision engines (R163). -/
structure Ven where
  insts : List VenInst :=
    ([0, 1, 0, 1, 2, 0, 1, 0, 1, 0, 1, 2, 3].map fun p => { phys := some p })
  evt : BitVec 8 := 0
  deriving DecidableEq, Repr, Inhabited

/-- A logical array An (R230, R245, R250). -/
structure ArrayL where
  phys : Option Nat := none
  busy : Bool := false
  nodeId : Nat := 0
  /-- R217: reserved for a selected node. -/
  reserved : Bool := false
  withheld : Bool := false
  /-- R231: ECLK until which a rebinding lasts. -/
  bindUntil : Nat := 0
  cyc : Nat := 0
  stall : Nat := 0
  deriving DecidableEq, Repr, Inhabited

/-- R259: a tile in an output stage: the ECLK in which the stage will be empty, and its writes (address, nibble part,
bytes). -/
structure StagedTile where
  freeAt : Nat
  writes : List (Nat × Nat × List Byte)
  deriving DecidableEq, Repr, Inhabited

/-- One array's place in a class 6 command (R236, R239, R259). -/
structure ArrayRun where
  array : Nat
  begun : Bool := false
  beganAt : Nat := 0
  /-- Tiles of the current layer this array has finished. -/
  tiles : Nat := 0
  /-- Output stages that hold unwritten tiles (R259), oldest first. -/
  stages : List StagedTile := []
  /-- R231, R261, R401: at a tile boundary, held for a handover or a test. -/
  paused : Bool := false
  /-- ECLK from which the array computes its next tile. -/
  nextAt : Nat := 0
  /-- R238: tiles of the layer whose operands have been read into the local buffer, and the ECLK in which the last of these
  reads ends. -/
  filled : Nat := 0
  fillAt : Nat := 0
  /-- R259: the stall on the output stages that NEU_STALL does not hold yet: its first ECLK and the ECLK after its last. -/
  stallFrom : Nat := 0
  stallTo : Nat := 0
  /-- R246: ECLK of the last tile boundary. -/
  tileAt : Option Nat := none
  deriving DecidableEq, Repr, Inhabited

/-- A class 6 node's command (R236 to R245). -/
structure NeuCmd where
  pour : PourRef
  node : Nat
  origin : Nat
  head : CmdHead := {}
  /-- R236: how many arrays the node was given. -/
  width : Nat := 0
  arrays : List ArrayRun
  layer : Nat := 0
  /-- R245: physical arrays that ran a tile. -/
  physMask : BitVec 17 := 0
  satRaised : Bool := false
  fpRaised : Bool := false
  stop : Option StopKind := none
  /-- ECLK in which the stop arrived. -/
  stopAt : Nat := 0
  /-- R237: all arrays have finished the layer, and its local barrier ends in this ECLK. -/
  barrierAt : Option Nat := none
  /-- R422: ECLK in which the counters of a split layer had all come. -/
  exchangeAt : Option Nat := none
  deriving DecidableEq, Repr, Inhabited

/-- R238, R260: the local buffer of a physical array: the two weight halves and the two activation halves, each with the
bytes that it holds by their address, and the two transposition tiles with the bytes of the store that passes through. -/
structure LocalBuf where
  weights : List (List Host.Cell) := [[], []]
  acts : List (List Host.Cell) := [[], []]
  tiles : List (List Byte) := [[], []]
  deriving DecidableEq, Repr, Inhabited

/-- NEU: the Neural Engine (R230, R248, R249). -/
structure Neu where
  arrays : List ArrayL := (List.range 16).map fun p => { phys := some p }
  /-- R238, R250: the local buffers of the physical arrays, clear after reset. -/
  bufs : List LocalBuf := List.replicate 17 {}
  cmds : List NeuCmd := []
  /-- R230: the physical array holding the test role. -/
  testPhys : Option Nat := some 16
  /-- R231: the physical array that is to take the test role at its tile boundary. -/
  handover : Option Nat := none
  satCnt : Nat := 0
  fpCnt : Nat := 0
  eccFix : Nat := 0
  evt : BitVec 9 := 0
  layEvt : BitVec 2 := 0
  deriving DecidableEq, Repr, Inhabited

/-! ### Frame Graph Sequencer (R210 to R229) -/

/-- The life of a node within a pour (R216). -/
inductive NodeSt
  | waiting
  /-- Selected, its resource reserved and its tickets requested. -/
  | selected
  | running
  /-- Cut at its deadline; the token follows (R223). -/
  | cut
  /-- Ended, with the status of R166. -/
  | ended (status : Nat)
  deriving DecidableEq, Repr, Inhabited

/-- A node of an open pour, and the logical instances, arrays or channel it holds. -/
structure NodeRun where
  node : Nat
  st : NodeSt := .waiting
  res : List Nat := []
  /-- R227: ECLK of its token or task end. -/
  endedAt : Nat := 0
  deriving DecidableEq, Repr, Inhabited

/-- A pour in flight (R214, R215). -/
structure Pour where
  ref : PourRef
  openAt : Nat := 0
  fsOpen : Nat := 0
  /-- The provisional origin, absent until the age monitor has returned it. -/
  origin : Option Nat := none
  /-- R374: fixed at the pair trigger. -/
  fixedOrigin : Option Nat := none
  pairDone : Bool := false
  nodes : List NodeRun := []
  /-- R224: the cause of the abort. -/
  aborted : Option EventCode := none
  refineSkipped : Bool := false
  /-- R158: the camera frames the pour reads, as port and frame count. -/
  frames : List (Nat × Nat) := []
  /-- R382: units that served the pour, each with the ECLK of its token. -/
  units : List (Nat × Nat) := []
  /-- R435: units of other chips that served it. -/
  remoteUnits : List (Nat × Nat) := []
  /-- R373: handed to the Assayer. -/
  handed : Bool := false
  /-- R419: chip, slot and pour_seq of the owner of a flask-graph pour. -/
  owner : Option (Nat × PourRef) := none
  /-- The pattern it ran under has been swapped out. -/
  old : Bool := false
  deriving DecidableEq, Repr, Inhabited

/-- A graph slot's counters (R210, R214, R225). -/
structure GraphSlot where
  /-- pour_seq of the next trigger. -/
  nextSeq : Nat := 0
  /-- FGS_SLOT_SEQ. -/
  lastSeq : Nat := 0
  abortRun : Nat := 0
  /-- R225: FGS_GRAPH_LOST was raised for this run. -/
  lostRaised : Bool := false
  abortCause : EventCode := 0
  /-- Kind 2: ECLK of the last trigger or the swap point. -/
  timerAt : Nat := 0
  /-- R197, R202, R206: the last pour that retired without abort since the swap point. -/
  lastGood : Option Nat := none
  /-- R399: the units that wrote the buffers of that pour, each with the ECLK of its token. -/
  lastUnits : List (Nat × Nat) := []
  deriving DecidableEq, Repr, Inhabited

/-- A flag's two counters; a persistent flag uses c0 (R219). -/
structure FlagCtr where
  flag : Nat
  c0 : Nat := 0
  c1 : Nat := 0
  deriving DecidableEq, Repr, Inhabited

/-- FGS: the Frame Graph Sequencer (R210, R219, R226). -/
structure Fgs where
  drain : Bool := false
  abortLimit : BitVec 4 := 4
  dlMiss : Nat := 0
  dlCut : Nat := 0
  evt : BitVec 10 := 0
  slots : List GraphSlot := List.replicate 8 {}
  pours : List Pour := []
  /-- R223: retired pours of which the token of a cut node is still to come. -/
  leaving : List Pour := []
  flags : List FlagCtr := []
  /-- R421: device flags 4,032 to 4,095. -/
  devFlags : List Nat := List.replicate 64 0
  deriving DecidableEq, Repr, Inhabited

/-! ### Riser threads (R265 to R287, R309 to R320) -/

/-- RSR_THR_STAT.state. -/
inductive ThreadSt
  | held | running | idle | halted
  deriving DecidableEq, Repr, Inhabited

/-- R310: an entry of the store queue. -/
structure QueuedStore where
  /-- Context address, for forwarding. -/
  vaddr : Nat
  paddr : Nat
  bytes : Nat
  value : Word64
  /-- R267: the thread's mode at issue. -/
  keeper : Bool := false
  /-- Released and visible; awaits its write response. -/
  visible : Bool := false
  /-- The target accepted it with an error (R327). -/
  failed : Bool := false
  deriving DecidableEq, Repr, Inhabited

/-- Why a running thread is not ready (R265). -/
inductive Waiting
  | none
  | load (gd : BitVec 5) (value : Word64) (peer : Bool) (reserve : Bool) (addr : Nat)
  | seal
  | ioseal
  deriving DecidableEq, Repr, Inhabited

/-- R281: an asynchronous delivery that waits to be taken. -/
structure AsyncDelivery where
  /-- 0x10 TASK_DELIVER or 0x11 PREEMPT. -/
  code : Byte
  detail : Byte
  /-- Slot and generation of the task that the delivery binds. -/
  task : Option (Nat × Nat) := none
  /-- R299: slot and generation of the victim. -/
  victim : Option (Nat × Nat) := none
  deriving DecidableEq, Repr, Inhabited

/-- R315 to R317, R417: whose a reservation, a failure or a hold is: the peer chip, none for this one, and the thread. -/
structure Owner where
  chip : Option Nat := none
  thread : Nat
  deriving DecidableEq, Repr, Inhabited

/-- R316: a reservation as the monitor of this chip holds it. -/
structure Reservation where
  owner : Owner
  /-- Granule base. -/
  base : Nat
  size : Nat
  madeAt : Nat
  deriving DecidableEq, Repr, Inhabited

/-- R317: a failed CONDST that may still earn a hold. -/
structure FailedCond where
  owner : Owner
  base : Nat
  failedAt : Nat
  deriving DecidableEq, Repr, Inhabited

/-- A Riser hardware thread (R265 to R287). -/
structure Thread where
  st : ThreadSt := .held
  keeper : Bool := false
  /-- g1 to g31 at indexes 1 to 31. -/
  g : List Word64 := List.replicate 32 0
  pc : Nat := 0
  /-- RSR_THR_STAT.pc: address of the last issued instruction. -/
  lastPc : Nat := 0
  /-- R273: the branch whose delay slot is next, and where execution goes after it. -/
  branch : Option (Nat × Nat) := none
  lc0 : Word64 := 0
  lc1 : Word64 := 0
  le0 : Word64 := 0
  le1 : Word64 := 0
  epc : Word64 := 0
  ecause : Word64 := 0
  emode : Word64 := 0
  /-- R276: shadow instructions still to run in the old mode, and the new mode. -/
  shadow : Nat := 0
  newMode : Bool := false
  ioOpen : Bool := false
  ioUsed : Bool := false
  stores : List QueuedStore := []
  waiting : Waiting := .none
  /-- R417: the peer chip whose monitor holds the thread's reservation. -/
  remote : Option Nat := none
  /-- R277, R278: ECLK from which the thread issues again after an exception entry or an XRET. -/
  nextAt : Nat := 0
  /-- Oldest first. -/
  async : List AsyncDelivery := []
  deriving DecidableEq, Repr, Inhabited

/-- R317: a hold on a granule. -/
structure Hold where
  owner : Owner
  base : Nat
  startedAt : Nat
  /-- R417: the granule is contended across chips. -/
  remote : Bool := false
  deriving DecidableEq, Repr, Inhabited

/-- R265: a Riser core: its thread that issued last, and the ECLK of that issue. -/
structure CoreTurn where
  last : Nat := 7
  issuedAt : Option Nat := none
  deriving DecidableEq, Repr, Inhabited

/-- RSR: the Riser threads (R267, R268, R287, R316). -/
structure Rsr where
  cores : List CoreTurn := List.replicate 32 {}
  threads : List Thread :=
    { st := .running, keeper := true } :: List.replicate 255 {}
  rel : List Word32 := 1 :: List.replicate 7 0
  keeperMask : List Word32 := 1 :: List.replicate 7 0
  vec : BitVec 48 := 0x100
  evt : BitVec 4 := 0
  excCnt : Nat := 0
  /-- R316: the reservations in this chip's monitors, oldest first. -/
  resvs : List Reservation := []
  /-- R317: failed CONDSTs, oldest first. -/
  fails : List FailedCond := []
  holds : List Hold := []
  /-- R117, R328: the reservation granule in bytes. -/
  granule : Nat := 64
  deriving DecidableEq, Repr, Inhabited

/-! ### Task Scheduler (R288 to R308) -/

/-- R288: the states of a slot that is not free. -/
inductive TaskSt
  | waiting | ready | running | preempted | ending
  deriving DecidableEq, Repr, Inhabited

/-- A task in a slot (R288 to R304). -/
structure Task where
  slot : Nat
  gen : Nat
  st : TaskSt := .waiting
  entry : Nat := 0
  arg : Word64 := 0
  ctx : Nat := 0
  group : Nat := 0
  /-- Readiness 1, matching store. -/
  matching : Bool := false
  nOperands : Nat := 0
  acceptCancel : Bool := false
  noPreempt : Bool := false
  counter : Nat := 0
  flagWait : Option Nat := none
  links : List Word32 := []
  pour : Option PourRef := none
  node : Option Nat := none
  /-- R303: slot and generation of the task that spawned it. -/
  parent : Option (Nat × Nat) := none
  /-- R293: the FGS has started the node. -/
  started : Bool := true
  operands : List (Nat × Word32) := []
  poisoned : Bool := false
  /-- SCH_PORT_CUR.poison: two bits per link position. -/
  poison : Byte := 0
  readyAt : Nat := 0
  /-- ECLK from which it waits for selection. -/
  waitFrom : Nat := 0
  deliveredAt : Nat := 0
  resumed : Bool := false
  /-- R298: the operands as delivered, shown again to a resumed task. -/
  shown : List Word32 := List.replicate 4 0
  thread : Option Nat := none
  deriving DecidableEq, Repr, Inhabited

/-- R301: a link still to be handled, one per ECLK. -/
structure LinkWork where
  slot : Nat
  index : Nat
  gen : Nat
  /-- 0 DONE, 1 CANCELLED, 2 FAULT. -/
  status : Nat
  value : Word32
  /-- Slot and generation of the task that ended. -/
  source : Nat × Nat
  /-- R305: the first ECLK that handles it. -/
  dueAt : Nat := 0
  deriving DecidableEq, Repr, Inhabited

/-- A thread's port (R292, R301). -/
structure Port where
  desc : List Byte := List.replicate 64 0
  result : Word32 := 0
  value : Word32 := 0
  cur : Word32 := 0
  arg : Word64 := 0
  ctx : Word64 := 0
  opnd : List Word32 := List.replicate 4 0
  /-- The task bound to the thread. -/
  task : Option (Nat × Nat) := none
  deriving DecidableEq, Repr, Inhabited

/-- SCH_GRP_CFG of one group and its credit (R296, R308). -/
structure Group where
  weight : Byte := 16
  limit : BitVec 9 := 256
  preempt : Bool := false
  credit : Int := 0
  deriving DecidableEq, Repr, Inhabited

/-- SCH: the task scheduler (R288, R294, R296). -/
structure Sch where
  /-- Slots that are not free, by rising slot number. -/
  tasks : List Task := []
  /-- R288: the generation of each spawned slot ever allocated. -/
  gens : List (Nat × Nat) := []
  groups : List Group := { weight := 255, preempt := true } :: List.replicate 15 {}
  ports : List Port := List.replicate 256 {}
  links : List LinkWork := []
  /-- R297, R301: ECLK of the last delivery, and of the last link handled. -/
  deliveredAt : Option Nat := none
  linkAt : Option Nat := none
  evt : BitVec 11 := 0
  waitMax : Nat := 0
  deriving DecidableEq, Repr, Inhabited

/-! ### Translation and firewalls (R329 to R345) -/

/-- The recorded fault of XLT or FWL (R341). -/
structure FaultRec where
  addr : BitVec 48 := 0
  id : BitVec 10 := 0
  kind : BitVec 3 := 0
  write : Bool := false
  more : Byte := 0
  valid : Bool := false
  /-- ECLK in which the record was taken. -/
  takenAt : Nat := 0
  deriving DecidableEq, Repr, Inhabited

/-- A cached leaf (R335). -/
structure CacheEntry where
  ctx : Nat
  /-- Context address [47:16]. -/
  page : Nat
  leaf : Word64
  /-- The leaf is a 512 MiB block of level 2. -/
  block : Bool
  deriving DecidableEq, Repr, Inhabited

/-- XLT: translation (R331 to R335, R341). -/
structure Xlt where
  /-- XLT_CTX_ROOT[c].en and root, indexes 1 to 63. -/
  roots : List (Bool × BitVec 48) := List.replicate 64 (false, 0)
  /-- XLT_BIND of the initiator IDs whose binding is not 0. -/
  bind : List (Nat × Nat) := []
  /-- Contexts whose invalidation is in progress. -/
  invBusy : List Nat := []
  cache : List CacheEntry := []
  /-- R335: entries cached before the last write of XLT_INV, which translation may begin with until busy clears. -/
  dying : List CacheEntry := []
  /-- R342: the ECLK of a write, and the roots and bindings that still rule in it. -/
  old : Option (Nat × List (Bool × BitVec 48) × List (Nat × Nat)) := none
  fault : FaultRec := {}
  evt : BitVec 5 := 0
  deriving DecidableEq, Repr, Inhabited

/-- FWL_REG[r] (R338). -/
structure Region where
  base : BitVec 36 := 0
  limit : BitVec 36 := 0
  idLo : BitVec 10 := 0
  idHi : BitVec 10 := 0
  en : Bool := false
  r : Bool := false
  w : Bool := false
  x : Bool := false
  keeper : Bool := false
  lock : Bool := false
  deriving DecidableEq, Repr, Inhabited

/-- R338: the default regions. -/
def defaultRegions : List Region :=
  [ { base := 0x20000, limit := 0x237FF, idLo := 0, idHi := 0x1FF, en := true, r := true, w := true, x := true },
    { base := 0x1000000, limit := 0x1FFFFFF, idLo := 0, idHi := 0x1FF, en := true, r := true, w := true, x := true },
    { base := 0x10000, limit := 0x1003F, idLo := 0, idHi := 0x1FF, en := true, r := true, w := true },
    { base := 0x8000, limit := 0x81FF, idLo := 0, idHi := 0xFF, en := true, r := true, w := true, keeper := true },
    { base := 0x80A1, limit := 0x80A8, idLo := 0, idHi := 0xFF, en := true, r := true, w := true },
    { base := 0x8000, limit := 0x81FF, idLo := 0x1A0, idHi := 0x1A0, en := true, r := true, w := true } ]
  ++ List.replicate 58 ({} : Region)

/-- FWL: the firewall (R336 to R341). -/
structure Fwl where
  regions : List Region := defaultRegions
  /-- R342: the ECLK of a write, and the regions that still rule in it. -/
  old : Option (Nat × List Region) := none
  fault : FaultRec := {}
  evt : BitVec 4 := 0
  deriving DecidableEq, Repr, Inhabited

/-! ### Runner DMA (R346 to R367) -/

/-- DMA_CH_STAT.state. -/
inductive DmaSt
  | idle | waitGrant | running | paused | preempted | halted | error
  deriving DecidableEq, Repr, Inhabited

/-- R348: a fetched descriptor. -/
structure Descriptor where
  addr : Nat
  src : Nat
  dst : Nat
  len : Nat
  ctrl : Word32
  next : Nat
  deriving DecidableEq, Repr, Inhabited

/-- A Runner channel (R346 to R357). -/
structure DmaCh where
  /-- DMA_CH_CFG. -/
  regRing : Bool := false
  regPosted : Bool := false
  hipri : Bool := false
  cls : BitVec 2 := 2
  pace : Bool := false
  desc : BitVec 48 := 0
  prod : BitVec 48 := 0
  cons : BitVec 48 := 0
  entries : BitVec 13 := 2
  head : Nat := 0
  regCount : BitVec 13 := 0
  /-- R356, R483: form, completion and count of the chain, as the registers gave them at its start. -/
  ring : Bool := false
  posted : Bool := false
  count : BitVec 13 := 0
  unitLog2 : BitVec 4 := 0
  poll : BitVec 16 := 64
  hi : BitVec 25 := 1
  lo : BitVec 25 := 0
  st : DmaSt := .idle
  owned : Bool := false
  notify : Bool := false
  /-- Bytes read and not yet written, with the destination address they go to. -/
  buffer : List (Nat × Byte) := []
  cur : Option Descriptor := none
  /-- A ring channel that waits for a doorbell (R350). -/
  needDoorbell : Bool := false
  /-- Bytes of the current descriptor read and written. -/
  readPos : Nat := 0
  bytes : Nat := 0
  /-- C of R353. -/
  units : Nat := 0
  /-- Descriptors completed since the start. -/
  completed : Nat := 0
  /-- Bytes moved in the chain (R440). -/
  chainBytes : Nat := 0
  /-- Posted-complete descriptors whose writes are unconfirmed: address of the ring entry or 0. -/
  postedOpen : List Nat := []
  /-- R365: a posted write was lost; the node's flag set never takes effect. -/
  postedLost : Bool := false
  /-- Address of the next descriptor of a linked list. -/
  fetchAddr : Nat := 0
  /-- Tickets of the channel's grant (R360). -/
  tickets : Nat := 0
  /-- P - C of R353 at the last producer read. -/
  level : Nat := 0
  /-- The pour and node an owned channel serves. -/
  serves : Option (PourRef × Nat) := none
  pollAt : Nat := 0
  deriving DecidableEq, Repr, Inhabited

/-- R351: a datapath. -/
structure Datapath where
  ch : Option Nat := none
  beganAt : Nat := 0
  /-- Beats of the burst in progress. -/
  beats : Nat := 0
  lastCh : Nat := 31
  deriving DecidableEq, Repr, Inhabited

/-- DMA: the Runners (R346, R351, R364). -/
structure Dma where
  chs : List DmaCh := List.replicate 32 {}
  paths : List Datapath := List.replicate 2 {}
  stopped : Bool := false
  errCh : BitVec 5 := 0
  errKind : BitVec 3 := 0
  errWrite : Bool := false
  errMore : Byte := 0
  errValid : Bool := false
  errAddr : BitVec 48 := 0
  errDesc : BitVec 48 := 0
  evt : BitVec 9 := 0
  deriving DecidableEq, Repr, Inhabited

/-! ### Assayer, age monitor, tests (R368 to R411) -/

/-- R381: an announced pour. -/
structure Announce where
  ref : PourRef
  pair : Nat
  zoneIds : List (BitVec 16)
  origin : Nat
  ceiling : Nat
  /-- Judged, invalidated or declared missing. -/
  settled : Bool := false
  missing : Bool := false
  deriving DecidableEq, Repr, Inhabited

/-- R376: a zone as the Witness saw it in one pour. -/
structure ZoneView where
  /-- w_d; none for an empty zone. -/
  dist : Option Int := none
  /-- w_v, when it exists. -/
  speed : Option Int := none
  deriving DecidableEq, Repr, Inhabited

/-- The Witness result of a pour (R376). -/
structure WitnessView where
  ref : PourRef
  zones : List ZoneView
  origin : Nat
  deriving DecidableEq, Repr, Inhabited

/-- R378 check 4: a zone's last released record. -/
structure ZoneHist where
  pair : Nat
  zone : Nat
  seq : Nat
  dist : Int
  speed : Int
  origin : Nat
  deriving DecidableEq, Repr, Inhabited

/-- A separation record or notice (R465). -/
structure SepRecord where
  zoneId : BitVec 16 := 0
  pairId : Byte := 0
  status : Byte := 0
  dist : Word32 := 0
  speed : Word32 := 0
  conf : BitVec 16 := 0
  origin : Nat := 0
  release : Nat := 0
  seq : Word32 := 0
  deriving DecidableEq, Repr, Inhabited

/-- R379, R469: a judged pour that waits for room in both queues. -/
structure Batch where
  ref : PourRef
  pair : Nat
  origin : Nat
  waitSince : Nat
  ceiling : Nat
  records : List SepRecord
  units : List (Nat × Nat)
  remoteUnits : List (Nat × Nat)
  pipes : List Nat
  /-- R469: SFP_QUEUE_STALL was raised for it. -/
  stalled : Bool := false
  deriving DecidableEq, Repr, Inhabited

/-- R382: a pour ledger entry. -/
structure LedgerEntry where
  ref : PourRef
  pair : Nat
  origin : Nat
  release : Nat
  units : List Nat
  remoteUnits : List (Nat × Nat)
  pipes : List Nat
  zoneIds : List (BitVec 16)
  recalled : Bool := false
  deriving DecidableEq, Repr, Inhabited

/-- ASY_RANGE of a pair (R378). -/
structure RangeRegs where
  distMin : Word32 := 0
  distMax : Word32 := 0
  speedMax : Word32 := 0
  distJump : Word32 := 0
  speedJump : Word32 := 0
  minPix : BitVec 4 := 0
  deriving DecidableEq, Repr, Inhabited

/-- ASY_STATE.state. -/
inductive SafeState
  | normal | s1 | s2
  deriving DecidableEq, Repr, Inhabited

/-- ASY and AGE: the Assayer and the age monitor (R367, R378 to R382). -/
structure Asy where
  state : SafeState := .s2
  beat : BitVec 3 := 0
  beats : BitVec 24 := 0
  /-- Watch time of the last burst. -/
  lastBurst : Nat := 0
  ranges : List RangeRegs := List.replicate 4 {}
  counts : List Nat := List.replicate 6 0
  ceiling : Nat := 14400000
  ageMax : Nat := 0
  missCnt : Nat := 0
  unchecked : Nat := 0
  origins : List Nat := List.replicate 4 0
  announced : List Announce := []
  witness : List WitnessView := []
  /-- R376: the last pours that retired without abort. -/
  retired : List PourRef := []
  history : List ZoneHist := []
  /-- R378: pours handed over and not yet judged, with their served units. -/
  handed : List Pour := []
  /-- The pattern of the handed pours that a swap point left to be judged. -/
  oldPattern : Option Pattern := none
  batches : List Batch := []
  ledger : List LedgerEntry := []
  /-- ECLK of the last detection with an S1 action. -/
  lastDetection : Nat := 0
  /-- R35: a record without DEGRADED is ready to end S1. -/
  exitReady : Bool := false
  deriving DecidableEq, Repr, Inhabited

/-- R397 to R404: the states of a class. -/
inductive ClassSt
  | normal | tight | degraded | lost
  deriving DecidableEq, Repr, Inhabited

/-- One class's rotation (R391, R392). -/
structure ClassTest where
  /-- Unit under test. -/
  unit : Option Nat := none
  state : ClassSt := .normal
  /-- ECLK in which the class's last test began. -/
  testAt : Option Nat := none
  /-- The test of the unit is running (else it has passed and awaits handover, or waits for its unit). -/
  running : Bool := false
  /-- The unit that is to take the role next, with the ECLK of the request. -/
  target : Option (Nat × Nat) := none
  sigLast : Word32 := 0
  deriving DecidableEq, Repr, Inhabited

/-- TST_FAIL_LOG entry (R397). -/
structure FailEntry where
  unit : Nat
  injected : Bool
  cause : EventCode
  stamp : Nat
  /-- R407: the row of the pairings, 0 when none. -/
  row : Nat := 0
  deriving DecidableEq, Repr, Inhabited

/-- R408: the three injections. -/
inductive Injection
  | signature | parity | view
  deriving DecidableEq, Repr, Inhabited

/-- TST: the periodic tests (R391 to R411). -/
structure Tst where
  classes : List ClassTest :=
    ([2, 6, 9, 12, 17, 34].map fun u => { unit := some u })
  failed : List Nat := []
  /-- TST_LAST_PASS; none until the first pass after reset. -/
  lastPass : List (Option Nat) := List.replicate 35 none
  log : List FailEntry := []
  inject : List (Nat × Injection) := []
  stale : List Nat := []
  /-- R411: the first rotation began. -/
  rotationAt : Option Nat := none
  deriving DecidableEq, Repr, Inhabited

/-! ### Safety port and host interface (R456 to R476, R519) -/

/-- The header of a safety message (R463). -/
structure MsgHeader where
  channel : Channel
  chip : BitVec 2 := 0
  seq : Word32 := 0
  stamp : Nat := 0
  nRecords : Nat := 0
  phase : BitVec 2 := 0
  safe : BitVec 2 := 0
  power : BitVec 3 := 0
  noticeLost : Bool := false
  peers : Byte := 0
  safeA : Bool := false
  safeB : Bool := false
  faultN : Bool := false
  faultCode : EventCode := 0
  faultPairs : BitVec 4 := 0
  faultCount : Byte := 0
  patternId : Word32 := 0
  deriving DecidableEq, Repr

/-- A formed message: its header, its entries, and its bytes on the wire. -/
structure Message where
  hdr : MsgHeader
  records : List SepRecord
  bytes : List Byte
  deriving DecidableEq, Repr

/-- A safety channel (R462, R468, R469). -/
structure SafetyCh where
  queue : List SepRecord := []
  msgSeq : Word32 := 0
  /-- A message has been formed on the channel since the last cold reset (R476). -/
  formed : Bool := false
  lastSeq : Word32 := 0
  trunc : Nat := 0
  noticeLost : Bool := false
  /-- SAFE_x is driven active. -/
  safe : Bool := false
  /-- R472: a released record entered the queue since the last reset, return or S1 exit. -/
  released : Bool := false
  /-- The message of the transfer in progress. -/
  cur : Option Message := none
  /-- CS_N is low. -/
  selected : Bool := false
  /-- R462, R474: watch time at which the message of the transfer is formed, and the entries queued before its fall's PCLK. -/
  forming : Option (Nat × Nat) := none
  /-- R476: the frozen fault message. -/
  frozen : Option Message := none
  lastConsumed : Nat := 0
  lateRaised : Bool := false
  deriving DecidableEq, Repr, Inhabited

/-- SFP: the safety port (R462 to R476). -/
structure Sfp where
  chA : SafetyCh := {}
  chB : SafetyCh := {}
  faultPairs : BitVec 4 := 0
  /-- FAULT_N is driven asserted (low). -/
  faultN : Bool := true
  deriving DecidableEq, Repr, Inhabited

/-- One MSI-X vector: table entry, PBA bit and pending message (R459). -/
structure MsixVec where
  masked : Bool := true
  addr : Word64 := 0
  data : Word32 := 0
  pba : Bool := false
  lastSent : Option Nat := none
  waiting : Bool := false
  deriving DecidableEq, Repr, Inhabited

/-- A posted write of the device into host memory (R459, R461). -/
structure HostWrite where
  addr : Word64
  data : List Byte
  deriving DecidableEq, Repr

/-- How a host access was answered (R458). -/
inductive HostReply
  | none
  | data (bytes : List Byte)
  | unsupportedRequest
  | completerAbort
  deriving DecidableEq, Repr, Inhabited

/-- HIF: the host interface (R456 to R461). -/
structure Hif where
  bar2Base : BitVec 48 := 0
  linkUp : Bool := false
  speed : BitVec 3 := 0
  width : BitVec 4 := 0
  copyEn : Bool := false
  copyLog2 : BitVec 5 := 6
  copyBase : Word64 := 0
  copyHead : BitVec 16 := 0
  copyTail : BitVec 16 := 0
  /-- R474: the PCLK of a write of HIF_COPY_TAIL, and the tail that still rules in it. -/
  oldTail : Option (Nat × BitVec 16) := none
  copyDrop : Nat := 0
  fifo : List EventCode := []
  evtLost : Nat := 0
  /-- R460: a drop run awaits the next free entry. -/
  dropRun : Bool := false
  evt : Word32 := 0
  vectors : List MsixVec := List.replicate 64 {}
  /-- Posted writes to host memory, oldest first: the block's output on PCIe. -/
  posted : List HostWrite := []
  /-- The completion of the last host access. -/
  reply : HostReply := .none
  deriving DecidableEq, Repr, Inhabited

/-! ### Links, trace and counters (R412 to R455) -/

/-- A Nortos Link (R412 to R416, R433). -/
structure Link where
  trained : Bool := false
  grp1 : Bool := false
  /-- R82: lane group 1 is granted here; and by the peer. -/
  grantHere : Bool := false
  grantPeer : Bool := false
  peer : BitVec 2 := 0
  lanes : Byte := 0
  attempts : Nat := 0
  /-- R344: ECLK in which the link was lost. -/
  lostAt : Option Nat := none
  /-- ECLK of the last failed attempt. -/
  failedAt : Nat := 0
  /-- R414: ECLK from which an attempt runs. -/
  trainFrom : Nat := 0
  replayCnt : Nat := 0
  /-- R414: a failed attempt waits for its retry. -/
  waiting : Bool := false
  /-- R414: LNK_TRAIN_FAIL was raised; retries every 100 ms. -/
  slowRetry : Bool := false
  /-- R424, R431: what the peer told when the link trained: it is in a start sequence, and the flask_tag it runs. -/
  peerStarting : Bool := false
  peerTag : Option Word32 := none
  deriving DecidableEq, Repr, Inhabited

/-- LNK: the flask (R412, R424 to R427). -/
structure Lnk where
  links : List Link := List.replicate 3 {}
  /-- R426, R427: ECLK of the last residual, and of the last status sent. -/
  residAt : Option Nat := none
  statusAt : Option Nat := none
  ref : BitVec 2 := 0
  step : Word32 := 0
  resid : BitVec 16 := 0
  residMax : BitVec 16 := 0
  peerState : Byte := 0xAA
  /-- R429: each peer's pending flask_tag, and whether it reported its swap point. -/
  peerTags : List (Option Word32) := List.replicate 4 none
  peerSwapped : List Bool := List.replicate 4 false
  announcedAt : Option Nat := none
  tagMismatch : Bool := false
  driftRun : Nat := 0
  aligned : Bool := false
  evt : BitVec 13 := 0
  /-- Messages to peers, oldest first: chip and ASY_STATE word, failed units, aborts, remote sets. -/
  sent : List (Nat × List Nat) := []
  deriving DecidableEq, Repr, Inhabited

/-- A trace record (R439). -/
structure TraceRec where
  stamp : Nat
  id : BitVec 10
  kind : BitVec 3
  node : BitVec 16
  seq : Word32
  payload : List Byte
  deriving DecidableEq, Repr, Inhabited

/-- A 64-bit counter with what R451 needs of the current ECLK. -/
structure Ctr64 where
  value : Word64 := 0
  /-- ECLK of the last change, and the value that ECLK began with. -/
  mark : Nat := 0
  before : Word64 := 0
  /-- It was written in that ECLK; R13: the increments that the write has replaced. -/
  wrote : Bool := false
  lost : Nat := 0
  deriving DecidableEq, Repr, Inhabited

/-- A source counter (R445). -/
structure SrcCtr where
  cmd : Ctr64 := {}
  busy : Ctr64 := {}
  err : Ctr64 := {}
  /-- First ECLK of the open begin that busy does not hold yet. -/
  beganAt : Option Nat := none
  deriving DecidableEq, Repr, Inhabited

/-- A global counter (R446 to R448). -/
structure GlbCtr where
  ctr : Ctr64 := {}
  sel : BitVec 6 := 0
  /-- R451: the ECLK of a write of sel, and the selector that still rules in it. -/
  oldSel : Option (Nat × BitVec 6) := none
  /-- The counter has wrapped and CTR_OVERFLOW is to follow. -/
  wrapped : Bool := false
  ovf : Bool := false
  irqEn : Bool := false
  deriving DecidableEq, Repr, Inhabited

/-- R449: a snapshot latch. -/
structure Latch where
  id : BitVec 10
  ctr : CounterName
  value : Word64
  deriving DecidableEq, Repr

/-- TAP and CTR: trace and counters (R437, R445, R449). -/
structure Tap where
  en : Bool := false
  /-- src_ven, src_neu, src_dma, src_isp, src_test, src_sync from bit 0. -/
  src : BitVec 6 := 0
  /-- R452: the ECLK of a change of TAP_CTRL, and the settings that still rule in it. -/
  oldCtl : Option (Nat × Bool × BitVec 6) := none
  base : BitVec 48 := 0
  log2 : BitVec 5 := 12
  /-- R441: ECLK of the last line written. -/
  lineAt : Option Nat := none
  wr : BitVec 26 := 0
  rd : BitVec 26 := 0
  fifo : List (TraceRec × Nat) := []
  error : Bool := false
  drop : Nat := 0
  /-- R444: an open drop run: count and stamp of its first record. -/
  run : Option (Nat × Nat) := none
  evt : Word32 := 0
  srcs : List SrcCtr := List.replicate 75 {}
  glbs : List GlbCtr := List.replicate 16 {}
  /-- Newest use first, at most 16. -/
  latches : List Latch := []
  /-- The value the last counter read returned. -/
  readValue : Word64 := 0
  deriving DecidableEq, Repr, Inhabited

/-- R11: the W1C bits that hardware sets without an event of their own. -/
inductive HwBit
  | fuseDone | fuseError | attDone | attError
  /-- PAT_EVT.rejected. -/
  | rejected
  /-- SYS_RST_CAUSE.host. -/
  | hostReset
  /-- DMA_CH_STAT.notify of a channel. -/
  | notify (ch : Nat)
  /-- Bits of an instance's class event register. -/
  | classEvt (k : Nat) (b : BitVec 3)
  deriving DecidableEq, Repr

/-- R11, R14, R48: what has come about in the current ECLK, and in the current ACLK. -/
structure Cycle where
  /-- Events whose bits hardware has set in this ECLK, and those of a camera port. -/
  sets : List EventCode := []
  camSets : List (Nat × EventCode) := []
  /-- Other W1C bits that hardware has set in this ECLK. -/
  bits : List HwBit := []
  /-- Global counters that have wrapped in this ECLK. -/
  wraps : List Nat := []
  /-- Threads whose release bit was written 1 in this ECLK. -/
  released : List Nat := []
  /-- SYS_BOOT_DOORBELL.staged was written 1 in this ECLK. -/
  bell : Bool := false
  /-- R227: graph slots that FGS_ABORT has named in this ECLK. -/
  aborted : List Nat := []
  /-- R48: detections of this ACLK, and how many entries the event FIFO took in it. -/
  detected : List EventCode := []
  pushed : Nat := 0
  deriving DecidableEq, Repr, Inhabited

/-- R515: a write that waits for the end of its PCLK: its unit's offset in the register window, its value and mask, and
whether a keeper-mode thread made it. -/
structure HeldWrite where
  off : Nat
  v : Nat
  m : Nat
  keeper : Bool
  deriving DecidableEq, Repr, Inhabited

/-- The memories behind the address map (R329): a canonical list of bytes that differ from 0, by rising address. -/
structure Mem where
  cells : List Host.Cell := []
  deriving DecidableEq, Repr, Inhabited

/-- The state of the block. -/
structure State where
  /-- The commands that wait, first in, first out. -/
  pending : List Instr := []
  clock : Clock := {}
  rails : Rails := {}
  ret : Retained := {}
  fuses : Fuses := {}
  sys : Sys := {}
  pwr : Pwr := {}
  ldl : Ldl := {}
  idn : Idn := {}
  pat : Pat := {}
  cams : List Camera := List.replicate 8 {}
  ven : Ven := {}
  neu : Neu := {}
  fgs : Fgs := {}
  rsr : Rsr := {}
  sch : Sch := {}
  xlt : Xlt := {}
  fwl : Fwl := {}
  dma : Dma := {}
  asy : Asy := {}
  tst : Tst := {}
  sfp : Sfp := {}
  hif : Hif := {}
  lnk : Lnk := {}
  tap : Tap := {}
  mem : Mem := {}
  cyc : Cycle := {}
  /-- R12: the RC fields as the current ECLK began with them. -/
  rcOld : List Nat := []
  /-- R515: the writes that wait for the end of the PCLK, oldest first. -/
  held : List HeldWrite := []
  /-- The model's own field: how many free values have been drawn (Config.free). -/
  draws : Nat := 0
  deriving DecidableEq, Repr, Inhabited

/-- The device right after a reset, before its start sequence: the values of the register tables (R507). -/
def State.reset : State := {}

end Sys2Proof.Machine
end

