-- ==== Sys2Proof/Machine/Bits.lean ====
section
/-! DEFINITION. Bit-field, byte-order and list helpers that every chapter shares (R3, R4, R8, R9). -/

namespace Sys2Proof.Machine

/-- The i-th element of a list, d beyond its end. -/
def nth {α : Type} (l : List α) (i : Nat) (d : α) : α := l.getD i d

/-- The list with its i-th element changed by f. -/
def upd {α : Type} (l : List α) (i : Nat) (f : α → α) : List α := l.modify i f

/-- The first element that p holds of, changed by f. -/
def updFirst {α : Type} (p : α → Bool) (f : α → α) : List α → List α
  | [] => []
  | a :: l => if p a then f a :: l else a :: updFirst p f l

/-- Every element that p holds of, changed by f. -/
def updAll {α : Type} (p : α → Bool) (f : α → α) (l : List α) : List α :=
  l.map fun a => if p a then f a else a

/-- R4: n bytes of v, least significant first. -/
def leBytes : Nat → Nat → List Byte
  | 0, _ => []
  | n + 1, v => BitVec.ofNat 8 v :: leBytes n (v / 256)

/-- R4: the value of bytes, least significant first. -/
def leNat : List Byte → Nat
  | [] => 0
  | b :: bs => b.toNat + 256 * leNat bs

/-- The value of bytes, most significant first (the SEC 1 octet strings of R101). -/
def beNat (bs : List Byte) : Nat := bs.foldl (fun a b => 256 * a + b.toNat) 0

/-- n bytes of v, most significant first. -/
def beBytes (n v : Nat) : List Byte := (leBytes n v).reverse

/-- n bytes at offset o of a byte list, zero beyond its end. -/
def sliceBytes (bs : List Byte) (o n : Nat) : List Byte :=
  let got := (bs.drop o).take n
  got ++ List.replicate (n - got.length) 0

/-- The little-endian value of n bytes at offset o. -/
def leAt (bs : List Byte) (o n : Nat) : Nat := leNat ((bs.drop o).take n)

/-- A byte list with the bytes d written at offset o, cut to its own length. -/
def putBytes (bs : List Byte) (o : Nat) (d : List Byte) : List Byte :=
  bs.take o ++ (d.take (bs.length - o)) ++ bs.drop (o + d.length)

/-- The signed reading of a value of n bits. -/
def signedOf (n v : Nat) : Int := if 2 ^ (n - 1) ≤ v % 2 ^ n then (v % 2 ^ n : Nat) - (2 ^ n : Nat) else (v % 2 ^ n : Nat)

/-- The n-bit reading of a signed value. -/
def unsignedOf (n : Nat) (v : Int) : Nat := (v % (2 ^ n : Nat)).toNat

/-- A field of width n at bit lo of a register, as its share of the register's value. -/
def put (lo n v : Nat) : Nat := (v % 2 ^ n) * 2 ^ lo

/-- Bits [lo + n - 1 : lo] of a value. -/
def bits (v lo n : Nat) : Nat := v / 2 ^ lo % 2 ^ n

/-- Bit i of a value. -/
def bitAt (v i : Nat) : Bool := decide (v / 2 ^ i % 2 = 1)

/-- The value of a flag. -/
def flagNat (b : Bool) : Nat := if b then 1 else 0

/-- A counter of n bits that saturates. -/
def satAdd (n a k : Nat) : Nat := min (a + k) (2 ^ n - 1)

/-- a rounded up to a multiple of k. -/
def alignUp (a k : Nat) : Nat := (a + k - 1) / k * k

/-- R8, W1C: each 1 written clears its bit. -/
def w1c {n : Nat} (old : BitVec n) (written : Nat) : BitVec n := old &&& ~~~(BitVec.ofNat n written)

/-- The bit vector with bit i set. -/
def setBit {n : Nat} (v : BitVec n) (i : Nat) : BitVec n := v ||| BitVec.ofNat n (2 ^ i)

/-- Division that truncates toward 0 (R376, R378). -/
def truncDiv (a b : Int) : Int := Int.tdiv a b

/-- Ceiling division. -/
def ceilDiv (a b : Nat) : Nat := (a + b - 1) / b

/-- The sum of a list of naturals. -/
def sumNat (l : List Nat) : Nat := l.foldl (· + ·) 0

/-- A list in rising order of key; elements of equal key keep their order. -/
def insertBy {α : Type} (key : α → Nat) (a : α) : List α → List α
  | [] => [a]
  | b :: l => if key a < key b then a :: b :: l else b :: insertBy key a l

/-- Stable sort by key. -/
def sortBy {α : Type} (key : α → Nat) (l : List α) : List α := l.foldl (fun acc a => insertBy key a acc) []

/-- The first element of least key. -/
def minBy {α : Type} (key : α → Nat) : List α → Option α
  | [] => none
  | a :: l =>
    match minBy key l with
    | none => some a
    | some b => if key b < key a then some b else some a

/-- Every outcome of a meaning that completes. -/
abbrev done (s : State) : Host.Outcome State Fault Refusal := .next s

end Sys2Proof.Machine
end

