-- ==== Sys2Proof/Machine/Crypto.lean ====
section
/-! DEFINITION. CRC-32C (R466), and the standards the spec names for images and patterns: SHA-384 and ECDSA over P-384
(R101, R102, R131). The constants of the two standards come from FIPS 180-4 and FIPS 186-4 (assumption 10, PRESUMED). -/

namespace Sys2Proof.Machine

/-! ### CRC-32C -/

/-- One bit of the reflected CRC with polynomial 0x82F6_3B78 (R466). -/
def crcStep (c : Word32) : Word32 := if c.getLsbD 0 then (c >>> 1) ^^^ 0x82F63B78 else c >>> 1

/-- One byte of the CRC. -/
def crcByte (c : Word32) (b : Byte) : Word32 :=
  crcStep (crcStep (crcStep (crcStep (crcStep (crcStep (crcStep (crcStep (c ^^^ b.setWidth 32))))))))

/-- R466: the CRC-32C of bytes. -/
def crc32c (bs : List Byte) : Word32 := bs.foldl crcByte 0xFFFFFFFF ^^^ 0xFFFFFFFF

/-! ### SHA-384

The constants are what the standard says they are, the first 64 bits of the fractional parts of the cube roots of the first
80 primes and of the square roots of the ninth to sixteenth, and so they are computed. -/

/-- The largest r below 2 ^ n above base with r ^ k at most v, found bit by bit. -/
def rootBits (k v : Nat) : Nat → Nat → Nat
  | 0, r => r
  | n + 1, r => rootBits k v n (if (r + 2 ^ n) ^ k ≤ v then r + 2 ^ n else r)

/-- The first 64 bits of the fractional part of the k-th root of p. -/
def rootFraction (k p : Nat) : Word64 := BitVec.ofNat 64 (rootBits k (p * 2 ^ (64 * k)) 70 0)

/-- The primes below 410: 80 of them. -/
def smallPrimes : List Nat :=
  (List.range 410).filter fun n => decide (2 ≤ n) && (List.range n).all fun d => decide (d < 2 ∨ n % d ≠ 0)

/-- The constant of each of the 80 rounds. -/
def shaK : List Word64 := smallPrimes.map (rootFraction 3)

/-- The eight words that the hash begins with. -/
def shaInit : List Word64 := ((smallPrimes.drop 8).take 8).map (rootFraction 2)

/-- A word turned right by each of some amounts, the results added bit by bit. -/
def turned (amounts : List Nat) (x : Word64) : Word64 := (amounts.map x.rotateRight).foldl (· ^^^ ·) 0

/-- The message with its padding to whole 128-byte blocks. -/
def shaPad (m : List Byte) : List Byte :=
  m ++ [0x80] ++ List.replicate ((239 - m.length % 128) % 128) 0 ++ beBytes 16 (8 * m.length)

/-- The schedule, newest word first, extended by n words. -/
def shaSchedule : Nat → List Word64 → List Word64
  | 0, w => w
  | n + 1, w =>
    let back := fun (i : Nat) => w.getD (i - 1) 0
    let near := turned [19, 61] (back 2) ^^^ (back 2 >>> 6)
    let far := turned [1, 8] (back 15) ^^^ (back 15 >>> 7)
    shaSchedule n (sumWords [back 16, far, back 7, near] :: w)
where
  /-- The sum of words. -/
  sumWords (l : List Word64) : Word64 := l.foldl (· + ·) 0

/-- One round on the eight working words, with its constant and its word of the schedule. -/
def shaRound : List Word64 → Word64 × Word64 → List Word64
  | [a, b, c, d, e, f, g, h], kw =>
    let choose := g ^^^ (e &&& (f ^^^ g))
    let most := (a &&& b) ||| (c &&& (a ||| b))
    let fresh := h + turned [14, 18, 41] e + choose + kw.1 + kw.2
    [fresh + (turned [28, 34, 39] a + most), a, b, c, d + fresh, e, f, g]
  | r, _ => r

/-- Eight-byte big-endian words of a block. -/
def shaWords : Nat → List Byte → List Word64
  | 0, _ => []
  | n + 1, bs => BitVec.ofNat 64 (beNat (bs.take 8)) :: shaWords n (bs.drop 8)

/-- One block: the rounds' result is added to what the block began with. -/
def shaBlock (k h : List Word64) (block : List Byte) : List Word64 :=
  let schedule := (shaSchedule 64 (shaWords 16 block).reverse).reverse
  List.zipWith (· + ·) h ((List.zip k schedule).foldl shaRound h)

/-- The blocks of a padded message, one after the other. -/
def shaBlocks (k : List Word64) : Nat → List Word64 → List Byte → List Word64
  | 0, h, _ => h
  | n + 1, h, bs => shaBlocks k n (shaBlock k h (bs.take 128)) (bs.drop 128)

/-- SHA-384 of bytes, 48 bytes. -/
def sha384 (m : List Byte) : List Byte :=
  let p := shaPad m
  ((shaBlocks shaK (p.length / 128) shaInit p).take 6).flatMap fun w => beBytes 8 w.toNat

/-! ### ECDSA over P-384 -/

def p384P : Nat := 2 ^ 384 - 2 ^ 128 - 2 ^ 96 + 2 ^ 32 - 1
def p384N : Nat := 0xffffffffffffffffffffffffffffffffffffffffffffffffc7634d81f4372ddf581a0db248b0a77aecec196accc52973
def p384B : Nat := 0xb3312fa7e23ee7e4988e056be3f82d19181d9c6efe8141120314088f5013875ac656398d8a2ed19d2a85c8edd3ec2aef
def p384Gx : Nat := 0xaa87ca22be8b05378eb1c71ef320ad746e1d3b628ba79b9859f741e082542a385502f25dbf55296c3a545e3872760ab7
def p384Gy : Nat := 0x3617de4a96262c6f5d9e98bf9292dc29f8f41dbd289a147ce9da3113b5f0b8c00a60b1ce1d7e819d7a431d7c90ea0e5f

/-- a ^ e mod m over the low n bits of e. -/
def powMod (m : Nat) : Nat → Nat → Nat → Nat
  | 0, _, _ => 1 % m
  | n + 1, a, e =>
    let r := powMod m n (a * a % m) (e / 2)
    if e % 2 = 1 then a * r % m else r

/-- The inverse of a modulo a prime m of at most 384 bits. -/
def invMod (m a : Nat) : Nat := powMod m 384 (a % m) (m - 2)

/-- A point of the curve; none is the point at infinity. -/
abbrev EcPoint := Option (Nat × Nat)

def ecAdd : EcPoint → EcPoint → EcPoint
  | none, q => q
  | p, none => p
  | some (x1, y1), some (x2, y2) =>
    let p := p384P
    if x1 = x2 ∧ (y1 + y2) % p = 0 then none
    else
      let l :=
        if x1 = x2 ∧ y1 = y2 then (3 * x1 * x1 + (p - 3)) * invMod p (2 * y1) % p
        else (y2 + p - y1 % p) * invMod p (x2 + p - x1 % p) % p
      let x3 := (l * l + 2 * p - x1 % p - x2 % p) % p
      some (x3, (l * ((x1 + p - x3) % p) + p - y1 % p) % p)

/-- k times a point, over the low n bits of k. -/
def ecMul : Nat → Nat → EcPoint → EcPoint
  | 0, _, _ => none
  | n + 1, k, q =>
    let r := ecMul n (k / 2) (ecAdd q q)
    if k % 2 = 1 then ecAdd q r else r

/-- The public key lies on the curve. -/
def onCurve (x y : Nat) : Bool :=
  decide (x < p384P ∧ y < p384P ∧ y * y % p384P = (x * x * x + (p384P - 3) * x + p384B) % p384P)

/-- R102, R131: the 96-byte signature (r then s, big-endian) verifies over the digest with the 96-byte key. -/
def ecdsaVerify (pubkey digest sig : List Byte) : Bool :=
  let x := beNat (pubkey.take 48)
  let y := beNat ((pubkey.drop 48).take 48)
  let r := beNat (sig.take 48)
  let s := beNat ((sig.drop 48).take 48)
  let n := p384N
  let w := invMod n s
  let z := beNat digest
  onCurve x y && decide (0 < r ∧ r < n ∧ 0 < s ∧ s < n) &&
    (match ecAdd (ecMul 384 (z * w % n) (some (p384Gx, p384Gy))) (ecMul 384 (r * w % n) (some (x, y))) with
     | none => false
     | some (px, _) => decide (px % n = r))

end Sys2Proof.Machine
end

