-- ==== Sys2Proof/Config.lean ====
section
/-! DEFINITION. What the spec leaves to the silicon or to an outside party: constants with no body, so that no proof
can see their values (assumption 6), and the fixed numbers the chapters share. -/

namespace Sys2Proof.Config

/-- R287, R329: the contents of the 256 KiB boot ROM, which the spec does not give. -/
opaque romByte : Nat → Byte

/-- R101, R102: the SHA-384 hashes of Polhal ROM keys 0 and 1, which the spec does not give. -/
opaque romKeyHash : Nat → List Byte

/-- R396: the golden CRC-32C of each class at stepping B0, held in the Assayer ROM. -/
opaque goldenSignature : TestClass → Word32

/-- R110, R111: the report signature (r then s) made with the identity key derived from the seed, over a digest.
The derivation and the per-signature secret are not given. -/
opaque attestationSignature : BitVec 384 → List Byte → Nat → List Byte

/-- R152 step 3: the median of eight values, whose fourth and fifth are given; the spec does not say which it is. -/
opaque evenMedian : Nat → Nat → Nat

/-- R153: the gradient of a colour over a 5 by 5 window, along rows or (true) along columns; the window shows the
samples of that colour. The spec gives no formula. -/
opaque demosaicGradient : Bool → List (Option Nat) → Nat

/-- R153: the interpolation of a missing sample along rows or (true) along columns; the spec gives no formula. -/
opaque demosaicInterp : Bool → List (Option Nat) → Nat

/-- R175, R202: what an element whose block has no valid prediction holds beside its confidence 0; not stated. -/
opaque invalidElement : Nat → Nat → Nat

/-- R69: the running reference after a frame, from the one before it and the frame's cells; the spec does not say how
it runs. -/
opaque runningReference : List Nat → List Nat → List Nat

/-- R375: a sample of a Witness image beyond its edge, by its row and column; not stated. -/
opaque witnessOutside : Int → Int → Nat

/-- R152 step 3, R154: a sample of a row that the pipe has not received when it replaces defects two rows behind, by its
row and column; the spec does not say what counts for it. -/
opaque lateSample : Nat → Nat → Nat

/-- R316: the DRAM channel of an address; the spec does not give the mapping. -/
opaque dramChannel : Nat → Nat

/-- R110: the public key that the Assayer ROM derives from the identity seed; the derivation is not given. -/
opaque identityKey : BitVec 384 → List Byte

/-- R110: the public key that a device certificate in DER holds. -/
opaque certificateKey : List Byte → List Byte

/-- R511: where in its tolerance the watch oscillator lies for a time that it measures from an ECLK on. -/
opaque watchDrift : Nat → Nat

/-- A fresh value the spec leaves open: the n-th one drawn. -/
opaque free : Nat → Word64

/-- R498 step 3: PMIC_EN rises 200.0 µs after VDD_ASY is within limits. -/
def pmicEnDelay : Nat := 240000

/-- R31: 8 ms, the DFDT and the rotation period. -/
def dfdt : Nat := 9600000

/-- R31: 1 ms. -/
def oneMs : Nat := 1200000

/-- R36: 60 minutes, in ECLK. -/
def sixtyMinutes : Nat := 4320000000000

/-- R511: the true time, in ECLK, of a nominal time that the watch oscillator measures from an ECLK on: within 1.0 % of it,
and up to 2 ACLK more. Where it lies there is open. -/
def watchSpan (nominal start : Nat) : Nat := nominal - nominal / 100 + watchDrift start % (2 * (nominal / 100) + 7)

/-- R77: the stagger gap. -/
def staggerGap : Nat := 256

end Sys2Proof.Config
end

