-- ==== Sys2Proof/Machine/Mem.lean ====
section
/-! DEFINITION. The memories behind the address map: Crucible and DRAM as one canonical list of bytes (R329), in which
an address that is not listed reads 0 (assumption 4). -/

namespace Sys2Proof.Machine

/-- The canonical form: addresses strictly rising, no byte 0 listed. -/
def Mem.wfCells : List Host.Cell → Bool
  | [] => true
  | [c] => decide (c.2 ≠ 0)
  | c :: d :: l => decide (c.2 ≠ 0 ∧ c.1 < d.1) && Mem.wfCells (d :: l)

/-- The memory is in its canonical form. -/
def Mem.wf (m : Mem) : Bool := Mem.wfCells m.cells

/-- The byte listed at an address, 0 when none is. -/
def cellAt : List Host.Cell → Nat → Byte
  | [], _ => 0
  | c :: l, a => if c.1 = a then c.2 else cellAt l a

/-- The list with the byte at an address replaced; 0 is not listed. -/
def putCell : List Host.Cell → Nat → Byte → List Host.Cell
  | [], a, b => if b = 0 then [] else [(a, b)]
  | c :: l, a, b =>
    if a < c.1 then (if b = 0 then c :: l else (a, b) :: c :: l)
    else if c.1 = a then (if b = 0 then l else (a, b) :: l)
    else c :: putCell l a b

/-- One byte of memory. -/
def Mem.readByte (m : Mem) (a : Nat) : Byte := cellAt m.cells a

/-- One byte of memory replaced. -/
def Mem.writeByte (m : Mem) (a : Nat) (b : Byte) : Mem := { cells := putCell m.cells a b }

/-- n bytes from an address. -/
def Mem.read (m : Mem) : Nat → Nat → List Byte
  | _, 0 => []
  | a, n + 1 => m.readByte a :: m.read (a + 1) n

/-- Bytes written from an address. -/
def Mem.write (m : Mem) : Nat → List Byte → Mem
  | _, [] => m
  | a, b :: bs => (m.writeByte a b).write (a + 1) bs

/-- R96: memory with the bytes of a range cleared. -/
def Mem.clear (m : Mem) (lo hi : Nat) : Mem :=
  { cells := m.cells.filter fun c => decide (c.1 < lo ∨ hi ≤ c.1) }

/-! ### The physical map (R329) -/

def romBase : Nat := 0
def romSize : Nat := 0x40000
def regBase : Nat := 0x08000000
def regSize : Nat := 0x200000
def asyBase : Nat := 0x0C000000
def asySize : Nat := 0x100000
def flagBase : Nat := 0x10000000
def flagSize : Nat := 0x40000
def crucibleBase : Nat := 0x20000000
def crucibleSize : Nat := 0x4000000
/-- R99: the staging region, Crucible banks 56 to 63. -/
def stagingBase : Nat := 0x23800000
def stagingSize : Nat := 0x800000
def dramBase : Nat := 0x1000000000
def peerBase : Nat := 0x100000000000
def peerSpan : Nat := 0x10000000000

/-- An address lies in [base, base + size). -/
def within (a base size : Nat) : Bool := decide (base ≤ a ∧ a < base + size)

/-- R329: the ranges of the map. -/
inductive Place
  | rom | regs | assayer | flags | crucible | dram
  | peer (n : Nat)
  | nowhere
  deriving DecidableEq, Repr

/-- R412: the chip at the far end of link l of chip i. -/
def linkPeer (i l : Nat) : Nat := i ^^^ (l + 1)

/-- R412: the link of this chip that leads to a peer. -/
def linkTo (i n : Nat) : Nat := (i ^^^ n) - 1

/-- R412, R507: LNK_ID.index reads FLASK_ID. -/
def chipIndex (s : State) : Nat := s.sys.flaskId.toNat

/-- R329, R344: the window of peer n is populated while its link to this chip is trained, and in the ECLK of its
loss. -/
def peerUp (s : State) (n : Nat) : Bool :=
  let l := nth s.lnk.links (linkTo (chipIndex s) n) {}
  n != chipIndex s && decide (n < 4) && (l.trained || l.lostAt == some s.clock.tsc)

/-- R329: what lies at a physical address. -/
def placeOf (s : State) (a : Nat) : Place :=
  if within a romBase romSize then .rom
  else if within a regBase regSize then .regs
  else if within a asyBase asySize then .assayer
  else if within a flagBase flagSize then .flags
  else if within a crucibleBase crucibleSize then .crucible
  else if within a dramBase (s.sys.dramUnits * 0x10000000) then .dram
  else if within a peerBase (4 * peerSpan) then
    (let n := (a - peerBase) / peerSpan; if peerUp s n then .peer n else .nowhere)
  else .nowhere

/-- One byte at a physical address of the boot ROM, Crucible or DRAM; 0 elsewhere. -/
def physByte (s : State) (a : Nat) : Byte :=
  match placeOf s a with
  | .rom => Config.romByte a
  | .crucible | .dram => s.mem.readByte a
  | _ => 0

/-- n bytes from a physical address of the boot ROM, Crucible or DRAM. -/
def physRead (s : State) (a n : Nat) : List Byte := (List.range n).map fun i => physByte s (a + i)

/-- R316 events 1 and 2: a write to any byte of a granule clears every reservation on it. -/
def clearResv (a n : Nat) (s : State) : State :=
  { s with rsr := { s.rsr with
      resvs := s.rsr.resvs.filter fun r => decide (a + n ≤ r.base ∨ r.base + r.size ≤ a) } }

/-- Bytes written to Crucible or DRAM become visible; other places take nothing here. -/
def physWrite (s : State) (a : Nat) (bs : List Byte) : State :=
  match placeOf s a with
  | .crucible | .dram => clearResv a bs.length { s with mem := s.mem.write a bs }
  | _ => s

/-! ### Register and memory words -/

/-- The little-endian value of n bytes of memory. -/
def memNat (s : State) (a n : Nat) : Nat := leNat (physRead s a n)

end Sys2Proof.Machine
end

