-- ==== Sys2Proof/Machine/Message.lean ====
section
/-! DEFINITION. Separation records and safety messages on the wire (R380, R463, R465). -/

namespace Sys2Proof.Machine

/-- R380: the bits of the status byte. -/
def stValid : Byte := 0x01
def stDegraded : Byte := 0x02
def stRecall : Byte := 0x04
def stWitness : Byte := 0x08
def stAgeLate : Byte := 0x10
def stRefineSkipped : Byte := 0x20
def stCheckFail : Byte := 0x40

/-- R465: a clear zone's distance. -/
def clearDist : Word32 := 0x7FFFFFFF

/-- R465: bytes 0x00 to 0x3B of a record. -/
def SepRecord.body (r : SepRecord) : List Byte :=
  leBytes 2 r.zoneId.toNat ++ [r.pairId, r.status] ++ leBytes 4 r.dist.toNat ++ leBytes 4 r.speed.toNat ++
  leBytes 2 r.conf.toNat ++ leBytes 2 0 ++ leBytes 8 r.origin ++ leBytes 8 r.release ++ leBytes 4 r.seq.toNat ++
  List.replicate 24 0

/-- R465: the 64 bytes of a record, its CRC-32C recomputed (R380). -/
def SepRecord.bytes (r : SepRecord) : List Byte := r.body ++ leBytes 4 (crc32c r.body).toNat

/-- R373, R465: the record that 64 bytes of memory hold, its CRC apart. -/
def SepRecord.parse (bs : List Byte) : SepRecord :=
  { zoneId := BitVec.ofNat 16 (leAt bs 0 2), pairId := BitVec.ofNat 8 (leAt bs 2 1),
    status := BitVec.ofNat 8 (leAt bs 3 1), dist := BitVec.ofNat 32 (leAt bs 4 4),
    speed := BitVec.ofNat 32 (leAt bs 8 4), conf := BitVec.ofNat 16 (leAt bs 12 2),
    origin := leAt bs 0x10 8, release := leAt bs 0x18 8, seq := BitVec.ofNat 32 (leAt bs 0x20 4) }

/-- R465, R378 check 1: the CRC-32C at 0x3C covers bytes 0x00 to 0x3B. -/
def recordCrcOk (bs : List Byte) : Bool := decide (leAt bs 0x3C 4 = (crc32c (bs.take 0x3C)).toNat)

/-- R380: a notice, a record with VALID 0 and zero distance, speed and confidence. -/
def noticeRecord (zone : BitVec 16) (pair origin now seq : Nat) (status : Byte) : SepRecord :=
  { zoneId := zone, pairId := BitVec.ofNat 8 pair, status := status, origin := origin, release := now,
    seq := BitVec.ofNat 32 seq }

/-- The code of a safe state in ASY_STATE and in headers. -/
def SafeState.code : SafeState → BitVec 2
  | .normal => 0
  | .s1 => 1
  | .s2 => 2

/-- R61: the code of a power mode. -/
def powerCode : PowerMode → BitVec 3
  | .run => 0
  | .trim => 1
  | .watch => 2
  | .hold => 3
  | .off => 4

/-- R61, R65: the power mode a code requests; none for 5 to 7. -/
def powerModeOf (c : Nat) : Option PowerMode :=
  match c with
  | 0 => some .run
  | 1 => some .trim
  | 2 => some .watch
  | 3 => some .hold
  | 4 => some .off
  | _ => none

/-- R463: bytes 0x00 to 0x1B of a header. -/
def MsgHeader.body (h : MsgHeader) : List Byte :=
  leBytes 2 0x4753 ++ [(1 : Byte)] ++
  leBytes 1 (put 0 1 (match h.channel with | .a => 0 | .b => 1) + put 1 2 h.chip.toNat) ++
  leBytes 4 h.seq.toNat ++ leBytes 8 h.stamp ++ leBytes 1 h.nRecords ++
  leBytes 1 (put 0 2 h.phase.toNat + put 2 2 h.safe.toNat + put 4 3 h.power.toNat + put 7 1 (flagNat h.noticeLost)) ++
  [h.peers] ++
  leBytes 1 (put 0 1 (flagNat h.safeA) + put 1 1 (flagNat h.safeB) + put 2 1 (flagNat h.faultN)) ++
  leBytes 2 h.faultCode.toNat ++ leBytes 1 h.faultPairs.toNat ++ [h.faultCount] ++ leBytes 4 h.patternId.toNat

/-- R463: a message from its header and its entries, with both CRCs. -/
def makeMessage (h : MsgHeader) (rs : List SepRecord) : Message :=
  let hd := h.body ++ leBytes 4 (crc32c h.body).toNat
  let b := hd ++ rs.flatMap SepRecord.bytes
  { hdr := h, records := rs, bytes := b ++ leBytes 4 (crc32c b).toNat }

/-- A safety channel of the state. -/
def chanOf (s : State) : Channel → SafetyCh
  | .a => s.sfp.chA
  | .b => s.sfp.chB

/-- The state with a safety channel changed. -/
def updChan (s : State) (c : Channel) (f : SafetyCh → SafetyCh) : State :=
  match c with
  | .a => { s with sfp := { s.sfp with chA := f s.sfp.chA } }
  | .b => { s with sfp := { s.sfp with chB := f s.sfp.chB } }

/-- R463: the header that a channel's message carries now. -/
def headerNow (s : State) (c : Channel) (n : Nat) : MsgHeader :=
  { channel := c, chip := s.sys.flaskId, seq := (chanOf s c).msgSeq, stamp := s.clock.tsc, nRecords := n,
    phase := s.sys.phase, safe := s.asy.state.code, power := powerCode s.pwr.cur, noticeLost := (chanOf s c).noticeLost,
    peers := s.lnk.peerState, safeA := s.sfp.chA.safe, safeB := s.sfp.chB.safe, faultN := s.sfp.faultN,
    faultCode := s.ret.faultCode, faultPairs := s.sfp.faultPairs, faultCount := s.ret.faultCount,
    patternId := match s.pat.active with
      | some p => BitVec.ofNat 32 p.hdr.patternId
      | none => 0 }

/-- R463, R61: of the first n entries of the queue at most 64; in WATCH a message carries status only. -/
def formMessage (s : State) (c : Channel) (n : Nat) : Message :=
  let rs := if s.pwr.cur == .watch then [] else (chanOf s c).queue.take (min 64 n)
  makeMessage (headerNow s c rs.length) rs

/-- R476: the fault message that an S2 entry freezes. -/
def frozenMessage (s : State) (c : Channel) : Message :=
  let h := headerNow s c 0
  let h := { h with safe := 2, faultN := true, safeA := false, safeB := false }
  makeMessage (if (chanOf s c).formed then h else { h with seq := 0, phase := 0 }) []

end Sys2Proof.Machine
end

