-- ==== Sys2Proof/Machine/Events.lean ====
section
/-! DEFINITION. Events and the safe states: raising an event (R7, R459, R460, R506), the two detections (R33, R34, R384,
R464), the safety lines (R472), resets (R96, R97, R519), and placing entries on the safety channels (R380, R461,
R469). -/

namespace Sys2Proof.Machine

/-- The time-stamp counter (R514). -/
def now (s : State) : Nat := s.clock.tsc

/-! ### MSI-X and the event FIFO -/

/-- R459: one message of a vector. -/
def sendMsix (s : State) (v : Nat) : State :=
  let e := nth s.hif.vectors v {}
  { s with hif := { s.hif with
      vectors := upd s.hif.vectors v fun e => { e with lastSent := some s.clock.watch, waiting := false },
      posted := s.hif.posted ++ [{ addr := e.addr, data := leBytes 4 e.data.toNat }] } }

/-- R459: a happening of a vector: masked it sets the PBA bit; within 1.0 µs of the last message it waits. -/
def signalMsix (s : State) (v : Nat) : State :=
  let e := nth s.hif.vectors v {}
  if e.masked then { s with hif := { s.hif with vectors := upd s.hif.vectors v fun e => { e with pba := true } } }
  else
    match e.lastSent with
    | none => sendMsix s v
    | some t =>
      if t + 1200 ≤ s.clock.watch then sendMsix s v
      else { s with hif := { s.hif with vectors := upd s.hif.vectors v fun e => { e with waiting := true } } }

/-- R460: the event FIFO takes an event, or a drop run begins or goes on. -/
def pushFifo (s : State) (code : EventCode) : State :=
  if s.hif.fifo.length < 256 then
    { s with hif := { s.hif with fifo := s.hif.fifo ++ [code] }, cyc := { s.cyc with pushed := s.cyc.pushed + 1 } }
  else { s with hif := { s.hif with evtLost := satAdd 32 s.hif.evtLost 1, dropRun := true } }

/-- The EVT register bits that an event sets by its code alone (R506 and the chapters' EVT tables). -/
def markEvt (s : State) (code : EventCode) : State :=
  let c := code.toNat
  let b := c / 256
  let e := c % 256
  if b = 0x03 then
    (if e = 0x20 then { s with ldl := { s.ldl with evt := setBit s.ldl.evt 0 } }
     else if e = 0x21 then { s with ldl := { s.ldl with evt := setBit s.ldl.evt 1 } }
     else if e = 0x03 then { s with ldl := { s.ldl with evt := setBit s.ldl.evt 2 } }
     else if e = 0x01 ∨ e = 0x02 then { s with ldl := { s.ldl with evt := setBit s.ldl.evt 3 } }
     else s)
  else if b = 0x05 then
    (if 0x30 ≤ e ∧ e ≤ 0x33 then { s with pat := { s.pat with evt := setBit s.pat.evt (e - 0x30) } } else s)
  else if b = 0x07 then
    (if 1 ≤ e ∧ e ≤ 7 then { s with ven := { s.ven with evt := setBit s.ven.evt e } } else s)
  else if b = 0x08 then
    (if 1 ≤ e ∧ e ≤ 9 then { s with fgs := { s.fgs with evt := setBit s.fgs.evt e } } else s)
  else if b = 0x09 then
    (if 1 ≤ e ∧ e ≤ 8 then { s with neu := { s.neu with evt := setBit s.neu.evt e } }
     else if e = 0x10 ∨ e = 0x11 then { s with neu := { s.neu with layEvt := setBit s.neu.layEvt (e - 0x10) } }
     else s)
  else if b = 0x0A then
    (if 1 ≤ e ∧ e ≤ 3 then { s with rsr := { s.rsr with evt := setBit s.rsr.evt e } } else s)
  else if b = 0x0B then
    (if 1 ≤ e ∧ e ≤ 10 then { s with sch := { s.sch with evt := setBit s.sch.evt e } } else s)
  else if b = 0x0C then
    (if 1 ≤ e ∧ e ≤ 4 then { s with xlt := { s.xlt with evt := setBit s.xlt.evt e } }
     else if 0x10 ≤ e ∧ e ≤ 0x13 then { s with fwl := { s.fwl with evt := setBit s.fwl.evt (e - 0x10) } }
     else s)
  else if b = 0x0D then
    (if 1 ≤ e ∧ e ≤ 8 then { s with dma := { s.dma with evt := setBit s.dma.evt e } } else s)
  else if b = 0x10 then
    (if 1 ≤ e ∧ e ≤ 12 then { s with lnk := { s.lnk with evt := setBit s.lnk.evt e } } else s)
  else if b = 0x11 then
    (if 1 ≤ e ∧ e ≤ 4 ∨ e = 0x10 ∨ e = 0x11 then { s with tap := { s.tap with evt := setBit s.tap.evt e } } else s)
  else if b = 0x12 then
    (if 1 ≤ e ∧ e ≤ 5 ∨ 0x10 ≤ e ∧ e ≤ 0x15 then { s with hif := { s.hif with evt := setBit s.hif.evt e } } else s)
  else s

/-- R459: the block vector of an event; CTR_OVERFLOW signals only where its caller says so. -/
def signalEvent (s : State) (code : EventCode) : State :=
  let b := code.toNat / 256
  let s := if code = 0x1110 then s else if 1 ≤ b ∧ b ≤ 18 then signalMsix s b else s
  if code = 0x0E31 ∨ code = 0x0E32 then signalMsix s 0 else s

/-- R11: an event's bit has been set in this ECLK. -/
def noteSet (code : EventCode) (s : State) : State := { s with cyc := { s.cyc with sets := code :: s.cyc.sets } }

/-- An event is raised: its EVT bit, the event FIFO (R460) and its vector (R459). -/
def raise (code : EventCode) (s : State) : State := signalEvent (pushFifo (noteSet code (markEvt s code)) code) code

/-- Several events raised in order. -/
def raiseAll (codes : List EventCode) (s : State) : State := codes.foldl (fun s c => raise c s) s

/-- An event of a camera port, in CSI_EVT or ISP_EVT of the port (R512). -/
def markCam (p : Nat) (code : EventCode) (s : State) : State :=
  let e := code.toNat % 256
  { s with cams := upd s.cams p fun c =>
      if 1 ≤ e ∧ e ≤ 15 then { c with csiEvt := setBit c.csiEvt e }
      else if 0x10 ≤ e ∧ e ≤ 0x1F then { c with ispEvt := setBit c.ispEvt (e - 0x10) }
      else if e = 0x20 then { c with paramBad := true }
      else c }

/-- R11: a bit of a port has been set in this ECLK. -/
def noteCam (p : Nat) (code : EventCode) (s : State) : State :=
  { s with cyc := { s.cyc with camSets := (p, code) :: s.cyc.camSets } }

/-- R512: an event of one port. -/
def raiseCam (p : Nat) (code : EventCode) (s : State) : State := raise code (noteCam p code (markCam p code s))

/-! ### Writes that wait for the end of their PCLK (R515) -/

/-- R515: the writes of a register unit that wait, in the order of their arrival, by keeper firmware or by others. -/
def heldAt (s : State) (off : Nat) (keeper : Bool) : List HeldWrite :=
  s.held.filter fun h => h.off == off && h.keeper == keeper

/-- The waiting writes of a unit are taken. -/
def dropHeld (off : Nat) (s : State) : State := { s with held := s.held.filter fun h => h.off != off }

/-- A W1C bit of the device is set. -/
def markHw (s : State) : HwBit → State
  | .fuseDone => { s with idn := { s.idn with fuseDone := true } }
  | .fuseError => { s with idn := { s.idn with fuseError := true } }
  | .attDone => { s with idn := { s.idn with attDone := true } }
  | .attError => { s with idn := { s.idn with attError := true } }
  | .rejected => { s with pat := { s.pat with evt := setBit s.pat.evt 4 } }
  | .hostReset => { s with sys := { s.sys with rstCause := setBit s.sys.rstCause 5 } }
  | .notify ch => { s with dma := { s.dma with chs := upd s.dma.chs ch fun c => { c with notify := true } } }
  | .classEvt k b =>
    { s with ven := { s.ven with insts := upd s.ven.insts k fun i => { i with clsEvt := i.clsEvt ||| b } } }

/-- R11: hardware sets a W1C bit in this ECLK. -/
def setHw (b : HwBit) (s : State) : State :=
  let s := markHw s b
  { s with cyc := { s.cyc with bits := b :: s.cyc.bits } }

/-- R11: the bits that hardware has set in this ECLK are set again after a software clear of it. -/
def keepSets (s : State) : State :=
  let s := s.cyc.bits.foldl markHw (s.cyc.sets.foldl markEvt s)
  let s := s.cyc.camSets.foldl (fun s q => markCam q.1 q.2 s) s
  let s := if s.cyc.sets.contains 0x0232 then { s with pwr := { s.pwr with tempHigh := true } } else s
  let s := if s.cyc.sets.contains 0x0210 then { s with pwr := { s.pwr with fired := true } } else s
  let s := if s.cyc.sets.contains 0x1102 then { s with tap := { s.tap with error := true } } else s
  let wrapped := fun (g : GlbCtr) => { g with ovf := true }
  let glbs := s.cyc.wraps.foldl (fun l i => upd l i wrapped) s.tap.glbs
  { s with tap := { s.tap with glbs := glbs } }

/-- R157: an event raised at most once per frame and port. -/
def raiseCamOnce (p : Nat) (code : EventCode) (s : State) : State :=
  if (nth s.cams p {}).raised.contains code then s
  else raiseCam p code { s with cams := upd s.cams p fun c => { c with raised := code :: c.raised } }

/-! ### Safety lines -/

/-- R469, R472: a waiting batch has raised SFP_QUEUE_STALL. -/
def stallInForce (s : State) : Bool := s.asy.batches.any Batch.stalled

/-- R472: SAFE_x of a channel is active exactly while the conditions hold. -/
def lineActive (s : State) (c : SafetyCh) : Bool :=
  s.asy.state == .normal && (s.pwr.cur == .run || s.pwr.cur == .trim) && c.released && !stallInForce s &&
    decide (6 ≤ s.sys.step.toNat)

/-- R68: a transition into WATCH, HOLD or OFF has passed its drain point. -/
def leavingRun (s : State) : Bool := match s.pwr.trans with
  | some t => t.startedAt.isSome && (t.target == .watch || t.target == .hold || t.target == .off)
  | none => false

/-- R68, R472: a release counts toward the lines: the device is in RUN or TRIM and is not leaving it, and the rotation that
a start or a return needs is done. -/
def releaseCounts (s : State) : Bool :=
  (s.pwr.cur == .run || s.pwr.cur == .trim) && !leavingRun s && s.sys.ready

/-- R103 step 6, R390, R476: the Assayer firmware has started. -/
def assayerStarted (s : State) : Bool := decide (6 ≤ s.sys.step.toNat) && s.asy.state != .s2

/-- R104, R113, R36, R472: FAULT_N is asserted, from reset until the Assayer firmware has started among others. -/
def faultAsserted (s : State) : Bool :=
  s.sys.inReset || decide (s.sys.step.toNat < 6) || s.sys.failed || s.ret.s2Held || s.asy.state == .s2 ||
    s.sys.powerUpFailed

/-- The driven lines follow the state. -/
def driveLines (s : State) : State :=
  { s with sfp := { s.sfp with
      chA := { s.sfp.chA with safe := lineActive s s.sfp.chA },
      chB := { s.sfp.chB with safe := lineActive s s.sfp.chB },
      faultN := faultAsserted s } }

/-- R68, R384: both channels must release again before their lines become active. -/
def dropSafe (s : State) : State :=
  driveLines { s with sfp := { s.sfp with
    chA := { s.sfp.chA with released := false }, chB := { s.sfp.chB with released := false } } }

/-! ### Detections and resets -/

/-- The block code of an event. -/
def blockOf (code : EventCode) : Nat := code.toNat / 256

/-- A list in which the elements of a kind have been replaced, in order, by those of another list. -/
def refill {α : Type} (is : α → Bool) : List α → List α → List α
  | _, [] => []
  | [], l => l
  | d :: ds, a :: l => if is a then d :: refill is ds l else a :: refill is (d :: ds) l

/-- R48: the detections of one ACLK stand in the event FIFO by their block codes, lower code first; other entries keep
their places. -/
def orderFifo (s : State) : List EventCode :=
  let n := s.hif.fifo.length - s.cyc.pushed
  let late := s.hif.fifo.drop n
  let is := fun (c : EventCode) => s.cyc.detected.contains c
  s.hif.fifo.take n ++ refill is (sortBy blockOf (late.filter is)) late

/-- R48: no detection of this ACLK with a higher block code has been logged. -/
def logsLast (code : EventCode) (s : State) : Bool := s.cyc.detected.all fun d => decide (blockOf d ≤ blockOf code)

/-- R464: a detection with an S1 or S2 action writes the fault fields. R48: of two detections of one ACLK the one of the
higher block code is logged last, whichever came first. -/
def logFault (code : EventCode) (pairs : BitVec 4) (s : State) : State :=
  let last := logsLast code s
  let s := { s with
    ret := { s.ret with
      faultCode := if last then code else s.ret.faultCode, lastEvent := if last then code else s.ret.lastEvent,
      faultCount := s.ret.faultCount + 1 },
    sfp := { s.sfp with faultPairs := s.sfp.faultPairs ||| pairs },
    cyc := { s.cyc with detected := code :: s.cyc.detected } }
  if last then s else { s with hif := { s.hif with fifo := orderFifo s } }

/-- R384: the entry to S1; R390: before the Assayer firmware has started in step 6 the detection is held. -/
def enterS1 (code : EventCode) (s : State) : State :=
  if s.sys.step.toNat < 6 then { s with ret := { s.ret with heldS1 := code :: s.ret.heldS1 } }
  else
    match s.asy.state with
    | .normal =>
      raise 0x0E31 (dropSafe { s with asy := { s.asy with state := .s1, lastDetection := now s, exitReady := false } })
    | .s1 => { s with asy := { s.asy with lastDetection := now s, exitReady := false } }
    | .s2 => { s with ret := { s.ret with heldS1 := code :: s.ret.heldS1 } }

/-- R33, R34: a detection that calls for S1. -/
def detectS1 (code : EventCode) (pairs : BitVec 4) (s : State) : State :=
  enterS1 code (logFault code pairs (raise code s))

/-- R109: programming in flight when a reset comes leaves the written bit clear. The rule does not say how many bits of the
hash are programmed by then: each is, or is not, as a free value has it; nor what an interrupted revocation, svn advance or
decommissioning leaves: it is done or not done, by a free value (assumption 62). -/
def interruptOne (s : State) (f : Fuses) (op : FuseOp) : Fuses :=
  let cut := fun (n : Nat) => Config.free (s.draws + n)
  let did := (cut 0).getLsbD 0
  match op with
  | .writeKey slot _ h =>
    let part := (h.zipIdx).map fun q => q.1 &&& (cut q.2).setWidth 8
    { f with slots := upd f.slots slot.val fun k => { k with hash := part, written := false } }
  | .revoke slot => if did then { f with slots := upd f.slots slot.val fun k => { k with revoked := true } } else f
  | .advanceAsy => if did then { f with asySvn := max f.asySvn s.sys.asyFwSvn } else f
  | .advanceKpr => if did then { f with kprSvn := max f.kprSvn s.sys.kprFwSvn } else f
  | .decommission => if did then { f with lifecycle := .decommissioned } else f

/-- R109: the fuses after a reset; what an interrupted operation leaves is that of each one (assumption 62). -/
def interruptFuse (s : State) : Fuses := (s.idn.fuseOps.map Prod.fst).foldl (interruptOne s) s.fuses

/-- The free values that an interrupted operation may have taken. -/
def fuseDraws (s : State) : Nat := if s.idn.fuseOps.isEmpty then 0 else 64

/-- R12, R519: of the RC fields, in their list, HIF_COPY_DROP, HIF_EVT_LOST and the events of the FIFO, at 12 to 14, outlast a
warm reset whose causes are not core_por. -/
def rcAfterWarm (cause : BitVec 6) (s : State) : List Nat :=
  if cause.getLsbD 1 then []
  else List.replicate 12 0 ++ [nth s.rcOld 12 0, nth s.rcOld 13 0, nth s.rcOld 14 0] ++ List.replicate 69 0

/-- R519: the host interface after a warm reset; core_por removes it, and HIF_EVT is not among what stays. -/
def hifAfterWarm (s : State) (cause : BitVec 6) : Hif :=
  if cause.getLsbD 1 then { posted := s.hif.posted } else { s.hif with evt := 0, reply := .none }

/-- R476: a channel across a warm reset: queues empty, the numbering is kept until step 6; the frozen message goes with
a reset that has no S2 cause. -/
def chanAfterWarm (cause : BitVec 6) (c : SafetyCh) : SafetyCh :=
  { msgSeq := c.msgSeq, formed := c.formed, frozen := if cause.getLsbD 3 then c.frozen else none, selected := c.selected,
    forming := c.forming, cur := c.cur }

/-- R97: SYS_RST_CAUSE after a warm reset: its causes, with those of every source of the same cycle, a host reset among
them; a cold reset of the same cycle leaves only cold. -/
def causeAfterWarm (s : State) (cause : BitVec 6) : BitVec 6 :=
  if s.sys.causeAt == some s.clock.watch then
    (if s.sys.rstCause.getLsbD 0 && s.sys.inReset then 1 else s.sys.rstCause ||| cause)
  else if s.sys.hostAt == some s.clock.watch then cause ||| 0x20
  else cause

/-- R97: the device has been reset in this very cycle. -/
def resetNow (s : State) : Bool := s.rails.asy && s.sys.inReset && s.sys.resetAt == some s.clock.watch

/-- The threads in keeper mode, with those that were at a reset of this cycle. -/
def keepersNow (s : State) : List Nat :=
  (if resetNow s then s.sys.resetKeepers else []) ++
    (s.rsr.threads.zipIdx.filter fun q => q.1.keeper).map Prod.snd

/-- R96: a warm reset with its causes. Banks 0 to 55 and the flags are reinitialised. What the reset keeps by a cause, it
keeps by any source of its cycle (R97). -/
def warmReset (cause : BitVec 6) (s : State) : State :=
  let causes := causeAfterWarm s cause
  { State.reset with
    pending := s.pending
    draws := s.draws + fuseDraws s
    cyc := { detected := s.cyc.detected, pushed := s.cyc.pushed }
    rcOld := rcAfterWarm causes s
    clock := { s.clock with tsc := 0 }
    rails := { s.rails with pmicHold := false, coreMasked := false }
    ret := { s.ret with heldS1 := [] }
    fuses := interruptFuse s
    sys := { State.reset.sys with
      rstCause := causes, flaskId := s.sys.flaskId, powerUpFailed := s.sys.powerUpFailed,
      resetAt := some s.clock.watch, causeAt := some s.clock.watch, resetKeepers := keepersNow s }
    hif := hifAfterWarm s causes
    sfp := { chA := chanAfterWarm causes s.sfp.chA, chB := chanAfterWarm causes s.sfp.chB, faultN := true }
    mem := s.mem.clear crucibleBase stagingBase }

/-- R96: a cold reset clears all state except the fuses. -/
def coldReset (s : State) : State :=
  { State.reset with
    pending := s.pending
    draws := s.draws + fuseDraws s
    fuses := interruptFuse s
    sys := { State.reset.sys with resetAt := some 0, causeAt := some 0 }
    hif := { posted := s.hif.posted }
    rails := { asy := true, core := false, io := s.rails.io, pll := s.rails.io, cru := .off, phy := false, ddr := false,
               pmicEn := false } }

/-- R36, R511: the S2 entries that still count, within the tolerance of the watch oscillator. -/
def s2Counting (s : State) : List Nat :=
  s.ret.s2Times.filter fun t => decide (s.clock.watch < t + Config.watchSpan Config.sixtyMinutes t)

/-- R36: an S2 entry counts from now; one that finds two earlier ones still counting holds the device in reset. -/
def countS2 (s : State) : State :=
  { s with ret := { s.ret with
      s2Held := decide (2 ≤ (s2Counting s).length), s2Times := s.ret.s2Times ++ [s.clock.watch] } }

/-- R97, R48: the device has entered S2 in this ACLK; a further detection of the ACLK is part of that entry. -/
def s2Now (s : State) : Bool :=
  s.sys.inReset && (match s.ret.s2Times.getLast? with
    | some t => t / 3 == s.clock.watch / 3
    | none => false)

/-- The retained event store takes an S2 code, in the order of R48. -/
def storeEvent (last : Bool) (code : EventCode) (l : List EventCode) : List EventCode :=
  match l with
  | e :: r => if last then code :: l else e :: code :: r
  | [] => [code]

/-- R384, R476: both channels freeze the fault message of this entry. -/
def freezeMessages (s : State) : State :=
  let a := frozenMessage s .a
  let b := frozenMessage s .b
  { s with sfp := { s.sfp with
      chA := { s.sfp.chA with frozen := some a, formed := true, msgSeq := a.hdr.seq, queue := [] },
      chB := { s.sfp.chB with frozen := some b, formed := true, msgSeq := b.hdr.seq, queue := [] } } }

/-- R33, R384: the entry to S2: the entry is logged and counted, the messages are frozen, and the device resets with
cause s2. The retained event store takes the code. The spec does not say which pairs an S2 detection affects: the model
names none (assumption 62). -/
def detectS2 (code : EventCode) (s : State) : State :=
  if s.ret.s2Held && !s2Now s then s
  else
    let last := logsLast code s
    let s := logFault code 0 (raise code s)
    let s := { s with ret := { s.ret with events := storeEvent last code s.ret.events } }
    if s2Now s then driveLines s else driveLines (warmReset 0x08 (freezeMessages (countS2 s)))

/-! ### The safety queues -/

/-- R461: the host copy of an entry placed on the channels. -/
def hostCopy (r : SepRecord) (s : State) : State :=
  if !s.hif.copyEn then s
  else
    let l := s.hif.copyLog2.toNat
    let size := 2 ^ (if 6 ≤ l ∧ l ≤ 16 then l else 6)
    let head := s.hif.copyHead.toNat
    let tail := match s.hif.oldTail with
      | some (t, v) => if t = s.clock.watch / 6 then v else s.hif.copyTail
      | none => s.hif.copyTail
    if (head + 1) % size = tail.toNat then
      raise 0x1204 { s with hif := { s.hif with copyDrop := satAdd 32 s.hif.copyDrop 1 } }
    else
      signalMsix { s with hif := { s.hif with
        posted := s.hif.posted ++ [{ addr := s.hif.copyBase + BitVec.ofNat 64 (64 * head), data := r.bytes }],
        copyHead := BitVec.ofNat 16 ((head + 1) % size) } } 19

/-- R469: a notice enters one queue, or is dropped from it. The Bool says that it was dropped. -/
def pushNotice1 (c : SafetyCh) (r : SepRecord) : SafetyCh × Bool :=
  if c.queue.length < 1024 then ({ c with queue := c.queue ++ [r] }, false)
  else ({ c with noticeLost := true }, true)

/-- R464, R52: the pair bits of pairs. -/
def pairBits (ps : List Nat) : BitVec 4 := ps.foldl (fun b q => if q < 4 then setBit b q else b) 0

/-- R380, R469, R52: a notice is placed on both channels, and copied; one that is dropped is an S1 detection of its pair. -/
def pushNotice (r : SepRecord) (s : State) : State :=
  let a := pushNotice1 s.sfp.chA r
  let b := pushNotice1 s.sfp.chB r
  let s := { s with sfp := { s.sfp with chA := a.1, chB := b.1 } }
  let s := if a.2 && b.2 then s else hostCopy r s
  if a.2 || b.2 then detectS1 0x1214 (pairBits [r.pairId.toNat]) s else s

/-- R379, R469: a batch enters both queues; the caller has checked the room. -/
def pushRecords (rs : List SepRecord) (s : State) : State :=
  let s := { s with sfp := { s.sfp with
    chA := { s.sfp.chA with queue := s.sfp.chA.queue ++ rs },
    chB := { s.sfp.chB with queue := s.sfp.chB.queue ++ rs } } }
  rs.foldl (fun s r => hostCopy r s) s

/-! ### Who may do what -/

/-- R267: the thread runs in keeper mode. -/
def threadKeeper (s : State) (t : Nat) : Bool := (nth s.rsr.threads t {}).keeper

/-- A keeper-mode thread of this chip. -/
def agentKeeper (s : State) : Agent → Bool
  | .thread t => threadKeeper s t.val
  | _ => false

/-- A keeper-mode thread or the host. -/
def agentKeeperOrHost (s : State) : Agent → Bool
  | .host => true
  | a => agentKeeper s a

/-- R330: the initiator ID. -/
def agentId : Agent → Nat
  | .host => 0x1A0
  | .thread t => t.val
  | .runner ch => 0x180 + ch.val
  | .peer n k => 0x1C0 + 16 * n.val + k.val
  | .unit u =>
    let u := u.val
    if u < 3 then 0x104 + 0x10 * u
    else if u < 7 then 0x106 + 0x10 * (u - 3)
    else if u < 10 then 0x108 + 0x10 * (u - 7)
    else if u < 13 then 0x10A + 0x10 * (u - 10)
    else if u < 18 then 0x10C + 0x10 * (u - 13)
    else 0x101 + 2 * (u - 18)
  | .isp p => 0x160 + p.val
  | .pat => 0x170
  | .tap => 0x173
  | .walker => 0x174
  | .assayer => 0x3F0

/-- A free value of the model (Config.free), and the state with it drawn. -/
def drawFree (s : State) : Word64 × State := (Config.free s.draws, { s with draws := s.draws + 1 })

/-- The active pattern, or the empty one. -/
def active (s : State) : Pattern := s.pat.active.getD default

end Sys2Proof.Machine
end

