-- ==== Sys2Proof/Machine/Ladle.lean ====
section
/-! DEFINITION. Ladle, the current budget (04_ladle.md): the grant queue and its order (R83, R84), requests and
refusals (R87), ramps and releases (R77, R78, R89), test loads (R86) and the current monitor (R92 to R94). -/

namespace Sys2Proof.Machine

/-- The grants whose tickets are not released yet (R89). -/
def grantsNow (s : State) : List Grant :=
  s.ldl.grants.filter fun g => match g.relAt with
    | none => true
    | some t => decide (now s < t)

/-- R76, R95: the granted sum; the standing grant counts once its ramp of step 4 has ended. -/
def grantedSum (s : State) : Nat :=
  (if 5 ≤ s.sys.step.toNat then s.ldl.standing else 0) + sumNat ((grantsNow s).map Grant.tickets)

/-- R88: the ceiling that rules in this ECLK. -/
def ceilingNow (s : State) : Nat :=
  match s.ldl.oldCeil with
  | some (t, c) => if t = now s then c else s.ldl.activeCeil
  | none => s.ldl.activeCeil

/-- R87: a request that can fit at some time. In WATCH no request can. -/
def canFit (s : State) (t : Nat) : Bool :=
  s.pwr.cur != .watch && decide (t + s.ldl.standing ≤ ceilingNow s)

/-- The queue identity of lane group 1 of link l; the spec assigns it no initiator ID (assumption 11). -/
def laneGroupId (l : Nat) : Nat := 0x200 + l

/-- R86: the queue identity of test load n. -/
def loadId (n : Nat) : Nat := 0x175 + n

/-- The queue identity of Runner channel ch (R330). -/
def dmaId (ch : Nat) : Nat := 0x180 + ch

/-- The queue identity of ISP pipe p (R330). -/
def ispId (p : Nat) : Nat := 0x160 + p

/-- R163, R230: the ticket identity of physical unit u, 0 to 34. -/
def unitId (u : Nat) : Nat :=
  if u < 3 then 0x104 + 0x10 * u
  else if u < 7 then 0x106 + 0x10 * (u - 3)
  else if u < 10 then 0x108 + 0x10 * (u - 7)
  else if u < 13 then 0x10A + 0x10 * (u - 10)
  else if u < 18 then 0x10C + 0x10 * (u - 13)
  else 0x101 + 2 * (u - 18)

/-- R84: request a precedes request b in the queue. -/
def requestBefore (a b : Request) : Bool :=
  let da := a.deadline.getD (2 ^ 64)
  let db := b.deadline.getD (2 ^ 64)
  if a.cls ≠ b.cls then decide (a.cls < b.cls)
  else if da ≠ db then decide (da < db)
  else if a.madeAt ≠ b.madeAt then decide (a.madeAt < b.madeAt)
  else decide (a.id < b.id)

/-- The head of a list of requests in the order of R84. -/
def queueHead : List Request → Option Request
  | [] => none
  | r :: rs =>
    match queueHead rs with
    | none => some r
    | some q => if requestBefore q r then some q else some r

/-- R92, R93: what the current window has seen grows with the granted sum and the pours that hold grants. -/
def noteWindow (s : State) : State :=
  { s with ldl := { s.ldl with
      maxGranted := max s.ldl.maxGranted (grantedSum s),
      winPours := ((grantsNow s).filterMap Grant.serves ++ s.ldl.winPours).dedup } }

/-- R76, R87: a request enters the queue; the answer false says that it was refused at once. -/
def ladleRequest (id cls : Nat) (deadline : Option Nat) (t : Nat) (serves : Option PourRef) (s : State) :
    State × Bool :=
  if canFit s t then
    ({ s with ldl := { s.ldl with
        queue := s.ldl.queue ++
          [{ id := id, cls := cls, deadline := deadline, madeAt := now s, tickets := t, serves := serves }] } }, true)
  else (raise 0x0303 s, false)

/-- A request leaves the queue ungranted. -/
def withdrawRequest (id : Nat) (s : State) : State :=
  { s with ldl := { s.ldl with queue := s.ldl.queue.filter fun r => r.id != id } }

/-- R91: between the drain ECLK and the completion of a transition no channel and no test load starts. -/
def changing (s : State) : Bool := match s.pwr.trans with
  | some t => t.startedAt.isSome && s.pwr.cur != .watch
  | none => false

/-- R78: a requester that ended releases its tickets; a request still queued is withdrawn. -/
def ladleRelease (id : Nat) (s : State) : State :=
  { s with ldl := { s.ldl with
      queue := s.ldl.queue.filter fun r => r.id != id,
      grants := s.ldl.grants.filter fun g => g.id != id } }

/-- R89: an abort, cancel or stop reaches a requester: a queued request is withdrawn; a grant in its ramp stops it now
and releases its tickets in the next ECLK; a grant that has begun is released in the next ECLK only when told to. -/
def ladleStop (id : Nat) (andBegun : Bool) (s : State) : State :=
  let s := withdrawRequest id s
  match s.ldl.grants.find? fun g => g.id == id && g.relAt.isNone with
  | none => s
  | some g =>
    if g.begun && !andBegun then s
    else
      { s with ldl := { s.ldl with
          lastRampEnd := if !g.begun && s.ldl.lastRampEnd == g.rampEnd then now s else s.ldl.lastRampEnd,
          grants := s.ldl.grants.map fun h =>
            if h.id = id ∧ h.relAt = none then { h with relAt := some (now s + 1), rampEnd := min h.rampEnd (now s) }
            else h } }

/-- R86: the phase of a test load as it is in this ECLK: a stopped draw has ended in the ECLK after its stop. -/
def loadPhase (s : State) (n : Nat) : LoadPhase :=
  match (nth s.ldl.loads n {}).phase with
  | .stopping t => if t ≤ now s then .idle else .stopping t
  | p => p

/-- R86: the effects of a stop on a test load, by its phase: a queued request is withdrawn at once; a ramp or a draw ends,
and gives its tickets back, in the next ECLK. -/
def stopLoad (n : Nat) (s : State) : State :=
  let s' := ladleStop (loadId n) true s
  let ends := fun (p : LoadPhase) => match p with
    | .idle => LoadPhase.idle
    | .queued => .idle
    | .stopping t => .stopping t
    | _ => .stopping (now s + 1)
  { s' with ldl := { s'.ldl with loads := upd s'.ldl.loads n fun l => { l with phase := ends l.phase } } }

/-- R77: the earliest ECLK of the next grant. -/
def nextGrantAt (s : State) : Nat :=
  max s.ldl.lastRampEnd (match s.ldl.lastGrant with
    | some t => t + Config.staggerGap
    | none => 0)

/-- R76, R77, R89: the head can be granted now. -/
def grantDue (s : State) (r : Request) : Bool :=
  !s.ldl.frozen && decide (grantedSum s + r.tickets ≤ ceilingNow s) && decide (nextGrantAt s ≤ now s)

/-- R76, R77, R85: the grant of the head. -/
def takeGrant (r : Request) (s : State) : State :=
  let s := { s with ldl := { s.ldl with
    queue := s.ldl.queue.filter fun q => q.id != r.id,
    grants := (grantsNow s).filter (fun g => g.id != r.id) ++
      [{ id := r.id, tickets := r.tickets, grantedAt := now s, rampEnd := now s + 30 * r.tickets, begun := false,
         serves := r.serves }],
    lastGrant := some (now s),
    lastRampEnd := now s + 30 * r.tickets,
    waitMax := max s.ldl.waitMax (min (now s - r.madeAt) (2 ^ 32 - 1)) } }
  let s := if r.id = loadId 0 ∨ r.id = loadId 1 then
      { s with ldl := { s.ldl with loads := upd s.ldl.loads (r.id - loadId 0) fun l => { l with phase := .ramping } } }
    else s
  noteWindow s

/-- R86: a go of a test load; it is ignored while the load is busy. -/
def goLoad (n tickets hold : Nat) (s : State) : State :=
  let idle := loadPhase s n == .idle && !changing s
  let s := { s with ldl := { s.ldl with loads := upd s.ldl.loads n fun l =>
    { l with tickets := BitVec.ofNat 8 tickets, hold := BitVec.ofNat 16 hold } } }
  if !idle then s
  else
    let r := ladleRequest (loadId n) 2 none (max 1 tickets) none s
    if r.2 then
      { r.1 with ldl := { r.1.ldl with loads := upd r.1.ldl.loads n fun l =>
        { l with phase := .queued, runHold := 1200 * max 1 hold } } }
    else r.1

/-- R86: a go of a test load by a keeper-mode thread. -/
def execTloadGo (who : Agent) (n : Fin 2) (tickets : BitVec 8) (hold : BitVec 16) (s : State) :
    Host.Outcome State Fault Refusal :=
  if agentKeeper s who then done (goLoad n.val tickets.toNat hold.toNat s) else done s

/-- R86: a stop of a test load by a keeper-mode thread. -/
def execTloadStop (who : Agent) (n : Fin 2) (s : State) : Host.Outcome State Fault Refusal :=
  if agentKeeper s who && loadPhase s n.val != .idle then done (stopLoad n.val s) else done s

/-- R86: the hold time has passed. -/
def execTloadHoldEnd (n : Fin 2) (s : State) : Host.Outcome State Fault Refusal :=
  match (nth s.ldl.loads n.val {}).phase with
  | .drawing t =>
    if t ≤ now s then
      let s := ladleRelease (loadId n.val) s
      done { s with ldl := { s.ldl with loads := upd s.ldl.loads n.val fun l => { l with phase := .idle } } }
    else done s
  | _ => done s

/-- R92: LDL_MON_CFG.windows as it acts, 1 to 8. -/
def monWindows (s : State) : Nat := max 1 (min 8 s.ldl.windows.toNat)

/-- R92, R94: the end of a measurement window, once; currents are in 1/32 ticket, so the allowance is exact. The spec does not
say how LDL_MON_MEAS rounds, nor which granted sum of a window R94 means: the model rounds to the nearest ticket, halves
up, and takes the largest sum, G of R92 (assumption 20). -/
def execCurrentMonitorWindow (measured32 : Nat) (s : State) : Host.Outcome State Fault Refusal :=
  if now s % 1200 ≠ 0 ∨ s.ldl.windowAt = some (now s) then done s
  else
    let g := s.ldl.maxGranted
    let above := decide (measured32 > 32 * g + 32 * s.ldl.marginAbs.toNat + s.ldl.marginRel.toNat * g)
    let under := decide (2 * measured32 < 32 * g ∧ s.ldl.standing < g)
    let m := BitVec.ofNat 11 (min 2047 ((measured32 + 16) / 32))
    let frozen := s.ldl.frozen
    let s := { s with ldl := { s.ldl with
      windowAt := some (now s),
      measured := m,
      peak := if s.ldl.peak.toNat < m.toNat then m else s.ldl.peak,
      overRun := if above then s.ldl.overRun + 1 else 0,
      withinRun := if above ∨ !frozen then 0 else s.ldl.withinRun + 1,
      underRun := if under then s.ldl.underRun + 1 else 0,
      underRaised := under && s.ldl.underRaised,
      overRaised := above && s.ldl.overRaised,
      exposed := if above then (s.ldl.winPours ++ s.ldl.exposed).dedup else if frozen then s.ldl.exposed else [],
      maxGranted := 0,
      winPours := [] } }
    done (noteWindow s)

/-- R93: granting resumes after the current has stayed within the allowance. -/
def execLdlUnfreeze (s : State) : Host.Outcome State Fault Refusal :=
  if s.ldl.frozen && decide (monWindows s ≤ s.ldl.withinRun) then
    done { s with ldl := { s.ldl with frozen := false, withinRun := 0, overRun := 0, exposed := [] } }
  else done s

/-- R94: eight consecutive windows below half the granted sum. -/
def execLdlUnderrun (s : State) : Host.Outcome State Fault Refusal :=
  if decide (8 ≤ s.ldl.underRun) && !s.ldl.underRaised then
    done (raise 0x0321 { s with ldl := { s.ldl with underRaised := true } })
  else done s

end Sys2Proof.Machine
end

