-- ==== Sys2Proof/Machine/PatParse.lean ====
section
/-! DEFINITION. The byte layout of the pattern (R115 to R131) and the checks of its header, section table and sections
(steps 2 to 4 of R132), each with the event code of the first failing check. -/

namespace Sys2Proof.Machine

/-- A check: none when it passes, the event code when it fails. -/
abbrev Check := Option EventCode

/-- The code when the condition does not hold. -/
def need (ok : Bool) (code : EventCode) : Check := if ok then none else some code

/-- The first failing check of a list. -/
def firstOf : List Check → Check
  | [] => none
  | none :: l => firstOf l
  | some c :: _ => some c

/-- n zero bytes at offset o. -/
def zeroAt (bs : List Byte) (o n : Nat) : Bool := ((bs.drop o).take n).all fun b => b == 0

/-- The value lies in a range. -/
def inRange (lo v hi : Nat) : Bool := decide (lo ≤ v ∧ v ≤ hi)

/-! ### Header (R116) -/

/-- R116: the fields of the header. -/
def parseHeader (bs : List Byte) : Header :=
  { totalLen := leAt bs 8 4, patternId := leAt bs 0x0C 4, revision := leAt bs 0x10 4, keySlot := leAt bs 0x14 1,
    safetyCfg := leAt bs 0x15 1, flaskSize := leAt bs 0x16 1, chipIndex := leAt bs 0x17 1,
    ageCeilUs := leAt bs 0x18 4, resGranule := leAt bs 0x1C 1, sectionCount := leAt bs 0x1D 1,
    flaskTag := leAt bs 0x20 4 }

/-- R106: a slot is valid. -/
def slotValid (k : KeySlot) : Bool := k.written && k.eccOk && !k.revoked

/-- Step 2 of R132: the fields the signature check needs, the lifecycle, the key slot. `len` is PAT_LEN when a load
wrote it; at start the staged pattern stands in place. -/
def headerFirst (s : State) (bs : List Byte) (len : Option Nat) : Check :=
  let h := parseHeader bs
  let room := stagingBase + stagingSize - s.sys.patternArea
  firstOf
    [ need (leAt bs 0 4 == 0x54415047 && leAt bs 4 2 == 1 && leAt bs 6 2 == 128) 0x0501,
      need (h.totalLen % 64 == 0 && decide (1024 ≤ h.totalLen) && decide (h.totalLen ≤ room) &&
        (match len with
          | some n => n == h.totalLen
          | none => true)) 0x0501,
      need (s.fuses.lifecycle == .secured && !s.sys.provisioning) 0x0405,
      need (decide (h.keySlot < 4) && slotValid (nth s.fuses.slots h.keySlot {}) &&
        (nth s.fuses.slots h.keySlot {}).usePattern) 0x0510 ]

/-- Step 3 of R132 and R131: the signature block. -/
def signatureCheck (s : State) (bs : List Byte) : Check :=
  let h := parseHeader bs
  let o := h.totalLen - 256
  let pub := sliceBytes bs (o + 32) 96
  let sig := sliceBytes bs (o + 128) 96
  let k := nth s.fuses.slots h.keySlot {}
  need (leAt bs o 4 == 0x47495350 && leAt bs (o + 4) 2 == 1 && zeroAt bs (o + 6) 26 && zeroAt bs (o + 224) 32 &&
    sha384 pub == k.hash && ecdsaVerify pub (sha384 (bs.take (o + 128))) sig) 0x0512

/-- Step 4 of R132: the rest of the header. -/
def headerRest (s : State) (bs : List Byte) : Check :=
  let h := parseHeader bs
  need (
    (match h.safetyCfg with
      | 0 => inRange 1 h.flaskSize 4
      | 1 => h.flaskSize == 2
      | 2 => inRange 2 h.flaskSize 4
      | _ => false) &&
    (if h.flaskSize == 1 then h.chipIndex == 0
     else decide (h.chipIndex < h.flaskSize) && h.chipIndex == chipIndex s) &&
    inRange 3000 h.ageCeilUs 50000 && decide (h.resGranule ≤ 1) && inRange 8 h.sectionCount 9 &&
    zeroAt bs 0x1E 2 && zeroAt bs 0x24 92) 0x0501

/-! ### Section table (R118) -/

/-- A section table entry. -/
structure Sect where
  typ : Nat
  recSize : Nat
  offset : Nat
  count : Nat
  reserved : Bool
  deriving DecidableEq, Repr, Inhabited

/-- Entry i of the table. -/
def sectAt (bs : List Byte) (i : Nat) : Sect :=
  let o := 0x80 + 16 * i
  { typ := leAt bs o 1, recSize := leAt bs (o + 2) 2, offset := leAt bs (o + 4) 4, count := leAt bs (o + 8) 4,
    reserved := zeroAt bs (o + 1) 1 && zeroAt bs (o + 12) 4 }

/-- R118: rec_size, least and greatest count of a section type. -/
def sectLimits (t : Nat) : Nat × Nat × Nat :=
  match t with
  | 1 => (32, 1, 8)
  | 2 => (32, 1, 1024)
  | 3 => (16, 0, 4096)
  | 4 => (32, 1, 1024)
  | 5 => (16, 0, 4032)
  | 6 => (8, 1, 1059)
  | 7 => (8, 1, 1024)
  | 8 => (32, 0, 1024)
  | _ => (1, 0, 2 ^ 32)

/-- R118: each section begins at or after the end of what precedes it; the answer is the end of the last. -/
def sectsPlaced (total : Nat) : Nat → List Sect → Bool
  | pos, [] => decide (pos ≤ total - 256)
  | pos, e :: l => e.offset % 64 == 0 && decide (pos ≤ e.offset) && sectsPlaced total (e.offset + e.recSize * e.count) l

/-- R118: the whole section table. -/
def sectCheck (bs : List Byte) : Check :=
  let h := parseHeader bs
  let es := (List.range h.sectionCount).map (sectAt bs)
  let node := (nth es 1 default).count
  need (es.map Sect.typ == (List.range h.sectionCount).map (· + 1) &&
    es.all (fun e => e.reserved && e.recSize == (sectLimits e.typ).1 &&
      inRange (sectLimits e.typ).2.1 e.count (sectLimits e.typ).2.2) &&
    (nth es 6 default).count == node &&
    sectsPlaced h.totalLen (0x80 + 16 * h.sectionCount) es) 0x0520

/-- The raw records of the section of type t. -/
def rawRecs (bs : List Byte) (t : Nat) : List (List Byte) :=
  let h := parseHeader bs
  match ((List.range h.sectionCount).map (sectAt bs)).find? fun e => e.typ == t with
  | some e => (List.range e.count).map fun i => sliceBytes bs (e.offset + i * e.recSize) e.recSize
  | none => []

/-- R118: the DATA section's bytes. -/
def dataBytes (bs : List Byte) : List Byte :=
  let h := parseHeader bs
  match ((List.range h.sectionCount).map (sectAt bs)).find? fun e => e.typ == 9 with
  | some e => sliceBytes bs e.offset e.count
  | none => []

/-- Records checked one by one, each beside its raw bytes and the records before it. -/
def checkRecs {α : Type} (ck : List α → α → List Byte → Check) (prs : List Byte → α) :
    List α → List (List Byte) → Check
  | _, [] => none
  | seen, r :: rs =>
    match ck seen (prs r) r with
    | some c => some c
    | none => checkRecs ck prs (prs r :: seen) rs

/-! ### Records -/

/-- R119. -/
def parseGraph (b : List Byte) : GraphRec :=
  { slot := leAt b 0 1, triggerKind := leAt b 1 1, triggerArg := leAt b 4 4, pairId := leAt b 8 1,
    buffering := leAt b 9 1, zones := leAt b 0xA 2, sensorW := leAt b 0xC 2, sensorH := leAt b 0xE 2,
    framePeriod := leAt b 0x10 4 }

/-- R119. -/
def graphCheck (seen : List GraphRec) (g : GraphRec) (b : List Byte) : Check :=
  need (decide (g.slot < 8) && seen.all (fun q => q.slot != g.slot) && zeroAt b 2 2 && zeroAt b 0x14 12 &&
    (match g.triggerKind with
      | 0 => decide (g.triggerArg < 4)
      | 1 => decide (g.triggerArg < 4032)
      | 2 => inRange 1200 g.triggerArg 240000000
      | _ => false) &&
    (if g.pairId == 0xFF then g.zones == 0
     else decide (g.pairId < 4) && seen.all (fun q => q.pairId != g.pairId) && inRange 1 g.zones 256) &&
    decide (g.buffering ≤ 1) && inRange 64 g.sensorW 4096 && g.sensorW % 16 == 0 && inRange 64 g.sensorH 4096 &&
    g.sensorH % 16 == 0 && inRange 1200000 g.framePeriod 240000000) 0x0521

/-- R121. -/
def parseNode (b : List Byte) : NodeRec :=
  { nodeId := leAt b 0 2, slot := leAt b 2 1, cls := leAt b 3 1, width := leAt b 4 1, dtype := leAt b 5 1,
    mode := leAt b 6 1, paramOff := leAt b 8 4, paramLen := leAt b 0xC 4, channel := leAt b 0x10 2,
    taskGroup := leAt b 0x12 2 }

/-- R121: the mode bits that a class may set. -/
def modeMask (c : Nat) : Nat :=
  if c = 1 ∨ c = 2 ∨ c = 3 then 1
  else if c = 4 ∨ c = 5 then 3
  else if c = 7 then 12
  else if c = 8 then 16
  else 0

/-- R121. -/
def nodeCheck (graphs : List GraphRec) (dataLen : Nat) (seen : List NodeRec) (n : NodeRec) (b : List Byte) : Check :=
  need (decide (n.nodeId < 1024) && seen.all (fun q => q.nodeId != n.nodeId) &&
    graphs.any (fun g => g.slot == n.slot) && decide (n.cls ≤ 10) &&
    (if n.cls == 6 then inRange 1 n.width 16 && decide (n.dtype ≤ 3) else n.width == 1 && n.dtype == 0) &&
    n.mode &&& modeMask n.cls == n.mode && zeroAt b 7 1 && n.paramOff % 16 == 0 && decide (n.paramLen ≤ 65536) &&
    decide (n.paramOff + n.paramLen ≤ dataLen) &&
    (if n.cls == 7 then decide (n.channel < 32) && seen.all (fun q => q.cls != 7 || q.channel != n.channel)
     else n.channel == 0) &&
    (if n.cls == 8 then decide (n.taskGroup < 16) else n.taskGroup == 0) && zeroAt b 0x14 12) 0x0523

/-- R123. -/
def parseEdge (b : List Byte) : EdgeRec :=
  { src := leAt b 0 2, dst := leAt b 2 2, buffer := leAt b 4 2, flag := leAt b 6 2, grain := leAt b 8 1 }

/-- A node of the pattern by its node_id. -/
def nodeOf (ns : List NodeRec) (id : Nat) : Option NodeRec := ns.find? fun n => n.nodeId == id

/-- R123: one record of the EDGE section. -/
def edgeCheck (ns : List NodeRec) (bufs : List BufRec) (flags : List FlagRec) (e : EdgeRec) (b : List Byte) : Check :=
  need ((match nodeOf ns e.src, nodeOf ns e.dst with
      | some a, some d => a.slot == d.slot
      | _, _ => false) &&
    bufs.any (fun q => q.bufferId == e.buffer) && flags.any (fun q => q.flag == e.flag) &&
    decide (e.grain ≤ 2) && zeroAt b 9 7) 0x0524

/-- R123: edges whose source has no incoming edge are removed until none remains or nothing changes. -/
def acyclicFuel : Nat → List EdgeRec → Bool
  | 0, es => es.isEmpty
  | n + 1, es =>
    let rest := es.filter fun e => es.any fun d => d.dst == e.src
    if rest.length == es.length then es.isEmpty else acyclicFuel n rest

/-- R123: the edges form no cycle. -/
def acyclic (es : List EdgeRec) : Bool := acyclicFuel (es.length + 1) es

/-- R124. -/
def parseBuf (b : List Byte) : BufRec :=
  { bufferId := leAt b 0 2, location := leAt b 2 1, peerChip := leAt b 3 1, base := leAt b 8 8, size := leAt b 0x10 4,
    initOff := leAt b 0x14 4, initLen := leAt b 0x18 4 }

/-- Two ranges share a byte. -/
def overlaps (a n b m : Nat) : Bool := decide (a < b + m ∧ b < a + n)

/-- R124. The rule does not say what a range of initial data beyond the end of DATA does: the model takes it as a range outside
the table, with the code of the others (assumption 25). -/
def bufCheck (s : State) (h : Header) (dataLen : Nat) (seen : List BufRec) (q : BufRec) (b : List Byte) : Check :=
  need (decide (q.bufferId < 1024) && seen.all (fun o => o.bufferId != q.bufferId) && zeroAt b 4 4 &&
    q.base % 64 == 0 && q.size % 64 == 0 && decide (64 ≤ q.size) &&
    (match q.location with
      | 0 => q.peerChip == 0 && decide (crucibleBase ≤ q.base ∧ q.base + q.size ≤ stagingBase)
      | 1 => q.peerChip == 0 && decide (dramBase ≤ q.base ∧ q.base + q.size ≤ dramBase + s.sys.dramUnits * 0x10000000)
      | 2 => decide (q.peerChip < h.flaskSize) && q.peerChip != h.chipIndex &&
          decide (peerBase + q.peerChip * peerSpan ≤ q.base ∧
            q.base + q.size ≤ peerBase + q.peerChip * peerSpan + peerSpan)
      | _ => false) &&
    (if q.initOff == 0xFFFFFFFF then q.initLen == 0
     else q.initOff % 64 == 0 && decide (q.initLen ≤ q.size) && decide (q.initOff + q.initLen ≤ dataLen)) &&
    zeroAt b 0x1C 4 && seen.all (fun o => !overlaps o.base o.size q.base q.size)) 0x0525

/-- R125. -/
def parseFlag (b : List Byte) : FlagRec :=
  { flag := leAt b 0 2, producer := leAt b 2 2, sets := leAt b 4 2, clear := leAt b 6 1 }

/-- R125. -/
def flagCheck (h : Header) (ns : List NodeRec) (seen : List FlagRec) (f : FlagRec) (b : List Byte) : Check :=
  need (decide (f.flag < 4032) && seen.all (fun q => q.flag != f.flag) &&
    (if f.producer == 0xFFFF then decide (2 ≤ h.flaskSize) else (nodeOf ns f.producer).isSome) &&
    inRange 1 f.sets 4096 && decide (f.clear ≤ 1) && zeroAt b 7 9) 0x0526

/-- R126. -/
def parseTicket (b : List Byte) : TicketRec := { kind := leAt b 0 1, target := leAt b 2 2, value := leAt b 4 2 }

/-- R127: the burst class cost of buffers at the given locations: P 3, C 2, D 4. -/
def burstCost (locs : List Nat) : Nat :=
  if locs.any (· == 2) then 3
  else if !locs.isEmpty && locs.all (· == 0) then 2
  else 4

/-- R81, R127: the characterised cost of a node. -/
def charCost (bufs : List BufRec) (edges : List EdgeRec) (n : NodeRec) : Nat :=
  match n.cls with
  | 0 => 5
  | 1 => 6
  | 2 => 8
  | 3 => 10
  | 4 => 14
  | 5 => 18
  | 6 => (match n.dtype with
    | 0 => 24
    | 1 => 28
    | _ => 16)
  | _ =>
    burstCost ((edges.filter fun e => e.src == n.nodeId || e.dst == n.nodeId).filterMap fun e =>
      (bufs.find? fun b => b.bufferId == e.buffer).map BufRec.location)

/-- R126: the working count of a class. -/
def workingCount (c : Nat) : Nat :=
  match c with
  | 0 => 8
  | 1 => 2
  | 2 => 3
  | 3 => 2
  | 4 => 2
  | 5 => 4
  | 6 => 16
  | _ => 0

/-- R126, R127: one TICKET record. -/
def ticketCheck (h : Header) (ns : List NodeRec) (bufs : List BufRec) (edges : List EdgeRec) (seen : List TicketRec)
    (t : TicketRec) (b : List Byte) : Check :=
  let fresh := seen.all fun q => q.kind != t.kind || q.target != t.target
  let res := zeroAt b 1 1 && zeroAt b 6 2
  match t.kind with
  | 0 =>
    (match nodeOf ns t.target with
      | some n =>
        firstOf [need (decide (n.cls ≤ 7) && fresh && res) 0x0527,
          need (decide (charCost bufs edges n ≤ t.value)) 0x0310, need (decide (t.value ≤ 255)) 0x0527]
      | none => some 0x0527)
  | 1 => need (decide (t.target ≤ 6) && inRange 1 t.value (workingCount t.target) && fresh && res) 0x0527
  | 2 => need (decide (t.target ≤ 2) && inRange 6 t.value 255 && decide (2 ≤ h.flaskSize) && fresh && res) 0x0527
  | _ => some 0x0527

/-- R129. -/
def parseDeadline (b : List Byte) : DeadlineRec := { node := leAt b 0 2, deadline := leAt b 4 4 }

/-- R129: one DEADLINE record. -/
def deadlineCheck (h : Header) (ns : List NodeRec) (seen : List DeadlineRec) (d : DeadlineRec) (b : List Byte) : Check :=
  need ((nodeOf ns d.node).isSome && seen.all (fun q => q.node != d.node) &&
    inRange 1 d.deadline (h.ageCeilUs * 1200) && zeroAt b 2 2) 0x0528

/-- The deadline of a node, in ECLK from the exposure origin. -/
def deadlineOf (ds : List DeadlineRec) (n : Nat) : Nat :=
  match ds.find? fun d => d.node == n with
  | some d => d.deadline
  | none => 0

/-- R130. -/
def parseWitness (b : List Byte) : WitnessRec :=
  { zoneId := leAt b 0 2, pairId := leAt b 2 1, x0 := leAt b 4 2, y0 := leAt b 6 2, x1 := leAt b 8 2, y1 := leAt b 0xA 2,
    dispMin := leAt b 0xC 2, dispMax := leAt b 0xE 2, distTol := leAt b 0x10 4, speedTol := leAt b 0x14 4,
    minConf := leAt b 0x18 2 }

/-- R130: one WITNESS record. -/
def witnessCheck (graphs : List GraphRec) (seen : List WitnessRec) (w : WitnessRec) (b : List Byte) : Check :=
  match graphs.find? fun g => g.pairId == w.pairId with
  | some g =>
    need (decide (w.pairId < 4) && seen.all (fun q => q.pairId != w.pairId || q.zoneId != w.zoneId) && zeroAt b 3 1 &&
      decide (w.x0 + 4 ≤ w.x1 ∧ w.x1 ≤ g.sensorW / 4 ∧ w.y0 + 4 ≤ w.y1 ∧ w.y1 ≤ g.sensorH / 4) &&
      decide (w.dispMin ≤ 126) && inRange (w.dispMin + 1) w.dispMax 127 && inRange 1 w.distTol 100000 &&
      inRange 1 w.speedTol 100000 && zeroAt b 0x1A 6) 0x0529
  | none => some 0x0529

/-- The pattern that a byte image holds, its hash and slot hash apart. -/
def parsePattern (bs : List Byte) : Pattern :=
  { hdr := parseHeader bs, graphs := (rawRecs bs 1).map parseGraph, nodes := (rawRecs bs 2).map parseNode,
    edges := (rawRecs bs 3).map parseEdge, bufs := (rawRecs bs 4).map parseBuf, flags := (rawRecs bs 5).map parseFlag,
    tickets := (rawRecs bs 6).map parseTicket, deadlines := (rawRecs bs 7).map parseDeadline,
    witness := (rawRecs bs 8).map parseWitness, data := dataBytes bs }

/-- Step 4 of R132: the rest of the header, the section table, each section in type order, record by record. -/
def recordChecks (s : State) (bs : List Byte) : Check :=
  match firstOf [headerRest s bs, sectCheck bs] with
  | some c => some c
  | none =>
    let p := parsePattern bs
    let dl := p.data.length
    firstOf
      [ checkRecs graphCheck parseGraph [] (rawRecs bs 1),
        checkRecs (nodeCheck p.graphs dl) parseNode [] (rawRecs bs 2),
        checkRecs (fun _ => edgeCheck p.nodes p.bufs p.flags) parseEdge [] (rawRecs bs 3),
        need (acyclic p.edges) 0x0524,
        checkRecs (bufCheck s p.hdr dl) parseBuf [] (rawRecs bs 4),
        checkRecs (flagCheck p.hdr p.nodes) parseFlag [] (rawRecs bs 5),
        need (p.graphs.all fun g => g.triggerKind != 1 || p.flags.any fun f => f.flag == g.triggerArg) 0x0526,
        checkRecs (ticketCheck p.hdr p.nodes p.bufs p.edges) parseTicket [] (rawRecs bs 6),
        need (p.nodes.all fun n => decide (7 < n.cls) || p.tickets.any fun t => t.kind == 0 && t.target == n.nodeId) 0x0527,
        checkRecs (deadlineCheck p.hdr p.nodes) parseDeadline [] (rawRecs bs 7),
        need (p.edges.all fun e => decide (deadlineOf p.deadlines e.src ≤ deadlineOf p.deadlines e.dst)) 0x0528,
        checkRecs (witnessCheck p.graphs) parseWitness [] (rawRecs bs 8) ]

/-! ### What later rules read from a pattern -/

/-- The parameter block of a node. -/
def paramOf (p : Pattern) (n : NodeRec) : List Byte := sliceBytes p.data n.paramOff n.paramLen

/-- The graph of a slot. -/
def graphOf (p : Pattern) (slot : Nat) : Option GraphRec := p.graphs.find? fun g => g.slot == slot

/-- A buffer by its id. -/
def bufOf (p : Pattern) (id : Nat) : Option BufRec := p.bufs.find? fun b => b.bufferId == id

/-- A flag's record. -/
def flagOf (p : Pattern) (f : Nat) : Option FlagRec := p.flags.find? fun q => q.flag == f

/-- R126: the declared tickets of a node. -/
def ticketsOf (p : Pattern) (n : Nat) : Nat :=
  match p.tickets.find? fun t => t.kind == 0 && t.target == n with
  | some t => t.value
  | none => 0

/-- R126: the cap of a class. -/
def capOf (p : Pattern) (c : Nat) : Nat :=
  match p.tickets.find? fun t => t.kind == 1 && t.target == c with
  | some t => t.value
  | none => workingCount c

/-- R126: the declared cost of lane group 1 of a link; R81: the characterised 6 when not declared. -/
def linkCost (p : Pattern) (l : Nat) : Nat :=
  match p.tickets.find? fun t => t.kind == 2 && t.target == l with
  | some t => t.value
  | none => 6

/-- R128: the peak declared draw with a standing grant. -/
def peakDraw (p : Pattern) (standing : Nat) : Nat :=
  standing +
  sumNat ((List.range 7).map fun c =>
    capOf p c * ((p.nodes.filter fun n => n.cls == c).map fun n => ticketsOf p n.nodeId).foldl max 0) +
  sumNat ((p.nodes.filter fun n => n.cls == 7).map fun n => ticketsOf p n.nodeId) +
  sumNat ((p.tickets.filter fun t => t.kind == 2).map TicketRec.value)

/-- R122: the nodes from which a path of edges leads to a node of the set. -/
def reachBack (es : List EdgeRec) : Nat → List Nat → List Nat
  | 0, l => l
  | n + 1, l =>
    let more := ((es.filter fun e => l.contains e.dst && !l.contains e.src).map EdgeRec.src).dedup
    if more.isEmpty then l else reachBack es n (more ++ l)

/-- R122: the nodes that contribute to a record, class 10 nodes included. -/
def contributing (p : Pattern) : List Nat :=
  reachBack p.edges (p.nodes.length + 1) ((p.nodes.filter fun n => n.cls == 10).map NodeRec.nodeId)

/-! ### Cross-record checks that need no parameter block (step 5 a to e, h) -/

/-- R122. -/
def nodeCounts (p : Pattern) : Check :=
  need (decide ((p.nodes.filter fun n => n.cls == 9).length ≤ 1) &&
    p.graphs.all fun g =>
      (p.nodes.filter fun n => n.cls == 10 && n.slot == g.slot).length == (if g.pairId == 0xFF then 0 else 1)) 0x0523

/-- R121: widths against the class 6 cap. -/
def widthCap (p : Pattern) : Check := need (p.nodes.all fun n => n.cls != 6 || decide (n.width ≤ capOf p 6)) 0x0523

/-- R212. -/
def triggerRule (p : Pattern) : Check :=
  need (p.graphs.all fun g => g.pairId == 0xFF || (g.triggerKind == 0 && g.triggerArg == g.pairId)) 0x0521

/-- R211, R219: a kind 1 trigger names a persistent flag, and a persistent flag has one consumer or trigger. -/
def flagRules (p : Pattern) : Check :=
  firstOf
    [ need (p.graphs.all fun g => g.triggerKind != 1 || p.flags.any fun f => f.flag == g.triggerArg && f.clear == 1) 0x0526,
      need (p.flags.all fun f => f.clear != 1 ||
        decide ((p.graphs.filter fun g => g.triggerKind == 1 && g.triggerArg == f.flag).length +
          ((p.edges.filter fun e => e.flag == f.flag).map EdgeRec.dst).dedup.length ≤ 1)) 0x0526 ]

/-- R130: as many WITNESS records for a pair as its graph has zones. -/
def witnessCover (p : Pattern) : Check :=
  need ((List.range 4).all fun q =>
    (p.witness.filter fun w => w.pairId == q).length ==
      (match p.graphs.find? fun g => g.pairId == q with
        | some g => g.zones
        | none => 0)) 0x0529

end Sys2Proof.Machine
end

