-- ==== Sys2Proof/Machine/IspPix.lean ====
section
/-! DEFINITION. The ISP node parameter block and its checks (R148, R149, R154), and the pixel stages of a pipe (R152,
R153): unpacking, black, defect replacement, white balance, demosaic and the output planes. -/

namespace Sys2Proof.Machine

/-! ### Parameter block -/

/-- Base and size of a buffer. -/
def bufPlace (p : Pattern) (id : Nat) : Option (Nat × Nat) := (bufOf p id).map fun b => (b.base, b.size)

/-- R154: the flags named by output edges of a node to a buffer. -/
def outFlags (p : Pattern) (node buf : Nat) : List Nat :=
  ((p.edges.filter fun e => e.src == node && e.buffer == buf).map EdgeRec.flag).dedup

/-- R148: the parameters of a class 0 node. -/
def ispCfgOf (p : Pattern) (n : NodeRec) : IspCfg :=
  let b := paramOf p n
  let g := (graphOf p n.slot).getD default
  let luma := leAt b 0x1C 2
  let chroma := leAt b 0x1E 2
  let ir := leAt b 0x20 2
  let emb := leAt b 0x22 2
  let user := leAt b 0x24 2
  let flagsOf := fun id => if id = 0xFFFF then [] else outFlags p n.nodeId id
  { node := n.nodeId, slot := n.slot, pair := g.pairId, tile := g.buffering == 1, port := leAt b 0 1, vc := leAt b 3 1,
    source := g.triggerArg, dt := leAt b 4 1, mosaic := leAt b 5 1, phase := leAt b 6 1, side := leAt b 7 1,
    chromaOn := bitAt (leAt b 0xA 1) 1, irOn := bitAt (leAt b 0xA 1) 2, lumaFmt := leAt b 0xB 1,
    bandRows := leAt b 0xC 2, black := leAt b 0xE 2, wbR := leAt b 0x10 2, wbG := leAt b 0x12 2, wbB := leAt b 0x14 2,
    irR := leAt b 0x16 2, irG := leAt b 0x18 2, irB := leAt b 0x1A 2, luma := (bufPlace p luma).getD (0, 0),
    chroma := bufPlace p chroma, ir := bufPlace p ir, emb := bufPlace p emb, user := bufPlace p user,
    userMask := leAt b 0x26 1, dmgLimit := leAt b 0x27 1, lateTol := leAt b 0x28 4, syncTol := leAt b 0x2C 4,
    lineTmo := leAt b 0x30 4, testSig := leAt b 0x34 4, w := g.sensorW, h := g.sensorH, framePeriod := g.framePeriod,
    bandFlags := (flagsOf luma ++ flagsOf chroma ++ flagsOf ir).dedup, embFlags := flagsOf emb,
    userFlags := flagsOf user }

/-- R145: the bits of a pixel data type. -/
def dtBits (dt : Nat) : Nat :=
  match dt with
  | 0x2A => 8
  | 0x2B => 10
  | 0x2C => 12
  | 0x2D => 14
  | 0x2E => 16
  | _ => 8

/-- Bytes of a luma pixel. -/
def lumaBytes (fmt : Nat) : Nat := if fmt = 0 then 1 else 2

/-- R149: the length of a luma half: plane, marks and descriptor, each on a 64-byte boundary. -/
def lumaHalf (fmt w h : Nat) : Nat := alignUp (w * h * lumaBytes fmt) 64 + alignUp (4 * h) 64 + 64

/-- R149: the length of a chroma half. -/
def chromaHalf (w h : Nat) : Nat := alignUp (w * h / 2) 64

/-- R149: the length of an IR half. -/
def irHalf (w h : Nat) : Nat := alignUp (w * h / 4) 64

/-- R148, R149, R154: the parameter block of one ISP node. -/
def ispParamCheck (p : Pattern) (n : NodeRec) : Check :=
  let b := paramOf p n
  let g := (graphOf p n.slot).getD default
  let c := ispCfgOf p n
  let lumaB := bufOf p (leAt b 0x1C 2)
  let outs := leAt b 0xA 1
  let planeOk := fun (on : Bool) (id half : Nat) =>
    if on then (match bufOf p id with
      | some q => decide (2 * half ≤ q.size)
      | none => false)
    else id == 0xFFFF
  let setsOf := fun f => (flagOf p f).map fun q => (q.producer, q.sets)
  need (n.paramLen == 64 && decide (c.port < 8) &&
    p.nodes.all (fun m => m.cls != 0 || m.nodeId == n.nodeId || leAt (paramOf p m) 0 1 != c.port) &&
    (match leAt b 1 1 with
      | 0 => inRange 1 (leAt b 2 1) 4 && inRange 80 (leAt b 8 2) 4500
      | 1 => inRange 1 (leAt b 2 1) 3 && inRange 80 (leAt b 8 2) 6000
      | _ => false) &&
    decide (c.vc < 16) && (inRange 0x2A c.dt 0x2E || c.dt == 0x1E) && decide (c.mosaic ≤ 5) &&
    ((c.dt == 0x1E) == (c.mosaic == 5)) &&
    (if c.mosaic == 4 then decide (c.phase < 16)
     else if c.mosaic == 0 || c.mosaic == 5 then c.phase == 0 else decide (c.phase < 4)) &&
    decide (c.side ≤ 1) && bitAt outs 0 && decide (outs < 8) && (!c.irOn || c.mosaic == 4) && decide (c.lumaFmt ≤ 1) &&
    [16, 32, 64, 128].contains c.bandRows && c.h % c.bandRows == 0 && decide (c.black < 2 ^ dtBits c.dt) &&
    (c.mosaic == 4 || (c.irR == 0 && c.irG == 0 && c.irB == 0)) &&
    (match lumaB with
      | some q => decide (2 * lumaHalf c.lumaFmt c.w c.h ≤ q.size) && q.location == (if c.tile then 1 else 0)
      | none => false) &&
    planeOk c.chromaOn (leAt b 0x1E 2) (chromaHalf c.w c.h) && planeOk c.irOn (leAt b 0x20 2) (irHalf c.w c.h) &&
    (leAt b 0x22 2 == 0xFFFF || c.emb.isSome) &&
    (c.user.isSome || (leAt b 0x24 2 == 0xFFFF && c.userMask == 0)) &&
    inRange 1 c.dmgLimit 8 && decide (c.lateTol ≤ g.framePeriod) && decide (c.syncTol ≤ 120000) &&
    inRange 1200 c.lineTmo 1200000 && zeroAt b 0x38 8 &&
    c.bandFlags.all (fun f => setsOf f == some (n.nodeId, c.h / c.bandRows)) &&
    (c.embFlags ++ c.userFlags).all (fun f => setsOf f == some (n.nodeId, 1)) &&
    (p.edges.filter fun e => e.src == n.nodeId).all (fun e =>
      [leAt b 0x1C 2, leAt b 0x1E 2, leAt b 0x20 2, leAt b 0x22 2, leAt b 0x24 2].contains e.buffer)) 0x0620

/-- R148, R480 M: the two ISP nodes of a camera pair's graph. -/
def ispGraphCheck (p : Pattern) (g : GraphRec) : Check :=
  let cs := (p.nodes.filter fun n => n.cls == 0 && n.slot == g.slot).map (ispCfgOf p)
  need (if g.triggerKind == 0 then
      (match cs with
        | [a, b] => (a.side != b.side) && a.dmgLimit == b.dmgLimit && a.lateTol == b.lateTol &&
            a.syncTol == b.syncTol && a.lineTmo == b.lineTmo && a.mosaic == b.mosaic && a.lumaFmt == b.lumaFmt
        | _ => false)
    else cs.isEmpty) 0x0620

/-! ### Pixels -/

/-- Bytes of one packing group of a data type. -/
def groupBytes (dt : Nat) : Nat :=
  match dt with
  | 0x2A => 1
  | 0x2B => 5
  | 0x2C => 3
  | 0x2D => 7
  | 0x2E => 2
  | _ => 4

/-- The pixels of one packing group (CSI-2 packing, PRESUMED, assumption 12). A YUV422 pixel holds Y in [15:0] and its
chroma sample above. -/
def unpackGroup (dt : Nat) (bs : List Byte) : List Nat :=
  let b := fun i => (nth bs i 0).toNat
  match dt with
  | 0x2A => [b 0]
  | 0x2B => [b 0 * 4 + b 4 % 4, b 1 * 4 + b 4 / 4 % 4, b 2 * 4 + b 4 / 16 % 4, b 3 * 4 + b 4 / 64]
  | 0x2C => [b 0 * 16 + b 2 % 16, b 1 * 16 + b 2 / 16]
  | 0x2D => [b 0 * 64 + b 4 % 64, b 1 * 64 + b 4 / 64 + b 5 % 16 * 4, b 2 * 64 + b 5 / 16 + b 6 % 4 * 16,
      b 3 * 64 + b 6 / 4]
  | 0x2E => [b 0 * 256 + b 1]
  | _ => [b 1 + 65536 * b 0, b 3 + 65536 * b 2]

/-- R152 step 1: the pixels of a long packet. -/
def unpackRow (dt : Nat) (bs : List Byte) : List Nat :=
  (List.range (bs.length / groupBytes dt)).flatMap fun i =>
    unpackGroup dt (sliceBytes bs (i * groupBytes dt) (groupBytes dt))

/-- R153: an index mirrored at the border, so that the mosaic continues. -/
def mirror (i : Int) (n : Nat) : Nat :=
  let j := if i < 0 then -i else i
  if j < n then j.toNat else (2 * ((n : Int) - 1) - j).toNat

/-- A pixel of the rows, mirrored at the border. R154: an output row is formed as soon as the two rows below it have come;
what stage 3 takes for a row further down is open (assumption 67). -/
def pixAt (rows : List (List Nat)) (w h : Nat) (x y : Int) : Nat :=
  let r := mirror y h
  let k := mirror x w
  match rows[r]? with
  | some row => nth row k 0
  | none => Config.lateSample r k % 65536

/-- R148: the colour of a position: 0 R, 1 G, 2 B, 3 clear, 4 IR. The 4 by 4 tile is PRESUMED (assumption 12). -/
def cfaColour (c : IspCfg) (x y : Int) : Nat :=
  if c.mosaic = 4 then
    let i := ((y + (c.phase / 4 : Nat)) % 4).toNat * 4 + ((x + (c.phase % 4 : Nat)) % 4).toNat
    nth [2, 1, 0, 1, 1, 4, 1, 4, 0, 1, 2, 1, 1, 4, 1, 4] i 0
  else
    let i := ((y + (c.phase / 2 : Nat)) % 2).toNat * 2 + ((x + (c.phase % 2 : Nat)) % 2).toNat
    let tile := if c.mosaic = 1 then [0, 1, 1, 2] else if c.mosaic = 2 then [0, 3, 3, 2] else [0, 3, 3, 1]
    nth tile i 0

/-- R152 step 2. -/
def blackSub (c : IspCfg) (v : Nat) : Nat := v - c.black

/-- Stages 1 and 2 at a position. -/
def rawAt (c : IspCfg) (rows : List (List Nat)) (x y : Int) : Nat := blackSub c (pixAt rows c.w c.h x y)

/-- R152 step 3: a pixel that differs from all eight same-colour neighbours by more than a quarter of full scale takes
their median. -/
def defectAt (c : IspCfg) (rows : List (List Nat)) (x y : Int) : Nat :=
  let d : Int := if c.mosaic = 4 then 4 else 2
  let v := rawAt c rows x y
  let ns := [(-d, -d), (0, -d), (d, -d), (-d, 0), (d, 0), (-d, d), (0, d), (d, d)].map fun (o : Int × Int) =>
    rawAt c rows (x + o.1) (y + o.2)
  let far := ns.all fun q => decide (2 ^ dtBits c.dt < 4 * (max v q - min v q))
  if far then
    let l := sortBy id ns
    Config.evenMedian (nth l 3 0) (nth l 4 0)
  else v

/-- R152 step 4: the white-balance gain of a colour, unsigned 4.12, rounded half up and held to 16 bits. IR takes none. -/
def balance (c : IspCfg) (col v : Nat) : Nat :=
  let g := if col = 0 then c.wbR else if col = 2 then c.wbB else c.wbG
  if col = 4 then v else min 65535 ((v * g + 2048) / 4096)

/-- Stages 1 to 4 at a position. -/
def balancedAt (c : IspCfg) (rows : List (List Nat)) (x y : Int) : Nat :=
  balance c (cfaColour c x y) (defectAt c rows x y)

/-- R153: a colour's value at a position: measured, or interpolated along the direction of the smaller gradient. -/
def colourAt (c : IspCfg) (rows : List (List Nat)) (col : Nat) (x y : Int) : Nat :=
  if cfaColour c x y = col then balancedAt c rows x y
  else
    let offs : List Int := [-2, -1, 0, 1, 2]
    let win := offs.flatMap fun dy => offs.map fun dx =>
      if cfaColour c (x + dx) (y + dy) = col then some (balancedAt c rows (x + dx) (y + dy)) else none
    let gh := Config.demosaicGradient false win
    let gv := Config.demosaicGradient true win
    let ih := Config.demosaicInterp false win
    let iv := Config.demosaicInterp true win
    if gh < gv then ih else if gv < gh then iv else (ih + iv + 1) / 2

/-- R152 step 6: the IR share subtracted, coefficients unsigned 1.15. -/
def irSub (coef v ir : Nat) : Nat := v - (coef * ir + 16384) / 32768

/-- R152 steps 5 and 6, R153: red, green and blue at a position. -/
def rgbAt (c : IspCfg) (rows : List (List Nat)) (x y : Int) : Nat × Nat × Nat :=
  match c.mosaic with
  | 1 => (colourAt c rows 0 x y, colourAt c rows 1 x y, colourAt c rows 2 x y)
  | 2 =>
    let r := colourAt c rows 0 x y
    let b := colourAt c rows 2 x y
    (r, colourAt c rows 3 x y - r - b, b)
  | 3 =>
    let r := colourAt c rows 0 x y
    let g := colourAt c rows 1 x y
    (r, g, colourAt c rows 3 x y - r - g)
  | 4 =>
    let ir := colourAt c rows 4 x y
    (irSub c.irR (colourAt c rows 0 x y) ir, irSub c.irG (colourAt c rows 1 x y) ir,
      irSub c.irB (colourAt c rows 2 x y) ir)
  | _ =>
    let v := rawAt c rows x y
    (v, v, v)

/-- A value of `num / den` on the data type's scale, brought to k bits, rounded half up and saturated (R153). -/
def toFormat (dt k num den : Nat) : Nat :=
  let n := num * 2 ^ k
  let d := den * 2 ^ dtBits dt
  min (2 ^ k - 1) ((2 * n + d) / (2 * d))

/-- R153: the luma of a position in its format. -/
def lumaAt (c : IspCfg) (rows : List (List Nat)) (x y : Int) : Nat :=
  let k := if c.lumaFmt = 0 then 8 else 12
  match c.mosaic with
  | 0 => toFormat c.dt k (rawAt c rows x y) 1
  | 5 => toFormat c.dt k (pixAt rows c.w c.h x y % 65536 - c.black) 1
  | 2 => toFormat c.dt k (colourAt c rows 3 x y) 1
  | 3 => toFormat c.dt k (colourAt c rows 3 x y) 1
  | _ =>
    let q := rgbAt c rows x y
    toFormat c.dt k (77 * q.1 + 150 * q.2.1 + 29 * q.2.2) 256

/-- An exact integer quotient, rounded half up and held to 0 to 255. -/
def round8 (num den : Int) : Nat := (max 0 (min 255 ((2 * num + den) / (2 * den)))).toNat

/-- R153: Cb and Cr of a 2 by 2 block, BT.601 coefficients averaged over its pixels. -/
def chromaAt (c : IspCfg) (rows : List (List Nat)) (bx bY : Nat) : Nat × Nat :=
  let x : Int := 2 * bx
  let y : Int := 2 * bY
  if c.mosaic = 5 then
    let u := pixAt rows c.w c.h x y / 65536 + pixAt rows c.w c.h x (y + 1) / 65536
    let v := pixAt rows c.w c.h (x + 1) y / 65536 + pixAt rows c.w c.h (x + 1) (y + 1) / 65536
    ((u + 1) / 2, (v + 1) / 2)
  else
    let qs := [rgbAt c rows x y, rgbAt c rows (x + 1) y, rgbAt c rows x (y + 1), rgbAt c rows (x + 1) (y + 1)]
    let r : Int := sumNat (qs.map fun q => q.1)
    let g : Int := sumNat (qs.map fun q => q.2.1)
    let b : Int := sumNat (qs.map fun q => q.2.2)
    let full : Int := (2 : Int) ^ dtBits c.dt
    -- thousandths of the luma of BT.601, over four pixels
    let yk := 299 * r + 587 * g + 114 * b
    (round8 (256 * (1000 * b - yk) + 128 * 4 * 1772 * full) (4 * 1772 * full),
      round8 (256 * (1000 * r - yk) + 128 * 4 * 1402 * full) (4 * 1402 * full))

/-- R149: the IR sample of a 2 by 2 block, the one IR position it holds. -/
def irAt (c : IspCfg) (rows : List (List Nat)) (bx bY : Nat) : Nat :=
  let ps : List (Int × Int) := [(0, 0), (1, 0), (0, 1), (1, 1)]
  match ps.find? fun o => cfaColour c (2 * bx + o.1) (2 * bY + o.2) == 4 with
  | some o => toFormat c.dt 8 (balancedAt c rows (2 * bx + o.1) (2 * bY + o.2)) 1
  | none => 0

/-- The bytes of luma row y. -/
def lumaRow (c : IspCfg) (rows : List (List Nat)) (y : Nat) : List Byte :=
  (List.range c.w).flatMap fun (x : Nat) => leBytes (lumaBytes c.lumaFmt) (lumaAt c rows x y)

/-- The bytes of chroma row j, Cb before Cr. -/
def chromaRow (c : IspCfg) (rows : List (List Nat)) (j : Nat) : List Byte :=
  (List.range (c.w / 2)).flatMap fun (i : Nat) =>
    let q := chromaAt c rows i j
    [BitVec.ofNat 8 q.1, BitVec.ofNat 8 q.2]

/-- The bytes of IR row j. -/
def irRow (c : IspCfg) (rows : List (List Nat)) (j : Nat) : List Byte :=
  (List.range (c.w / 2)).map fun (i : Nat) => BitVec.ofNat 8 (irAt c rows i j)

end Sys2Proof.Machine
end

