-- ==== Sys2Proof/Machine/VenParam.lean ====
section
/-! DEFINITION. The parameter blocks of the vision engines and their checks at load (R167, R174 to R176, R183 to R186,
R189, R192, R196, R199, R202), and the planes that an edge carries. -/

namespace Sys2Proof.Machine

/-- R167: the common parameter header. -/
structure VenHdr where
  blockLog2 : Nat
  doubtThr : Nat
  confLo : Nat
  lrTol : Nat
  budget : Nat
  doubtBuf : Nat
  rangeMin : Int
  rangeMax : Int
  win : Nat
  topLevel : Nat
  descWin : Nat
  predEdge : Nat
  pyrEdge : Nat
  deriving DecidableEq, Repr, Inhabited

/-- R167. -/
def venHdr (b : List Byte) : VenHdr :=
  { blockLog2 := leAt b 0 1, doubtThr := leAt b 1 1, confLo := leAt b 2 1, lrTol := leAt b 3 1, budget := leAt b 4 2,
    doubtBuf := leAt b 6 2, rangeMin := signedOf 16 (leAt b 8 2), rangeMax := signedOf 16 (leAt b 0xA 2),
    win := leAt b 0xC 1, topLevel := leAt b 0xD 1, descWin := leAt b 0xE 1, predEdge := leAt b 0x10 2,
    pyrEdge := leAt b 0x12 2 }

/-- R121: refine is on; the search descends a pyramid. -/
def refineOn (n : NodeRec) : Bool := bitAt n.mode 0
def descent (n : NodeRec) : Bool := bitAt n.mode 1

/-- A plane that an edge carries: where it lies in each half of its buffer, and its size. -/
structure PlaneDesc where
  cls : Nat
  node : Nat
  base : Nat
  halves : Nat
  halfSize : Nat
  off : Nat
  stride : Nat
  w : Nat
  h : Nat
  /-- 1 for U8, 2 for U16. -/
  bpp : Nat
  deriving DecidableEq, Repr, Inhabited

/-- Edge i of the EDGE section. -/
def edgeAt (p : Pattern) (i : Nat) : Option EdgeRec := p.edges[i]?

/-- R183: bytes of a plane whose rows start on 64-byte boundaries. -/
def planeLen (w h bpp : Nat) : Nat := alignUp (w * bpp) 64 * h

/-- R187: a dimension at level l. -/
def levelDim (w l : Nat) : Nat := ceilDiv w (2 ^ l)

/-- R187: where level l begins in a Pyramid half; level k takes a pixel plane and a confidence plane. -/
def pyrOff (w h bpp l : Nat) : Nat :=
  sumNat ((List.range (l - 1)).map fun i =>
    let a := levelDim w (i + 1)
    let b := levelDim h (i + 1)
    planeLen a b bpp + planeLen a b 1)

/-- The plane of level lvl that an edge from an ISP, Warp or Pyramid node carries (R149, R184, R187, R189). Level 0 or 1
of a Pyramid edge is its level 1. -/
def edgePlane (p : Pattern) : Nat → EdgeRec → Nat → Option PlaneDesc
  | 0, _, _ => none
  | fuel + 1, e, lvl =>
    match nodeOf p.nodes e.src, bufOf p e.buffer with
    | some n, some q =>
      let b := paramOf p n
      if n.cls = 0 then
        let c := ispCfgOf p n
        if e.buffer = leAt b 0x1C 2 then
          some { cls := 0, node := n.nodeId, base := q.base, halves := 2, halfSize := lumaHalf c.lumaFmt c.w c.h, off := 0,
                 stride := c.w * lumaBytes c.lumaFmt, w := c.w, h := c.h, bpp := lumaBytes c.lumaFmt }
        else if e.buffer = leAt b 0x20 2 then
          some { cls := 0, node := n.nodeId, base := q.base, halves := 2, halfSize := irHalf c.w c.h, off := 0,
                 stride := c.w / 2, w := c.w / 2, h := c.h / 2, bpp := 1 }
        else if e.buffer = leAt b 0x1E 2 then
          some { cls := 0, node := n.nodeId, base := q.base, halves := 2, halfSize := chromaHalf c.w c.h, off := 0,
                 stride := c.w, w := c.w, h := c.h / 2, bpp := 1 }
        else none
      else if n.cls = 1 then
        match (edgeAt p (leAt b 0x22 2)).bind fun i => edgePlane p fuel i 1 with
        | some d =>
          let levels := leAt b 0x20 1
          let l := max 1 lvl
          if levels < l then none
          else
            let half := alignUp (pyrOff d.w d.h d.bpp (levels + 1)) 64
            some { cls := 1, node := n.nodeId, base := q.base, halves := leAt b 0x26 1, halfSize := half,
                   off := pyrOff d.w d.h d.bpp l, stride := alignUp (levelDim d.w l * d.bpp) 64, w := levelDim d.w l,
                   h := levelDim d.h l, bpp := d.bpp }
        | none => none
      else if n.cls = 2 then
        match (edgeAt p (leAt b 0x20 2)).bind fun i => edgePlane p fuel i 1 with
        | some d =>
          some { cls := 2, node := n.nodeId, base := q.base, halves := leAt b 0x28 1,
                 halfSize := alignUp (planeLen d.w d.h d.bpp + planeLen d.w d.h 1) 64, off := 0,
                 stride := alignUp (d.w * d.bpp) 64, w := d.w, h := d.h, bpp := d.bpp }
        | none => none
      else none
    | _, _ => none

/-- The plane an edge index carries. -/
def planeOf (p : Pattern) (i lvl : Nat) : Option PlaneDesc :=
  (edgeAt p i).bind fun e => edgePlane p (p.nodes.length + 1) e lvl

/-- The class part's input edge, output edge and halves, by class. -/
def inEdgeOf (n : NodeRec) (b : List Byte) : Nat := if n.cls = 1 then leAt b 0x22 2 else leAt b 0x20 2
def outEdgeOf (n : NodeRec) (b : List Byte) : Nat :=
  match n.cls with
  | 1 => leAt b 0x24 2
  | 2 => leAt b 0x24 2
  | 3 => leAt b 0x22 2
  | 4 => leAt b 0x22 2
  | _ => leAt b 0x24 2
def halvesOf (n : NodeRec) (b : List Byte) : Nat :=
  match n.cls with
  | 1 => leAt b 0x26 1
  | 2 => leAt b 0x28 1
  | 3 => leAt b 0x2A 1
  | 4 => leAt b 0x25 1
  | _ => leAt b 0x28 1

/-- The plane a node of class 1 to 5 works on: R192's level for Feature, level 1 of a Pyramid edge otherwise. -/
def inPlane (p : Pattern) (n : NodeRec) : Option PlaneDesc :=
  let b := paramOf p n
  planeOf p (inEdgeOf n b) (if n.cls = 3 then leAt b 0x24 1 else 1)

/-- R169: the output grid of a node, in elements (Feature: pixels of its plane). -/
def outDims (p : Pattern) (n : NodeRec) : Nat × Nat :=
  match inPlane p n with
  | none => (0, 0)
  | some d =>
    if n.cls = 1 then (levelDim d.w 1, levelDim d.h 1)
    else if n.cls = 4 then
      let st := leAt (paramOf p n) 0x24 1
      (ceilDiv d.w (2 ^ st), ceilDiv d.h (2 ^ st))
    else (d.w, d.h)

/-- R169: blocks per row and rows of blocks. -/
def blockDims (p : Pattern) (n : NodeRec) : Nat × Nat :=
  let d := outDims p n
  let k := 2 ^ leAt (paramOf p n) 0 1
  (ceilDiv d.1 k, ceilDiv d.2 k)

/-- R183: the rounded length of a node's output half. -/
def outHalf (p : Pattern) (n : NodeRec) : Nat :=
  let b := paramOf p n
  let d := outDims p n
  let k := blockDims p n
  match inPlane p n with
  | none => 0
  | some i =>
    alignUp (match n.cls with
      | 1 => pyrOff i.w i.h i.bpp (leAt b 0x20 1 + 1)
      | 2 => planeLen d.1 d.2 i.bpp + planeLen d.1 d.2 1
      | 3 => k.1 * k.2 * leAt b 0x27 1 * 48
      | 4 => planeLen d.1 d.2 4 + planeLen d.1 d.2 1
      | _ => (planeLen d.1 d.2 2 + planeLen d.1 d.2 1) * (if leAt b 0x29 1 = 1 then 2 else 1)) 64

/-- R233, R234: the buffers that the layers of a class 6 node write: their output tensors and their exchange buffers. -/
def neuBuffers (p : Pattern) (n : NodeRec) : List Nat :=
  let b := paramOf p n
  (List.range (leAt b 0 1)).flatMap fun l =>
    let o := 32 + 64 * l
    let out := leAt p.data (leAt b (o + 0x10) 4) 2
    if leAt b (o + 1) 1 = 0 then [out] else [out, leAt b (o + 0x2A) 2]

/-- R185: the nodes that write a buffer: by an output edge, as a doubt map, as an ISP output, or as an output tensor or the
exchange buffer of a class 6 node. -/
def writersOf (p : Pattern) (buf : Nat) : List Nat :=
  ((p.edges.filter fun e => e.buffer == buf).map EdgeRec.src ++
    ((p.nodes.filter fun n =>
      if inRange 1 n.cls 5 then leAt (paramOf p n) 6 2 == buf
      else if n.cls == 0 then [0x1C, 0x1E, 0x20, 0x22, 0x24].any fun o => leAt (paramOf p n) o 2 == buf
      else n.cls == 6 && (neuBuffers p n).contains buf).map NodeRec.nodeId)).dedup

/-- R174: an input edge of the node from a Pyramid node with at least lv levels. -/
def pyramidEdge (p : Pattern) (n : NodeRec) (i lv : Nat) : Bool :=
  match edgeAt p i with
  | some e =>
    e.dst == n.nodeId && (match nodeOf p.nodes e.src with
      | some m => m.cls == 1 && decide (lv ≤ leAt (paramOf p m) 0x20 1)
      | none => false)
  | none => false

/-- R199: right_pyr_edge comes from a Pyramid node on the right plane: one whose input is the plane of right_edge, or the
Pyramid that right_edge itself comes from (assumption 68). -/
def onRightPlane (p : Pattern) (b : List Byte) : Bool :=
  match edgeAt p (leAt b 0x22 2), edgeAt p (leAt b 0x26 2) with
  | some r, some e =>
    e.src == r.src || (match (nodeOf p.nodes e.src).bind fun m => edgeAt p (leAt (paramOf p m) 0x22 2) with
      | some i => i.src == r.src && i.buffer == r.buffer
      | none => false)
  | _, _ => false

/-- R202: a prediction edge comes from a node of the same class and the same output size. -/
def predictionEdge (p : Pattern) (n : NodeRec) (i : Nat) : Bool :=
  match edgeAt p i with
  | some e =>
    e.dst == n.nodeId && (match nodeOf p.nodes e.src with
      | some m => m.cls == n.cls && outDims p m == outDims p n
      | none => false)
  | none => false

/-- An input edge of the node from a producer of one of the classes. -/
def inputFrom (p : Pattern) (n : NodeRec) (i : Nat) (cls : List Nat) : Bool :=
  match edgeAt p i with
  | some e =>
    e.dst == n.nodeId && (match nodeOf p.nodes e.src with
      | some m => cls.contains m.cls
      | none => false)
  | none => false

/-- R192, R184: the class part of one node. -/
def venClassCheck (p : Pattern) (n : NodeRec) : Check :=
  let b := paramOf p n
  let h := venHdr b
  let d := inPlane p n
  let bpp := (d.map PlaneDesc.bpp).getD 0
  let okOut := match edgeAt p (outEdgeOf n b) with
    | some e => e.src == n.nodeId && (match bufOf p e.buffer with
        | some q => decide (halvesOf n b * outHalf p n ≤ q.size) && writersOf p e.buffer == [n.nodeId] &&
            e.buffer != h.doubtBuf
        | none => false)
    | none => false
  let halves := inRange 1 (halvesOf n b) 2
  match n.cls with
  | 1 =>
    need (inRange 1 (leAt b 0x20 1) 6 && decide (leAt b 0x21 1 ≤ 1) && inputFrom p n (inEdgeOf n b) [0, 1, 2] &&
      leAt b 0x21 1 + 1 == bpp && okOut && halves && zeroAt b 0x27 9) 0x0701
  | 2 =>
    let g := 2 ^ leAt b 0x26 1
    let w := (d.map PlaneDesc.w).getD 0
    let hh := (d.map PlaneDesc.h).getD 0
    need (inputFrom p n (inEdgeOf n b) [0] && (match bufOf p (leAt b 0x22 2) with
        | some q => q.initOff != 0xFFFFFFFF && decide ((ceilDiv w g + 1) * (ceilDiv hh g + 1) * 8 ≤ q.size) &&
            !(writersOf p q.bufferId).contains n.nodeId
        | none => false) && inRange 3 (leAt b 0x26 1) 6 && decide (leAt b 0x27 1 ≤ 1) && leAt b 0x27 1 + 1 == bpp &&
      okOut && halves && zeroAt b 0x29 7) 0x0701
  | 3 =>
    let fromPyr := inputFrom p n (inEdgeOf n b) [1]
    need (inputFrom p n (inEdgeOf n b) [0, 1, 2] &&
      (if fromPyr then inRange 1 (leAt b 0x24 1) 6 else leAt b 0x24 1 == 0) && d.isSome &&
      decide (1 ≤ leAt b 0x25 1) && inRange 9 (leAt b 0x26 1) 12 && inRange 1 (leAt b 0x27 1) 8 &&
      inRange 1 (leAt b 0x28 2) 4096 && okOut && halves && zeroAt b 0x2B 5) 0x0701
  | 4 =>
    need (inputFrom p n (inEdgeOf n b) [0, 1, 2] && (d.map PlaneDesc.halves).getD 0 == 2 &&
      decide (leAt b 0x24 1 ≤ 2) && okOut && halves && zeroAt b 0x26 10) 0x0701
  | _ =>
    let r := planeOf p (leAt b 0x22 2) 1
    let fall := descent n || h.pyrEdge != 0xFFFF
    firstOf
      [ need (inputFrom p n (leAt b 0x20 2) [0, 1, 2] && inputFrom p n (leAt b 0x22 2) [0, 1, 2] &&
          (r.map fun q => (q.w, q.h, q.bpp)) == (d.map fun q => (q.w, q.h, q.bpp)) && d.isSome && okOut) 0x0701,
        need (!fall || pyramidEdge p n (leAt b 0x26 2) h.topLevel) 0x0702,
        need (!fall || onRightPlane p b) 0x0701,
        need (fall || leAt b 0x26 2 == 0xFFFF) 0x0701,
        need (halves && decide (leAt b 0x29 1 ≤ 1) && zeroAt b 0x2A 6) 0x0701 ]

/-- R196, R199: the bounds of the search range, by class. -/
def rangeBounds (cls : Nat) (h : VenHdr) : Bool :=
  if cls = 4 then decide (-64 ≤ h.rangeMin ∧ h.rangeMax ≤ 64) else decide (0 ≤ h.rangeMin ∧ h.rangeMax ≤ 511)

/-- R154: an output edge of an ISP node that names a band flag: its buffer is luma_buf, chroma_buf or ir_buf. -/
def bandEdge (p : Pattern) (m : NodeRec) (e : EdgeRec) : Bool :=
  m.cls == 0 && [0x1C, 0x1E, 0x20].any fun o => leAt (paramOf p m) o 2 == e.buffer

/-- R176, R154, R480 B: the grain of the input edges from ISP and vision nodes, and of an ISP node's band edges into the
nodes of the other classes. -/
def grainCheck (p : Pattern) (n : NodeRec) : Check :=
  let tile := ((graphOf p n.slot).map GraphRec.buffering).getD 0 == 1
  need ((p.edges.filter fun e => e.dst == n.nodeId).all fun e =>
    match nodeOf p.nodes e.src with
    | some m => (if inRange 1 n.cls 5 then decide (5 < m.cls) else !bandEdge p m e) || (if tile then e.grain == 1 || e.grain == 2 else e.grain == 0)
    | none => true) 0x0703

/-- R167, R174, R175, R185, R202: the parameter block of a node of class 1 to 5, fields by ascending offset. -/
def venParamCheck (p : Pattern) (n : NodeRec) : Check :=
  let b := paramOf p n
  let h := venHdr b
  let search := n.cls == 4 || n.cls == 5
  let desc := search && descent n
  let pred := search && !descent n
  let fall := pred && h.pyrEdge != 0xFFFF
  let k := blockDims p n
  firstOf
    [ need (n.paramLen == 48 && inRange 3 h.blockLog2 5 && inRange 1 h.doubtThr 15 && decide (1 ≤ h.confLo) &&
        (if search then decide (h.lrTol ≤ 64) else h.lrTol == 0) && ((h.budget != 0) == refineOn n) &&
        (match bufOf p h.doubtBuf with
          | some q => decide (alignUp k.1 64 * k.2 ≤ q.size) && writersOf p h.doubtBuf == [n.nodeId]
          | none => false) &&
        (if search then decide (h.rangeMin < h.rangeMax) && rangeBounds n.cls h else leAt b 8 2 == 0 && leAt b 0xA 2 == 0) &&
        (if pred then inRange 1 h.win 64 else h.win == 0) &&
        (if desc || fall then inRange 1 h.topLevel 6 && inRange 1 h.descWin 8 else h.topLevel == 0 && h.descWin == 0) &&
        zeroAt b 0xF 1) 0x0701,
      need (if pred then
          (if h.predEdge == 0xFFFE then halvesOf n b == 2 else predictionEdge p n h.predEdge)
        else if desc then h.predEdge == 0xFFFF else true) 0x0702,
      need (search || h.predEdge == 0xFFFF) 0x0701,
      need (if desc || fall then pyramidEdge p n h.pyrEdge h.topLevel else true) 0x0702,
      need (search || h.pyrEdge == 0xFFFF) 0x0701,
      need (zeroAt b 0x14 12) 0x0701,
      venClassCheck p n,
      grainCheck p n ]

end Sys2Proof.Machine
end

