-- ==== Sys2Proof/Machine/NeuParam.lean ====
section
/-! DEFINITION. The parameter block of a Neural node, its layer and tensor descriptors and their checks (R233 to R235,
R242 to R244, R251 to R256, R420). -/

namespace Sys2Proof.Machine

/-- R252: a tensor descriptor. -/
structure TDesc where
  buffer : Nat
  order : Nat
  etype : Nat
  offset : Nat
  dh : Nat
  dw : Nat
  dc : Nat
  halves : Nat
  pitchH : Nat
  pitchC : Nat
  halfSize : Nat
  padVal : Nat
  deriving DecidableEq, Repr, Inhabited

/-- R233: a layer descriptor. -/
structure Layer where
  op : Nat
  split : Nat
  outType : Nat
  kh : Nat
  kw : Nat
  stride : Nat
  pad : Nat
  inDesc : Nat
  wtDesc : Nat
  outDesc : Nat
  biasOff : Nat
  quantOff : Nat
  m : Nat
  k : Nat
  n : Nat
  zp : Int
  clampLo : Nat
  clampHi : Nat
  xchg : Nat
  deriving DecidableEq, Repr, Inhabited

/-- R252: the descriptor at an offset of DATA. -/
def tdescAt (data : List Byte) (o : Nat) : TDesc :=
  { buffer := leAt data o 2, order := leAt data (o + 2) 1, etype := leAt data (o + 3) 1, offset := leAt data (o + 4) 4,
    dh := leAt data (o + 8) 2, dw := leAt data (o + 0xA) 2, dc := leAt data (o + 0xC) 2, halves := leAt data (o + 0xE) 1,
    pitchH := leAt data (o + 0x10) 4, pitchC := leAt data (o + 0x14) 4, halfSize := leAt data (o + 0x18) 4,
    padVal := leAt data (o + 0x1C) 2 }

/-- R233: layer l of a parameter block. -/
def layerAt (b : List Byte) (l : Nat) : Layer :=
  let o := 32 + 64 * l
  { op := leAt b o 1, split := leAt b (o + 1) 1, outType := leAt b (o + 2) 1, kh := leAt b (o + 3) 1,
    kw := leAt b (o + 4) 1, stride := leAt b (o + 5) 1, pad := leAt b (o + 6) 1, inDesc := leAt b (o + 8) 4,
    wtDesc := leAt b (o + 0xC) 4, outDesc := leAt b (o + 0x10) 4, biasOff := leAt b (o + 0x14) 4,
    quantOff := leAt b (o + 0x18) 4, m := leAt b (o + 0x1C) 4, k := leAt b (o + 0x20) 2, n := leAt b (o + 0x22) 2,
    zp := signedOf 16 (leAt b (o + 0x24) 2), clampLo := leAt b (o + 0x26) 2, clampHi := leAt b (o + 0x28) 2,
    xchg := leAt b (o + 0x2A) 2 }

/-- R233: the layers of a node. -/
def layersOf (p : Pattern) (n : NodeRec) : List Layer :=
  let b := paramOf p n
  (List.range (leAt b 0 1)).map (layerAt b)

/-- R253: element size in half bytes. -/
def nibbles (etype : Nat) : Nat :=
  match etype with
  | 0 => 2
  | 1 => 1
  | 2 => 8
  | 3 => 4
  | 4 => 4
  | _ => 8

/-- R235: the out_type code of a node's dtype. -/
def typeOfDtype (d : Nat) : Nat :=
  match d with
  | 0 => 0
  | 1 => 1
  | 2 => 3
  | _ => 4

/-- R253: minimum pitch_h and pitch_c, in bytes. -/
def minPitchH (t : TDesc) : Nat :=
  let row := fun (els : Nat) => alignUp ((els * nibbles t.etype + 1) / 2) 64
  match t.order with
  | 0 => row (t.dw * t.dc)
  | 1 => row t.dw
  | 2 => row (16 * t.dw)
  | 3 => row (64 * t.dw)
  | _ => 0

/-- R253: the tensor's span in bytes. -/
def spanOf (t : TDesc) : Nat :=
  match t.order with
  | 0 => t.dh * t.pitchH
  | 1 => t.dc * t.pitchC
  | 2 => ceilDiv t.dc 16 * t.pitchC
  | 3 => ceilDiv t.dc 64 * t.pitchC
  | _ => 2048 * nibbles t.etype * ceilDiv (t.dh * t.dw) 64 * ceilDiv t.dc 64

/-- R253, R254: the offset of an element in half bytes. -/
def elemNibble (t : TDesc) (y x ch : Nat) : Nat :=
  let s := nibbles t.etype
  match t.order with
  | 0 => 2 * y * t.pitchH + (x * t.dc + ch) * s
  | 1 => 2 * (ch * t.pitchC + y * t.pitchH) + x * s
  | 2 => 2 * (ch / 16 * t.pitchC + y * t.pitchH) + (16 * x + ch % 16) * s
  | 3 => 2 * (ch / 64 * t.pitchC + y * t.pitchH) + (64 * x + ch % 64) * s
  | _ =>
    let r := y * t.dw + x
    4096 * s * (r / 64 * ceilDiv t.dc 64 + ch / 64) + (64 * (r % 64) + ch % 64) * s

/-- A BF16 pattern that is a NaN. -/
def bf16NaN (v : Nat) : Bool := bits v 7 8 == 255 && bits v 0 7 != 0

/-- The order of two BF16 patterns, neither a NaN, as numbers: an integer that rises with the value. -/
def bf16Key (v : Nat) : Int := if v < 0x8000 then v else -((v : Int) - 0x8000)

/-- R251: the shapes of input, weights (or second input) and output that a layer needs: (d_h, d_w, d_c), with none
where the layer does not fix a number. -/
def shapesOk (l : Layer) (i w o : TDesc) : Bool :=
  let outDim := fun (a kk : Nat) => if a + 2 * l.pad < kk then 0 else (a + 2 * l.pad - kk) / l.stride + 1
  match l.op with
  | 0 => i.dh == 1 && i.dw == l.m && i.dc == l.k && w.dh == 1 && w.dw == l.k && w.dc == l.n && o.dh == 1 &&
      o.dw == l.m && o.dc == l.n
  | 1 => w.dh == l.kh * l.kw && w.dw == i.dc && w.dc == l.n && o.dc == l.n && l.m == o.dh * o.dw &&
      l.k == l.kh * l.kw * i.dc && o.dh == outDim i.dh l.kh && o.dw == outDim i.dw l.kw
  | 2 => w.dh == l.kh * l.kw && w.dw == 1 && w.dc == l.n && i.dc == l.n && o.dc == l.n && l.m == o.dh * o.dw &&
      l.k == l.kh * l.kw && o.dh == outDim i.dh l.kh && o.dw == outDim i.dw l.kw
  | _ => i.dh == 1 && i.dw == l.m && i.dc == l.n && w.dh == 1 && w.dw == l.m && w.dc == l.n && o.dh == 1 &&
      o.dw == l.m && o.dc == l.n

/-- R252 to R254: one tensor descriptor of a node. `weight` allows a buffer with init content off the node's edges. -/
def tdescCheck (p : Pattern) (n : NodeRec) (o etype : Nat) (weight : Bool) : Check :=
  let t := tdescAt p.data o
  let onEdge := p.edges.any fun e => (e.src == n.nodeId || e.dst == n.nodeId) && e.buffer == t.buffer
  let isInt := decide (t.etype ≤ 2)
  match bufOf p t.buffer with
  | none => some 0x0910
  | some q =>
    firstOf
      [ need (o % 16 == 0 && decide (o + 32 ≤ p.data.length) && (onEdge || (weight && q.initOff != 0xFFFFFFFF))) 0x0910,
        need (q.location == 0) 0x0902,
        need (decide (t.order ≤ 4) && t.etype == etype && t.offset % 64 == 0 && decide (1 ≤ t.dh) && decide (1 ≤ t.dw) &&
          decide (1 ≤ t.dc) && inRange 1 t.halves 2 && zeroAt p.data (o + 0xF) 1 &&
          (if t.order == 4 then t.pitchH == 0 else t.pitchH % 64 == 0 && decide (minPitchH t ≤ t.pitchH)) &&
          (if inRange 1 t.order 3 then t.pitchC % 64 == 0 && decide (t.dh * t.pitchH ≤ t.pitchC) else t.pitchC == 0) &&
          (if t.halves == 2 then t.halfSize % 64 == 0 && decide (spanOf t ≤ t.halfSize) else t.halfSize == 0) &&
          (if isInt then
            (let v := signedOf 16 t.padVal
             if t.etype == 0 then decide (-128 ≤ v ∧ v ≤ 127) else if t.etype == 1 then decide (-8 ≤ v ∧ v ≤ 7) else true)
           else t.padVal == 0) &&
          zeroAt p.data (o + 0x1E) 2 &&
          (t.etype != 1 || (if t.order == 0 then t.dc % 2 == 0 else if t.order == 1 then t.dw % 2 == 0 else true)) &&
          decide (t.offset + t.halves * max (spanOf t) t.halfSize ≤ q.size)) 0x0910 ]

/-- R253, R255: the runs of bytes of a tensor's half: its elements and its padding, without the gaps between rows. -/
def halfRuns (t : TDesc) : List (Nat × Nat) :=
  let bytes := fun (els : Nat) => (els * nibbles t.etype + 1) / 2
  let rows := fun (k len : Nat) => (List.range k).flatMap fun b => (List.range t.dh).map fun y =>
    (b * t.pitchC + y * t.pitchH, bytes len)
  match t.order with
  | 0 => (List.range t.dh).map fun y => (y * t.pitchH, bytes (t.dw * t.dc))
  | 1 => rows t.dc t.dw
  | 2 => rows (ceilDiv t.dc 16) (16 * t.dw)
  | 3 => rows (ceilDiv t.dc 64) (64 * t.dw)
  | _ => [(0, spanOf t)]

/-- R253: the runs of bytes of a tensor, by address. -/
def tensorRuns (p : Pattern) (t : TDesc) : List (Nat × Nat) :=
  let base := ((bufOf p t.buffer).map BufRec.base).getD 0 + t.offset
  (List.range t.halves).flatMap fun h => (halfRuns t).map fun r => (base + h * t.halfSize + r.1, r.2)

/-- R253: the extent of a tensor. -/
def tensorRange (p : Pattern) (t : TDesc) : Nat × Nat :=
  (((bufOf p t.buffer).map BufRec.base).getD 0 + t.offset, t.halves * max (spanOf t) t.halfSize)

/-- R256: two tensors share a byte; tensors whose extents are apart share none. -/
def tensorsMeet (p : Pattern) (a b : TDesc) : Bool :=
  let e := tensorRange p a
  let f := tensorRange p b
  overlaps e.1 e.2 f.1 f.2 &&
    (tensorRuns p a).any fun q => (tensorRuns p b).any fun r => overlaps q.1 q.2 r.1 r.2

/-- R242: the least and greatest value of an integer out_type. -/
def typeRange (t : Nat) : Int × Int :=
  match t with
  | 0 => (-128, 127)
  | 1 => (-8, 7)
  | _ => (-2147483648, 2147483647)

/-- R233 to R235, R242, R244, R251 to R256, R420: one layer. -/
def layerCheck (p : Pattern) (n : NodeRec) (count : Nat) (i : Nat) : Check :=
  let b := paramOf p n
  let l := layerAt b i
  let dt := typeOfDtype n.dtype
  let fl := decide (2 ≤ n.dtype)
  let plain := l.op == 0 || l.op == 3
  let int := decide (l.outType ≤ 1)
  let tin := tdescAt p.data l.inDesc
  let twt := tdescAt p.data l.wtDesc
  let tout := tdescAt p.data l.outDesc
  let inData := fun (o len : Nat) => decide (o + len ≤ p.data.length)
  let lo := signedOf 16 l.clampLo
  let hi := signedOf 16 l.clampHi
  let r := typeRange l.outType
  firstOf
    [ need (decide (l.op ≤ 3) && decide (l.split ≤ 2)) 0x0901,
      need (l.split == 0 || p.hdr.safetyCfg != 1) 0x0522,
      need (l.split == 0 || (p.hdr.safetyCfg == 2 && decide (2 ≤ p.hdr.flaskSize))) 0x0908,
      need ((if i + 1 == count then (if fl then inRange 3 l.outType 5 else decide (l.outType ≤ 2)) else l.outType == dt) &&
        (if plain then l.kh == 1 && l.kw == 1 && l.stride == 1 && l.pad == 0
         else inRange 1 l.kh 7 && inRange 1 l.kw 7 && inRange 1 l.stride 2 && decide (l.pad ≤ 3)) &&
        zeroAt b (32 + 64 * i + 7) 1) 0x0901,
      tdescCheck p n l.inDesc dt false,
      tdescCheck p n l.wtDesc dt true,
      tdescCheck p n l.outDesc l.outType false,
      need ((l.biasOff == 0xFFFFFFFF || (l.biasOff % 16 == 0 && inData l.biasOff (4 * l.n))) &&
        (if int then inData l.quantOff (8 * l.n) &&
            (List.range l.n).all (fun j => decide (leAt p.data (l.quantOff + 8 * j + 4) 1 ≤ 62) &&
              zeroAt p.data (l.quantOff + 8 * j + 5) 3)
         else l.quantOff == 0xFFFFFFFF) &&
        inRange 1 l.m 16777216 && inRange 1 l.k 65535 && inRange 1 l.n 65535) 0x0901,
      need (shapesOk l tin twt tout) 0x0910,
      need ((int || l.zp == 0) &&
        (if int then decide (r.1 ≤ lo ∧ lo ≤ hi ∧ hi ≤ r.2)
         else if l.outType == 2 then l.clampLo == 0 && l.clampHi == 0
         else !bf16NaN l.clampLo && !bf16NaN l.clampHi && decide (bf16Key l.clampLo ≤ bf16Key l.clampHi))) 0x0901,
      need (if l.split == 0 then l.xchg == 0xFFFF
        else if l.split == 1 then l.xchg == tout.buffer
        else (match bufOf p l.xchg with
          | some q => decide (p.hdr.flaskSize * l.m * l.n * 4 ≤ q.size)
          | none => false)) (if l.split == 0 then 0x0901 else 0x0908),
      need (zeroAt b (32 + 64 * i + 0x2C) 20) 0x0901,
      need (!tensorsMeet p tout tin && !tensorsMeet p tout twt) 0x0911 ]

/-- R233: the parameter block of a class 6 node. -/
def neuParamCheck (p : Pattern) (n : NodeRec) : Check :=
  let b := paramOf p n
  let c := leAt b 0 1
  let ends := fun (i : Nat) (src : Bool) => match edgeAt p i with
    | some e => if src then e.src == n.nodeId else e.dst == n.nodeId
    | none => false
  firstOf (need (inRange 1 c 64 && n.paramLen == 32 + 64 * c && zeroAt b 1 1 && ends (leAt b 2 2) false &&
      ends (leAt b 4 2) true && zeroAt b 6 26) 0x0901 ::
    (List.range c).map (layerCheck p n c))

/-- R421: the class 6 nodes with split layers, in node_id order. -/
def splitNodes (p : Pattern) : List Nat :=
  sortBy id ((p.nodes.filter fun n => n.cls == 6 && (layersOf p n).any fun l => l.split != 0).map NodeRec.nodeId)

end Sys2Proof.Machine
end

