-- ==== Sys2Proof/Machine/VenPix.lean ====
section
/-! DEFINITION. The arithmetic of the vision engines: filters, sampling, corners, census matching, confidences, the
doubt map and the refine selection (R168 to R175, R187 to R204). -/

namespace Sys2Proof.Machine

/-- Bytes to write, by address. -/
abbrev Writes := List (Nat × List Byte)

/-- A sample of a plane's half, mirrored at the border (R184, R187). -/
def planePix (s : State) (d : PlaneDesc) (half : Nat) (x y : Int) : Nat :=
  let v := memNat s (d.base + half * d.halfSize + d.off + mirror y d.h * d.stride + mirror x d.w * d.bpp) d.bpp
  if d.bpp = 2 then v % 4096 else v

/-- R184: a value at U8 scale. -/
def u8Scale (bpp v : Nat) : Nat := if bpp = 2 then v / 16 else v

/-- The greatest sample of a format. -/
def fmtMax (bpp : Nat) : Nat := if bpp = 2 then 4095 else 255

/-- What a class computes: per block, the confidences of its elements, the bytes it writes and what it counts, in the
coarse pass (false) and the refine pass (true). -/
structure VenPlan where
  bw : Nat
  bh : Nat
  conf : Bool → Nat → Nat → List Nat
  put : Bool → Nat → Nat → Writes
  count : Bool → Nat → Nat → Nat
  invalid : Nat → Nat → Bool
  /-- What follows from the blocks that were refined as the final rows of the output grow from one number to another: the
  rows of the upper levels of a Pyramid, each one a write. -/
  upper : (Nat → Nat → Bool) → Nat → Nat → List Writes

/-- The positions of block (bx, bY) inside a grid of w by h elements. -/
def blockCells (k w h bx bY : Nat) : List (Nat × Nat) :=
  (List.range (min k (h - bY * k))).flatMap fun j => (List.range (min k (w - bx * k))).map fun i => (bx * k + i, bY * k + j)

/-! ### Pyramid (R187, R188) -/

/-- R188: the 5-tap filter at (x, y) of the next level. -/
def tap5 (f : Int → Int → Nat) (x y : Nat) : Nat :=
  let ws : List (Int × Nat) := [(-2, 1), (-1, 4), (0, 6), (1, 4), (2, 1)]
  (sumNat (ws.flatMap fun a => ws.map fun b => a.2 * b.2 * f (2 * x + a.1) (2 * y + b.1)) + 128) / 256

/-- R188: the 3-tap filter. -/
def tap3 (f : Int → Int → Nat) (x y : Nat) : Nat :=
  let ws : List (Int × Nat) := [(-1, 1), (0, 2), (1, 1)]
  (sumNat (ws.flatMap fun a => ws.map fun b => a.2 * b.2 * f (2 * x + a.1) (2 * y + b.1)) + 8) / 16

/-- R188: the 2 by 2 box. -/
def box2 (f : Int → Int → Nat) (x y : Nat) : Nat :=
  (f (2 * x) (2 * y) + f (2 * x + 1) (2 * y) + f (2 * x) (2 * y + 1) + f (2 * x + 1) (2 * y + 1) + 2) / 4

/-- R188: value and confidence of a level 1 pixel. -/
def pyrPixel (bpp : Nat) (f : Int → Int → Nat) (refined : Bool) (x y : Nat) : Nat × Nat :=
  if refined then (min (fmtMax bpp) (tap5 f x y), 255)
  else
    let a := tap3 f x y
    let u := u8Scale bpp a
    let v := u8Scale bpp (box2 f x y)
    (a, 255 - min 254 (4 * (max u v - min u v)))

/-- Where the planes of level l lie in an output half: pixels and confidences. -/
def pyrPlanes (d : PlaneDesc) (l : Nat) : Nat × Nat :=
  (pyrOff d.w d.h d.bpp l, pyrOff d.w d.h d.bpp l + planeLen (levelDim d.w l) (levelDim d.h l) d.bpp)

/-- One pixel of level l written with its confidence. -/
def pyrPut (d : PlaneDesc) (out l x y v c : Nat) : Writes :=
  let o := pyrPlanes d l
  let w := levelDim d.w l
  [(out + o.1 + y * alignUp (w * d.bpp) 64 + x * d.bpp, leBytes d.bpp v),
   (out + o.2 + y * alignUp w 64 + x, leBytes 1 c)]

/-- A level as a table of values and confidences. -/
abbrev Level := List (List (Nat × Nat))

/-- A value of a level, mirrored. -/
def levelAt (t : Level) (w h : Nat) (x y : Int) : Nat × Nat := nth (nth t (mirror y h) []) (mirror x w) (0, 0)

/-- R188: the rows of level l that are final once f rows of level 1 are; h is the height of the input plane. -/
def finalRows (h f : Nat) : Nat → Nat
  | 0 => f
  | 1 => f
  | l + 2 =>
    let g := finalRows h f (l + 1)
    if levelDim h (l + 1) ≤ g then levelDim h (l + 2) else (g - 1) / 2

/-- R188: the levels above l, up to `more` of them, row by row with their level and row number. -/
def upperLevels (d : PlaneDesc) (out : Nat) : Nat → Nat → Level → List (Nat × Nat × Writes)
  | 0, _, _ => []
  | more + 1, l, t =>
    let w := levelDim d.w l
    let h := levelDim d.h l
    let w' := levelDim d.w (l + 1)
    let h' := levelDim d.h (l + 1)
    let t' := (List.range h').map fun (y : Nat) => (List.range w').map fun (x : Nat) =>
      let c := fun (i j : Nat) => (levelAt t w h (2 * x + i) (2 * y + j)).2
      (min (fmtMax d.bpp) (tap5 (fun a b => (levelAt t w h a b).1) x y), min (min (c 0 0) (c 1 0)) (min (c 0 1) (c 1 1)))
    ((List.range h').map fun y => (l + 1, y, (List.range w').flatMap fun x =>
      let q := nth (nth t' y []) x (0, 0)
      pyrPut d out (l + 1) x y q.1 q.2)) ++ upperLevels d out more (l + 1) t'

/-- R186 to R188. -/
def pyramidPlan (s : State) (k levels out : Nat) (d : PlaneDesc) (half : Nat) : VenPlan :=
  let f := planePix s d half
  let w := levelDim d.w 1
  let h := levelDim d.h 1
  { bw := ceilDiv w k, bh := ceilDiv h k
    conf := fun r bx bY => (blockCells k w h bx bY).map fun q => (pyrPixel d.bpp f r q.1 q.2).2
    put := fun r bx bY => (blockCells k w h bx bY).flatMap fun q =>
      let v := pyrPixel d.bpp f r q.1 q.2
      pyrPut d out 1 q.1 q.2 v.1 v.2
    count := fun _ _ _ => 0
    invalid := fun _ _ => false
    upper := fun ref lo hi =>
      let t1 := (List.range h).map fun y => (List.range w).map fun x => pyrPixel d.bpp f (ref (x / k) (y / k)) x y
      ((upperLevels d out (levels - 1) 1 t1).filter fun r =>
        decide (finalRows d.h lo r.1 ≤ r.2.1 ∧ r.2.1 < finalRows d.h hi r.1)).map fun r => r.2.2 }

/-! ### Warp (R190, R191) -/

/-- An integer quotient rounded half up. -/
def roundHalfUp (num den : Int) : Int := (2 * num + den) / (2 * den)

/-- R190: a grid entry, x and y in 1/256 pixel. -/
def gridEntry (s : State) (base gw i j : Nat) : Int × Int :=
  let a := base + (j * gw + i) * 8
  (signedOf 32 (memNat s a 4), signedOf 32 (memNat s (a + 4) 4))

/-- R191: bilinear interpolation of four values, along x and then along y, each rounded half up. -/
def bilerp (g : Nat) (ox oy : Int) (v00 v10 v01 v11 : Int) : Int :=
  let r0 := roundHalfUp (v00 * (g - ox) + v10 * ox) g
  let r1 := roundHalfUp (v01 * (g - ox) + v11 * ox) g
  roundHalfUp (r0 * (g - oy) + r1 * oy) g

/-- R191: whole source pixel and fraction in 1/64 of a coordinate in 1/256. -/
def splitFrac (v : Int) : Int × Nat :=
  let f := ((v % 256 + 2) / 4).toNat
  if f = 64 then (v / 256 + 1, 0) else (v / 256, f)

/-- R191: a Catmull-Rom weight in 1/4,096 for tap i of four at fraction f/64, rounded half up. -/
def cubicWeight (i f : Nat) : Int :=
  let f : Int := f
  let n : Int := match i with
    | 0 => -4096 * f + 128 * f * f - f * f * f
    | 1 => 524288 - 320 * f * f + 3 * f * f * f
    | 2 => 4096 * f + 256 * f * f - 3 * f * f * f
    | _ => -64 * f * f + f * f * f
  roundHalfUp n 128

/-- R191: value, confidence, and whether the source lies outside. -/
def warpPixel (s : State) (d : PlaneDesc) (half mapBase g : Nat) (refined : Bool) (x y : Nat) : Nat × Nat × Bool :=
  let k := 2 ^ g
  let gw := ceilDiv d.w k + 1
  let i := x / k
  let j := y / k
  let e00 := gridEntry s mapBase gw i j
  let e10 := gridEntry s mapBase gw (i + 1) j
  let e01 := gridEntry s mapBase gw i (j + 1)
  let e11 := gridEntry s mapBase gw (i + 1) (j + 1)
  let ox : Int := (x % k : Nat)
  let oy : Int := (y % k : Nat)
  let sx := splitFrac (bilerp k ox oy e00.1 e10.1 e01.1 e11.1)
  let sy := splitFrac (bilerp k ox oy e00.2 e10.2 e01.2 e11.2)
  let inside := fun (lo hi : Int) => decide (0 ≤ sx.1 + lo ∧ sx.1 + hi < d.w ∧ 0 ≤ sy.1 + lo ∧ sy.1 + hi < d.h)
  let f := planePix s d half
  if refined then
    if inside (-1) 2 then
      let sum : Int := (List.range 4).foldl (fun acc b =>
        acc + cubicWeight b sy.2 * (List.range 4).foldl (fun row a =>
          row + cubicWeight a sx.2 * (f (sx.1 + a - 1) (sy.1 + b - 1) : Int)) 0) 0
      ((max 0 (min (fmtMax d.bpp : Int) (roundHalfUp sum 16777216))).toNat, 255, false)
    else (0, 0, true)
  else
    if inside 0 1 then
      let p00 := f sx.1 sy.1
      let p10 := f (sx.1 + 1) sy.1
      let p01 := f sx.1 (sy.1 + 1)
      let p11 := f (sx.1 + 1) (sy.1 + 1)
      let fx := sx.2
      let fy := sy.2
      let v := ((64 - fx) * (64 - fy) * p00 + fx * (64 - fy) * p10 + (64 - fx) * fy * p01 + fx * fy * p11 + 2048) / 4096
      let us := [p00, p10, p01, p11].map (u8Scale d.bpp)
      (v, 255 - min 254 (us.foldl max 0 - us.foldl min 65535), false)
    else (0, 0, true)

/-- R189 to R191. -/
def warpPlan (s : State) (k out : Nat) (d : PlaneDesc) (half mapBase g : Nat) : VenPlan :=
  let px := warpPixel s d half mapBase g
  let confO := planeLen d.w d.h d.bpp
  { bw := ceilDiv d.w k, bh := ceilDiv d.h k
    conf := fun r bx bY => (blockCells k d.w d.h bx bY).map fun q => (px r q.1 q.2).2.1
    put := fun r bx bY => (blockCells k d.w d.h bx bY).flatMap fun q =>
      let v := px r q.1 q.2
      [(out + q.2 * alignUp (d.w * d.bpp) 64 + q.1 * d.bpp, leBytes d.bpp v.1),
       (out + confO + q.2 * alignUp d.w 64 + q.1, leBytes 1 v.2.1)]
    count := fun r bx bY => ((blockCells k d.w d.h bx bY).filter fun q => (px r q.1 q.2).2.2).length
    invalid := fun _ _ => false
    upper := fun _ _ _ => [] }

/-! ### Feature (R193 to R195) -/

/-- The 16-pixel circle of radius 3 (PRESUMED, assumption 13). -/
def ring16 : List (Int × Int) :=
  [(0, -3), (1, -3), (2, -2), (3, -1), (3, 0), (3, 1), (2, 2), (1, 3), (0, 3), (-1, 3), (-2, 2), (-3, 1), (-3, 0),
   (-3, -1), (-2, -2), (-1, -3)]

/-- Length of the run of true values from index i of a ring. -/
def runFrom (ring : List Bool) (i : Nat) : Nat :=
  (((List.range ring.length).map fun j => nth ring ((i + j) % ring.length) false).takeWhile id).length

/-- R193: the score of the longest run of one sign, when it is long enough. -/
def runScore (arc : Nat) (hits : List Bool) (diffs : List Nat) : Option Nat :=
  let starts := (List.range 16).map fun i => (i, runFrom hits i)
  let best := starts.foldl (fun a b => if a.2 < b.2 then b else a) (0, 0)
  if arc ≤ best.2 then some (sumNat ((List.range best.2).map fun j => nth diffs ((best.1 + j) % 16) 0)) else none

/-- R193: the score of a corner at (x, y); none when it is no corner or its circle leaves the plane. -/
def cornerScore (f : Int → Int → Nat) (w h thr arc : Nat) (x y : Int) : Option Nat :=
  if x < 3 ∨ y < 3 ∨ (w : Int) ≤ x + 3 ∨ (h : Int) ≤ y + 3 then none
  else
    let p := f x y
    let vs := ring16.map fun o => f (x + o.1) (y + o.2)
    let diffs := vs.map fun v => (max v p - min v p) - thr
    let above := runScore arc (vs.map fun v => decide (p + thr < v)) diffs
    let below := runScore arc (vs.map fun v => decide (v + thr < p)) diffs
    match above, below with
    | some a, _ => some (min 65535 a)
    | none, some b => some (min 65535 b)
    | none, none => none

/-- R193: the corners of a block that no neighbour suppresses, highest score first, raster order among equals. -/
def blockCorners (sc : Int → Int → Option Nat) (k w h bx bY : Nat) : List (Nat × Nat × Nat) :=
  let cs := (blockCells k w h bx bY).filterMap fun q =>
    match sc q.1 q.2 with
    | some v =>
      let ns : List (Int × Int) := [(-1, -1), (0, -1), (1, -1), (-1, 0), (1, 0), (-1, 1), (0, 1), (1, 1)]
      if ns.any fun o => decide (v < (sc (q.1 + o.1) (q.2 + o.2)).getD 0) then none else some (q.1, q.2, v)
    | none => none
  sortBy (fun c => 65535 - c.2.2) cs

/-- R203: the sub-pixel offset in 1/16 of costs at the best position and its two neighbours. -/
def subPixel (cm c0 cp : Int) : Int :=
  let den := cm - 2 * c0 + cp
  if den ≤ 0 then 0 else max (-8) (min 8 (roundHalfUp (16 * (cm - cp)) (2 * den)))

/-- R194: bit i of the descriptor. -/
def descBit (f : Int → Int → Nat) (x y : Int) (i : Nat) : Bool :=
  let box := fun (cx cy : Int) =>
    sumNat (([-2, -1, 0, 1, 2] : List Int).flatMap fun dy => ([-2, -1, 0, 1, 2] : List Int).map fun dx => f (cx + dx) (cy + dy))
  let off := fun (a b : Nat) => (((a * i + b) % 31 : Nat) : Int) - 15
  decide (box (x + off 37 0) (y + off 11 0) < box (x + off 53 7) (y + off 29 13))

/-- R194: the 32 descriptor bytes. -/
def descriptor (f : Int → Int → Nat) (x y : Int) : List Byte :=
  (List.range 32).map fun j => BitVec.ofNat 8 (sumNat ((List.range 8).map fun b =>
    if descBit f x y (8 * j + b) then 2 ^ b else 0))

/-- R195: the slots of a block. -/
def featureSlot (f : Int → Int → Nat) (sc : Int → Int → Option Nat) (w h scoreDiv : Nat) (refined : Bool)
    (c : Nat × Nat × Nat) : List Byte × Nat :=
  let conf := min 255 (c.2.2 / scoreDiv)
  let x : Int := c.1
  let y : Int := c.2.1
  let inPatch := decide (17 ≤ c.1 ∧ c.1 + 17 < w ∧ 17 ≤ c.2.1 ∧ c.2.1 + 17 < h)
  if refined && inPatch then
    let v := fun (dx dy : Int) => -(((sc (x + dx) (y + dy)).getD 0 : Nat) : Int)
    let px := 16 * x + subPixel (v (-1) 0) (v 0 0) (v 1 0)
    let py := 16 * y + subPixel (v 0 (-1)) (v 0 0) (v 0 1)
    (leBytes 2 px.toNat ++ leBytes 2 py.toNat ++ leBytes 2 c.2.2 ++ leBytes 1 conf ++ leBytes 1 3 ++ leBytes 8 0 ++
      descriptor f x y, conf)
  else
    (leBytes 2 (16 * c.1) ++ leBytes 2 (16 * c.2.1) ++ leBytes 2 c.2.2 ++ leBytes 1 conf ++ leBytes 1 1 ++ leBytes 8 0 ++
      leBytes 32 0, conf)

/-- R192 to R195. -/
def featurePlan (s : State) (k out : Nat) (d : PlaneDesc) (half thr arc maxPer scoreDiv : Nat) : VenPlan :=
  let f8 := fun (x y : Int) => u8Scale d.bpp (planePix s d half x y)
  let f := planePix s d half
  let sc := cornerScore f8 d.w d.h thr arc
  let bw := ceilDiv d.w k
  let kept := fun bx bY => (blockCorners sc k d.w d.h bx bY).take maxPer
  { bw := bw, bh := ceilDiv d.h k
    conf := fun r bx bY => (kept bx bY).map fun c => (featureSlot f sc d.w d.h scoreDiv r c).2
    put := fun r bx bY =>
      let slots := (kept bx bY).map fun c => (featureSlot f sc d.w d.h scoreDiv r c).1
      [(out + (bY * bw + bx) * maxPer * 48, slots.flatten ++ leBytes (48 * (maxPer - slots.length)) 0)]
    count := fun r bx bY => if r then 0 else (blockCorners sc k d.w d.h bx bY).length - maxPer
    invalid := fun _ _ => false
    upper := fun _ _ _ => [] }

/-! ### Census matching (R198, R200 to R204) -/

/-- R198: the 48 census bits of a pixel: a neighbour darker than the centre (PRESUMED, assumption 13). -/
def census (f : Int → Int → Nat) (x y : Int) : List Bool :=
  let r : List Int := [-3, -2, -1, 0, 1, 2, 3]
  let c := f x y
  r.flatMap fun dy => (r.filter fun dx => !(dx == 0 && dy == 0)).map fun dx => decide (f (x + dx) (y + dy) < c)

/-- The Hamming distance of two bit lists. -/
def hamming (a b : List Bool) : Nat := ((List.zip a b).filter fun q => q.1 != q.2).length

/-- R198, R200: the cost of matching (x, y) of f with (x', y') of g over a box of radius r. -/
def censusCost (f g : Int → Int → Nat) (r : Nat) (x y x' y' : Int) : Nat :=
  let o : List Int := (List.range (2 * r + 1)).map fun (i : Nat) => (i : Int) - r
  sumNat (o.flatMap fun dy => o.map fun dx => hamming (census f (x + dx) (y + dy)) (census g (x' + dx) (y' + dy)))

/-- Box radius of a pass. -/
def passRadius (refined : Bool) : Nat := if refined then 4 else 2

/-- The integers from lo to hi. -/
def intRange (lo hi : Int) : List Int := (List.range (hi - lo + 1).toNat).map fun (i : Nat) => lo + (i : Int)

/-- Ceiling division by a power of two. -/
def ceilPow (v : Int) (l : Nat) : Int := -((-v) / 2 ^ l)

/-- R174: a range scaled to level l. -/
def scaledRange (lo hi : Int) (l : Nat) : Int × Int := (lo / 2 ^ l, ceilPow hi l)

/-- R173: c from c_raw, e and lr_tol. -/
def lrConf (craw tol : Nat) (e : Nat) : Nat :=
  if tol < e then 0
  else
    let c := craw * (tol + 1 - e) / (tol + 1)
    if c = 0 ∧ craw ≠ 0 then 1 else c

/-- A vector or a disparity (its first component). -/
abbrev Vec := Int × Int

/-- A search of one element: candidates and the cost of each. -/
structure Search where
  cands : List Vec
  cost : Vec → Nat

/-- The winner of a search: lowest cost, then smallest |dx| + |dy|, then the first candidate. -/
def Search.best (q : Search) : Vec :=
  ((minBy (fun v => q.cost v * 2048 + v.1.natAbs + v.2.natAbs) q.cands)).getD (0, 0)

/-- R204: the raw confidence of a winner. -/
def Search.craw (q : Search) (b : Vec) : Nat :=
  match minBy q.cost (q.cands.filter fun v => decide (2 ≤ max (v.1 - b.1).natAbs (v.2 - b.2).natAbs)) with
  | some v => 255 * (q.cost v - q.cost b) / (q.cost v + 1)
  | none => 0

/-- R203: the winner in 1/16 pixel; the refine pass adds the sub-pixel offset of each component. -/
def Search.fine (q : Search) (refined two : Bool) (b : Vec) : Vec :=
  let at1 := fun (v : Vec) => if q.cands.contains v then some (q.cost v : Int) else none
  let off := fun (m p : Vec) => match at1 m, at1 p with
    | some cm, some cp => subPixel cm (q.cost b) cp
    | _, _ => 0
  if refined then
    (16 * b.1 + off (b.1 - 1, b.2) (b.1 + 1, b.2), 16 * b.2 + if two then off (b.1, b.2 - 1) (b.1, b.2 + 1) else 0)
  else (16 * b.1, 16 * b.2)

/-- The whole position nearest a value in 1/16, half up. -/
def whole16 (v : Int) : Int := (v + 8) / 16

/-- R174: the candidates of a window, dy before dx, clipped to a range. -/
def window2 (c : Vec) (win : Int) (r : Int × Int) : List Vec :=
  (intRange (max r.1 (c.2 - win)) (min r.2 (c.2 + win))).flatMap fun dy =>
    (intRange (max r.1 (c.1 - win)) (min r.2 (c.1 + win))).map fun dx => (dx, dy)
def window1 (c : Vec) (win : Int) (r : Int × Int) : List Vec :=
  (intRange (max r.1 (c.1 - win)) (min r.2 (c.1 + win))).map fun d => (d, 0)

/-- R174: the search at level l by pyramid descent. The planes give, for each level, the sample of the reference and of
the target; `sgn` is -1 where the target lies at x - d. -/
def descentSearch (planes : Nat → (Int → Int → Nat) × (Int → Int → Nat)) (two : Bool) (sgn : Int) (lo hi : Int)
    (top desc r : Nat) : Nat → Nat → Int → Int → Search
  | 0, l, x, y =>
    let rg := scaledRange lo hi l
    let f := planes l
    { cands := if two then window2 (0, 0) (rg.2 - rg.1 + rg.1.natAbs + rg.2.natAbs) rg
        else window1 (0, 0) (rg.2 - rg.1 + rg.1.natAbs + rg.2.natAbs) rg
      cost := fun v => censusCost f.1 f.2 r x y (x + sgn * v.1) (y + v.2) }
  | n + 1, l, x, y =>
    let up := (descentSearch planes two sgn lo hi top desc r n (l + 1) (x / 2) (y / 2)).best
    let rg := scaledRange lo hi l
    let f := planes l
    { cands := if two then window2 (2 * up.1, 2 * up.2) desc rg else window1 (2 * up.1, 0) desc rg
      cost := fun v => censusCost f.1 f.2 r x y (x + sgn * v.1) (y + v.2) }

/-- R169, R173: value, confidence, and whether the left-right check set c to 0. -/
structure Match where
  v : Vec
  c : Nat
  zeroed : Bool

/-- R173, R200: a Stereo element of one image: `a` searches it, `b` the other image, whose pixel x + sgn d matches. -/
def stereoMatch (a b : Int → Search) (sgn : Int) (w tol : Nat) (refined : Bool) (x : Int) : Match :=
  let q := a x
  let best := q.best
  let v := q.fine refined false best
  let t := x + sgn * whole16 v.1
  if t < 0 ∨ (w : Int) ≤ t then { v := v, c := 0, zeroed := true }
  else
    let q' := b t
    let e := (v.1 - (q'.fine refined false q'.best).1).natAbs
    { v := v, c := lrConf (q.craw best) tol e, zeroed := decide (tol < e) }

/-- R200: the search of the right image reads the one cost volume of the left. -/
def rightSearch (left : Int → Search) (lo hi : Int) (w : Nat) (xr : Int) : Search :=
  { cands := ((intRange lo hi).filter fun d =>
      decide (0 ≤ xr + d ∧ xr + d < w) && (left (xr + d)).cands.contains (d, 0)).map fun d => (d, 0)
    cost := fun v => (left (xr + v.1)).cost v }

/-- R173, R198: a Flow element at (x, y) of the current plane. -/
def flowMatch (fwd bwd : Bool → Int → Int → Search) (w h tol : Nat) (refined : Bool) (x y : Int) : Match :=
  let q := fwd refined x y
  let b := q.best
  let v := q.fine refined true b
  let tx := x + whole16 v.1
  let ty := y + whole16 v.2
  if tx < 0 ∨ ty < 0 ∨ (w : Int) ≤ tx ∨ (h : Int) ≤ ty then { v := v, c := 0, zeroed := true }
  else
    let q' := bwd refined tx ty
    let u := q'.fine refined true q'.best
    let e := max (v.1 + u.1).natAbs (v.2 + u.2).natAbs
    { v := v, c := lrConf (q.craw b) tol e, zeroed := decide (tol < e) }

/-! ### The two passes -/

/-- R169: the doubt of a block from its confidences. -/
def doubtOf (confLo : Nat) (cs : List Nat) : Nat :=
  let n := cs.length
  let low := (cs.filter fun c => decide (c < confLo)).length
  if n = 0 then 0 else (15 * low + n - 1) / n

/-- A block after the coarse pass. -/
structure BlockDoubt where
  bx : Nat
  bY : Nat
  doubt : Nat
  flagged : Bool
  invalid : Bool
  deriving DecidableEq, Repr

/-- R169: every block in raster order. -/
def coarseDoubts (pl : VenPlan) (confLo thr : Nat) : List BlockDoubt :=
  (List.range pl.bh).flatMap fun bY => (List.range pl.bw).map fun bx =>
    let d := doubtOf confLo (pl.conf false bx bY)
    let inv := pl.invalid bx bY
    { bx := bx, bY := bY, doubt := d, flagged := decide (thr ≤ d) || inv, invalid := inv }

/-- R170: the flagged blocks in the order the refine pass takes them; `bandOf` gives a block row's band, 0 throughout in
whole-frame buffering. -/
def refineOrder (bandOf : Nat → Nat) (bs : List BlockDoubt) (budget : Nat) : List BlockDoubt :=
  (sortBy (fun b => bandOf b.bY * 16 + (15 - b.doubt)) (bs.filter BlockDoubt.flagged)).take budget

/-- R169: the doubt map byte. -/
def doubtByte (b : BlockDoubt) (refined skipped : Bool) : Byte :=
  BitVec.ofNat 8 (put 0 4 b.doubt + put 4 1 (flagNat b.flagged) + put 5 1 (flagNat refined) + put 6 1 (flagNat skipped) +
    put 7 1 (flagNat b.invalid))

end Sys2Proof.Machine
end

