-- ==== Sys2Proof/Machine/Tap.lean ====
section
/-! DEFINITION. Trace records and counters (21_trace_and_counters.md): the intake FIFO with its drops (R439 to R441,
R444), begins and ends of sources (R437, R438, R445), and the global counters (R446 to R451). -/

namespace Sys2Proof.Machine

/-! ### Counters (R451) -/

/-- R451: what a read in this ECLK returns: the value the ECLK began with. A write has taken its place at once. -/
def Ctr64.read (c : Ctr64) (t : Nat) : Word64 := if c.mark = t ∧ ¬ c.wrote then c.before else c.value

/-- k happenings in ECLK t. The Bool says that the counter carried through 0. A write in the same ECLK wins; the increments
that it replaces carry as they would have (R13). -/
def Ctr64.bump (c : Ctr64) (t k : Nat) : Ctr64 × Bool :=
  if c.mark = t ∧ c.wrote then
    ({ c with lost := c.lost + k },
      decide (c.before.toNat + c.lost < 2 ^ 64 ∧ 2 ^ 64 ≤ c.before.toNat + c.lost + k))
  else
    ({ value := c.value + BitVec.ofNat 64 k, mark := t, before := if c.mark = t then c.before else c.value,
       wrote := false, lost := 0 },
      decide (2 ^ 64 ≤ c.value.toNat + k))

/-- R451: a write of the whole word, or of the half that the mask selects. -/
def Ctr64.write (c : Ctr64) (t : Nat) (v mask : Word64) : Ctr64 :=
  let now := c.mark = t ∧ c.wrote
  let base := if c.mark = t then c.before else c.value
  let held := if now then c.value else base
  { value := (held &&& ~~~mask) ||| (v &&& mask), mark := t, before := base, wrote := true,
    lost := if now then c.lost else (c.value - base).toNat }

/-- R451: the selector that rules in this ECLK. -/
def selNow (s : State) (g : GlbCtr) : Nat :=
  match g.oldSel with
  | some (t, v) => if t = now s then v.toNat else g.sel.toNat
  | none => g.sel.toNat

/-- R446, R448: k happenings of a selector, counted by a global counter that names it. -/
def GlbCtr.count (s : State) (sel k : Nat) (g : GlbCtr) : GlbCtr :=
  if selNow s g = sel ∧ 0 < k then
    let r := g.ctr.bump (now s) k
    { g with ctr := r.1, wrapped := g.wrapped || r.2 }
  else g

/-- R446: k happenings of a selector in this ECLK. -/
def countSel (sel k : Nat) (s : State) : State :=
  { s with tap := { s.tap with glbs := s.tap.glbs.map (GlbCtr.count s sel k) } }

/-- R446, R516: a word that a check corrects, counted in selector 10. -/
def noteEcc (ecc : Ecc) (s : State) : State := if ecc = .corrected then countSel 10 1 s else s

/-- The selectors whose happenings lie inside the block, where no command of the table reports them: Crucible line
accesses and bank conflicts, DRAM lines, and link flits. Their counts are free values (assumption 14). -/
def selOpen (sel : Nat) : Bool := [2, 3, 4, 11].contains sel

/-! ### Trace (R437 to R444) -/

/-- R437: sources by class. -/
def srcDma (ch : Nat) : Nat := 35 + ch
def srcIsp (p : Nat) : Nat := 67 + p

/-- R439: the initiator ID of a source. -/
def srcId (i : Nat) : Nat := if i < 35 then unitId i else if i < 67 then dmaId (i - 35) else ispId (i - 67)

/-- R437: the enable bit of a source's group. -/
def srcGroup (i : Nat) : Nat := if i < 18 then 0 else if i < 35 then 1 else if i < 67 then 2 else 3

/-- R452: the settings of TAP_CTRL that rule in this ECLK. -/
def tapCtl (s : State) : Bool × BitVec 6 :=
  match s.tap.oldCtl with
  | some (t, en, src) => if t = now s then (en, src) else (s.tap.en, s.tap.src)
  | none => (s.tap.en, s.tap.src)

/-- R441: the place of a record among those of its ECLK: by initiator ID, ends before begins. -/
def traceKey (r : TraceRec) : Nat := 2 * r.id.toNat + (if r.kind = 0 then 1 else 0)

/-- R441: the record among those that entered in its ECLK. -/
def insertTrace (r : TraceRec) (t : Nat) : List (TraceRec × Nat) → List (TraceRec × Nat)
  | [] => [(r, t)]
  | q :: l =>
    if q.2 = t ∧ q.1.kind ≠ 2 ∧ traceKey r < traceKey q.1 then (r, t) :: q :: l else q :: insertTrace r t l

/-- R444: a record dropped in this ECLK joins or opens the drop run. -/
def dropTrace (s : State) : State :=
  { s with tap := { s.tap with run := some (match s.tap.run with
      | some (n, t) => (n + 1, t)
      | none => (1, now s)) } }

/-- R444: the drop record of a run that ends, its event, and its count in TAP_DROP. -/
def endDropRun (s : State) : State :=
  match s.tap.run with
  | none => s
  | some (n, t) =>
    let r : TraceRec :=
      { stamp := now s, id := 0, kind := 2, node := 0xFFFF, seq := 0, payload := leBytes 4 n ++ leBytes 4 0 ++ leBytes 8 t }
    raise 0x1101 { s with tap := { s.tap with
      run := none, fifo := s.tap.fifo ++ [(r, now s)], drop := satAdd 32 s.tap.drop n } }

/-- R441, R444: a record enters the FIFO. One entry stays free for a drop record; of the records of one ECLK those with
the highest initiator IDs are dropped. -/
def pushTrace (r : TraceRec) (s : State) : State :=
  if s.tap.fifo.length < 1023 then
    let s := endDropRun s
    { s with tap := { s.tap with fifo := insertTrace r (now s) s.tap.fifo } }
  else
    let l := insertTrace r (now s) s.tap.fifo
    dropTrace { s with tap := { s.tap with fifo := l.take (l.length - 1) } }

/-- R437: a record of source i, when its group is enabled. -/
def traceSource (i : Nat) (kind : BitVec 3) (node seq : Nat) (payload : List Byte) (s : State) : State :=
  let c := tapCtl s
  if c.1 && c.2.getLsbD (srcGroup i) then
    pushTrace { stamp := now s, id := BitVec.ofNat 10 (srcId i), kind := kind, node := BitVec.ofNat 16 node,
                seq := BitVec.ofNat 32 seq, payload := sliceBytes payload 0 16 } s
  else s

/-- R438, R445: a source begins. -/
def beginSource (i node seq : Nat) (payload : List Byte) (s : State) : State :=
  let s := { s with tap := { s.tap with srcs := upd s.tap.srcs i fun c =>
    { c with cmd := (c.cmd.bump (now s) 1).1, beganAt := some (now s) } } }
  traceSource i 0 node seq payload s

/-- R438, R445: a source ends; bad says that its status or result is not OK, or its frame is damaged. -/
def endSource (i node seq : Nat) (bad : Bool) (payload : List Byte) (s : State) : State :=
  let s := { s with tap := { s.tap with srcs := upd s.tap.srcs i fun c =>
    { c with
        busy := match c.beganAt with
          | some t => (c.busy.bump (now s) (now s - t)).1
          | none => c.busy,
        err := if bad then (c.err.bump (now s) 1).1 else c.err,
        beganAt := none } } }
  traceSource i 1 node seq payload s

/-- R437: a traced test of a unit carries node_id 0xFFFF and pour_seq 0, and needs src_test. -/
def traceTest (u : Nat) (kind : BitVec 3) (payload : List Byte) (s : State) : State :=
  let c := tapCtl s
  if c.1 && c.2.getLsbD 4 then
    pushTrace { stamp := now s, id := BitVec.ofNat 10 (unitId u), kind := kind, node := 0xFFFF, seq := 0,
                payload := sliceBytes payload 0 16 } s
  else s

/-- R450: a sync record. -/
def traceSync (step resid : Int) (ref : Nat) (s : State) : State :=
  if (tapCtl s).1 then
    pushTrace { stamp := now s, id := 0, kind := 3, node := 0xFFFF, seq := 0,
                payload := sliceBytes (leBytes 4 (unsignedOf 32 step) ++ leBytes 2 (unsignedOf 16 resid) ++ leBytes 1 ref) 0 16 } s
  else s

/-- R439: the 32 bytes of a record. -/
def TraceRec.bytes (chip : Nat) (r : TraceRec) : List Byte :=
  leBytes 8 r.stamp ++ leBytes 2 (put 0 10 r.id.toNat + put 10 2 chip + put 12 3 r.kind.toNat) ++
    leBytes 2 r.node.toNat ++ leBytes 4 r.seq.toNat ++ sliceBytes r.payload 0 16

/-- R441: the pad record. -/
def padRecord (s : State) : TraceRec := { stamp := now s, id := 0, kind := 7, node := 0xFFFF, seq := 0, payload := [] }

/-- R442: records the ring holds; log2 acts within 12 to 30. -/
def ringRecords (s : State) : Nat := 2 ^ (max 12 (min 30 s.tap.log2.toNat) - 5)

/-- R442: the ring has room for a line. -/
def ringRoom (s : State) : Bool :=
  let r := ringRecords s
  decide ((s.tap.wr.toNat + r - s.tap.rd.toNat % r) % r ≤ r - 4)

/-- R452: the ring lies wholly in Crucible banks 0 to 55 or in installed DRAM, at a multiple of its size. -/
def ringOk (s : State) : Bool :=
  let l := s.tap.log2.toNat
  let b := s.tap.base.toNat
  decide (12 ≤ l ∧ l ≤ 30) && b % 2 ^ l == 0 &&
    (decide (crucibleBase ≤ b ∧ b + 2 ^ l ≤ stagingBase) ||
      decide (dramBase ≤ b ∧ b + 2 ^ l ≤ dramBase + s.sys.dramUnits * 0x10000000))

/-- R452: the write of TAP_CTRL that takes effect. -/
def writeTapCtl (v : Nat) (s : State) : State :=
  let old := tapCtl s
  let en := bitAt v 0
  let src := BitVec.ofNat 6 (bits v 8 6)
  if en && !s.tap.en && !ringOk s then raise 0x1104 { s with tap := { s.tap with src := src, oldCtl := some (now s, old.1, old.2) } }
  else { s with tap := { s.tap with en := en, src := src, oldCtl := some (now s, old.1, old.2) } }

/-- R453, R515: of the writes of one register unit in one PCLK, those of others than keeper firmware lose the fields that
keeper firmware has written too. A field is given by the mask of its bits. -/
def keeperFirst (fields : List Nat) (l : List HeldWrite) : List HeldWrite :=
  let kept := fun (m : Nat) => fields.filter fun f => (m &&& f) != 0 && l.any fun h => h.keeper && (h.m &&& f) != 0
  l.map fun h => if h.keeper then h else { h with m := (kept h.m).foldl (fun m f => m &&& (f ^^^ (2 ^ 64 - 1))) h.m }

/-- A value after writes of some of its bits. -/
def heldValue (old : Nat) (l : List HeldWrite) : Nat :=
  l.foldl (fun v h => (v &&& (h.m ^^^ (2 ^ 64 - 1))) ||| (h.v &&& h.m)) old

/-- The register unit of TAP_CTRL, and its fields: en, and the enable of each source group. -/
def tapUnit : Nat := 0xE0000
def ctlFields : List Nat := [0x1, 0x100, 0x200, 0x400, 0x800, 0x1000, 0x2000]

/-- R452, R453, R515: the writes of TAP_CTRL of one PCLK, with those of the registers that wait for its end; keeper firmware's
is taken when both write. -/
def execTapCtrlWrite (keeper host : Option Word32) (s : State) : Host.Outcome State Fault Refusal :=
  match s.held.filter fun h => h.off == tapUnit, keeper.orElse fun _ => host with
  | [], none => done s
  | [], some v => done (writeTapCtl v.toNat s)
  | l, _ =>
    let given := fun (k : Bool) (v : Word32) => ({ off := tapUnit, v := v.toNat, m := 2 ^ 32 - 1, keeper := k } : HeldWrite)
    let l := l ++ (keeper.map (given true)).toList ++ (host.map (given false)).toList
    let old := flagNat s.tap.en + put 8 6 s.tap.src.toNat
    done (writeTapCtl (heldValue old (keeperFirst ctlFields l)) (dropHeld tapUnit s))

/-- R448: a global counter has wrapped. A counter of an open selector may wrap at any time. -/
def execCtrOverflow (g : Fin 16) (s : State) : Host.Outcome State Fault Refusal :=
  let c := nth s.tap.glbs g.val {}
  if c.wrapped || selOpen (selNow s c) then
    let s := { s with
      tap := { s.tap with glbs := upd s.tap.glbs g.val fun c => { c with wrapped := false, ovf := true } }
      cyc := { s.cyc with wraps := g.val :: s.cyc.wraps } }
    let s := raise 0x1110 s
    done (if c.irqEn then signalMsix s 17 else s)
  else done s

/-! ### Snapshot reads (R449) -/

/-- The live value of a counter; a free value for a global counter of an open selector. -/
def counterValue (s : State) : CounterName → Word64 × State
  | .global g =>
    let c := nth s.tap.glbs g.val {}
    if selOpen (selNow s c) then drawFree s else (c.ctr.read (now s), s)
  | .sourceCmd i => ((nth s.tap.srcs i.val {}).cmd.read (now s), s)
  | .sourceBusy i =>
    let c := nth s.tap.srcs i.val {}
    (c.busy.read (now s) + (match c.beganAt with
      | some t => BitVec.ofNat 64 (now s - t)
      | none => 0), s)
  | .sourceErr i => ((nth s.tap.srcs i.val {}).err.read (now s), s)
  | .time => (BitVec.ofNat 64 (now s), s)

/-- R447: who may read a counter. -/
def mayReadCounter (s : State) (who : Agent) : CounterName → Bool
  | .global _ => agentKeeperOrHost s who || (match who with
    | .peer _ k => decide (k.val = 1)
    | _ => false)
  | _ => true

/-- R449: the latch that an initiator takes: its own, or the one used least recently of 16. -/
def takeLatch (id : BitVec 10) (c : CounterName) (v : Word64) (l : List Latch) : List Latch :=
  ({ id := id, ctr := c, value := v } :: l.filter fun e => e.id != id).take 16

/-- R449: the low word of a counter. -/
def ctrReadLow (id : Nat) (c : CounterName) (s : State) : Word64 × State :=
  let r := counterValue s c
  (r.1 &&& 0xFFFFFFFF, { r.2 with tap := { r.2.tap with latches := takeLatch (BitVec.ofNat 10 id) c r.1 r.2.tap.latches } })

/-- R449: the high word of a counter. -/
def ctrReadHigh (id : Nat) (c : CounterName) (s : State) : Word64 × State :=
  match s.tap.latches.find? fun e => e.id == BitVec.ofNat 10 id && e.ctr == c with
  | some e =>
    (e.value >>> 32, { s with tap := { s.tap with latches := s.tap.latches.filter fun q => q.id != BitVec.ofNat 10 id } })
  | none =>
    let r := counterValue s c
    (r.1 >>> 32, raise 0x1111 r.2)

end Sys2Proof.Machine
end

