-- ==== Sys2Proof/Machine/Xlt.lean ====
section
/-! DEFINITION. Address translation and firewalls (16_address_space_and_firewalls.md): the walk (R333 to R335), the fixed
rules and programmable regions (R336 to R338), their order and outcomes (R339 to R342). -/

namespace Sys2Proof.Machine

/-! ### Reservation holds (R317) -/

/-- R317, R417: how long a hold lasts at most, and how old a failure may be. -/
def holdSpan (remote : Bool) : Nat := if remote then 512 else 64

/-- R317: a hold whose time has not run out. -/
def holdLive (s : State) (h : Hold) : Bool := decide (now s < h.startedAt + holdSpan h.remote)

/-- R317: a hold of another initiator keeps a write of n bytes waiting. -/
def heldByOther (s : State) (o : Option Owner) (addr n : Nat) : Bool :=
  s.rsr.holds.any fun h => some h.owner != o && decide (h.base < addr + n ∧ addr < h.base + s.rsr.granule) && holdLive s h

/-! ### Translation -/

/-- R342: roots and bindings that rule in this ECLK. -/
def rootsNow (s : State) : List (Bool × BitVec 48) :=
  match s.xlt.old with
  | some (t, r, _) => if t = now s then r else s.xlt.roots
  | none => s.xlt.roots

def bindNow (s : State) : List (Nat × Nat) :=
  match s.xlt.old with
  | some (t, _, b) => if t = now s then b else s.xlt.bind
  | none => s.xlt.bind

/-- R342: the regions that rule in this ECLK. -/
def regionsNow (s : State) : List Region :=
  match s.fwl.old with
  | some (t, r) => if t = now s then r else s.fwl.regions
  | none => s.fwl.regions

/-- R331: the context of an initiator ID. -/
def ctxOf (s : State) (id : Nat) : Nat :=
  match (bindNow s).find? fun b => b.1 == id with
  | some b => b.2
  | none => 0

/-- Why an access is refused: the kinds of XLT_FAULT_INFO and FWL_FAULT_INFO, or PRIV (R340). -/
inductive AccessFault
  | notMapped | permission | walkEcc | badEntry | region | assayer | fixed
  | priv
  deriving DecidableEq, Repr

/-- The kind code of R341. -/
def AccessFault.kind : AccessFault → Nat
  | .notMapped => 1
  | .permission => 2
  | .walkEcc => 3
  | .badEntry => 4
  | .region => 5
  | .assayer => 6
  | .fixed => 7
  | .priv => 0

/-- R340: the ecause detail. -/
def AccessFault.detail : AccessFault → Nat
  | .notMapped => 0
  | .badEntry => 0
  | .walkEcc => 1
  | .permission => 3
  | _ => 4

/-- An address that the map populates. -/
def populated (s : State) (a : Nat) : Bool := placeOf s a != .nowhere

/-- R333: the walker reads no table in the Assayer window, the staging region or an unpopulated place; a root there is as bad as an
entry that names it. -/
def tableBad (s : State) (pa : Nat) : Bool := !populated s pa || within pa asyBase asySize || within pa stagingBase stagingSize

/-- R333: an entry with valid set whose fields are in order; `lvl` is its level. -/
def entryBad (s : State) (lvl e : Nat) : Bool :=
  let pa := bits e 16 32 * 65536
  let table := bitAt e 1
  bits e 6 10 != 0 || bits e 48 16 != 0 ||
    (if table then lvl == 3 || tableBad s pa
     else lvl == 1 || (lvl == 2 && pa % 0x20000000 != 0) || !populated s pa)

/-- R332: the identity of context 0. -/
def identityCheck (s : State) (acc : Access) (addr : Nat) : Option AccessFault :=
  match placeOf s addr, acc with
  | .nowhere, _ => some .notMapped
  | .rom, .write => some .permission
  | .rom, _ => none
  | .crucible, _ => none
  | .dram, _ => none
  | _, .execute => some .permission
  | _, _ => none

/-- R333: what a leaf permits; k asks for keeper mode, and denies it to a task-mode thread as PRIV. -/
def leafCheck (riser keeper : Bool) (acc : Access) (leaf : Nat) : Option AccessFault :=
  let ok := match acc with
    | .read => bitAt leaf 2
    | .write => bitAt leaf 3
    | .execute => bitAt leaf 4
  if !ok then some .permission
  else if bitAt leaf 5 && !keeper then some (if riser then .priv else .permission)
  else none

/-- The physical address of a leaf's access. -/
def leafAddr (leaf : Nat) (block : Bool) (addr : Nat) : Nat :=
  bits leaf 16 32 * 65536 + (if block then addr % 0x20000000 else addr % 0x10000)

/-- R336: the first 4 KiB of ASY, AGE, TST and SFP. -/
def openAssayer (a n : Nat) : Bool :=
  [0, 0x10000, 0x20000, 0x30000].any fun o => decide (asyBase + o ≤ a ∧ a + n ≤ asyBase + o + 0x1000)

/-- R343: F2 still admits boot writes. -/
def bootWrites (s : State) : Bool := decide (s.sys.step.toNat < 9) || s.sys.step9At == now s

/-- R336, R340: the fixed rules; none when they do not cover the access, else the fault or none for an admission. -/
def fixedRule (s : State) (id : Nat) (keeper : Bool) (acc : Access) (a n : Nat) : Option (Option AccessFault) :=
  let riser := decide (id < 0x100)
  let asy := decide (0x3F0 ≤ id)
  if within a asyBase asySize then
    if asy then some (if acc == .execute then some .assayer else none)
    else if acc == .read && openAssayer a n && (id == 0x1A0 || (riser && keeper)) then some none
    else if acc == .read && openAssayer a n && riser then some (some .priv)
    else some (some .assayer)
  else if asy && acc == .write then some (some .assayer)
  else if within a stagingBase stagingSize then
    let any := asy || id == 0x170
    match acc with
    | .read => some (if any || (riser && keeper) then none else if riser then some .priv else some .fixed)
    | .execute => some (if riser && keeper then none else if riser then some .priv else some .fixed)
    | .write =>
      some (if id == 0x170 || ((id == 0x1A0 || (id == 0 && keeper)) && bootWrites s) then none
        else if id == 0 && bootWrites s then some .priv else some .fixed)
  else if within a romBase romSize then
    some (if (riser || asy || id == 0x170) && acc != .write then none else some .fixed)
  else if asy then some none
  else none

/-- R337: a region admits an access. -/
def regionAdmits (r : Region) (id : Nat) (riser keeper : Bool) (acc : Access) (a n : Nat) : Bool :=
  r.en && decide (r.base.toNat * 4096 ≤ a ∧ a + n ≤ r.limit.toNat * 4096 + 4096) &&
    decide (r.idLo.toNat ≤ id ∧ id ≤ r.idHi.toNat) &&
    (match acc with
      | .read => r.r
      | .write => r.w
      | .execute => r.x) &&
    (!r.keeper || !riser || keeper)

/-- R337, R340: the programmable regions. An access through a peer window is checked by the peer's firewall. -/
def regionCheck (s : State) (id : Nat) (keeper : Bool) (acc : Access) (a n : Nat) : Option AccessFault :=
  let riser := decide (id < 0x100) || decide (0x1C0 ≤ id ∧ id < 0x200 ∧ id % 16 < 2)
  match placeOf s a with
  | .peer _ => none
  | _ =>
    if (regionsNow s).any fun r => regionAdmits r id riser keeper acc a n then none
    else if decide (id < 0x100) && !keeper && (regionsNow s).any fun r => regionAdmits r id riser true acc a n then
      some .priv
    else some .region

/-- R339: fixed rules, then programmable regions, on a physical address. -/
def firewall (s : State) (id : Nat) (keeper : Bool) (acc : Access) (a n : Nat) : Option AccessFault :=
  match fixedRule s id keeper acc a n with
  | some r => r
  | none => regionCheck s id keeper acc a n

/-- R341: a fault joins a record. -/
def recordFault (f : FaultRec) (t addr id kind : Nat) (write : Bool) : FaultRec :=
  let fresh : FaultRec :=
    { addr := BitVec.ofNat 48 addr, id := BitVec.ofNat 10 id, kind := BitVec.ofNat 3 kind, write := write,
      more := 0, valid := true, takenAt := t }
  if !f.valid then fresh
  else
    let more := BitVec.ofNat 8 (satAdd 8 f.more.toNat 1)
    if f.takenAt = t ∧ id < f.id.toNat then { fresh with more := more } else { f with more := more }

/-- R340, R341: a fault's record, event and safe state. -/
def reportFault (f : AccessFault) (addr id : Nat) (write : Bool) (s : State) : State :=
  let sx := { s with xlt := { s.xlt with fault := recordFault s.xlt.fault (now s) addr id f.kind write } }
  let sf := { s with fwl := { s.fwl with fault := recordFault s.fwl.fault (now s) addr id f.kind write } }
  match f with
  | .notMapped => raise 0x0C01 sx
  | .permission => raise 0x0C02 sx
  | .walkEcc => detectS1 0x0C03 0 sx
  | .badEntry => raise 0x0C04 sx
  | .region => raise 0x0C10 sf
  | .assayer => detectS2 0x0C11 sf
  | .fixed => raise 0x0C12 sf
  | .priv => s

/-! ### The walk (R333 to R335) -/

/-- R330, R334: the initiator ID of the walker. -/
def walkerId : Nat := 0x174

/-- R340, R341: a read of the walker that the firewall denies. The walker reads nothing in the Assayer window (R333). -/
def denyWalk (f : AccessFault) (a : Nat) (s : State) : State :=
  raise (if f = .fixed then 0x0C12 else 0x0C10)
    { s with fwl := { s.fwl with fault := recordFault s.fwl.fault (now s) a walkerId f.kind false } }

/-- R334, R337, R340: eight bytes that a walk reads under its own ID; a read that the firewall denies is reported and reads 0.
Those of a peer window are free. -/
def walkRead (s : State) (a : Nat) : Nat × State :=
  match firewall s walkerId false .read a 8, placeOf s a with
  | some f, _ => (0, denyWalk f a s)
  | none, .peer _ => ((drawFree s).1.toNat, (drawFree s).2)
  | none, _ => (memNat s a 8, s)

/-- R333, R334: the walk from the entry at address a of level lvl: the leaf and whether it is a block. -/
def walkFrom (addr : Nat) : Nat → Nat → Nat → State → (Except AccessFault (Nat × Bool)) × State
  | 0, _, _, s => (.error .badEntry, s)
  | fuel + 1, lvl, a, s =>
    let r := walkRead s a
    let e := r.1
    if !bitAt e 0 then (.error .notMapped, r.2)
    else if entryBad r.2 lvl e then (.error .badEntry, r.2)
    else if bitAt e 1 then
      let base := bits e 16 32 * 65536
      let idx := if lvl = 1 then bits addr 29 13 else bits addr 16 13
      walkFrom addr fuel (lvl + 1) (base + 8 * idx) r.2
    else (.ok (e, lvl == 2), r.2)

/-- R333, R446: a walk from its root. -/
def walk (root addr : Nat) (s : State) : (Except AccessFault (Nat × Bool)) × State :=
  let s := countSel 9 1 s
  if tableBad s root then (.error .badEntry, s) else walkFrom addr 3 1 (root + 8 * bits addr 42 6) s

/-- R335: the leaf of an address among cached entries. -/
def leafAmong (l : List CacheEntry) (ctx addr : Nat) : Option (Nat × Bool) :=
  (l.find? fun c => c.ctx == ctx &&
    (if c.block then c.page / 0x2000 == addr / 0x20000000 else c.page == addr / 0x10000)).map fun c =>
      (c.leaf.toNat, c.block)

/-- R335: the cached leaf that an address is translated with. While an invalidation is busy, an entry of before it may still serve:
a free value says whether it does. -/
def cachedLeaf (ctx addr : Nat) (s : State) : Option (Nat × Bool) × State :=
  match leafAmong s.xlt.cache ctx addr, leafAmong s.xlt.dying ctx addr with
  | some l, _ => (some l, s)
  | none, none => (none, s)
  | none, some l => (if (drawFree s).1.getLsbD 0 then some l else none, (drawFree s).2)

/-- R335: a leaf that a walk found is cached. -/
def cacheLeaf (ctx addr : Nat) (leaf : Nat × Bool) (s : State) : State :=
  { s with xlt := { s.xlt with cache :=
    { ctx := ctx, page := addr / 0x10000, leaf := BitVec.ofNat 64 leaf.1, block := leaf.2 } :: s.xlt.cache } }

/-- R333 to R335: the leaf of an address in a context with a root: cached, or found by a walk, which may meet an uncorrectable
word. -/
def findLeaf (ctx root addr : Nat) (walkBad : Bool) (s : State) : (Except AccessFault (Nat × Bool)) × State :=
  let c := cachedLeaf ctx addr s
  match c.1 with
  | some l => (.ok l, c.2)
  | none =>
    if walkBad then (.error .walkEcc, countSel 9 1 c.2)
    else
      let r := walk root addr c.2
      (r.1, match r.1 with
        | .ok l => cacheLeaf ctx addr l r.2
        | .error _ => r.2)

/-- R329, R333: the outcome of a leaf: its physical address, which a block can place beyond what is populated. -/
def leafOutcome (s : State) (riser keeper : Bool) (acc : Access) (leaf : Nat × Bool) (addr : Nat) : Except AccessFault Nat :=
  match leafCheck riser keeper acc leaf.1 with
  | some f => .error f
  | none =>
    let pa := leafAddr leaf.1 leaf.2 addr
    if populated s pa then .ok pa else .error .notMapped

/-- R331 to R335: translation in a context; a walk may meet an uncorrectable word. -/
def translateIn (ctx : Nat) (riser keeper : Bool) (acc : Access) (addr : Nat) (walkBad : Bool) (s : State) :
    (Except AccessFault Nat) × State :=
  if ctx = 0 then
    (match identityCheck s acc addr with
      | some f => .error f
      | none => .ok addr, s)
  else
    let root := nth (rootsNow s) ctx (false, 0)
    if !root.1 then (.error .notMapped, s)
    else
      let r := findLeaf ctx root.2.toNat addr walkBad s
      (match r.1 with
        | .error f => .error f
        | .ok l => leafOutcome r.2 riser keeper acc l addr, r.2)

/-- R339: the whole check of an access of n bytes by an initiator, with its reports: the physical address, or the
fault. -/
def checkAccess (id : Nat) (keeper : Bool) (acc : Access) (addr n : Nat) (walkBad : Bool) (s : State) :
    (Except AccessFault Nat) × State :=
  let riser := decide (id < 0x100)
  let r := translateIn (ctxOf s id) riser keeper acc addr walkBad s
  match r.1 with
  | .error f => (.error f, reportFault f addr id (acc == .write) r.2)
  | .ok a =>
    match firewall r.2 id keeper acc a n with
    | some f => (.error f, reportFault f a id (acc == .write) r.2)
    | none => (.ok a, r.2)

/-! ### Units (R331, R337, R340) -/

/-- The pieces of a range, cut at the 4 KiB boundaries on which regions lie (R338). -/
def piecesFrom : Nat → Nat → Nat → List (Nat × Nat)
  | 0, _, _ => []
  | fuel + 1, a, n =>
    if n = 0 then []
    else
      let k := min n (4096 - a % 4096)
      (a, k) :: piecesFrom fuel (a + k) (n - k)

/-- The pieces of n bytes from an address. -/
def pieces (a n : Nat) : List (Nat × Nat) := piecesFrom (n / 4096 + 2) a n

/-- R331: a unit's initiator ID is fixed to context 0; the access of a piece that the map or the firewall denies. -/
def deniedPiece (s : State) (id : Nat) (acc : Access) (q : Nat × Nat) : Bool :=
  (identityCheck s acc q.1).isSome || (firewall s id false acc q.1 q.2).isSome

/-- R337, R340: some access of a unit to n bytes from an address is denied. -/
def unitDenied (s : State) (id : Nat) (acc : Access) (a n : Nat) : Bool := (pieces a n).any (deniedPiece s id acc)

/-- R340: a denied access of a unit is reported, once for the range. -/
def reportDenied (id : Nat) (acc : Access) (a n : Nat) (s : State) : State :=
  match (pieces a n).find? (deniedPiece s id acc) with
  | some q => (checkAccess id false acc q.1 q.2 false s).2
  | none => s

/-- R340: a write of a unit that translation and firewall admit; a denied one is reported and not performed. -/
def unitWrite (id a : Nat) (bs : List Byte) (s : State) : State :=
  if unitDenied s id .write a bs.length then reportDenied id .write a bs.length s else physWrite s a bs

/-- R335: a write of XLT_INV: the caches are cleared of one context, or of all. -/
def startInv (ctx : Nat) (everything : Bool) (s : State) : State :=
  let gone := if everything then List.range 64 else [ctx]
  { s with xlt := { s.xlt with
    invBusy := (gone ++ s.xlt.invBusy).dedup, cache := s.xlt.cache.filter fun c => !gone.contains c.ctx,
    dying := (s.xlt.cache.filter fun c => gone.contains c.ctx) ++ s.xlt.dying } }

/-- R335: no access can begin translation with an old entry any longer. -/
def execXltInvDone (s : State) : Host.Outcome State Fault Refusal :=
  done { s with xlt := { s.xlt with invBusy := [], dying := [] } }

/-- R342: the state in which the current values of XLT rule until the ECLK ends. -/
def keepXlt (s : State) : State :=
  match s.xlt.old with
  | some (t, _, _) =>
    if t = now s then s else { s with xlt := { s.xlt with old := some (now s, s.xlt.roots, s.xlt.bind) } }
  | none => { s with xlt := { s.xlt with old := some (now s, s.xlt.roots, s.xlt.bind) } }

/-- R342: the state in which the current regions rule until the ECLK ends. -/
def keepFwl (s : State) : State :=
  match s.fwl.old with
  | some (t, _) => if t = now s then s else { s with fwl := { s.fwl with old := some (now s, s.fwl.regions) } }
  | none => { s with fwl := { s.fwl with old := some (now s, s.fwl.regions) } }

/-- R338, R513: a region is changed, unless it is locked. -/
def writeRegion (r : Nat) (f : Region → Region) (s : State) : State :=
  if (nth s.fwl.regions r {}).lock then raise 0x0C13 s
  else
    let s := keepFwl s
    { s with fwl := { s.fwl with regions := upd s.fwl.regions r f } }

end Sys2Proof.Machine
end

