-- ==== Sys2Proof/Machine/VenRun.lean ====
section
/-! DEFINITION. One vision engine command as a whole: its planes, halves and predictions (R175, R183, R197, R202), what
it writes, counts and raises (R168 to R171, R178), and its cycles (R182, R201). -/

namespace Sys2Proof.Machine

/-- A pour in flight. -/
def pourOf (s : State) (r : PourRef) : Option Pour := s.fgs.pours.find? fun q => q.ref == r

/-- R149, R183: the half of a plane's buffer that a pour reads as current. -/
def halfRead (p : Pattern) (q : Pour) (d : PlaneDesc) : Nat :=
  if d.cls = 0 then
    (match nodeOf p.nodes d.node with
      | some n =>
        let port := leAt (paramOf p n) 0 1
        (match q.frames.find? fun f => f.1 == port with
          | some f => f.2 % 2
          | none => q.ref.seq % 2)
      | none => 0)
  else if d.halves = 2 then q.ref.seq % 2 else 0

/-- R197: the pour before this one of the same graph retired without abort since the swap point. -/
def prevValid (s : State) (q : Pour) : Bool :=
  (nth s.fgs.slots q.ref.slot {}).lastGood == some ((q.ref.seq + 2 ^ 32 - 1) % 2 ^ 32)

/-- Where a node's output lies: base and rounded half length. -/
def outPlace (p : Pattern) (n : NodeRec) : Nat × Nat :=
  match (edgeAt p (outEdgeOf n (paramOf p n))).bind fun e => bufOf p e.buffer with
  | some q => (q.base, outHalf p n)
  | none => (0, 0)

/-- R183: where a pour's output half begins. -/
def outBase (p : Pattern) (n : NodeRec) (seq : Nat) : Nat :=
  let o := outPlace p n
  o.1 + (if halvesOf n (paramOf p n) = 2 then seq % 2 else 0) * o.2

/-- Bytes of an output element of Flow or Stereo. -/
def elemBytes (n : NodeRec) : Nat := if n.cls = 4 then 4 else 2

/-- R175, R202: the prediction at a block's position, none when its confidence is 0 or there is no valid output. -/
def predictionAt (s : State) (p : Pattern) (q : Pour) (n : NodeRec) (bx bY : Nat) : Option Vec :=
  let h := venHdr (paramOf p n)
  let src : Option (NodeRec × Nat) :=
    if h.predEdge = 0xFFFE then (if prevValid s q then some (n, outBase p n (q.ref.seq + 1)) else none)
    else ((edgeAt p h.predEdge).bind fun e => nodeOf p.nodes e.src).map fun m => (m, outBase p m q.ref.seq)
  match src with
  | none => none
  | some (m, base) =>
    let d := outDims p m
    let eb := elemBytes m
    let k := 2 ^ h.blockLog2
    let x := bx * k
    let y := bY * k
    let c := memNat s (base + planeLen d.1 d.2 eb + y * alignUp d.1 64 + x) 1
    if c = 0 then none
    else
      let a := base + y * alignUp (d.1 * eb) 64 + x * eb
      if m.cls = 4 then
        some (whole16 (signedOf 16 (memNat s a 2)), whole16 (signedOf 16 (memNat s (a + 2) 2)))
      else some (whole16 (memNat s a 2), 0)

/-- The sample functions of a pyramid, level 0 being the plane itself in its own half. R183: the upper levels lie in the
half that the Pyramid node wrote in the pour with the pour_seq given. -/
def levelPix (s : State) (p : Pattern) (d : PlaneDesc) (half : Nat) (edge seq : Nat) (l : Nat) : Int → Int → Nat :=
  if l = 0 then planePix s d half
  else match planeOf p edge l with
    | some e => planePix s e (if e.halves = 2 then seq % 2 else 0)
    | none => planePix s d half

/-- A search with no candidate. -/
def noSearch : Search := { cands := [], cost := fun _ => 0 }

/-- How a block is searched in a pass: by its window, by descent, or not at all (R174, R175). -/
inductive SearchMode
  | window (pred : Vec) | descend | nothing
  deriving DecidableEq, Repr

/-- R174, R175: the search mode of a block. -/
def searchMode (s : State) (p : Pattern) (q : Pour) (n : NodeRec) (refined : Bool) (bx bY : Nat) : SearchMode :=
  let h := venHdr (paramOf p n)
  if descent n then .descend
  else match predictionAt s p q n bx bY with
    | some v => .window v
    | none => if refined && h.pyrEdge != 0xFFFF then .descend else .nothing

/-- R196 to R198, R173: Flow with a valid previous plane. -/
def flowPlan (s : State) (p : Pattern) (q : Pour) (n : NodeRec) (d : PlaneDesc) : VenPlan :=
  let b := paramOf p n
  let h := venHdr b
  let dims := outDims p n
  let st := 2 ^ leAt b 0x24 1
  let k := 2 ^ h.blockLog2
  let out := outBase p n q.ref.seq
  let cur := halfRead p q d
  let planes := fun l => (levelPix s p d cur h.pyrEdge q.ref.seq l, levelPix s p d (1 - cur) h.pyrEdge (q.ref.seq + 1) l)
  let back := fun l => ((planes l).2, (planes l).1)
  let srch := fun (forward : Bool) (m : SearchMode) (refined : Bool) (x y : Int) =>
    let lo := if forward then h.rangeMin else -h.rangeMax
    let hi := if forward then h.rangeMax else -h.rangeMin
    let pl := if forward then planes else back
    let r := passRadius refined
    match m with
    | .descend => descentSearch pl true 1 lo hi h.topLevel h.descWin r h.topLevel 0 x y
    | .window v =>
      let c : Vec := if forward then v else (-v.1, -v.2)
      { cands := window2 c h.win (lo, hi), cost := fun v => censusCost (pl 0).1 (pl 0).2 r x y (x + v.1) (y + v.2) }
    | .nothing => noSearch
  let elem := fun (refined : Bool) (ex ey : Nat) =>
    let m := searchMode s p q n refined (ex / k) (ey / k)
    if m = .nothing then
      ({ v := ((Config.invalidElement ex ey % 65536 : Nat), (Config.invalidElement ey ex % 65536 : Nat)), c := 0,
         zeroed := false } : Match)
    else flowMatch (srch true m) (srch false m) d.w d.h h.lrTol refined (ex * st : Nat) (ey * st : Nat)
  { bw := ceilDiv dims.1 k, bh := ceilDiv dims.2 k
    conf := fun r bx bY => (blockCells k dims.1 dims.2 bx bY).map fun c => (elem r c.1 c.2).c
    put := fun r bx bY => (blockCells k dims.1 dims.2 bx bY).flatMap fun c =>
      let e := elem r c.1 c.2
      [(out + c.2 * alignUp (dims.1 * 4) 64 + c.1 * 4, leBytes 2 (unsignedOf 16 e.v.1) ++ leBytes 2 (unsignedOf 16 e.v.2)),
       (out + planeLen dims.1 dims.2 4 + c.2 * alignUp dims.1 64 + c.1, leBytes 1 e.c)]
    count := fun _ _ _ => 0
    invalid := fun bx bY => !descent n && (predictionAt s p q n bx bY).isNone
    upper := fun _ _ _ => [] }

/-- R197: Flow without a valid previous plane; R175, R202: its blocks have pred_invalid by the same rule as with one. -/
def flowNone (s : State) (p : Pattern) (q : Pour) (n : NodeRec) : VenPlan :=
  let dims := outDims p n
  let k := 2 ^ leAt (paramOf p n) 0 1
  let out := outBase p n q.ref.seq
  { bw := ceilDiv dims.1 k, bh := ceilDiv dims.2 k
    conf := fun _ bx bY => (blockCells k dims.1 dims.2 bx bY).map fun _ => 0
    put := fun _ bx bY => (blockCells k dims.1 dims.2 bx bY).flatMap fun c =>
      [(out + c.2 * alignUp (dims.1 * 4) 64 + c.1 * 4, leBytes 4 0),
       (out + planeLen dims.1 dims.2 4 + c.2 * alignUp dims.1 64 + c.1, leBytes 1 0)]
    count := fun _ _ _ => 0
    invalid := fun bx bY => !descent n && (predictionAt s p q n bx bY).isNone
    upper := fun _ _ _ => [] }

/-- R199, R200, R173: Stereo. -/
def stereoPlan (s : State) (p : Pattern) (q : Pour) (n : NodeRec) (d : PlaneDesc) : VenPlan :=
  let b := paramOf p n
  let h := venHdr b
  let k := 2 ^ h.blockLog2
  let out := outBase p n q.ref.seq
  let right := (planeOf p (leAt b 0x22 2) 1).getD d
  let hl := halfRead p q d
  let hr := halfRead p q right
  let planes := fun l => (levelPix s p d hl h.pyrEdge q.ref.seq l, levelPix s p right hr (leAt b 0x26 2) q.ref.seq l)
  let left := fun (refined : Bool) (y x : Int) =>
    let r := passRadius refined
    match searchMode s p q n refined (x.toNat / k) (y.toNat / k) with
    | .descend => descentSearch planes false (-1) h.rangeMin h.rangeMax h.topLevel h.descWin r h.topLevel 0 x y
    | .window v =>
      { cands := window1 v h.win (h.rangeMin, h.rangeMax)
        cost := fun v => censusCost (planes 0).1 (planes 0).2 r x y (x - v.1) y }
    | .nothing => noSearch
  let rght := fun refined (y : Int) => rightSearch (left refined y) h.rangeMin h.rangeMax d.w
  let elem := fun (refined : Bool) (x y : Nat) =>
    if searchMode s p q n refined (x / k) (y / k) = .nothing then
      ({ v := ((Config.invalidElement x y % 65536 : Nat), 0), c := 0, zeroed := false } : Match)
    else stereoMatch (left refined y) (rght refined y) (-1) d.w h.lrTol refined x
  let elemR := fun (refined : Bool) (x y : Nat) =>
    stereoMatch (rght refined y) (left refined y) 1 d.w h.lrTol refined x
  let second := planeLen d.w d.h 2 + planeLen d.w d.h 1
  { bw := ceilDiv d.w k, bh := ceilDiv d.h k
    conf := fun r bx bY => (blockCells k d.w d.h bx bY).map fun c => (elem r c.1 c.2).c
    put := fun r bx bY => (blockCells k d.w d.h bx bY).flatMap fun c =>
      let e := elem r c.1 c.2
      let o := c.2 * alignUp (d.w * 2) 64 + c.1 * 2
      let oc := planeLen d.w d.h 2 + c.2 * alignUp d.w 64 + c.1
      [(out + o, leBytes 2 (unsignedOf 16 e.v.1)), (out + oc, leBytes 1 e.c)] ++
      (if leAt b 0x29 1 = 1 then
        let e' := elemR r c.1 c.2
        [(out + second + o, leBytes 2 (unsignedOf 16 e'.v.1)), (out + second + oc, leBytes 1 e'.c)]
       else [])
    count := fun r bx bY => ((blockCells k d.w d.h bx bY).filter fun c => (elem r c.1 c.2).zeroed).length
    invalid := fun bx bY => !descent n && (predictionAt s p q n bx bY).isNone
    upper := fun _ _ _ => [] }

/-- The plan of a node of class 1 to 5 in a pour. -/
def venPlanOf (s : State) (p : Pattern) (q : Pour) (n : NodeRec) : Option VenPlan :=
  let b := paramOf p n
  let h := venHdr b
  let k := 2 ^ h.blockLog2
  let out := outBase p n q.ref.seq
  (inPlane p n).map fun d =>
    let half := halfRead p q d
    match n.cls with
    | 1 => pyramidPlan s k (leAt b 0x20 1) out d half
    | 2 => warpPlan s k out d half ((bufPlace p (leAt b 0x22 2)).getD (0, 0)).1 (leAt b 0x26 1)
    | 3 => featurePlan s k out d half (leAt b 0x25 1) (leAt b 0x26 1) (leAt b 0x27 1) (leAt b 0x28 2)
    | 4 => if prevValid s q then flowPlan s p q n d else flowNone s p q n
    | _ => stereoPlan s p q n d

/-! ### Cycles (R182, R201) -/

/-- R201: k of a Flow or Stereo node as a fraction; `down` asks for the descent. -/
def candidates (n : NodeRec) (h : VenHdr) (down : Bool) : Nat × Nat :=
  let sq := fun v => if n.cls = 4 then v * v else v
  let r := if down then
      let span := fun l => let q := scaledRange h.rangeMin h.rangeMax l; (q.2 - q.1 + 1).toNat
      let top := h.topLevel
      (sq (span top) + sumNat ((List.range top).map fun l => sq (min (2 * h.descWin + 1) (span l)) * 4 ^ (top - l)),
        4 ^ top)
    else (sq (min (2 * h.win + 1) (h.rangeMax - h.rangeMin + 1).toNat), 1)
  if n.cls = 4 then (2 * r.1, r.2) else r

/-- R182: cycles for v elements at the rate min(cap, per / k), rounded up. -/
def rateCycles (v cap per : Nat) (k : Nat × Nat) : Nat :=
  if cap * k.1 ≤ per * k.2 then ceilDiv v cap else ceilDiv (v * k.1) (per * k.2)

/-- R182: ECLK of the coarse pass, without stalls. -/
def coarseCycles (p : Pattern) (n : NodeRec) : Nat :=
  match inPlane p n with
  | none => 0
  | some d =>
    let h := venHdr (paramOf p n)
    let dims := outDims p n
    match n.cls with
    | 1 => ceilDiv (d.w * d.h) (if d.bpp = 1 then 8 else 4)
    | 2 => ceilDiv (d.w * d.h) 4
    | 3 => ceilDiv (d.w * d.h) 4
    | 4 => rateCycles (dims.1 * dims.2) 4 256 (candidates n h (descent n))
    | _ => rateCycles (dims.1 * dims.2) 8 512 (candidates n h (descent n))

/-- R182: ECLK of the refine pass over blocks of given element counts, without stalls. A Feature block counts its
filled slots; a block that falls back to descent runs at the descent k (R201). -/
def refineCycles (n : NodeRec) (h : VenHdr) (cells : List (Nat × Bool)) : Nat :=
  let tot := fun (down : Bool) => sumNat ((cells.filter fun c => c.2 == down).map Prod.fst)
  match n.cls with
  | 1 => ceilDiv (sumNat (cells.map Prod.fst)) 2
  | 2 => sumNat (cells.map Prod.fst)
  | 3 => 160 * sumNat (cells.map Prod.fst)
  | 4 => rateCycles (tot false) 1 64 (candidates n h (descent n)) + rateCycles (tot true) 1 64 (candidates n h true)
  | _ => rateCycles (tot false) 2 128 (candidates n h (descent n)) + rateCycles (tot true) 2 128 (candidates n h true)

/-! ### The outcome of a command -/

/-- What a command leaves: the units in which it writes, in order, its counts and its events. -/
structure VenOutcome where
  /-- R168: each unit is written whole or not at all: a block's elements, confidences and doubt byte in one pass, the skipped
  bit of a block, or a row of an upper level. -/
  units : List Writes := []
  /-- R170, R176: how many units have been written when each band is final. -/
  bandEnds : List Nat := []
  flagged : Nat := 0
  refined : Nat := 0
  skipped : Nat := 0
  count : Nat := 0
  events : List EventCode := []
  clsBits : BitVec 3 := 0
  coarse : Nat := 0
  refine : Nat := 0
  deriving DecidableEq, Repr, Inhabited

/-- The band of a block row in tile buffering (R170); 0 in whole-frame buffering. -/
def bandOfBlock (p : Pattern) (n : NodeRec) (bY : Nat) : Nat :=
  match (p.nodes.filter fun m => m.cls == 0 && m.slot == n.slot).head?, inPlane p n with
  | some isp, some d =>
    let c := ispCfgOf p isp
    if c.tile then
      let scale := ceilDiv c.h (max 1 (outDims p n).2)
      let _ := d
      bY * 2 ^ leAt (paramOf p n) 0 1 * scale / max 1 c.bandRows
    else 0
  | _, _ => 0

/-- The refine pass of a command: what it selects, in order (R170); a Flow command without a valid previous plane has none
(R197). -/
structure VenPasses where
  plan : VenPlan
  hdr : VenHdr
  noPrev : Bool
  blocks : List BlockDoubt
  order : List BlockDoubt

/-- R169, R170, R197: the coarse pass of a command and what its refine pass would take. -/
def venPasses (s : State) (p : Pattern) (q : Pour) (n : NodeRec) : Option VenPasses :=
  (venPlanOf s p q n).map fun pl =>
    let h := venHdr (paramOf p n)
    let noPrev := n.cls == 4 && !prevValid s q
    let bs := coarseDoubts pl h.confLo h.doubtThr
    let bs := if noPrev then bs.map fun b => { b with doubt := 15, flagged := true } else bs
    { plan := pl, hdr := h, noPrev := noPrev, blocks := bs
      order := if refineOn n && !noPrev then refineOrder (bandOfBlock p n) bs h.budget else [] }

/-- R182, R201: ECLK of the refine pass over blocks. A block without a prediction that no descent searches takes no time
(assumption 34). -/
def VenPasses.refineTime (v : VenPasses) (n : NodeRec) (taken : List BlockDoubt) : Nat :=
  let searched := taken.filter fun b => !(b.invalid && v.hdr.pyrEdge == 0xFFFF)
  refineCycles n v.hdr (searched.map fun b => ((v.plan.conf true b.bx b.bY).length, b.invalid))

/-- R168, R170, R176: the units of a command whose refine pass takes the blocks given, band by band: a band is refined once the
coarse pass has finished the next one. The second part says after how many units each band is final. -/
def VenPasses.units (v : VenPasses) (p : Pattern) (n : NodeRec) (taken : List BlockDoubt) : List Writes × List Nat :=
  let pl := v.plan
  let k := 2 ^ v.hdr.blockLog2
  let base := ((bufPlace p v.hdr.doubtBuf).getD (0, 0)).1
  let band := fun (b : BlockDoubt) => bandOfBlock p n b.bY
  let refining := refineOn n && !v.noPrev
  let ref := fun bx bY => taken.any fun b => b.bx == bx && b.bY == bY
  let doubt := fun (b : BlockDoubt) (refined skipped : Bool) =>
    (base + b.bY * alignUp pl.bw 64 + b.bx, [doubtByte b refined skipped])
  let nb := bandOfBlock p n (pl.bh - 1) + 1
  let rows := fun i => k * ((List.range pl.bh).filter fun y => decide (bandOfBlock p n y < i)).length
  let coarse := fun i => (v.blocks.filter fun b => band b == i).map fun b =>
    pl.put false b.bx b.bY ++ [doubt b false (v.noPrev && b.flagged)]
  let final := fun i =>
    ((taken.filter fun b => band b == i).map fun b => pl.put true b.bx b.bY ++ [doubt b true false]) ++
    ((v.blocks.filter fun b => refining && band b == i && b.flagged && !ref b.bx b.bY).map fun b => [doubt b false true]) ++
    pl.upper ref (rows i) (rows (i + 1))
  let lag := if refining then 1 else 0
  let segs := (List.range (nb + lag)).map fun i => coarse i ++ (if lag ≤ i then final (i - lag) else [])
  (segs.flatten, (List.range nb).map fun b => sumNat ((segs.take (b + 1 + lag)).map List.length))

/-- R168 to R171: a command whose refine pass took `done` of the blocks it selects; none means all of them. -/
def runVen (s : State) (p : Pattern) (q : Pour) (n : NodeRec) (doneBlocks : Option Nat) : VenOutcome :=
  match venPasses s p q n with
  | none => {}
  | some v =>
    let pl := v.plan
    let bs := v.blocks
    let taken := match doneBlocks with
      | some k => v.order.take k
      | none => v.order
    let ref := fun bx bY => taken.any fun b => b.bx == bx && b.bY == bY
    let skipped := (bs.filter fun b => b.flagged && (refineOn n || v.noPrev) && !ref b.bx b.bY).length
    let cnt := sumNat (bs.map fun b => pl.count (ref b.bx b.bY) b.bx b.bY)
    let oob := n.cls == 2 && (decide (0 < cnt) || bs.any fun b => decide (0 < pl.count false b.bx b.bY))
    let drop := n.cls == 3 && bs.any fun b => decide (0 < pl.count false b.bx b.bY)
    let u := v.units p n taken
    { units := u.1, bandEnds := u.2
      flagged := (bs.filter BlockDoubt.flagged).length, refined := taken.length, skipped := skipped
      count := match n.cls with
        | 2 => cnt
        | 3 => sumNat (bs.map fun b => pl.count false b.bx b.bY)
        | 4 => flagNat v.noPrev
        | 5 => cnt
        | _ => 0
      events := (if bs.any BlockDoubt.invalid then [0x0707] else []) ++ (if v.noPrev then [0x0710] else []) ++
        (if drop then [0x0711] else []) ++ (if oob then [0x0712] else []) ++ (if 0 < skipped then [0x0706] else [])
      clsBits := BitVec.ofNat 3 (put 0 1 (flagNat v.noPrev) + put 1 1 (flagNat drop) + put 2 1 (flagNat oob))
      coarse := coarseCycles p n
      refine := v.refineTime n taken }

/-- R178: how many blocks the refine pass has completed in the ECLK given to it. -/
def refinedIn (s : State) (p : Pattern) (q : Pour) (n : NodeRec) (time : Nat) : Nat :=
  match venPasses s p q n with
  | none => 0
  | some v =>
    ((List.range v.order.length).filter fun i => decide (v.refineTime n (v.order.take (i + 1)) ≤ time)).length

/-! ### What a command reads and writes (R179) -/

/-- The initiator ID of a physical instance of a node's class (R163). -/
def engineId (cls phys : Nat) : Nat := 0x100 + 0x10 * phys + 2 * (cls + 1)

/-- The range of a plane's half. -/
def planeRange (d : PlaneDesc) (half : Nat) : Nat × Nat := (d.base + half * d.halfSize + d.off, d.stride * d.h)

/-- R174, R189, R196, R199, R202: the ranges that a command reads. -/
def venReads (s : State) (p : Pattern) (q : Pour) (n : NodeRec) : List (Nat × Nat) :=
  let b := paramOf p n
  let h := venHdr b
  let pyramid := fun (edge seq : Nat) => ((List.range h.topLevel).filterMap fun l => planeOf p edge (l + 1)).map fun d =>
    planeRange d (if d.halves = 2 then seq % 2 else 0)
  let plane := fun (d : PlaneDesc) => planeRange d (halfRead p q d)
  let own := ((inPlane p n).map plane).toList
  let pred := if (n.cls = 4 ∨ n.cls = 5) ∧ !descent n then
      (if h.predEdge = 0xFFFE then (if prevValid s q then [(outBase p n (q.ref.seq + 1), outHalf p n)] else [])
       else (((edgeAt p h.predEdge).bind fun e => nodeOf p.nodes e.src).map fun m =>
        (outBase p m q.ref.seq, outHalf p m)).toList)
    else []
  own ++ pred ++ match n.cls with
    | 2 => (bufPlace p (leAt b 0x22 2)).toList
    | 4 =>
      if prevValid s q then
        ((inPlane p n).map fun d => planeRange d (1 - halfRead p q d)).toList ++ pyramid h.pyrEdge q.ref.seq ++
          pyramid h.pyrEdge (q.ref.seq + 1)
      else []
    | 5 => ((planeOf p (leAt b 0x22 2) 1).map plane).toList ++ pyramid h.pyrEdge q.ref.seq ++
        pyramid (leAt b 0x26 2) q.ref.seq
    | _ => []

/-- R168, R183: the ranges that a command writes: its output half and its doubt map. -/
def venTargets (p : Pattern) (q : Pour) (n : NodeRec) : List (Nat × Nat) :=
  let k := blockDims p n
  (outBase p n q.ref.seq, outHalf p n) ::
    ((bufPlace p (venHdr (paramOf p n)).doubtBuf).map fun b => (b.1, alignUp k.1 64 * k.2)).toList

/-- R179, R340: the first access of a command that the map or the firewall denies, its reads before its writes. -/
def venDenied (s : State) (id : Nat) (p : Pattern) (q : Pour) (n : NodeRec) : Option (Access × Nat × Nat) :=
  (((venReads s p q n).map fun r => (Access.read, r.1, r.2)) ++
    ((venTargets p q n).map fun r => (Access.write, r.1, r.2))).find? fun r => unitDenied s id r.1 r.2.1 r.2.2

/-- Memory with a unit's writes made in order; a denied one is not performed (R340). -/
def applyWrites (id : Nat) (s : State) (ws : Writes) : State :=
  ws.foldl (fun s w => if unitDenied s id .write w.1 w.2.length then s else physWrite s w.1 w.2) s

/-! ### The token (R166) -/

/-- R166: the completion token. -/
def venToken (n status phys seq flagged refined skipped detail : Nat) : List Byte :=
  leBytes 2 n ++ leBytes 1 status ++ leBytes 1 phys ++ leBytes 4 seq ++ leBytes 2 (min 65535 flagged) ++
    leBytes 2 (min 65535 refined) ++ leBytes 2 (min 65535 skipped) ++ leBytes 2 detail

/-- R165: the fields of a node's command that the pattern gives: class, mode, edges and parameter block. -/
def cmdHead (p : Pattern) (n : NodeRec) : CmdHead :=
  let ins := (p.edges.zipIdx).filter fun e => e.1.dst == n.nodeId
  let outs := (p.edges.zipIdx).filter fun e => e.1.src == n.nodeId
  { cls := n.cls, mode := n.mode, inFirst := (ins.head?.map Prod.snd).getD 0, inCount := ins.length, outCount := outs.length,
    outFirst := (outs.head?.map Prod.snd).getD 0, paramOff := n.paramOff, paramLen := n.paramLen }

/-- R165: the 32 bytes of a command as the FGS writes it. -/
def commandBytes (node : Nat) (h : CmdHead) (seq origin : Nat) : List Byte :=
  leBytes 2 node ++ leBytes 1 h.cls ++ leBytes 1 h.mode ++ leBytes 4 seq ++ leBytes 8 origin ++ leBytes 2 h.inFirst ++
    leBytes 1 h.inCount ++ leBytes 1 h.outCount ++ leBytes 2 h.outFirst ++ leBytes 2 0 ++ leBytes 4 h.paramOff ++
    leBytes 4 h.paramLen

end Sys2Proof.Machine
end

