-- ==== Sys2Proof/Machine/NeuPix.lean ====
section
/-! DEFINITION. The arithmetic of the Neural Engine: number formats, accumulation, requantisation, and the elements of
a tile (R236, R240 to R243, R253 to R255). -/

namespace Sys2Proof.Machine

/-! ### Binary floating point -/

/-- A floating-point datum; a finite one is (-1)^neg * m * 2^e, exact. -/
inductive Fp
  | nan
  | inf (neg : Bool)
  | fin (neg : Bool) (m : Nat) (e : Int)
  deriving DecidableEq, Repr, Inhabited

/-- Exponent and fraction bits of out_type 3 FP16, 4 BF16, 5 FP32. -/
def fpShape (t : Nat) : Nat × Nat :=
  match t with
  | 3 => (5, 10)
  | 4 => (8, 7)
  | _ => (8, 23)

/-- The datum of a bit pattern; subnormals are kept (R241). -/
def fpDecode (t v : Nat) : Fp :=
  let s := fpShape t
  let neg := bitAt v (s.1 + s.2)
  let ex := bits v s.2 s.1
  let f := bits v 0 s.2
  let bias : Int := 2 ^ (s.1 - 1) - 1
  if ex = 2 ^ s.1 - 1 then (if f = 0 then .inf neg else .nan)
  else if ex = 0 then .fin neg f (1 - bias - s.2)
  else .fin neg (2 ^ s.2 + f) (ex - bias - s.2)

/-- The canonical quiet NaN of a type (R241). -/
def fpNaN (t : Nat) : Nat :=
  match t with
  | 3 => 0x7E00
  | 4 => 0x7FC0
  | _ => 0x7FC00000

/-- m / 2^k rounded to nearest, ties to even. -/
def rneShift (m k : Nat) : Nat :=
  let q := m / 2 ^ k
  let r := m % 2 ^ k
  if k = 0 then m
  else if 2 * r < 2 ^ k then q
  else if 2 ^ k < 2 * r then q + 1
  else if q % 2 = 0 then q else q + 1

/-- A datum rounded to a type: nearest, ties to even; an overflow gives a signed infinity (R241, R242). -/
def fpRound (t : Nat) (a : Fp) : Nat :=
  let s := fpShape t
  let sign := fun (neg : Bool) => if neg then 2 ^ (s.1 + s.2) else 0
  let bias : Int := 2 ^ (s.1 - 1) - 1
  match a with
  | .nan => fpNaN t
  | .inf neg => sign neg + (2 ^ s.1 - 1) * 2 ^ s.2
  | .fin neg m e =>
    if m = 0 then sign neg
    else
      let emin : Int := 1 - bias - s.2
      -- the exponent at which the significand has s.2 + 1 bits, not below that of the subnormals
      let want : Int := max emin (e + Nat.log2 m - s.2)
      let q := if e ≤ want then rneShift m (want - e).toNat else m * 2 ^ (e - want).toNat
      let top := if q = 2 ^ (s.2 + 1) then (2 ^ s.2, want + 1) else (q, want)
      if top.1 < 2 ^ s.2 then sign neg + top.1
      else
        let ex := top.2 + bias + s.2
        if (2 : Int) ^ s.1 - 1 ≤ ex then sign neg + (2 ^ s.1 - 1) * 2 ^ s.2
        else sign neg + ex.toNat * 2 ^ s.2 + (top.1 - 2 ^ s.2)

/-- An exact product. -/
def fpMul : Fp → Fp → Fp
  | .nan, _ => .nan
  | _, .nan => .nan
  | .inf a, .inf b => .inf (a != b)
  | .inf a, .fin b m _ => if m = 0 then .nan else .inf (a != b)
  | .fin a m _, .inf b => if m = 0 then .nan else .inf (a != b)
  | .fin a m e, .fin b n f => .fin (a != b) (m * n) (e + f)

/-- An exact sum; the zero sum of unlike signs is +0. -/
def fpSum : Fp → Fp → Fp
  | .nan, _ => .nan
  | _, .nan => .nan
  | .inf a, .inf b => if a = b then .inf a else .nan
  | .inf a, _ => .inf a
  | _, .inf b => .inf b
  | .fin a m e, .fin b n f =>
    let g := min e f
    let x : Int := (m * 2 ^ (e - g).toNat : Nat)
    let y : Int := (n * 2 ^ (f - g).toNat : Nat)
    let v := (if a then -x else x) + (if b then -y else y)
    if v = 0 then .fin (a && b) 0 g else .fin (decide (v < 0)) v.natAbs g

/-- R241: the binary32 sum. -/
def fpAdd32 (a b : Fp) : Fp := fpDecode 5 (fpRound 5 (fpSum a b))

/-- A rank of data by value, for comparison with clamps; only for data that are no NaN. -/
def fpLt (a b : Fp) : Bool :=
  match a, b with
  | .nan, _ => false
  | _, .nan => false
  | .inf x, .inf y => x && !y
  | .inf x, _ => x
  | _, .inf y => !y
  | .fin x m e, .fin y n f =>
    let g := min e f
    let u : Int := (m * 2 ^ (e - g).toNat : Nat)
    let v : Int := (n * 2 ^ (f - g).toNat : Nat)
    decide ((if x then -u else u) < (if y then -v else v))

/-- A NaN or an infinity. -/
def fpSpecial : Fp → Bool
  | .fin _ _ _ => false
  | _ => true

/-! ### Tensors -/

/-- R253: the half a pour uses. -/
def tensorHalf (t : TDesc) (seq : Nat) : Nat := if t.halves = 2 then seq % 2 else 0

/-- R253: the byte address at which a tensor's half begins. -/
def tensorBase (p : Pattern) (t : TDesc) (seq : Nat) : Nat :=
  ((bufOf p t.buffer).map BufRec.base).getD 0 + t.offset + tensorHalf t seq * t.halfSize

/-- What an array reads at an address. -/
abbrev Reader := Nat → Byte

/-- R253: the first byte of an element, and how many it has; an INT4 element lies in one byte. -/
def elemBytesAt (p : Pattern) (t : TDesc) (seq y x ch : Nat) : Nat × Nat :=
  (tensorBase p t seq + elemNibble t y x ch / 2, max 1 (nibbles t.etype / 2))

/-- R253, R254: the raw bits of an element. -/
def elemRaw (rd : Reader) (p : Pattern) (t : TDesc) (seq y x ch : Nat) : Nat :=
  let a := elemBytesAt p t seq y x ch
  let v := leNat ((List.range a.2).map fun i => rd (a.1 + i))
  if t.etype = 1 then bits v (4 * (elemNibble t y x ch % 2)) 4 else v

/-- The number an integer element holds. -/
def intElem (t : TDesc) (raw : Nat) : Int := signedOf (4 * nibbles t.etype) raw

/-- An accumulator value. -/
inductive Acc
  | int (v : Int) (sats : Nat)
  | fp (v : Fp)
  deriving DecidableEq, Repr, Inhabited

/-- R240: an addition held to 32 bits, with its saturation counted. -/
def satAcc (a : Int × Nat) (v : Int) : Int × Nat :=
  let x := a.1 + v
  if x < -2147483648 then (-2147483648, a.2 + 1) else if 2147483647 < x then (2147483647, a.2 + 1) else (x, a.2)

/-- R232: the reduction depth per NCLK. -/
def kpOf (dtype : Nat) : Nat :=
  match dtype with
  | 0 => 64
  | 1 => 128
  | _ => 16

/-- An element of a tensor. -/
structure ElemPos where
  desc : TDesc
  y : Nat
  x : Nat
  ch : Nat

/-- R251: the elements that reduction index k takes for output row r and column c: the input one (none through padding)
and the weight one; for op 3, k = 1 takes the second input. -/
def operandPos (p : Pattern) (l : Layer) (r c k : Nat) : Option ElemPos × Option ElemPos :=
  let i := tdescAt p.data l.inDesc
  let w := tdescAt p.data l.wtDesc
  let o := tdescAt p.data l.outDesc
  match l.op with
  | 0 => (some { desc := i, y := 0, x := r, ch := k }, some { desc := w, y := 0, x := k, ch := c })
  | 3 => (some { desc := if k = 0 then i else w, y := 0, x := r, ch := c }, none)
  | _ =>
    let cin := if l.op = 1 then i.dc else 1
    let tap := k / cin
    let ch := if l.op = 1 then k % cin else c
    let y : Int := ((r / o.dw * l.stride + tap / l.kw : Nat) : Int) - l.pad
    let x : Int := ((r % o.dw * l.stride + tap % l.kw : Nat) : Int) - l.pad
    let inside := decide (0 ≤ y ∧ y < i.dh ∧ 0 ≤ x ∧ x < i.dw)
    (if inside then some { desc := i, y := y.toNat, x := x.toNat, ch := ch } else none,
      some { desc := w, y := tap, x := if l.op = 1 then ch else 0, ch := c })

/-- The raw bits of an operand. -/
def ElemPos.raw (rd : Reader) (p : Pattern) (seq : Nat) (e : ElemPos) : Nat := elemRaw rd p e.desc seq e.y e.x e.ch

/-- R251: the operands of reduction index k for output row r and column c: raw input (none through padding) and raw
weight. -/
def operandsAt (rd : Reader) (p : Pattern) (l : Layer) (seq r c k : Nat) : Option Nat × Option Nat :=
  let e := operandPos p l r c k
  (e.1.map (ElemPos.raw rd p seq), e.2.map (ElemPos.raw rd p seq))

/-- The number of products of an output element. -/
def depthOf (l : Layer) : Nat := if l.op = 3 then 2 else l.k

/-- R240: one product of an integer layer. -/
def intProduct (rd : Reader) (p : Pattern) (l : Layer) (seq r c k : Nat) : Int :=
  let i := tdescAt p.data l.inDesc
  let w := tdescAt p.data l.wtDesc
  let q := operandsAt rd p l seq r c k
  let a := match q.1 with
    | some v => intElem i v
    | none => signedOf 16 i.padVal
  match q.2 with
  | some v => a * intElem w v
  | none => a

/-- R241: one product of a floating-point layer. -/
def fpProduct (rd : Reader) (p : Pattern) (l : Layer) (seq r c k : Nat) : Fp :=
  let i := tdescAt p.data l.inDesc
  let w := tdescAt p.data l.wtDesc
  let q := operandsAt rd p l seq r c k
  let a := match q.1 with
    | some v => fpDecode i.etype v
    | none => .fin false 0 0
  match q.2 with
  | some v => fpMul a (fpDecode w.etype v)
  | none => a

/-- R233: the bias of a column; 0 or +0 when there is none. -/
def biasInt (p : Pattern) (l : Layer) (c : Nat) : Int :=
  if l.biasOff = 0xFFFFFFFF then 0 else signedOf 32 (leAt p.data (l.biasOff + 4 * c) 4)
def biasFp (p : Pattern) (l : Layer) (c : Nat) : Fp :=
  if l.biasOff = 0xFFFFFFFF then .fin false 0 0 else fpDecode 5 (leAt p.data (l.biasOff + 4 * c) 4)

/-- R240, R241: the accumulator of an output element over the products [lo, hi), with or without the bias. -/
def accumulate (rd : Reader) (p : Pattern) (n : NodeRec) (l : Layer) (seq r c lo hi : Nat) (bias : Bool) : Acc :=
  if 2 ≤ n.dtype then
    .fp ((List.range (hi - lo)).foldl (fun a j => fpAdd32 a (fpProduct rd p l seq r c (lo + j)))
      (if bias then biasFp p l c else .fin false 0 0))
  else
    let kp := kpOf n.dtype
    let groups := ceilDiv (hi - lo) kp
    let sums := (List.range groups).map fun g =>
      (List.range (min kp (hi - lo - g * kp))).foldl (fun (a : Int) j => a + intProduct rd p l seq r c (lo + g * kp + j)) 0
    let v := sums.foldl satAcc (if bias then biasInt p l c else 0, 0)
    .int v.1 v.2

/-- R242: the raw output bits of an accumulator value in column c. -/
def requant (p : Pattern) (l : Layer) (c : Nat) : Acc → Nat
  | .int a _ =>
    if l.outType ≤ 1 then
      let m := signedOf 32 (leAt p.data (l.quantOff + 8 * c) 4)
      let sh := leAt p.data (l.quantOff + 8 * c + 4) 1
      let r : Int := if sh = 0 then 0 else 2 ^ (sh - 1)
      let v := (a * m + r) / 2 ^ sh + l.zp
      let t := typeRange l.outType
      let v := max (signedOf 16 l.clampLo) (min (signedOf 16 l.clampHi) v)
      unsignedOf (4 * nibbles l.outType) (max t.1 (min t.2 v))
    else unsignedOf 32 a
  | .fp a =>
    let v := fpDecode l.outType (fpRound l.outType a)
    let lo := fpDecode 4 l.clampLo
    let hi := fpDecode 4 l.clampHi
    let v := if fpLt v lo then lo else if fpLt hi v then hi else v
    fpRound l.outType v

/-- What the counters see of an accumulator: saturations and a special result. -/
def accSats : Acc → Nat
  | .int _ k => k
  | .fp _ => 0

/-- R241, R242: a NaN or an infinity, in the accumulator or through the rounding to the output type. -/
def accSpecial (outType : Nat) : Acc → Bool
  | .int _ _ => false
  | .fp a => fpSpecial a || fpSpecial (fpDecode outType (fpRound outType a))

/-! ### Tiles -/

/-- R236, R243: the column tiles a chip computes: first and count. -/
def tileColumns (p : Pattern) (l : Layer) : Nat × Nat :=
  let t := ceilDiv l.n 64
  if l.split = 1 then
    let lo := p.hdr.chipIndex * t / p.hdr.flaskSize
    (lo, (p.hdr.chipIndex + 1) * t / p.hdr.flaskSize - lo)
  else (0, t)

/-- R243: the reduction range a chip holds. -/
def reductionRange (p : Pattern) (l : Layer) : Nat × Nat :=
  if l.split = 2 then
    let t := ceilDiv l.k 64
    (p.hdr.chipIndex * t / p.hdr.flaskSize * 64, min l.k ((p.hdr.chipIndex + 1) * t / p.hdr.flaskSize * 64))
  else (0, depthOf l)

/-- R236: tiles of a layer on this chip. -/
def tileCount (p : Pattern) (l : Layer) : Nat := ceilDiv l.m 64 * (tileColumns p l).2

/-- R236: the tiles of array a of w. -/
def tilesOfArray (p : Pattern) (l : Layer) (w a : Nat) : Nat := (tileCount p l + w - 1 - a) / w

/-- The rows and columns of tile t. -/
def tileCells (p : Pattern) (l : Layer) (t : Nat) : List (Nat × Nat) :=
  let tc := tileColumns p l
  let r0 := t / max 1 tc.2 * 64
  let c0 := (tc.1 + t % max 1 tc.2) * 64
  (List.range (min 64 (l.m - r0))).flatMap fun i => (List.range (min 64 (l.n - c0))).map fun j => (r0 + i, c0 + j)

/-- A nibble or whole element written at its place (R253, R254), INT4 as a change of half a byte. -/
structure ElemWrite where
  addr : Nat
  /-- 0 whole bytes, 1 low nibble, 2 high nibble. -/
  part : Nat
  data : List Byte
  deriving DecidableEq, Repr, Inhabited

/-- R253: where and how an output element is written. -/
def elemWrite (p : Pattern) (t : TDesc) (seq y x ch v : Nat) : ElemWrite :=
  let o := elemNibble t y x ch
  let a := tensorBase p t seq + o / 2
  if t.etype = 1 then { addr := a, part := 1 + o % 2, data := leBytes 1 v }
  else { addr := a, part := 0, data := leBytes (nibbles t.etype / 2) v }

/-- R255: the padding written beside the elements of a tile: blocked channels and TILE64 rows beyond the tensor. -/
def padWrites (p : Pattern) (t : TDesc) (seq : Nat) (cells : List (Nat × Nat)) : List ElemWrite :=
  let blk := match t.order with
    | 2 => 16
    | 3 => 64
    | 4 => 64
    | _ => 1
  let chans := (cells.filter fun c => c.2 + 1 == t.dc).flatMap fun c =>
    (List.range (alignUp t.dc blk - t.dc)).map fun j =>
      let o := elemNibble t (c.1 / t.dw) (c.1 % t.dw) (t.dc + j)
      ({ addr := tensorBase p t seq + o / 2, part := if t.etype = 1 then 1 + o % 2 else 0,
         data := leBytes (max 1 (nibbles t.etype / 2)) 0 } : ElemWrite)
  let total := t.dh * t.dw
  let rows := if t.order ≠ 4 then [] else
    (cells.filter fun c => c.1 + 1 == total).flatMap fun c =>
      let beyond := if c.2 + 1 = t.dc then (List.range (alignUp t.dc 64 - t.dc)).map (· + t.dc) else []
      (c.2 :: beyond).flatMap fun ch => (List.range (alignUp total 64 - total)).map fun j =>
        let r := total + j
        let s := nibbles t.etype
        let o := 4096 * s * (r / 64 * ceilDiv t.dc 64 + ch / 64) + (64 * (r % 64) + ch % 64) * s
        ({ addr := tensorBase p t seq + o / 2, part := if t.etype = 1 then 1 + o % 2 else 0,
           data := leBytes (max 1 (s / 2)) 0 } : ElemWrite)
  chans ++ rows

/-- What a finished tile leaves: its writes, its saturations and its special results. -/
structure TileResult where
  writes : List ElemWrite := []
  sats : Nat := 0
  specials : Nat := 0
  deriving DecidableEq, Repr, Inhabited

/-- R240 to R243: the result of tile t of a layer. -/
def tileResult (rd : Reader) (p : Pattern) (n : NodeRec) (l : Layer) (seq t : Nat) : TileResult :=
  let cells := tileCells p l t
  let rr := reductionRange p l
  let accs := cells.map fun c => (c, accumulate rd p n l seq c.1 c.2 rr.1 rr.2 (l.split != 2))
  let o := tdescAt p.data l.outDesc
  let ws := if l.split = 2 then
      let base := ((bufPlace p l.xchg).getD (0, 0)).1 + p.hdr.chipIndex * l.m * l.n * 4
      accs.map fun q =>
        let v := match q.2 with
          | .int a _ => unsignedOf 32 a
          | .fp a => fpRound 5 a
        ({ addr := base + (q.1.1 * l.n + q.1.2) * 4, part := 0, data := leBytes 4 v } : ElemWrite)
    else accs.map (fun q => elemWrite p o seq (q.1.1 / o.dw) (q.1.1 % o.dw) q.1.2 (requant p l q.1.2 q.2)) ++
      padWrites p o seq cells
  { writes := ws, sats := sumNat (accs.map fun q => accSats q.2), specials := (accs.filter fun q => accSpecial (if l.split = 2 then 5 else l.outType) q.2).length }

/-- R243: the sum of the chips' partials of an output element, with the bias added once. -/
def sumPartials (s : State) (p : Pattern) (n : NodeRec) (l : Layer) (r c : Nat) : Acc :=
  let base := ((bufPlace p l.xchg).getD (0, 0)).1
  let raw := (List.range p.hdr.flaskSize).map fun i => memNat s (base + (i * l.m * l.n + r * l.n + c) * 4) 4
  if 2 ≤ n.dtype then
    match raw.map (fpDecode 5) with
    | [] => .fp (biasFp p l c)
    | a :: rest => .fp (fpAdd32 (rest.foldl fpAdd32 a) (biasFp p l c))
  else
    let v := satAcc (raw.foldl (fun (a : Int) x => a + signedOf 32 x) 0, 0) 0
    let w := satAcc v (biasInt p l c)
    .int w.1 w.2

/-- R243, R422: the outputs of a split 2 layer, once every chip's partials have come. -/
def splitSumResult (s : State) (p : Pattern) (n : NodeRec) (l : Layer) (seq : Nat) : TileResult :=
  let cells := (List.range l.m).flatMap fun r => (List.range l.n).map fun c => (r, c)
  let accs := cells.map fun c => (c, sumPartials s p n l c.1 c.2)
  let o := tdescAt p.data l.outDesc
  { writes := accs.map (fun q => elemWrite p o seq (q.1.1 / o.dw) (q.1.1 % o.dw) q.1.2 (requant p l q.1.2 q.2)) ++
      padWrites p o seq cells
    sats := sumNat (accs.map fun q => accSats q.2), specials := (accs.filter fun q => accSpecial l.outType q.2).length }

/-- One element write made (R254). -/
def applyElem (s : State) (w : ElemWrite) : State :=
  if w.part = 0 then physWrite s w.addr w.data
  else
    let old := memNat s w.addr 1
    let v := leNat w.data % 16
    physWrite s w.addr (leBytes 1 (if w.part = 1 then old / 16 * 16 + v else old % 16 + 16 * v))

/-- Element writes made in order. -/
def applyElems (s : State) (ws : List ElemWrite) : State := ws.foldl applyElem s

/-- R258: the ECLK that a stage needs to store a tile: 64 bytes per ECLK, 32 through the transposition tile. -/
def storeTime (p : Pattern) (l : Layer) : Nat :=
  let o := tdescAt p.data l.outDesc
  let bytes := 2048 * (if l.split = 2 then 8 else nibbles o.etype)
  ceilDiv bytes (if o.order = 1 ∧ l.split ≠ 2 then 32 else 64)

/-! ### Local buffers (R238, R260) -/

/-- Bytes of one half of a pair: 128 KiB. -/
def halfRoom : Nat := 131072

/-- R238: the addresses of the operand bytes of tile t of a layer: activations (true) or weights. The second input of op 3
lies with the weights. -/
def operandBytes (p : Pattern) (l : Layer) (seq t : Nat) (acts : Bool) : List Nat :=
  let rr := reductionRange p l
  ((tileCells p l t).flatMap fun c => (List.range (rr.2 - rr.1)).flatMap fun j =>
    let k := rr.1 + j
    let e := operandPos p l c.1 c.2 k
    let pick := if l.op = 3 then (if acts == decide (k = 0) then e.1 else none) else if acts then e.1 else e.2
    match pick with
    | some q =>
      let a := elemBytesAt p q.desc seq q.y q.x q.ch
      (List.range a.2).map (· + a.1)
    | none => []).dedup

/-- The bytes of a tile's operands that a half takes, as memory holds them. -/
def halfCells (s : State) (as : List Nat) : List Host.Cell := (as.take halfRoom).map fun a => (a, physByte s a)

/-- The byte that a local buffer holds for an address in its halves numbered h. -/
def LocalBuf.byteAt (b : LocalBuf) (h a : Nat) : Option Byte :=
  ((nth b.acts h [] ++ nth b.weights h []).find? fun c => c.1 == a).map Prod.snd

/-- R238: what an array reads as it computes from its halves numbered h: the bytes they hold, and beyond their room, memory. -/
def LocalBuf.reader (b : LocalBuf) (h : Nat) (s : State) : Reader := fun a => (b.byteAt h a).getD (physByte s a)

/-- R260: the layer's store passes through the transposition tiles; so do the reads of its CHW operands. -/
def storesChw (p : Pattern) (l : Layer) : Bool := (tdescAt p.data l.outDesc).order == 1 && l.split != 2
def readsChw (p : Pattern) (l : Layer) : Bool :=
  (tdescAt p.data l.inDesc).order == 1 || (tdescAt p.data l.wtDesc).order == 1

/-- R238, R260: the ECLK that reading the operands of tile t takes: 64 bytes per ECLK, or 32 through the transposition tiles;
bytes that the buffer holds already are not read again. -/
def fillTime (p : Pattern) (l : Layer) (seq t : Nat) (b : LocalBuf) : Nat :=
  let fresh := fun (acts : Bool) => ((operandBytes p l seq t acts).filter fun a =>
    (b.byteAt 0 a).isNone && (b.byteAt 1 a).isNone).length
  let time := fun (chw : Bool) (n : Nat) => ceilDiv n (if chw then 32 else 64)
  time ((tdescAt p.data l.inDesc).order == 1) (fresh true) + time ((tdescAt p.data l.wtDesc).order == 1) (fresh false)

end Sys2Proof.Machine
end

