-- ==== Sys2Proof/Machine/PatCheck.lean ====
section
/-! DEFINITION. The remaining parameter blocks (R290, R359, R371, R372) and the whole check of a pattern in the order of
R132, the first failing check deciding the event. -/

namespace Sys2Proof.Machine

/-- R359: the parameter block of a class 7 node. -/
def dmaParamCheck (p : Pattern) (n : NodeRec) : Check :=
  let b := paramOf p n
  let ring := bitAt n.mode 3
  let entries := leAt b 8 2
  let count := leAt b 0xA 2
  let pace := leAt b 0xD 1
  need (n.paramLen == 64 && leAt b 0 8 % 32 == 0 &&
    (if ring then inRange 2 entries 4096 && entries == 2 ^ Nat.log2 entries && inRange 1 count entries
     else entries == 0 && count == 0) &&
    decide (leAt b 0xC 1 ≤ 1) && decide (pace ≤ 1) && decide (leAt b 0xE 1 ≤ 10) && (pace == 1 || leAt b 0xE 1 == 0) &&
    zeroAt b 0xF 1 && (if pace == 1 then leAt b 0x10 8 % 4 == 0 else leAt b 0x10 8 == 0) && leAt b 0x18 8 % 4 == 0 &&
    inRange 1 (leAt b 0x20 4) 16777216 && decide (leAt b 0x24 4 < leAt b 0x20 4) && inRange 64 (leAt b 0x28 2) 65535 &&
    zeroAt b 0x2A 22) 0x0D08

/-- R290: the first 32 bytes of a task node's block. -/
def taskHeadOk (n : NodeRec) (b : List Byte) : Bool :=
  let ops := leAt b 0x18 1
  leAt b 0 8 % 4 == 0 && leAt b 0x10 8 % 64 == 0 &&
    (if n.cls == 8 && bitAt n.mode 4 then inRange 1 ops 4 else ops == 0) && decide (leAt b 0x19 1 < 4) && zeroAt b 0x1A 6

/-- R375: bytes of one Witness rectification grid of a sensor. -/
def witnessGridLen (g : GraphRec) (log : Nat) : Nat :=
  (ceilDiv (g.sensorW / 4) (2 ^ log) + 1) * (ceilDiv (g.sensorH / 4) (2 ^ log) + 1) * 8

/-- R290, R371, R372: the parameter block of a class 8, 9 or 10 node. -/
def taskParamCheck (p : Pattern) (n : NodeRec) : Check :=
  let b := paramOf p n
  let g := (graphOf p n.slot).getD default
  let s32 := fun o => signedOf 32 (leAt b o 4)
  let pos := fun o => inRange 1 (leAt b o 4) 0x7FFFFFFF
  match n.cls with
  | 8 => need (n.paramLen == 32 && taskHeadOk n b) 0x0B02
  | 9 =>
    firstOf [need (taskHeadOk n b) 0x0B02,
      need (n.paramLen == 48 && pyramidEdge p n (leAt b 0x20 2) 3 && zeroAt b 0x22 14) 0x0E04]
  | _ =>
    firstOf [need (taskHeadOk n b) 0x0B02,
      need (n.paramLen == 0x48 + 4 * g.zones &&
        (match bufOf p (leAt b 0x20 2) with
          | some q => q.location == 0 && decide (128 * g.zones ≤ q.size)
          | none => false) &&
        zeroAt b 0x22 2 && decide (leAt b 0x24 4 ≤ g.framePeriod) && pos 0x28 &&
        decide (s32 0x2C < s32 0x30 ∧ s32 0x30 ≤ 0x7FFFFFFE) && pos 0x34 && pos 0x38 && pos 0x3C &&
        leAt b 0x40 4 % 16 == 0 && inRange 2 (leAt b 0x44 1) 5 &&
        decide (leAt b 0x40 4 + 2 * witnessGridLen g (leAt b 0x44 1) ≤ p.data.length) && inRange 1 (leAt b 0x45 1) 16 &&
        zeroAt b 0x46 2 && (List.range g.zones).all fun i => pos (0x48 + 4 * i)) 0x0E04]

/-- R132 step 5 f: the parameter block of one node. -/
def paramCheck (p : Pattern) (n : NodeRec) : Check :=
  match n.cls with
  | 0 => ispParamCheck p n
  | 6 => firstOf [neuParamCheck p n, grainCheck p n]
  | 7 => firstOf [dmaParamCheck p n, grainCheck p n]
  | 8 => firstOf [taskParamCheck p n, grainCheck p n]
  | 9 => firstOf [taskParamCheck p n, grainCheck p n]
  | 10 => firstOf [taskParamCheck p n, grainCheck p n]
  | _ => venParamCheck p n

/-- R125, R419: a flag that is set only through the link. -/
def linkFlag (p : Pattern) (f : Nat) : Bool := ((flagOf p f).map FlagRec.producer).getD 0 == 0xFFFF

/-- R30: in the dual-channel configuration no edge toward a record passes the peer chip, by its buffer or by its flag. -/
def dualCheck (p : Pattern) : Check :=
  let c := contributing p
  need (p.hdr.safetyCfg != 1 || p.edges.all fun e => !c.contains e.dst ||
    (((bufOf p e.buffer).map BufRec.location).getD 0 != 2 && !linkFlag p e.flag)) 0x0522

/-- R103, R143: the load in progress is that of the start pattern. -/
def startLoad (s : State) : Bool := s.sys.step == 9 && s.sys.phase == 0 && s.pat.active.isNone

/-- R415: there is a trained link to every other chip of the flask. -/
def linksUp (s : State) (p : Pattern) : Bool :=
  decide (p.hdr.flaskSize < 2) || (List.range p.hdr.flaskSize).all fun c => c == p.hdr.chipIndex ||
    (nth s.lnk.links (linkTo p.hdr.chipIndex c) {}).trained

/-- R415: the last check of step 5. The links train beside a start (R414), so that of a start pattern is made when its load ends
(assumption 23). -/
def linkCheck (s : State) (p : Pattern) : Check := need (startLoad s || linksUp s p) 0x100C

/-- R132 step 5. -/
def crossChecks (s : State) (p : Pattern) : Check :=
  firstOf
    [ nodeCounts p, widthCap p, triggerRule p, flagRules p, witnessCover p,
      firstOf ((sortBy NodeRec.nodeId p.nodes).map (paramCheck p)),
      firstOf (p.graphs.map (ispGraphCheck p)),
      need (decide (peakDraw p s.ldl.standing ≤ s.ldl.ceil)) 0x0311,
      dualCheck p,
      need (decide ((splitNodes p).length ≤ 4)) 0x100B,
      linkCheck s p ]

/-- A pattern that has passed the checks, with its hash and that of the slot that verified it (R111). -/
def acceptedPattern (s : State) (bs : List Byte) : Pattern :=
  let p := parsePattern bs
  { p with hash := sha384 (bs.take p.hdr.totalLen), slotHash := (nth s.fuses.slots p.hdr.keySlot {}).hash }

/-- R132: the checks of steps 2 to 5 over the bytes of a pattern, each with its step. -/
def checkSteps (s : State) (bs : List Byte) (len : Option Nat) : List (Nat × Check) :=
  [ (2, headerFirst s bs len), (3, signatureCheck s bs), (4, recordChecks s bs), (5, crossChecks s (parsePattern bs)) ]

/-- R132, R134: the code of the first failing check, or the pattern; a read of the pattern area that is uncorrectable in a
step, counted from step 2, ends the checks there. -/
def checkPattern (s : State) (bs : List Byte) (len : Option Nat) (areaFault : Option (Fin 4)) : Except EventCode Pattern :=
  let read := (checkSteps s bs len).filter fun q => match areaFault with
    | some n => decide (q.1 < n.val + 2)
    | none => true
  match firstOf (read.map Prod.snd), areaFault with
  | some c, _ => .error c
  | none, some _ => .error 0x0504
  | none, none => .ok (acceptedPattern s bs)

/-- The classes and the class 6 cap that a pattern uses (R62, R133): each vision class 1 to 5 it has a node of. -/
def usesClass (p : Pattern) (c : Nat) : Bool := p.nodes.any fun n => n.cls == c

/-- R62, R133: a TRIM configuration gates a vision class that the pattern uses. -/
def gatesClass (p : Pattern) (venEn : Nat) : Bool :=
  (List.range 5).any fun i => !bitAt venEn i && usesClass p (i + 1)

/-- R62: a TRIM configuration that gates something the pattern uses. -/
def trimGates (p : Pattern) (venEn arrays : Nat) : Bool :=
  gatesClass p venEn || (usesClass p 6 && decide (arrays < capOf p 6))

end Sys2Proof.Machine
end

