-- ==== Sys2Proof/Machine/SchedOps.lean ====
section
/-! DEFINITION. The operations of the Task Scheduler that other blocks share (14_task_scheduler.md): flag counters as the
scheduler reads them (R219, R293), tokens, operands and readiness (R293 to R295, R302), the end of a task (R301) and
its cancellation (R304). -/

namespace Sys2Proof.Machine

/-! ### Flag counters (R219) -/

/-- The two counters of a flag. -/
def flagCtr (s : State) (f : Nat) : FlagCtr := (s.fgs.flags.find? fun c => c.flag == f).getD { flag := f }

/-- A flag is persistent. -/
def persistent (p : Pattern) (f : Nat) : Bool := ((flagOf p f).map FlagRec.clear).getD 0 == 1

/-- R219: the counter of a flag for a pour_seq. -/
def flagValue (s : State) (f seq : Nat) : Nat :=
  let c := flagCtr s f
  if persistent (active s) f || seq % 2 = 0 then c.c0 else c.c1

/-- R219: the counter of a flag for a pour_seq, set to a value. -/
def putFlag (f seq v : Nat) (s : State) : State :=
  let c := flagCtr s f
  let c := if persistent (active s) f || seq % 2 = 0 then { c with c0 := v } else { c with c1 := v }
  { s with fgs := { s.fgs with flags := c :: s.fgs.flags.filter fun q => q.flag != f } }

/-! ### Tasks -/

/-- The task of a slot and generation. -/
def taskAt (s : State) (slot gen : Nat) : Option Task := s.sch.tasks.find? fun t => t.slot == slot && t.gen == gen

/-- A task changed. -/
def updTask (slot gen : Nat) (f : Task → Task) (s : State) : State :=
  { s with sch := { s.sch with tasks := updFirst (fun t => t.slot == slot && t.gen == gen) f s.sch.tasks } }

/-- A task leaves its slot. -/
def dropTask (slot gen : Nat) (s : State) : State :=
  { s with sch := { s.sch with tasks := s.sch.tasks.filter fun t => !(t.slot == slot && t.gen == gen) } }

/-- R294: the entries of the matching store that are taken. -/
def matchUsed (s : State) : Nat := sumNat (s.sch.tasks.map fun t => t.operands.length)

/-- R288: the node slot and generation of a node's task in a pour. -/
def nodeTask (n seq : Nat) : Nat × Nat := (n + 1024 * (seq % 2), seq % 256)

/-- A thread changed. -/
def updThread (t : Nat) (f : Thread → Thread) (s : State) : State :=
  { s with rsr := { s.rsr with threads := upd s.rsr.threads t f } }

/-- A thread. -/
def threadAt (s : State) (t : Nat) : Thread := nth s.rsr.threads t {}

/-- A port changed. -/
def updPort (t : Nat) (f : Port → Port) (s : State) : State :=
  { s with sch := { s.sch with ports := upd s.sch.ports t f } }

/-- R301: the links of a task that ends, handled from an ECLK on. -/
def linkWork (t : Task) (status : Nat) (value : Word32) (first : Nat) : List LinkWork :=
  t.links.filterMap fun (q : Word32) =>
    let w := q.toNat
    if bitAt w 15 then
      some { slot := bits w 0 13, index := bits w 13 2, gen := bits w 16 8, status := status, value := value,
             source := (t.slot, t.gen), dueAt := first }
    else none

/-- R301: a thread whose task ended is idle, in task mode and outside any handler (assumption 26). -/
def idleThread (task : Nat × Nat) (r : Thread) : Thread :=
  let left := r.async.filter fun d => d.task != some task && !(d.code == 0x11 && d.detail == 1)
  if r.st == ThreadSt.running then
    { r with st := .idle, waiting := .none, keeper := false, emode := r.emode &&& 0xFD, branch := none, shadow := 0,
             async := left }
  else { r with async := left }

/-- R301, R304: a task ends: its thread becomes idle, its operands are freed and its links wait to be handled. A task
with no link leaves its slot. R305: the tokens of a cancellation go from the next ECLK on. -/
def finishTask (slot gen status : Nat) (s : State) : State :=
  match taskAt s slot gen with
  | none => s
  | some t =>
    let value := match t.thread with
      | some th => if t.st == TaskSt.running then (nth s.sch.ports th {}).value else 0
      | none => 0
    let ls := linkWork t status value (if status = 1 then now s + 1 else 0)
    let s := match t.thread with
      | some th =>
        if t.st == TaskSt.running then
          updPort th (fun p => { p with task := none }) (updThread th (idleThread (slot, gen)) s)
        else s
      | none => s
    let s := { s with sch := { s.sch with links := s.sch.links ++ ls } }
    if ls.isEmpty then dropTask slot gen s
    else updTask slot gen (fun t => { t with st := .ending, operands := [], thread := none }) s

/-- R293, R294: the conditions of readiness hold. -/
def readyNow (t : Task) : Bool :=
  t.started && (if t.matching then t.operands.length == t.nOperands else t.counter == 0)

/-- R293, R302: a waiting task whose conditions hold becomes ready, or is cancelled when poisoned. -/
def makeReady (slot gen : Nat) (s : State) : State :=
  match taskAt s slot gen with
  | none => s
  | some t =>
    if t.st == TaskSt.waiting && readyNow t then
      if t.poisoned && !t.acceptCancel then finishTask slot gen 1 s
      else updTask slot gen (fun t => { t with st := .ready, readyAt := now s, waitFrom := now s }) s
    else s

/-- R304: the cancellation of a task by its state. A task selected and not yet taken is never delivered. -/
def cancelTask (slot gen : Nat) (s : State) : State :=
  match taskAt s slot gen with
  | none => s
  | some t =>
    match t.st with
    | .ending => s
    | .running =>
      (match t.thread with
        | none => finishTask slot gen 1 s
        | some th =>
          let r := threadAt s th
          if r.async.any fun d => d.task == some (slot, gen) then
            let s := updThread th (fun r => { r with async := r.async.filter fun d => d.task != some (slot, gen) }) s
            finishTask slot gen 1 (updTask slot gen (fun t => { t with st := .ready, thread := none }) s)
          else if r.async.any fun d => d.code == 0x11 && d.detail == 1 then s
          else updThread th (fun r => { r with async := r.async ++ [{ code := 0x11, detail := 1, task := none }] }) s)
    | _ => finishTask slot gen 1 s

/-- R304: every task of a pour is cancelled. -/
def cancelPour (r : PourRef) (s : State) : State :=
  (s.sch.tasks.filter fun t => t.pour == some r).foldl (fun s t => cancelTask t.slot t.gen s) s

/-- R302: the poison of a task's link position. -/
def poisonTask (index status : Nat) (t : Task) : Task :=
  if status = 0 then t
  else { t with poisoned := true, poison := t.poison ||| BitVec.ofNat 8 (status * 4 ^ index) }

/-- R294, R295: an operand reaches a slot. -/
def deliverOperand (slot gen index : Nat) (value : Word32) (status : Nat) (s : State) : State :=
  match taskAt s slot gen with
  | none => raise 0x0B05 s
  | some t =>
    if !t.matching || decide (t.nOperands ≤ index) then raise 0x0B05 s
    else if t.st != TaskSt.waiting || t.operands.any (fun o => o.1 == index) then raise 0x0B04 s
    else if 2048 ≤ matchUsed s then raise 0x0B03 (cancelTask slot gen s)
    else
      makeReady slot gen (updTask slot gen (fun t =>
        poisonTask index status { t with operands := t.operands ++ [(index, value)] }) s)

/-- R293, R295: a token reaches a counter. -/
def deliverToken (slot gen index status : Nat) (s : State) : State :=
  match taskAt s slot gen with
  | none => raise 0x0B05 s
  | some t =>
    if t.counter = 0 || t.st != TaskSt.waiting then raise 0x0B06 s
    else makeReady slot gen (updTask slot gen (fun t => poisonTask index status { t with counter := t.counter - 1 }) s)

/-- R293: flag waits whose flag has reached its sets. -/
def flagWaits (s : State) : State :=
  let p := active s
  (s.sch.tasks.filter fun t => match t.flagWait with
    | some f =>
      (match flagOf p f with
        | some r => flagValue s f ((t.pour.map PourRef.seq).getD 0) == r.sets
        | none => false)
    | none => false).foldl (fun s t =>
      makeReady t.slot t.gen (updTask t.slot t.gen (fun t => { t with flagWait := none, counter := t.counter - 1 }) s)) s

/-- R289, R290: the tasks of a pour's class 8 to 10 nodes take their slots. -/
def placeTasks (p : Pattern) (r : PourRef) (s : State) : State :=
  let ns := p.nodes.filter fun n => n.slot == r.slot && decide (8 ≤ n.cls)
  let mk := fun (n : NodeRec) =>
    let b := paramOf p n
    let k := nodeTask n.nodeId r.seq
    let ops := leAt b 0x18 1
    let fl := leAt b 0x19 1
    ({ slot := k.1, gen := k.2, entry := leAt b 0 8, arg := BitVec.ofNat 64 (leAt b 8 8), ctx := leAt b 0x10 8,
       group := if n.cls == 8 then n.taskGroup else 0, matching := n.cls == 8 && bitAt n.mode 4, nOperands := ops,
       acceptCancel := bitAt fl 0, noPreempt := bitAt fl 1, pour := some r, node := some n.nodeId,
       started := false } : Task)
  { s with sch := { s.sch with tasks := s.sch.tasks ++ ns.map mk } }

/-- R303: the node's own task, and every task spawned from it, have ended. -/
def nodeTasksEnded (s : State) (r : PourRef) (n : Nat) : Bool :=
  s.sch.tasks.all fun t => !(t.pour == some r && t.node == some n) || t.st == TaskSt.ending

end Sys2Proof.Machine
end

