-- ==== Sys2Proof/Machine/FgsOps.lean ====
section
/-! DEFINITION. What the Frame Graph Sequencer, Runner and the age monitor share: announcements and invalidation (R213,
R214, R224, R381), the stop of a Runner channel (R356, R362), pour aborts (R224, R225), opening and dropping pours
(R213, R214), and flag sets (R219, R221). -/

namespace Sys2Proof.Machine

/-- A pour changed. -/
def updPour (r : PourRef) (f : Pour → Pour) (s : State) : State :=
  { s with fgs := { s.fgs with pours := updFirst (fun q => q.ref == r) f s.fgs.pours } }

/-- A node of a pour changed. -/
def updNode (r : PourRef) (n : Nat) (f : NodeRun → NodeRun) (s : State) : State :=
  updPour r (fun q => { q with nodes := updFirst (fun m => m.node == n) f q.nodes }) s

/-- A pour in flight. -/
def pourAt (s : State) (r : PourRef) : Option Pour := s.fgs.pours.find? fun q => q.ref == r

/-- A graph slot changed. -/
def updSlot (n : Nat) (f : GraphSlot → GraphSlot) (s : State) : State :=
  { s with fgs := { s.fgs with slots := upd s.fgs.slots n f } }

/-- The pours of a slot in flight. -/
def slotPours (s : State) (n : Nat) : List Pour := s.fgs.pours.filter fun q => q.ref.slot == n

/-! ### The age monitor's announcements -/

/-- R371: exp_max of a graph's record emit node; 0 for a graph that emits no record. -/
def expMaxOf (p : Pattern) (slot : Nat) : Nat :=
  match p.nodes.find? fun n => n.cls == 10 && n.slot == slot with
  | some n => leAt (paramOf p n) 0x24 4
  | none => 0

/-- R130: the zone ids of a pair, in record order. -/
def zoneIdsOf (p : Pattern) (pair : Nat) : List (BitVec 16) :=
  (p.witness.filter fun w => w.pairId == pair).map fun w => BitVec.ofNat 16 w.zoneId

/-- R214 step 3, R381: the announcement of a pour's records, as a pattern has them. -/
def announceIn (p : Pattern) (r : PourRef) (fs : Nat) (s : State) : State :=
  match graphOf p r.slot with
  | none => s
  | some g =>
    { s with asy := { s.asy with announced := s.asy.announced ++
        [{ ref := r, pair := g.pairId, zoneIds := if g.pairId = 0xFF then [] else zoneIdsOf p g.pairId,
           origin := fs - expMaxOf p r.slot, ceiling := s.asy.ceiling }] } }

/-- R214 step 3, R381: the announcement of a pour's records. -/
def announce (r : PourRef) (fs : Nat) (s : State) : State := announceIn (active s) r fs s

/-- R380: notices for the zones of an announcement. -/
def noticesOf (a : Announce) (status : Byte) (s : State) : State :=
  a.zoneIds.foldl (fun s z => pushNotice (noticeRecord z a.pair a.origin (now s) a.ref.seq status) s) s

/-- R224, R385: every unreleased record of a pour becomes invalid, and counts as received. -/
def invalidatePour (r : PourRef) (s : State) : State :=
  match s.asy.announced.find? fun a => a.ref == r with
  | none => s
  | some a =>
    let waits := s.asy.batches.any fun b => b.ref == r
    if a.missing || (a.settled && !waits) then s
    else
      noticesOf a 0 { s with asy := { s.asy with
        announced := updFirst (fun a => a.ref == r) (fun a => { a with settled := true }) s.asy.announced,
        handed := s.asy.handed.filter fun q => q.ref != r,
        batches := s.asy.batches.filter fun b => b.ref != r } }

/-! ### Stopping a Runner channel -/

/-- A Runner channel. -/
def chAt (s : State) (ch : Nat) : DmaCh := nth s.dma.chs ch {}

/-- A Runner channel changed. -/
def updCh (ch : Nat) (f : DmaCh → DmaCh) (s : State) : State := { s with dma := { s.dma with chs := upd s.dma.chs ch f } }

/-- A word written to memory in a channel's context, when translation and firewall admit it. -/
def chWrite (ch addr : Nat) (bs : List Byte) (s : State) : Option AccessFault × State :=
  let r := checkAccess (dmaId ch) false .write addr bs.length false s
  match r.1 with
  | .error f => (some f, r.2)
  | .ok a => (none, physWrite r.2 a bs)

/-- R361, R362: result and done_len of the ring entry in progress. -/
def ringResult (ch result : Nat) (s : State) : State :=
  let c := chAt s ch
  match c.cur with
  | some d => if c.ring then (chWrite ch (d.addr + 0x18) (leBytes 4 result ++ leBytes 4 c.bytes) s).2 else s
  | none => s

/-- R440: the payload of a Runner channel's end. -/
def dmaEndPayload (result bytes : Nat) : List Byte := leBytes 1 result ++ leBytes 7 0 ++ leBytes 8 bytes

/-- R438: a channel that has begun ends in the trace and in its counters. -/
def endChannel (ch result : Nat) (s : State) : State :=
  let c := chAt s ch
  let begun := (nth s.tap.srcs (srcDma ch) {}).beganAt.isSome
  if begun then
    endSource (srcDma ch) ((c.serves.map Prod.snd).getD 0xFFFF) ((c.serves.map fun q => q.1.seq).getD 0) (result != 0)
      (dmaEndPayload result c.chainBytes) s
  else s

/-- A channel leaves its datapath. -/
def freePath (ch : Nat) (s : State) : State :=
  { s with dma := { s.dma with paths := s.dma.paths.map fun d => if d.ch = some ch then { d with ch := none } else d } }

/-- R356, R362: a channel stops at the next beat: its buffer is discarded, its tickets are released, the ring entry in
progress gets the result, and it is IDLE. -/
def stopChannel (ch result : Nat) (s : State) : State :=
  let s := ringResult ch result s
  let s := endChannel ch result s
  let s := freePath ch (ladleStop (dmaId ch) true s)
  updCh ch (fun c => { c with st := .idle, buffer := [], cur := none, needDoorbell := false, readPos := 0, serves := none }) s

/-! ### Aborts (R224) -/

/-- R166, R215: a node ends with a status in this ECLK, and gives its resources back. -/
def endNode (r : PourRef) (n status : Nat) (s : State) : State :=
  updNode r n (fun m => { m with st := .ended status, res := [], endedAt := now s }) s

/-- R303, R218, R373: a node whose tasks have all ended, ends; the record emit node's end hands the pour to the
Assayer. -/
def settleNode (r : PourRef) (n : Nat) (s : State) : State :=
  if !nodeTasksEnded s r n then s
  else
    match pourAt s r with
    | none => s
    | some q =>
      match q.nodes.find? fun m => m.node == n with
      | some m => if m.st == NodeSt.running then endNode r n 0 s else s
      | none => s

/-- R218: every started node of class 8 to 10 whose tasks have ended without a status of their own, ends with them. -/
def settleTasks (s : State) : State :=
  let p := active s
  s.fgs.pours.foldl (fun s q => (q.nodes.filter fun m => decide (8 ≤ ((nodeOf p.nodes m.node).map NodeRec.cls).getD 0)).foldl
    (fun s m => settleNode q.ref m.node s) s) s

/-- R217: reservations of a node that will not start are given back. -/
def unreserve (p : Pattern) (m : NodeRun) (s : State) : State :=
  match (nodeOf p.nodes m.node).map NodeRec.cls with
  | some 6 =>
    m.res.foldl (fun s a =>
      let s := match (nth s.neu.arrays a {}).phys with
        | some q => ladleStop (unitId (18 + q)) false s
        | none => s
      { s with neu := { s.neu with arrays := upd s.neu.arrays a fun x => { x with reserved := false } } }) s
  | some 7 => m.res.foldl (fun s ch => updCh ch (fun c => { c with st := .idle, serves := none }) (ladleStop (dmaId ch) false s)) s
  | some 0 => m.res.foldl (fun s q => ladleStop (ispId q) false s) s
  | some c =>
    if 1 ≤ c ∧ c ≤ 5 then
      m.res.foldl (fun s k =>
        let s := match (nth s.ven.insts k {}).phys with
          | some ph => ladleStop (0x100 + 0x10 * ph + 2 * (c + 1)) false s
          | none => s
        { s with ven := { s.ven with insts := upd s.ven.insts k fun i => { i with reserved := none } } }) s
    else s
  | none => s

/-- A class 6 command changed. -/
def updNeu (r : PourRef) (n : Nat) (f : NeuCmd → NeuCmd) (s : State) : State :=
  { s with neu := { s.neu with cmds := updFirst (fun c => c.pour == r && c.node == n) f s.neu.cmds } }

/-- R246: a class 6 command is told to stop, unless it is already; its arrays that have not begun leave it. -/
def NeuCmd.stopped (why : StopKind) (t : Nat) (c : NeuCmd) : NeuCmd :=
  { c with stop := c.stop.or (some why), stopAt := if c.stop.isNone then t else c.stopAt,
           arrays := c.arrays.filter ArrayRun.begun }

/-- R239, R246: a stop reaches a class 6 command: its begun arrays are told to stop, the others give back what they
reserved. -/
def stopNeuBy (why : StopKind) (p : Pattern) (r : PourRef) (m : NodeRun) (s : State) : State :=
  match s.neu.cmds.find? fun c => c.pour == r && c.node == m.node with
  | none => s
  | some c =>
    let idle := (c.arrays.filter fun x => !x.begun).map ArrayRun.array
    let s := unreserve p { m with res := idle } s
    updNeu r m.node (NeuCmd.stopped why (now s)) s

/-- R246: an abort reaches a class 6 command. -/
def stopNeu (p : Pattern) (r : PourRef) (m : NodeRun) (s : State) : State := stopNeuBy .abort p r m s

/-- R224: what an abort does to one node. -/
def abortNode (p : Pattern) (r : PourRef) (m : NodeRun) (s : State) : State :=
  match m.st with
  | .selected => updNode r m.node (fun m => { m with st := .waiting, res := [] }) (unreserve p m s)
  | .running =>
    (match (nodeOf p.nodes m.node).map NodeRec.cls with
      | some 0 => endNode r m.node 2 (m.res.foldl (fun s q => ladleStop (ispId q) true s) s)
      | some 6 => stopNeu p r m s
      | some 7 => endNode r m.node 2 (m.res.foldl (fun s ch => stopChannel ch 4 s) s)
      | some c =>
        if c ≤ 5 then
          { s with ven := { s.ven with insts := s.ven.insts.map fun i =>
              match i.cmd with
              | some q =>
                if q.pour = r ∧ q.node = m.node ∧ q.stop = none then
                  { i with cmd := some { q with stop := some .abort, stopAt := now s } }
                else i
              | none => i } }
        else s
      | none => s)
  | _ => s

/-- R156: the cause is a damaged frame: a camera event. -/
def damageCause (code : EventCode) : Bool := code.toNat / 256 == 6

/-- R512, R156: the ports of a graph's two ISP nodes. -/
def portsOf (p : Pattern) (slot : Nat) : List Nat :=
  (p.nodes.filter fun n => n.cls == 0 && n.slot == slot).map fun n => leAt (paramOf p n) 0 1

/-- R225, R156: the runs that an abort counts: of damaged frames for a graph of cameras, of other causes for a graph with a
pair. -/
def countAbort (r : PourRef) (code : EventCode) (s : State) : State :=
  let p := active s
  match graphOf p r.slot with
  | some g =>
    if damageCause code then
      (if g.triggerKind = 0 then
        (portsOf p r.slot).foldl (fun s q => { s with cams := upd s.cams q fun c =>
          { c with damageRun := satAdd 4 c.damageRun 1 } }) s
       else s)
    else if g.pairId = 0xFF then s
    else updSlot r.slot (fun g => { g with abortRun := satAdd 4 g.abortRun 1 }) s
  | none => s

/-- R432, R430: the graph of a slot is a flask graph: it holds a split node. -/
def flaskGraph (p : Pattern) (slot : Nat) : Bool :=
  (splitNodes p).any fun n => ((nodeOf p.nodes n).map NodeRec.slot).getD 8 == slot

/-- A message to a peer chip, one of the block's outputs. -/
def sendPeer (chip : Nat) (words : List Nat) (s : State) : State :=
  { s with lnk := { s.lnk with sent := s.lnk.sent ++ [(chip, words)] } }

/-- The other chips of the flask. -/
def peersOf (p : Pattern) (s : State) : List Nat :=
  (List.range p.hdr.flaskSize).filter fun c => c != chipIndex s

/-- R224: the requests of a pour that Ladle has not granted are withdrawn. -/
def withdrawPour (r : PourRef) (s : State) : State :=
  { s with ldl := { s.ldl with queue := s.ldl.queue.filter fun q => q.serves != some r } }

/-- R224: the abort of a pour, with its cause. An abort of an aborted pour changes nothing. -/
def abortPour (code : EventCode) (r : PourRef) (s : State) : State :=
  match pourAt s r with
  | none => s
  | some q =>
    if q.aborted.isSome then s
    else
      let p := active s
      let s := updPour r (fun q => { q with aborted := some code }) s
      let s := updSlot r.slot (fun g => { g with abortCause := code }) s
      let s := withdrawPour r (q.nodes.foldl (fun s m => abortNode p r m s) s)
      let s := settleTasks (cancelPour r s)
      let s := invalidatePour r s
      let s := countAbort r code s
      let s := if flaskGraph p r.slot && code != 0x100A then
          let own := (q.owner.map fun o => (o.2.slot, o.2.seq)).getD (r.slot, r.seq)
          (peersOf p s).foldl (fun s c => sendPeer c [3, own.1, own.2] s) s
        else s
      raise 0x0806 s

/-! ### Tasks of nodes (R303) -/

/-- R373: the pour is handed to the Assayer at the end of its record emit node's task. -/
def handPour (r : PourRef) (s : State) : State :=
  match pourAt s r with
  | some q =>
    if q.aborted.isSome || q.handed then s
    else
      match s.asy.announced.find? fun a => a.ref == r with
      | some a =>
        if a.missing then raise 0x0E22 s
        else if a.settled then s
        else updPour r (fun q => { q with handed := true }) { s with asy := { s.asy with handed := s.asy.handed ++ [q] } }
      | none => s
  | none => s

/-- R301, R303: a task ends with a status; FAULT aborts the pour. -/
def endTask (slot gen status : Nat) (s : State) : State :=
  match taskAt s slot gen with
  | none => s
  | some t =>
    let s := finishTask slot gen status s
    match t.pour, t.node with
    | some r, some n =>
      let s := if status = 2 then abortPour 0x0B09 r (raise 0x0B09 s) else s
      let emit := ((nodeOf (active s).nodes n).map NodeRec.cls).getD 0 == 10
      let s := if emit && slot == (nodeTask n r.seq).1 && status = 0 then handPour r s else s
      settleNode r n s
    | _, _ => s

/-- R304: a cancellation, with the node end that may follow. -/
def cancelAndSettle (slot gen : Nat) (s : State) : State :=
  match taskAt s slot gen with
  | none => s
  | some t =>
    let s := cancelTask slot gen s
    match t.pour, t.node with
    | some r, some n => settleNode r n s
    | _, _ => s

/-! ### Pours open (R213, R214) -/

/-- R211, R214 step 2: the flags of a graph: those its edges name, and those its nodes produce. -/
def graphFlags (p : Pattern) (slot : Nat) : List Nat :=
  let inSlot := fun n => ((nodeOf p.nodes n).map NodeRec.slot) == some slot
  (((p.edges.filter fun e => inSlot e.dst).map EdgeRec.flag) ++
    ((p.flags.filter fun f => inSlot f.producer).map FlagRec.flag)).dedup

/-- R421: the device flags of a graph's split nodes for a parity are cleared. -/
def clearDevFlags (p : Pattern) (slot par : Nat) (s : State) : State :=
  let qs := ((splitNodes p).zipIdx).filter fun e => ((nodeOf p.nodes e.1).map NodeRec.slot) == some slot
  let keep := fun (e : Nat × Nat) => if qs.any (fun q => e.2 / 16 == q.2 && e.2 % 16 / 8 == par) then 0 else e.1
  { s with fgs := { s.fgs with devFlags := (s.fgs.devFlags.zipIdx).map keep } }

/-- R82, R423: lane group 1 of a link is requested when it is neither active, granted nor queued. -/
def requestGroup (l cls : Nat) (deadline : Option Nat) (serves : Option PourRef) (s : State) : State :=
  let k := nth s.lnk.links l {}
  let known := (s.ldl.queue.any fun r => r.id == laneGroupId l) || (s.ldl.grants.any fun g => g.id == laneGroupId l)
  if !k.trained || k.lanes.toNat / 16 ≠ 15 || known then s
  else (ladleRequest (laneGroupId l) cls deadline (linkCost (active s) l) serves s).1

/-- R84: the deadline of a pour. The spec gives deadlines to nodes only: the model takes the latest of them, from the origin
given (assumption 69). -/
def pourDeadline (p : Pattern) (slot : Nat) (origin : Nat) : Nat :=
  origin + ((p.nodes.filter fun n => n.slot == slot).map fun n => deadlineOf p.deadlines n.nodeId).foldl max 0

/-- R431, R432: a link to a chip of the flask is down, or leads to a chip that is in a start sequence. -/
def flaskCut (p : Pattern) (s : State) : Bool :=
  (peersOf p s).any fun c =>
    let k := nth s.lnk.links (linkTo (chipIndex s) c) {}
    !k.trained || k.peerStarting

/-- R423, R432: what opening a pour of a flask graph adds: a non-owner requests its lane groups, and while a link is
lost the pour is aborted. -/
def openFlask (r : PourRef) (owner : Bool) (s : State) : State :=
  let p := active s
  if !flaskGraph p r.slot then s
  else if flaskCut p s then abortPour 0x100A r (raise 0x100A s)
  else if owner then s
  else
    let fs := ((pourAt s r).map Pour.fsOpen).getD (now s)
    (peersOf p s).foldl (fun s c =>
      requestGroup (linkTo (chipIndex s) c) 0 (some (pourDeadline p r.slot (fs - expMaxOf p r.slot))) (some r) s) s

/-- R214: a pour opens: its pour_seq, its parity's counters, its announcement, its tasks. R227: a write of FGS_ABORT in this
ECLK aborts it. -/
def openPour (slot fs : Nat) (frames : List (Nat × Nat)) (owner : Option (Nat × PourRef)) (s : State) : State :=
  let p := active s
  let seq := (nth s.fgs.slots slot {}).nextSeq
  let r : PourRef := { slot := slot, seq := seq }
  let s := updSlot slot (fun g => { g with nextSeq := (seq + 1) % 2 ^ 32, lastSeq := seq }) s
  let s := (graphFlags p slot).foldl (fun s f => if persistent p f then s else putFlag f seq 0 s) s
  let s := clearDevFlags p slot (seq % 2) s
  let q : Pour :=
    { ref := r, openAt := now s, fsOpen := fs, frames := frames, owner := owner,
      nodes := (p.nodes.filter fun n => n.slot == slot).map fun n => { node := n.nodeId } }
  let s := { s with fgs := { s.fgs with pours := s.fgs.pours ++ [q] } }
  let s := openFlask r owner.isNone (announce r fs (placeTasks p r s))
  if s.cyc.aborted.contains slot then abortPour 0x0806 r s else s

/-- R213, R136: a trigger that opens no pour: its pour_seq passes, and its records are announced, as a pattern has them. -/
def skipIn (p : Pattern) (slot fs : Nat) (s : State) : State :=
  let seq := (nth s.fgs.slots slot {}).nextSeq
  let s := updSlot slot (fun g => { g with nextSeq := (seq + 1) % 2 ^ 32, lastSeq := seq }) s
  announceIn p { slot := slot, seq := seq } fs s

/-- R213: a trigger of the active pattern that opens no pour. -/
def skipTrigger (slot fs : Nat) (s : State) : State := skipIn (active s) slot fs s

/-- R213: a trigger that finds two pours in flight. -/
def dropTrigger (slot fs : Nat) (s : State) : State := raise 0x0801 (skipTrigger slot fs s)

/-- R226, R103: the FGS refuses triggers: for a drain, from a mode transition's request, and before step 10 of the start
or the first rotation after a return. -/
def refusing (s : State) : Bool := s.fgs.drain || s.pwr.trans.isSome || !s.sys.ready

/-- R135, R136: triggers are deferred: from the swap request until they are accepted. -/
def deferring (s : State) : Bool := s.pat.swapAt.isSome || s.pat.acceptAt.isSome

/-- R226: FGS_STAT.drained: the FGS refuses triggers for a drain, and no pour is in flight. -/
def drained (s : State) : Bool := (s.fgs.drain || s.pwr.trans.isSome) && s.fgs.pours.isEmpty

/-- R136, R211: the source of a graph's trigger: the cameras of a pair, a flag, or the timer of a slot. -/
def sourceOf (g : GraphRec) : Nat × Nat := (g.triggerKind, if g.triggerKind = 2 then g.slot else g.triggerArg)

/-- R136: the graph that a source triggers. -/
def graphOfSource (p : Pattern) (src : Nat × Nat) : Option GraphRec := p.graphs.find? fun g => sourceOf g == src

/-- R136: the pattern that was active when the swap was requested. -/
def oldPattern (s : State) : Pattern := if s.pat.acceptAt.isSome then s.pat.previous.getD default else active s

/-- R136: a frame of a source is discarded: PAT_SWAP_FRAME_DROP, and what is announced for it will be missing. The spec does not
say which pattern announces it: the model takes the graph of the active pattern, and that of the swapped-out one where the
source has none any more (assumption 70). -/
def dropSource (src : Nat × Nat) (fs : Nat) (s : State) : State :=
  raise 0x0533 (match graphOfSource (active s) src, graphOfSource (s.pat.previous.getD default) src with
    | some g, _ => skipTrigger g.slot fs s
    | none, some g => skipIn (s.pat.previous.getD default) g.slot fs s
    | none, none => s)

/-- R136: a deferred trigger, at most one per source; a further one is discarded. -/
def deferTrigger (d : Deferred) (s : State) : State :=
  if s.pat.deferred.any (fun e => e.source == d.source) then dropSource d.source d.stamp s
  else { s with pat := { s.pat with deferred := s.pat.deferred ++ [d] } }

/-- R136, R226: a trigger is deferred: a swap is in progress. Before the FGS takes its first trigger it is refused (R103). -/
def defersNow (s : State) : Bool := deferring s && s.sys.ready

/-- R211, R213: a trigger that the FGS takes. -/
def acceptTrigger (slot fs : Nat) (frames : List (Nat × Nat)) (owner : Option (Nat × PourRef)) (s : State) : State :=
  if 2 ≤ (slotPours s slot).length then dropTrigger slot fs s else openPour slot fs frames owner s

/-- R211, R226, R136: a trigger of kind 1 or 2, with the stamp its pour's origin is taken from. -/
def plainTrigger (slot stamp : Nat) (owner : Option (Nat × PourRef)) (s : State) : State :=
  if defersNow s then
    deferTrigger { source := ((graphOf (active s) slot).map sourceOf).getD (1, slot), stamp := stamp, buffers := [], damaged := none, fsPair := (0, 0), frames := [],
                   paired := false, owner := owner } s
  else if refusing s then raise 0x0807 s
  else acceptTrigger slot stamp [] owner s

/-! ### Flag sets (R219, R221) -/

/-- R211: the kind 1 graph that a persistent flag triggers. -/
def triggeredBy (p : Pattern) (f : Nat) : Option GraphRec := p.graphs.find? fun g => g.triggerKind == 1 && g.triggerArg == f

/-- R211, R219: a persistent flag that has reached its sets fires its trigger, which clears it. -/
def fireFlag (f stamp : Nat) (owner : Option (Nat × PourRef)) (s : State) : State :=
  let p := active s
  match triggeredBy p f, flagOf p f with
  | some g, some r =>
    if flagValue s f 0 = r.sets ∧ persistent p f then plainTrigger g.slot stamp owner (putFlag f 0 0 s) else s
  | _, _ => s

/-- R219, R293: what a changed flag counter lets go on: flag waits, and the nodes of tasks that these cancel. -/
def wakeWaits (s : State) : State := settleTasks (flagWaits s)

/-- R221, R227: the node counts as running for its flag sets: it runs, its token follows a cut, or it has ended in this very
ECLK, whose sets come with its end; a Runner node's set follows its end (R357). -/
def producing (s : State) (ref : PourRef) (node : Nat) : Bool :=
  match pourAt s ref with
  | none => false
  | some q => q.nodes.any fun m => m.node == node && (match m.st with
      | .running => true
      | .cut => true
      | .ended st => m.endedAt == now s || (st == 0 && ((nodeOf (active s).nodes node).map NodeRec.cls) == some 7)
      | _ => false)

/-- R219, R221: k sets of a flag for a pour: an overset, or counted. -/
def countSets (rec : FlagRec) (ref : PourRef) (k : Nat) (s : State) : State :=
  let v := flagValue s rec.flag ref.seq + k
  if rec.sets < v then abortPour 0x0804 ref (raise 0x0804 s)
  else fireFlag rec.flag (now s) none (wakeWaits (putFlag rec.flag ref.seq v s))

/-- R220, R221: a set of k by a node in a pour: foreign, an overset, or counted. -/
def setFlag (node f : Nat) (r : Option PourRef) (k : Nat) (s : State) : State :=
  match flagOf (active s) f, r with
  | some rec, some ref =>
    if rec.producer != node || !producing s ref node then raise 0x0805 s else countSets rec ref k s
  | _, _ => raise 0x0805 s

end Sys2Proof.Machine
end

