-- ==== Sys2Proof/Machine/TstOps.lean ====
section
/-! DEFINITION. Units, bindings and unit failure (R164, R230, R231, R391, R397 to R404, R407), recall (R383) and what they
do to pours (R399). -/

namespace Sys2Proof.Machine

/-- R391: the class of a unit: 0 Pyramid, 1 Warp, 2 Feature, 3 Flow, 4 Stereo, 5 Neural. -/
def unitClass (u : Nat) : Nat := if u < 3 then 0 else if u < 7 then 1 else if u < 10 then 2 else if u < 13 then 3 else if u < 18 then 4 else 5

/-- R391: the first unit of a class, and how many it has. -/
def classBase (c : Nat) : Nat := nth [0, 3, 7, 10, 13, 18] c 0
def classUnits (c : Nat) : Nat := nth [3, 4, 3, 3, 5, 17] c 0

/-- R163, R230: the first logical instance of a class, and how many it has; class 5 counts logical arrays. -/
def logicalBase (c : Nat) : Nat := nth [0, 2, 5, 7, 9, 0] c 0
def logicalCount (c : Nat) : Nat := nth [2, 3, 2, 2, 4, 16] c 0

/-- The logical instances of a class. -/
def logicals (c : Nat) : List Nat := (List.range (logicalCount c)).map (· + logicalBase c)

/-- The unit bound to a logical instance of a class. -/
def boundUnit (s : State) (c k : Nat) : Option Nat :=
  (if c = 5 then (nth s.neu.arrays k {}).phys else (nth s.ven.insts k {}).phys).map (· + classBase c)

/-- The logical instance that a unit is bound to. -/
def logicalOf (s : State) (u : Nat) : Option Nat :=
  (logicals (unitClass u)).find? fun k => boundUnit s (unitClass u) k == some u

/-- A logical instance holds no command, and no change of its binding is in progress. -/
def logicalIdle (s : State) (c k : Nat) : Bool :=
  if c = 5 then
    let a := nth s.neu.arrays k {}
    !a.busy && !a.reserved && decide (a.bindUntil ≤ now s)
  else
    let i := nth s.ven.insts k {}
    i.cmd.isNone && i.reserved.isNone && decide (i.bindUntil ≤ now s)

/-- R164, R231: the binding of a logical instance; the change takes 64 ECLK, or 128 NCLK for an array. -/
def bindLogical (c k : Nat) (u : Option Nat) (s : State) : State :=
  let ph := u.map (· - classBase c)
  if c = 5 then { s with neu := { s.neu with arrays := upd s.neu.arrays k fun a => { a with phys := ph, bindUntil := now s + 96 } } }
  else { s with ven := { s.ven with insts := upd s.ven.insts k fun i => { i with phys := ph, bindUntil := now s + 64 } } }

/-- R393, R398, R401: dispatch to a logical instance is held back, or allowed. -/
def withhold (c k : Nat) (b : Bool) (s : State) : State :=
  if c = 5 then { s with neu := { s.neu with arrays := upd s.neu.arrays k fun a => { a with withheld := b } } }
  else { s with ven := { s.ven with insts := upd s.ven.insts k fun i => { i with withheld := b } } }

/-- A class's rotation. -/
def classAt (s : State) (c : Nat) : ClassTest := nth s.tst.classes c {}

/-- A class's rotation changed. -/
def updClass (c : Nat) (f : ClassTest → ClassTest) (s : State) : State :=
  { s with tst := { s.tst with classes := upd s.tst.classes c f } }

/-- NEU_TEST follows the test role of the arrays. -/
def noteTestPhys (s : State) : State :=
  let ct := classAt s 5
  { s with neu := { s.neu with testPhys := ct.unit.map (· - 18), handover := ct.target.map fun t => t.1 - 18 } }

/-- The surviving units of a class. -/
def survivors (s : State) (c : Nat) : List Nat :=
  ((List.range (classUnits c)).map (· + classBase c)).filter fun u => !s.tst.failed.contains u

/-- R391: the ECLK of a unit's last pass; a unit without one is the oldest. -/
def passKey (s : State) (u : Nat) : Nat := match nth s.tst.lastPass u none with
  | some t => t + 1
  | none => 0

/-- R402: how many logical instances a class keeps with so many failures. -/
def keptLogicals (c fails : Nat) : Nat := logicalCount c - (fails - 1)

/-- The failures of a class. -/
def failures (s : State) (c : Nat) : Nat := classUnits c - (survivors s c).length

/-- R398, R402: an idle logical instance that lacks a live unit takes one: a survivor that is bound to nothing and not
under test, else the unit of an idle instance beyond those the class keeps. -/
def rebindOne (c : Nat) (s : State) (k : Nat) : State :=
  let kept := (logicals c).take (keptLogicals c (failures s c))
  let live := fun k => match boundUnit s c k with
    | some u => !s.tst.failed.contains u
    | none => false
  if !kept.contains k || live k || !logicalIdle s c k then s
  else
    let free := (survivors s c).filter fun u => (logicalOf s u).isNone && (classAt s c).unit != some u
    match free.head? with
    | some u => withhold c k false (bindLogical c k (some u) s)
    | none =>
      match ((logicals c).filter fun j => !kept.contains j && live j && logicalIdle s c j).getLast? with
      | some j => withhold c k false (bindLogical c k (boundUnit s c j) (bindLogical c j none s))
      | none => s

/-- R398, R402: bindings of a class that has failures: instances beyond those it keeps are withheld, and each kept
one is bound to a surviving unit as soon as both are idle. -/
def settleBindings (c : Nat) (s : State) : State :=
  let n := failures s c
  if n = 0 then s
  else
    let s := ((logicals c).drop (keptLogicals c n)).foldl (fun s k => withhold c k true s) s
    let s := (logicals c).foldl (rebindOne c) s
    ((logicals c).drop (keptLogicals c n)).foldl (fun s k =>
      if logicalIdle s c k then bindLogical c k none s else s) s

/-! ### Recall and invalidation (R383, R399) -/

/-- R382: the ledger holds 20 ms. -/
def pruneLedger (s : State) : State :=
  { s with asy := { s.asy with ledger := (s.asy.ledger.filter fun e => decide (now s < e.release + 24000000)).take 128 } }

/-- R383, R380: RECALL notices for the released records of a ledger pour. -/
def recallEntry (e : LedgerEntry) (s : State) : State :=
  e.zoneIds.foldl (fun s z => pushNotice (noticeRecord z e.pair e.origin (now s) e.ref.seq stRecall) s) s

/-- R52: the pair bits of a pour's graph. -/
def pourPairs (s : State) (r : Option PourRef) : BitVec 4 :=
  pairBits ((r.bind fun r => (graphOf (active s) r.slot).map GraphRec.pairId).toList)

/-- R52: the pairs of the graphs that run over the flask. -/
def flaskPairs (s : State) : BitVec 4 :=
  pairBits (((active s).graphs.filter fun g => flaskGraph (active s) g.slot).map GraphRec.pairId)

/-- R383: every ledger pour that p holds of is recalled; AGE_RECALL and S1 follow when there is one. -/
def recallPours (p : LedgerEntry → Bool) (s : State) : State :=
  let s := pruneLedger s
  let es := s.asy.ledger.filter fun e => p e && !e.recalled
  if es.isEmpty then s
  else
    let s := { s with asy := { s.asy with ledger := updAll p (fun e => { e with recalled := true }) s.asy.ledger } }
    let s := es.foldl (fun s e => recallEntry e s) s
    detectS1 0x0E23 (pairBits (es.map LedgerEntry.pair)) s

/-- The unit served a pour after its last pass. -/
def servedSince (us : List (Nat × Nat)) (u : Nat) (pass : Option Nat) : Bool :=
  us.any fun q => q.1 == u && (match pass with
    | some t => decide (t < q.2)
    | none => true)

/-- R399: the pours in flight, handed over and in ready batches that a unit served since its last pass. -/
def servedPours (u : Nat) (s : State) : List PourRef :=
  let pass := nth s.tst.lastPass u none
  (((s.fgs.pours ++ s.asy.handed).filter fun q => servedSince q.units u pass).map Pour.ref ++
    (s.asy.batches.filter fun b => servedSince b.units u pass).map Batch.ref).dedup

/-- R383, R399: the entry of the ledger is of a pour that the unit served since its last pass. -/
def servedEntry (s : State) (u : Nat) (e : LedgerEntry) : Bool :=
  e.units.contains u && (match nth s.tst.lastPass u none with
    | some t => decide (t < e.release)
    | none => true)

/-- R399: unreleased records of pours the unit served since its last pass are invalidated, released ones recalled, and
the buffers it wrote are no previous plane or output. -/
def failureEffects (u : Nat) (s : State) : State :=
  let pass := nth s.tst.lastPass u none
  let s := (servedPours u s).foldl (fun s r => invalidatePour r s) s
  let drop := fun (g : GraphSlot) => if servedSince g.lastUnits u pass then { g with lastGood := none } else g
  let s := { s with fgs := { s.fgs with slots := s.fgs.slots.map drop } }
  recallPours (servedEntry s u) s

/-- R398: the pour of the command that a unit holds. -/
def commandPour (s : State) (u : Nat) : Option PourRef :=
  match logicalOf s u with
  | none => none
  | some k =>
    if unitClass u = 5 then (s.neu.cmds.find? fun c => c.arrays.any fun a => a.array == k).map NeuCmd.pour
    else ((nth s.ven.insts k {}).cmd).map VenCmd.pour

/-- R52, R399: the pairs that a failure of a unit affects: that of its command, and those of the pours it served. -/
def unitPairs (u : Nat) (s : State) : BitVec 4 :=
  let ps := ((commandPour s u).toList ++ servedPours u s).filterMap fun r => (graphOf (active s) r.slot).map GraphRec.pairId
  pairBits (ps ++ (s.asy.ledger.filter (servedEntry s u)).map LedgerEntry.pair)

/-- R402, R404: the state of a class by its failures. -/
def classState (c n : Nat) : ClassSt := if n = 0 then .normal else if n = classUnits c then .lost else if n = 1 then .tight else .degraded

/-- R409: a failure joins the log; those of one ECLK stand in ascending unit order, entry 0 the newest. -/
def logFailure (e : FailEntry) : List FailEntry → List FailEntry
  | [] => [e]
  | q :: l => if q.stamp = e.stamp ∧ e.unit < q.unit then q :: logFailure e l else e :: q :: l

/-- The run of a logical array in a class 6 command. -/
def runOf (s : State) (a : Nat) : Option ArrayRun :=
  (s.neu.cmds.flatMap NeuCmd.arrays).find? fun r => r.array == a

/-- An array's run changed in the command that holds it. -/
def updRun (a : Nat) (f : ArrayRun → ArrayRun) (s : State) : State :=
  let cs := s.neu.cmds.map fun c => { c with arrays := updAll (fun r => r.array == a) f c.arrays }
  { s with neu := { s.neu with cmds := cs } }

/-- R231, R238: an array goes on after a pause or a rebinding; the operands of its next tile are read afresh. -/
def resumeArray (a delay : Nat) (s : State) : State :=
  updRun a (fun r => { r with paused := false, nextAt := max r.nextAt (now s + delay), filled := r.tiles }) s

/-- R409: a requested handover is withdrawn, and its logical instance takes commands again; an array that waits at its tile
boundary goes on. -/
def withdrawTarget (c : Nat) (s : State) : State :=
  match (classAt s c).target with
  | some (t, _) =>
    let s := updClass c (fun ct => { ct with target := none }) s
    (match logicalOf s t with
      | some k =>
        let s := withhold c k false s
        if c = 5 then resumeArray k 0 s else s
      | none => s)
  | none => s

/-- R409: an injection and a real failure of one unit in one ECLK are one failure, logged with injected 0. -/
def realFailure (u : Nat) (injected : Bool) (s : State) : State :=
  if injected then s
  else
    let real := fun (e : FailEntry) => { e with injected := false }
    { s with tst := { s.tst with log := updAll (fun e => e.unit == u && e.stamp == now s) real s.tst.log } }

/-- R435: a non-owner of a flask graph reports its failed unit to the other chips of the flask. -/
def reportUnit (u : Nat) (s : State) : State :=
  let p := active s
  if p.graphs.any fun g => g.pairId == 0xFF && flaskGraph p g.slot then
    (peersOf p s).foldl (fun s c => sendPeer c [8, u] s) s
  else s

/-- R397 to R402, R404, R409: a unit is declared failed, with its cause. A unit that is failed already stays as it is.
Row 6 of R407 keeps the test role. -/
def unitFailed (u : Nat) (cause : EventCode) (injected : Bool) (row : Nat) (s : State) : State :=
  if s.tst.failed.contains u then realFailure u injected s
  else
    let c := unitClass u
    let pour := commandPour s u
    let pairs := unitPairs u s
    let entry : FailEntry := { unit := u, injected := injected, cause := cause, stamp := now s, row := row }
    let s := { s with tst := { s.tst with failed := u :: s.tst.failed, log := (logFailure entry s.tst.log).take 8 } }
    let s := detectS1 0x0F02 pairs s
    let s := match pour with
      | some r => abortPour cause r s
      | none => s
    let n := failures s c
    let s := withdrawTarget c s
    let s := updClass c (fun ct =>
      { ct with state := classState c n, running := ct.running && ct.unit != some u,
                unit := if ct.unit = some u then (if row = 6 then some u else none) else if ct.running then ct.unit else none }) s
    let s := match logicalOf s u with
      | some k => withhold c k true s
      | none => s
    let s := if n = 2 then detectS1 0x0F03 pairs s else s
    let s := failureEffects u (settleBindings c (reportUnit u s))
    let s := noteTestPhys s
    if (survivors s c).isEmpty then detectS2 0x0F06 s else s

/-! ### The test role moves (R231, R261, R392, R393, R398, R401) -/

/-- R395, R437: a unit's test begins. -/
def beginTest (c u : Nat) (s : State) : State :=
  let s := updClass c (fun ct => { ct with unit := some u, running := true, testAt := some (now s), target := none }) s
  noteTestPhys (traceTest u 0 (leBytes 8 0 ++ leBytes 1 (c + 1)) s)

/-- R231, R261: the logical instance is at a boundary where its unit can be taken: it holds no command, or it is an
array held at a tile boundary with both stages empty. An array that is only to hold one, its tickets awaited or in their
ramp, takes them to its new unit; a test in tight mode does not take it then. -/
def atBoundary (s : State) (c k : Nat) : Bool :=
  logicalIdle s c k || (c == 5 && (match runOf s k with
    | some r => r.paused && r.stages.isEmpty
    | none => false)) ||
  (c == 5 && decide (failures s c = 0) && !(nth s.neu.arrays k {}).busy && (nth s.neu.arrays k {}).reserved &&
    decide ((nth s.neu.arrays k {}).bindUntil ≤ now s))

/-- R231: the tickets that an array holds or awaits go to the unit bound to it next. -/
def rekeyTickets (u v : Nat) (s : State) : State :=
  let gs := s.ldl.grants.map fun g => if g.id = unitId u then { g with id := unitId v } else g
  let qs := s.ldl.queue.map fun r => if r.id = unitId u then { r with id := unitId v } else r
  { s with ldl := { s.ldl with grants := gs, queue := qs } }

/-- R164, R231, R393: the normal handover of unit t's logical instance k to the unit that has passed. -/
def handOver (c k t : Nat) (s : State) : State :=
  match (classAt s c).unit with
  | none => s
  | some p =>
    let s := withhold c k false (bindLogical c k (some p) s)
    let s := if c = 5 then resumeArray k 96 (rekeyTickets t p s) else s
    noteTestPhys (updClass c (fun ct => { ct with unit := some t, running := false, target := none }) s)

/-- What waits for a logical instance of a class to come free: a handover, a test in tight mode, or a binding. -/
def roleMoves (c : Nat) (s : State) : State :=
  match (classAt s c).target with
  | none => settleBindings c s
  | some (t, _) =>
    match logicalOf s t with
    | none => s
    | some k =>
      if !atBoundary s c k then s
      else if failures s c = 0 then handOver c k t s
      else beginTest c t (settleBindings c s)

/-- R231, R247, R393: a role that waits for a logical instance moves as soon as the instance is free. -/
def settleRoles (s : State) : State :=
  (List.range 6).foldl (fun s c => if (classAt s c).target.isSome then roleMoves c s else s) s

/-- R407: a view conflict about a unit; the row stands in the log entry of the failed unit. Every row enters S1. -/
def viewConflict (u : Nat) (s : State) : State := detectS1 0x0F07 (unitPairs u s) s

/-- The injection that waits for a unit, and the state without it. -/
def takeInjection (u : Nat) (k : Injection) (s : State) : Bool × State :=
  if s.tst.inject.contains (u, k) then
    (true, { s with tst := { s.tst with inject := s.tst.inject.filter fun q => q != (u, k) } })
  else (false, s)

/-- R382, R394: a unit's token joins the units that served a pour; a stale unit's pour loses its records. -/
def serveUnit (r : PourRef) (u : Nat) (s : State) : State :=
  let s := updPour r (fun q => { q with units := q.units ++ [(u, now s)] }) s
  let s := { s with asy := { s.asy with
      handed := updFirst (fun q => q.ref == r) (fun q => { q with units := q.units ++ [(u, now s)] }) s.asy.handed,
      batches := updFirst (fun b => b.ref == r) (fun b => { b with units := b.units ++ [(u, now s)] }) s.asy.batches } }
  if s.tst.stale.contains u then invalidatePour r s else s

end Sys2Proof.Machine
end

