-- ==== Sys2Proof/Machine/Presence.lean ====
section
/-! DEFINITION. Mode requests as both the host and the presence detector make them (R65, R71), and the presence detector
(R69, R70, R372). -/

namespace Sys2Proof.Machine

/-- R64, R71: a request for a mode: it begins a transition, or is held while one is in progress. A request for the mode
the device is in changes nothing, TRIM apart. -/
def requestMode (m : PowerMode) (s : State) : State :=
  match s.pwr.trans with
  | some _ =>
    let s := if s.pwr.pend.isSome then raise 0x0203 s else s
    { s with pwr := { s.pwr with pend := some m } }
  | none =>
    if m = s.pwr.cur ∧ m ≠ .trim then s
    else { s with pwr := { s.pwr with trans := some { target := m, source := s.pwr.cur, requestedAt := s.clock.watch } } }

/-- Cells of 16 × 16 pixels of a level-3 plane: their mean luma, rounded half up. -/
def cellsOf (w h : Nat) (px : Nat → Nat → Nat) : CellFrame :=
  (List.range (ceilDiv h 16)).flatMap fun (cy : Nat) => (List.range (ceilDiv w 16)).map fun (cx : Nat) =>
    let vs := blockCells 16 w h cx cy |>.map fun c => px c.1 c.2
    (2 * sumNat vs + vs.length) / (2 * max 1 vs.length)

/-- R69: min_hits as it acts. -/
def minHits (s : State) : Nat := let m := s.pwr.minHits.toNat; if 1 ≤ m ∧ m ≤ 8 then m else 8

/-- R69: cells that changed by more than delta. -/
def changedCells (delta : Nat) (a b : CellFrame) : Nat :=
  ((List.zip a b).filter fun q => decide (delta < max q.1 q.2 - min q.1 q.2)).length

/-- R69: a frame joins the window as evidence or not; wake motion may fire. -/
def joinWindow (ev : Bool) (s : State) : State :=
  let win := (s.pwr.window <<< 1) ||| BitVec.ofNat 8 (flagNat ev)
  let hits := ((List.range 8).filter fun i => win.getLsbD i).length
  if minHits s ≤ hits then
    let s := raise 0x0210 { s with pwr := { s.pwr with window := 0, count := 0, fired := true } }
    if s.pwr.autoRun then requestMode .run s else s
  else { s with pwr := { s.pwr with window := win, count := BitVec.ofNat 4 (min 8 (s.pwr.count.toNat + 1)) } }

/-- R69: the frame is evidence against the running reference. -/
def evidence (f : CellFrame) (s : State) : Bool := match s.pwr.reference with
  | none => false
  | some r => decide (s.pwr.cells.toNat ≤ changedCells s.pwr.delta.toNat r f)

/-- R69: the presence detector takes a frame's cells. The first frame has no reference and is no evidence. -/
def presenceFrame (f : CellFrame) (s : State) : State :=
  let ev := evidence f s
  let ref := match s.pwr.reference with
    | none => f
    | some r => Config.runningReference r f
  joinWindow ev { s with pwr := { s.pwr with reference := some ref } }

/-- R372: the presence node evaluates level 3 of its Pyramid input. -/
def presenceNode (p : Pattern) (q : Pour) (n : NodeRec) (s : State) : State :=
  match planeOf p (leAt (paramOf p n) 0x20 2) 3 with
  | some d =>
    presenceFrame (cellsOf d.w d.h fun x y => u8Scale d.bpp (planePix s d (halfRead p q d) x y)) s
  | none => s

/-- R187, R69: level 3 of a frame's luma as the WATCH Pyramid forms it, coarse pass. -/
def watchCells (c : IspCfg) (rows : List (List Nat)) : CellFrame :=
  let bpp := lumaBytes c.lumaFmt
  let l0 := (List.range c.h).map fun (y : Nat) => (List.range c.w).map fun (x : Nat) => lumaAt c rows x y
  let next := fun (t : List (List Nat)) =>
    let h := t.length
    let w := (t.headD []).length
    let px := fun (x y : Int) => nth (nth t (mirror y h) []) (mirror x w) 0
    (List.range (ceilDiv h 2)).map fun (y : Nat) => (List.range (ceilDiv w 2)).map fun (x : Nat) =>
      (pyrPixel bpp px false x y).1
  let l3 := next (next (next l0))
  cellsOf (l3.headD []).length l3.length fun x y => u8Scale bpp (nth (nth l3 y []) x 0)

/-- R69: the frame completes a window of enough hits. -/
def fires (f : CellFrame) (s : State) : Bool :=
  let win := (s.pwr.window <<< 1) ||| BitVec.ofNat 8 (flagNat (evidence f s))
  decide (minHits s ≤ ((List.range 8).filter fun i => win.getLsbD i).length)

/-- R70, R72: a frame beyond its pipe's commit point: held, with none for one beyond two, which is discarded and counts as
no evidence in its turn. -/
def holdFrame (f : CellFrame) (s : State) : State :=
  if (s.pwr.heldFrames.filter Option.isSome).length < 2 then
    { s with pwr := { s.pwr with heldFrames := s.pwr.heldFrames ++ [some f] } }
  else raise 0x0212 { s with pwr := { s.pwr with heldFrames := s.pwr.heldFrames ++ [none] } }

/-- R70, R72: a WATCH frame: evaluated now, or held while a change to RUN or TRIM runs. A frame of the ACLK of the commit
point that fires belongs to WATCH. -/
def watchFrame (f : CellFrame) (s : State) : State :=
  match s.pwr.trans with
  | some t =>
    (match t.startedAt with
      | some c =>
        if (t.target = .run ∨ t.target = .trim) ∧ ¬ (c / 3 = s.clock.watch / 3 ∧ s.pwr.heldFrames = [] ∧ fires f s) then
          holdFrame f s
        else presenceFrame f s
      | none => presenceFrame f s)
  | none => presenceFrame f s

/-- R70: at the completion the new graph's presence node takes the window and the held frames, or the window is
dropped. -/
def carryOver (s : State) : State :=
  let began := decide (0 < s.pwr.count.toNat)
  let held := s.pwr.heldFrames
  let s := { s with pwr := { s.pwr with heldFrames := [] } }
  if (active s).nodes.any fun n => n.cls == 9 then
    held.foldl (fun s f => match f with
      | some f => presenceFrame f s
      | none => joinWindow false s) { s with pwr := { s.pwr with carried := true } }
  else
    let s := { s with pwr := { s.pwr with window := 0, count := 0, reference := none, carried := false } }
    if began then raise 0x0211 s else s

end Sys2Proof.Machine
end

