-- ==== Sys2Proof/Machine/Fgs.lean ====
section
/-! DEFINITION. The Frame Graph Sequencer's commands (10_frame_graph_sequencer.md), and the start of what Ladle has granted
(R77, R216, R217, R239). -/

namespace Sys2Proof.Machine

/-! ### What a node needs to start (R216) -/

/-- The node runs, or has a resource reserved. R223: a node cut at its deadline counts as ended. -/
def NodeSt.holds : NodeSt → Bool
  | .selected => true
  | .running => true
  | _ => false

/-- R128: how much of its cap a class takes now; class 6 counts arrays. -/
def classTaken (s : State) (p : Pattern) (c : Nat) : Nat :=
  sumNat (s.fgs.pours.map fun q => sumNat ((q.nodes.filter fun m =>
    m.st.holds && ((nodeOf p.nodes m.node).map NodeRec.cls) == some c).map fun m => if c = 6 then m.res.length else 1))

/-- R402: a class's cap with its failures. -/
def capNow (s : State) (p : Pattern) (c : Nat) : Nat :=
  if 1 ≤ c ∧ c ≤ 5 ∧ 2 ≤ failures s (c - 1) then min (capOf p c) (survivors s (c - 1)).length else capOf p c

/-- R219, R223: an input edge is satisfied, and its producer's token has come. -/
def edgeReady (s : State) (p : Pattern) (q : Pour) (e : EdgeRec) : Bool :=
  let v := flagValue s e.flag q.ref.seq
  (if e.grain = 0 then (flagOf p e.flag).map FlagRec.sets == some v else decide (1 ≤ v)) &&
    !(q.nodes.any fun m => m.node == e.src && m.st == NodeSt.cut)

/-- The input edges of a node. -/
def inputsOf (p : Pattern) (n : Nat) : List EdgeRec := p.edges.filter fun e => e.dst == n

/-- R202: the node reads its own output of the previous pour as prediction. -/
def readsOwn (p : Pattern) (n : NodeRec) : Bool :=
  (n.cls == 4 || n.cls == 5) && (venHdr (paramOf p n)).predEdge == 0xFFFE

/-- R197, R202: the node reads the previous pour's plane or output. -/
def readsPrevious (p : Pattern) (n : NodeRec) : Bool := n.cls == 4 || readsOwn p n

/-- R183, R251: halves of a node's output. -/
def halvesWritten (p : Pattern) (n : NodeRec) : Nat :=
  if 1 ≤ n.cls ∧ n.cls ≤ 5 then halvesOf n (paramOf p n)
  else if n.cls = 6 then
    (match (layersOf p n).getLast? with
      | some l => (tdescAt p.data l.outDesc).halves
      | none => 1)
  else 1

/-- The node has ended. -/
def NodeRun.hasEnded (m : NodeRun) : Bool := match m.st with
  | .ended _ => true
  | _ => false

/-- R205: node d reads, in a pour of the given pour_seq, the half that node n writes in pour seq: as current plane or
prediction through an edge, as previous plane of Flow, or as its own previous output. -/
def readsHalf (p : Pattern) (n d : NodeRec) (seq later : Nat) : Bool :=
  let bufs := (p.edges.filter fun e => e.src == n.nodeId).map EdgeRec.buffer
  let reads := p.edges.any fun e => e.dst == d.nodeId && bufs.contains e.buffer
  let same := seq % 2 == later % 2
  (reads && (same || d.cls == 4)) || (d.nodeId == n.nodeId && readsOwn p d && !same)

/-- R205: a node that reads a half in an earlier pour is not done with it. -/
def halfBusy (s : State) (p : Pattern) (q : Pour) (n : NodeRec) : Bool :=
  halvesWritten p n == 2 &&
    (s.fgs.pours.filter fun o => o.ref.slot == q.ref.slot && decide (o.ref.seq < q.ref.seq)).any fun o =>
      o.nodes.any fun m => !m.hasEnded && (match nodeOf p.nodes m.node with
        | some d => readsHalf p n d o.ref.seq q.ref.seq
        | none => false)

/-- R205: the pour that writes the half a node reads as previous is still in flight. -/
def previousBusy (s : State) (p : Pattern) (q : Pour) (n : NodeRec) : Bool :=
  readsPrevious p n && s.fgs.pours.any fun o => o.ref.slot == q.ref.slot && decide (o.ref.seq < q.ref.seq)

/-- R217: the lowest-numbered free logical instance of a class 1 to 5. -/
def freeInst (s : State) (c : Nat) : Option Nat :=
  (logicals (c - 1)).find? fun k =>
    let i := nth s.ven.insts k {}
    i.phys.isSome && i.cmd.isNone && i.reserved.isNone && !i.withheld && decide (i.bindUntil ≤ now s)

/-- R248: the logical arrays that exist in this mode. -/
def arraysExist (s : State) : Nat := if s.pwr.cur = .trim then s.pwr.trimNow.arrays else 16

/-- R236: the free logical arrays, lowest first. -/
def freeArrays (s : State) : List Nat :=
  (List.range (arraysExist s)).filter fun a =>
    let x := nth s.neu.arrays a {}
    x.phys.isSome && !x.busy && !x.reserved && !x.withheld && decide (x.bindUntil ≤ now s)

/-- R402: the width a class 6 node runs with. -/
def widthNow (s : State) (n : NodeRec) : Nat :=
  min n.width ((List.range (arraysExist s)).filter fun a => (nth s.neu.arrays a {}).phys.isSome).length

/-- R216 item 4: the resources a node takes, when they are free. -/
def resources (s : State) (p : Pattern) (n : NodeRec) : Option (List Nat) :=
  match n.cls with
  | 0 =>
    let port := leAt (paramOf p n) 0 1
    if (s.ldl.queue.any fun r => r.id == ispId port) || (s.ldl.grants.any fun g => g.id == ispId port) then none else some [port]
  | 6 =>
    let w := widthNow s n
    let fs := freeArrays s
    if 0 < w ∧ w ≤ fs.length then some (fs.take w) else none
  | 7 =>
    let c := chAt s n.channel
    if c.st == .idle && !s.dma.stopped then some [n.channel] else none
  | c => if c ≤ 5 then (freeInst s c).map fun k => [k] else some []

/-- R216: every condition of a node's start that precedes the grant. -/
def startable (s : State) (p : Pattern) (q : Pour) (m : NodeRun) : Option (NodeRec × List Nat) :=
  match nodeOf p.nodes m.node with
  | none => none
  | some n =>
    if q.aborted.isSome || q.origin.isNone || m.st != NodeSt.waiting then none
    else if !(inputsOf p n.nodeId).all (edgeReady s p q) then none
    else if n.cls ≤ 6 ∧ capNow s p n.cls < classTaken s p n.cls + (if n.cls = 6 then widthNow s n else 1) then none
    else if halfBusy s p q n || previousBusy s p q n then none
    else (resources s p n).map fun r => (n, r)

/-- R217: the absolute deadline of a node in a pour. -/
def absDeadline (p : Pattern) (q : Pour) (n : Nat) : Nat := q.origin.getD 0 + deadlineOf p.deadlines n

/-- A node that can be selected. -/
structure Candidate where
  pour : Pour
  node : NodeRec
  res : List Nat
  deriving Repr

/-- R217: the nodes that can be selected, in the order of pours. -/
def startables (s : State) (p : Pattern) : List Candidate :=
  s.fgs.pours.flatMap fun q => q.nodes.filterMap fun m =>
    (startable s p q m).map fun r => { pour := q, node := r.1, res := r.2 }

/-- R217: earliest absolute deadline, then earlier open, then lowest node_id. -/
def pickNode (p : Pattern) (cs : List Candidate) : Option Candidate :=
  let byNode := sortBy (fun c => c.node.nodeId) cs
  let byOpen := sortBy (fun c => c.pour.openAt) byNode
  (sortBy (fun c => absDeadline p c.pour c.node.nodeId) byOpen).head?

/-! ### Selection and start -/

/-- R219: a node starts; it clears the persistent flags it consumes. -/
def startNode (r : PourRef) (n : Nat) (s : State) : State :=
  let p := active s
  let s := updNode r n (fun m => { m with st := .running }) s
  (((inputsOf p n).map EdgeRec.flag).dedup.filter fun f => persistent p f).foldl (fun s f => putFlag f 0 0 s) s

/-! ### Class 6 commands -/

/-- The command of a node in a pour. -/
def neuAt (s : State) (r : PourRef) (n : Nat) : Option NeuCmd := s.neu.cmds.find? fun c => c.pour == r && c.node == n

/-- The layer a command is in. -/
def layerNow (p : Pattern) (n : NodeRec) (c : NeuCmd) : Option Layer := (layersOf p n)[c.layer]?

/-- The unit bound to a logical array. -/
def arrayUnit (s : State) (a : Nat) : Option Nat := boundUnit s 5 a

/-- R237, R259: every array has begun, has finished its tiles of the layer, and holds empty stages. -/
def layerFinished (p : Pattern) (n : NodeRec) (c : NeuCmd) : Bool :=
  match layerNow p n c with
  | none => false
  | some l =>
    (c.arrays.zipIdx).all fun q => q.1.begun && q.1.stages.isEmpty &&
      q.1.tiles == tilesOfArray p l c.arrays.length q.2

/-- R245: the completion token. -/
def neuToken (node status width seq mask layers detail : Nat) : List Byte :=
  leBytes 2 node ++ leBytes 1 status ++ leBytes 1 width ++ leBytes 4 seq ++ leBytes 4 mask ++ leBytes 2 layers ++ leBytes 2 detail

/-! ### Refusal (R87) -/

/-- R166, R245: the token of a node that Ladle has refused, as the unit of its first resource copies it to Tap. -/
def refuseToken (r : PourRef) (n cls : Nat) (res : List Nat) (s : State) : State :=
  match res.head?.bind (boundUnit s (cls - 1)), res.head? with
  | some u, some k =>
    if cls = 6 then endSource u n r.seq true (neuToken n 1 res.length r.seq 0 0 3) s
    else
      endSource u n r.seq true (venToken n 1 (unitId u % 256) r.seq 0 0 0 3)
        { s with ven := { s.ven with insts := upd s.ven.insts k fun i => { i with lastStatus := 1 } } }
  | _, _ => s

/-- R87, R166, R245: Ladle refused a node: it ends with LADLE_REFUSED and its token, and its pour is aborted. Where arrays of
it have begun they are stopped, and the token follows when the last has stopped (assumption 71). -/
def refuseNode (r : PourRef) (n : Nat) (s : State) : State :=
  let p := active s
  let cls := ((nodeOf p.nodes n).map NodeRec.cls).getD 0
  match (pourAt s r).bind fun q => q.nodes.find? fun m => m.node == n with
  | none => s
  | some m =>
    match neuAt s r n with
    | some c =>
      let idle := (c.arrays.filter fun x => !x.begun).map ArrayRun.array
      settleRoles (updNeu r n (NeuCmd.stopped .refused (now s)) (unreserve p { m with res := idle } s))
    | none =>
      let s := if 1 ≤ cls ∧ cls ≤ 6 then refuseToken r n cls m.res s else s
      settleRoles (abortPour 0x0303 r (endNode r n 1 (unreserve p m s)))

/-- Requests made one after the other; the answer false says that one was refused. -/
def requestAll (cls : Nat) (deadline : Option Nat) (t : Nat) (r : PourRef) : List Nat → State → State × Bool
  | [], s => (s, true)
  | id :: ids, s =>
    let q := ladleRequest id cls deadline t (some r) s
    if q.2 then requestAll cls deadline t r ids q.1 else (q.1, false)

/-- R84, R217, R218: a selected node's resources are reserved and its Ladle requests are made, or its task is handed over. -/
def selectNode (c : Candidate) (s : State) : State :=
  let p := active s
  let r := c.pour.ref
  let n := c.node
  if 8 ≤ n.cls then
    let k := nodeTask n.nodeId r.seq
    let s := startNode r n.nodeId s
    let s := if n.cls = 9 then presenceNode p c.pour n s else s
    settleTasks (makeReady k.1 k.2 (updTask k.1 k.2 (fun t => { t with started := true }) s))
  else
    let s := updNode r n.nodeId (fun m => { m with st := .selected, res := c.res }) s
    let dl := some (absDeadline p c.pour n.nodeId)
    let t := ticketsOf p n.nodeId
    let q := match n.cls with
      | 0 => requestAll 1 dl t r (c.res.map ispId) s
      | 6 =>
        let s := c.res.foldl (fun (s : State) a =>
          { s with neu := { s.neu with arrays := upd s.neu.arrays a fun x => { x with reserved := true } } }) s
        requestAll 1 dl t r (c.res.map fun a => unitId (18 + (nth s.neu.arrays a {}).phys.getD 0)) s
      | 7 =>
        let s := c.res.foldl (fun s ch => updCh ch (fun d => { d with st := .waitGrant, serves := some (r, n.nodeId) }) s) s
        let hi := (chAt s n.channel).hipri
        let all := some (pourDeadline p r.slot (c.pour.origin.getD c.pour.fsOpen))
        requestAll (if hi then 0 else 1) (if hi then all else dl) t r (c.res.map dmaId) s
      | _ =>
        let s := c.res.foldl (fun (s : State) k =>
          { s with ven := { s.ven with insts := upd s.ven.insts k fun i => { i with reserved := some (r, n.nodeId) } } }) s
        requestAll 1 dl t r (c.res.map fun k => unitId (classBase (n.cls - 1) + (nth s.ven.insts k {}).phys.getD 0)) s
    if q.2 then q.1 else refuseNode r n.nodeId q.1

/-- R228 and the faults of 10_frame_graph_sequencer.md: an uncorrectable error in an FGS table aborts every pour. -/
def fgsTableError (s : State) : State :=
  let pairs := s.fgs.pours.filterMap fun q => (graphOf (active s) q.ref.slot).map GraphRec.pairId
  (s.fgs.pours.map Pour.ref).foldl (fun (s : State) r => abortPour 0x0809 r s) (detectS1 0x0809 (pairBits pairs) s)

/-- R216, R217: the FGS selects the first of the nodes that can start, unless its tables read an uncorrectable error. -/
def execFgsNodeSelect (ecc : Ecc) (s : State) : Host.Outcome State Fault Refusal :=
  if ecc = .uncorrectable then done (fgsTableError s)
  else
    match pickNode (active s) (startables s (active s)) with
    | some c => done (selectNode c (noteEcc ecc s))
    | none => done s

/-! ### Triggers, origins and flags -/

/-- R211: a timer graph's period has passed. -/
def execFgsTimerTrigger (slot : Fin 8) (s : State) : Host.Outcome State Fault Refusal :=
  match graphOf (active s) slot.val with
  | some g =>
    let t := (nth s.fgs.slots slot.val {}).timerAt
    if g.triggerKind = 2 ∧ t + g.triggerArg ≤ now s then
      done (plainTrigger slot.val (now s) none (updSlot slot.val (fun g' => { g' with timerAt := t + g.triggerArg }) s))
    else done s
  | none => done s

/-- R214, R374: the provisional origin reaches the FGS. -/
def execAgeOriginReturn (slot : Fin 8) (seq : Word32) (s : State) : Host.Outcome State Fault Refusal :=
  let r : PourRef := { slot := slot.val, seq := seq.toNat }
  match pourAt s r with
  | some q =>
    if q.origin.isNone then
      done (updPour r (fun q => { q with origin := some (q.fsOpen - expMaxOf (active s) slot.val) }) s)
    else done s
  | none => done s

/-- R419: a set on an edge whose buffer lies on a peer chip is sent there as a remote set. -/
def remoteSets (p : Pattern) (node f : Nat) (q : Pour) (s : State) : State :=
  let chips := ((p.edges.filter fun e => e.src == node && e.flag == f).filterMap fun e =>
    (bufOf p e.buffer).bind fun b => if b.location = 2 then some b.peerChip else none).dedup
  chips.foldl (fun s c => sendPeer c [4, f, q.ref.slot, q.ref.seq, q.origin.getD 0] s) s

/-- R365: a posted write of a Runner node was lost. -/
def setsLost (s : State) (n : Option NodeRec) : Bool := match n with
  | some n => n.cls == 7 && (chAt s n.channel).postedLost
  | none => false

/-- R357: the writes of a Runner node are confirmed. -/
def confirmPosted (n : Option NodeRec) (s : State) : State := match n with
  | some n => if n.cls = 7 then updCh n.channel (fun c => { c with postedOpen := [] }) s else s
  | none => s

/-- The command of a vision node in a pour: logical instance, unit and command. -/
def venCmdOf (s : State) (n : NodeRec) (r : PourRef) : Option (Nat × Nat × VenCmd) :=
  ((logicals (n.cls - 1)).filterMap fun k => match (nth s.ven.insts k {}).cmd, boundUnit s (n.cls - 1) k with
    | some c, some u => if c.pour = r ∧ c.node = n.nodeId then some (k, u, c) else none
    | _, _ => none).head?

/-- R176: the band that the j-th of so many sets of an output flag ends. The spec does not say how sets and bands meet: the model
takes the block rows in as many equal parts as the flag has sets (assumption 72). -/
def bandOfSet (p : Pattern) (n : NodeRec) (j sets : Nat) : Nat :=
  bandOfBlock p n (ceilDiv ((blockDims p n).2 * j) (max 1 sets) - 1)

/-- R176, R170: the input has come that the engine waits for before it ends band b: whole flags, or the count of the next band,
and with refine that of one band more. -/
def bandReady (s : State) (p : Pattern) (q : Pour) (n : NodeRec) (b : Nat) : Bool :=
  let bands := bandOfBlock p n ((blockDims p n).2 - 1) + 1
  (inputsOf p n.nodeId).all fun e =>
    let sets := ((flagOf p e.flag).map FlagRec.sets).getD 0
    let want := if e.grain = 0 then sets else min sets (ceilDiv (sets * (b + 2 + flagNat (refineOn n))) bands)
    decide (want ≤ flagValue s e.flag q.ref.seq)

/-- R168, R220: a command's writes up to a number of units are made. -/
def venFlush (k u : Nat) (c : VenCmd) (units : List Writes) (upto : Nat) (s : State) : State :=
  let s := applyWrites (unitId u) s ((units.take upto).drop c.written).flatten
  { s with ven := { s.ven with insts := upd s.ven.insts k fun i =>
      { i with cmd := i.cmd.map fun c => { c with written := max c.written upto } } } }

/-- R176, R220: the set of a vision node's output flag that would come next, with the writes of its bands: none while they
cannot have been made. -/
def visionSet (s : State) (p : Pattern) (q : Pour) (n : NodeRec) (flag : Nat) : Option State :=
  match venCmdOf s n q.ref with
  | none => some s
  | some (k, u, c) =>
    if c.stop.isSome then (if c.stopAt = now s then some s else none)
    else
      let sets := ((flagOf p flag).map FlagRec.sets).getD 0
      let j := flagValue s flag q.ref.seq + 1
      let b := bandOfSet p n j sets
      if sets < j then some s
      else if bandReady s p q n b && (venDenied s (unitId u) p q n).isNone then
        let o := runVen s p q n none
        some (venFlush k u c o.units (nth o.bandEnds b o.units.length) s)
      else none

/-- R220, R259: the set of a class 6 node's output flag: its stages are empty, and with the last set its last layer is done. -/
def arraySet (s : State) (p : Pattern) (q : Pour) (n : NodeRec) (flag : Nat) : Option State :=
  match neuAt s q.ref n.nodeId with
  | none => some s
  | some c =>
    let sets := ((flagOf p flag).map FlagRec.sets).getD 0
    let v := flagValue s flag q.ref.seq + 1
    let done_ := decide (c.layer + 1 = (layersOf p n).length) && layerFinished p n c
    if c.stop.isNone && (c.arrays.all fun x => x.stages.isEmpty) && (decide (v ≠ sets) || done_) then some s else none

/-- R220: the state in which an engine's, array's or Runner node's set takes effect, its writes made; none while they are not. -/
def writesMade (s : State) (p : Pattern) (q : Pour) (n : NodeRec) (flag : Nat) : Option State :=
  if 1 ≤ n.cls ∧ n.cls ≤ 5 then visionSet s p q n flag
  else if n.cls = 6 then arraySet s p q n flag
  else some (confirmPosted (some n) s)

/-- R220, R221, R365: a set by an engine, array or Runner node, its writes confirmed. -/
def execEngineFlagSet (node : Nat) (flag : Nat) (seq : Word32) (s : State) : Host.Outcome State Fault Refusal :=
  let p := active s
  match nodeOf p.nodes node with
  | none => done (setFlag node flag none 1 s)
  | some n =>
    let r : PourRef := { slot := n.slot, seq := seq.toNat }
    if setsLost s (some n) then done s
    else
      match pourAt s r with
      | none => done (setFlag node flag (some r) 1 s)
      | some q =>
        if !producing s r node then done (setFlag node flag (some r) 1 s)
        else
          match writesMade s p q n flag with
          | none => done s
          | some s => done (setFlag node flag (some r) 1 (remoteSets p node flag q s))

/-! ### Deadlines, retirement, aborts -/

/-- R223: the node's instance is in its refine pass: every input flag is complete and the coarse pass has had its
cycles. -/
def inRefine (s : State) (p : Pattern) (q : Pour) (n : NodeRec) : Bool :=
  refineOn n && (s.ven.insts.any fun i => match i.cmd with
    | some c => c.pour == q.ref && c.node == n.nodeId && c.stop.isNone && decide (c.startedAt + coarseCycles p n ≤ now s)
    | none => false) &&
  (inputsOf p n.nodeId).all fun e => (flagOf p e.flag).map FlagRec.sets == some (flagValue s e.flag q.ref.seq)

/-- R223: a class 1 to 5 node is cut at its deadline. -/
def cutNode (r : PourRef) (n : Nat) (s : State) : State :=
  let stop := fun (i : VenInst) => match i.cmd with
    | some c => if c.pour = r ∧ c.node = n then { i with cmd := some { c with stop := some .deadline, stopAt := now s } } else i
    | none => i
  let s := updNode r n (fun m => { m with st := .cut }) s
  raise 0x0803 { s with ven := { s.ven with insts := s.ven.insts.map stop },
                        fgs := { s.fgs with dlCut := satAdd 16 s.fgs.dlCut 1 } }

/-- R222, R223, R246: a node reaches its deadline without its token or task end; a class 6 command stops with DEADLINE. -/
def execFgsDeadline (slot : Fin 8) (seq : Word32) (node : Nat) (s : State) : Host.Outcome State Fault Refusal :=
  let p := active s
  let r : PourRef := { slot := slot.val, seq := seq.toNat }
  match pourAt s r, nodeOf p.nodes node with
  | some q, some n =>
    (match q.nodes.find? fun m => m.node == node with
      | none => done s
      | some m =>
        let over_ := match m.st with
          | .ended _ => true
          | .cut => true
          | _ => false
        if over_ || q.aborted.isSome || q.origin.isNone || decide (now s < absDeadline p q node) then done s
        else if inRefine s p q n then done (cutNode r node s)
        else
          let s := match q.nodes.find? fun m => m.node == node with
            | some m => stopNeuBy .deadline p r m s
            | none => s
          done (abortPour 0x0802 r (raise 0x0802
            { s with fgs := { s.fgs with dlMiss := satAdd 16 s.fgs.dlMiss 1 } })))
  | _, _ => done s

/-- R215, R223: a node that no longer keeps its pour in flight. A node cut at its deadline has ended; after an abort its token is
awaited. -/
def nodeDone (aborted : Bool) (m : NodeRun) : Bool :=
  match m.st with
  | .ended _ => true
  | .waiting => aborted
  | .selected => false
  | .running => false
  | .cut => !aborted

/-- R215: a pour can retire. -/
def canRetire (s : State) (q : Pour) : Bool :=
  q.nodes.all (nodeDone q.aborted.isSome) && s.sch.tasks.all fun t => t.pour != some q.ref || t.st == TaskSt.ending

/-- R215, R225, R156: a pour retires; without abort it ends the runs of aborted and damaged pours. -/
def retirePour (q : Pour) (s : State) : State :=
  let p := active s
  let s := { s with fgs := { s.fgs with pours := s.fgs.pours.filter fun o => o.ref != q.ref } }
  let s := if q.aborted.isSome then s
    else
      let s := updSlot q.ref.slot (fun g =>
        { g with abortRun := 0, lostRaised := false, lastGood := some q.ref.seq, lastUnits := q.units }) s
      let s := { s with asy := { s.asy with retired := (q.ref :: s.asy.retired).take 64 } }
      (portsOf p q.ref.slot).foldl (fun s c => { s with cams := upd s.cams c fun k =>
        { k with damageRun := 0, lostRaised := false } }) s
  let s := match q.aborted with
    | some c =>
      if damageCause c then s
      else (portsOf p q.ref.slot).foldl (fun s c => { s with cams := upd s.cams c fun k =>
        { k with damageRun := 0, lostRaised := false } }) s
    | none => s
  if q.nodes.any fun m => m.st == NodeSt.cut then { s with fgs := { s.fgs with leaving := s.fgs.leaving ++ [q] } } else s

/-- R215: a pour whose nodes and tasks have all ended retires. -/
def execPourRetire (slot : Fin 8) (seq : Word32) (s : State) : Host.Outcome State Fault Refusal :=
  match pourAt s { slot := slot.val, seq := seq.toNat } with
  | some q => if canRetire s q then done (retirePour q s) else done s
  | none => done s

/-- R224, R227: FGS_ABORT: every pour of the slots named is aborted, and one that opens there in this ECLK. -/
def abortSlots (mask : Nat) (s : State) : State :=
  let slots := (List.range 8).filter (bitAt mask)
  let s := { s with cyc := { s.cyc with aborted := slots ++ s.cyc.aborted } }
  (s.fgs.pours.filter fun q => slots.contains q.ref.slot).foldl (fun s q => abortPour 0x0806 q.ref s) s

/-- R224: a keeper-mode thread aborts every pour of the slots it names. -/
def execFgsAbortWrite (who : Agent) (mask : Byte) (s : State) : Host.Outcome State Fault Refusal :=
  if agentKeeper s who then done (abortSlots mask.toNat s) else done s

/-- R226: FGS_CTRL.drain. -/
def writeDrain (on : Bool) (s : State) : State := { s with fgs := { s.fgs with drain := on } }

/-- R226: a write of FGS_CTRL.drain, by whoever the firewall admitted. -/
def execFgsDrain (_who : Agent) (on : Bool) (s : State) : Host.Outcome State Fault Refusal := done (writeDrain on s)

/-- R225: the count of consecutive aborted pours has reached the limit. -/
def execFgsGraphLost (slot : Fin 8) (s : State) : Host.Outcome State Fault Refusal :=
  let g := nth s.fgs.slots slot.val {}
  if max 1 s.fgs.abortLimit.toNat ≤ g.abortRun ∧ g.lostRaised = false then
    let s := updSlot slot.val (fun g => { g with lostRaised := true }) s
    let pair := ((graphOf (active s) slot.val).map GraphRec.pairId).getD 0xFF
    done (detectS1 0x0808 (pairBits [pair]) s)
  else done s

end Sys2Proof.Machine
end

