-- ==== Sys2Proof/Machine/VenEnd.lean ====
section
/-! DEFINITION. The end of a vision engine command (R166, R171, R177 to R180, R396 to R401, R407). -/

namespace Sys2Proof.Machine

/-- How far a command came: its results, and the units and counts that stand. -/
structure VenPart where
  out : VenOutcome := {}
  written : Nat := 0
  flagged : Nat := 0
  refined : Nat := 0
  skipped : Nat := 0
  deriving Repr

/-- All that an outcome leaves. -/
def VenOutcome.part (o : VenOutcome) : VenPart :=
  { out := o, written := o.units.length, flagged := o.flagged, refined := o.refined, skipped := o.skipped }

/-- R168 to R171: a command that ran to its end. -/
def venWhole (s : State) (p : Pattern) (q : Pour) (n : NodeRec) : VenPart := (runVen s p q n none).part

/-- R170: the blocks that the refine pass has taken in the bands whose units have been written. -/
def refinedFloor (s : State) (p : Pattern) (q : Pour) (n : NodeRec) (written : Nat) : Nat :=
  match venPasses s p q n with
  | none => 0
  | some v =>
    let ends := (v.units p n v.order).2
    (v.order.filter fun b => decide (nth ends (bandOfBlock p n b.bY) (written + 1) ≤ written)).length

/-- R178, R223: a command cut in its refine pass: the blocks whose cycles had passed by the stop are refined; the block in
progress and the rest keep their coarse values. How long the command had stalled before the stop is a free value, at most the
time beyond its coarse cycles (assumption 33). -/
def venCut (p : Pattern) (q : Pour) (n : NodeRec) (c : VenCmd) (s : State) : VenPart × State :=
  let f := drawFree s
  let avail := c.stopAt - c.startedAt - coarseCycles p n
  let k := max (refinedFloor s p q n c.written) (refinedIn s p q n (avail - f.1.toNat % (avail + 1)))
  ((runVen s p q n (some k)).part, f.2)

/-- R177, R179, R180: a command that an abort or a fault ends. How many of its units it had written, and what its token
counts, the spec does not say: free values (assumption 33). -/
def venBroken (p : Pattern) (q : Pour) (n : NodeRec) (c : VenCmd) (s : State) : VenPart × State :=
  let a := drawFree s
  let b := drawFree a.2
  let m := drawFree b.2
  let d := drawFree m.2
  let o := runVen s p q n none
  ({ out := o, written := c.written + a.1.toNat % (o.units.length - c.written + 1), flagged := b.1.toNat % 65536,
     refined := m.1.toNat % 65536, skipped := if refineOn n then d.1.toNat % 65536 else 0 }, d.2)

/-- VEN_CYC: the ECLK of the two passes. Which pass a stall fell in is a free value; a command that ended after its coarse pass
has none in its refine pass. -/
def venCycles (n : NodeRec) (o : VenOutcome) (whole ok : Bool) (elapsed : Nat) (s : State) : (Nat × Nat) × State :=
  if !refineOn n || (ok && o.refined == 0) then ((elapsed - 512, 0), s)
  else
    let f := drawFree s
    let spare := if whole then elapsed - 512 - o.coarse - o.refine else elapsed
    let share := f.1.toNat % (spare + 1)
    ((if whole then (o.coarse + share, o.refine + (spare - share)) else (share, spare - share)), f.2)

/-- R166: the logical instance is free, with what VEN_STAT and the counters keep of the command. -/
def closeInst (k status : Nat) (w : VenPart) (whole : Bool) (cyc : Nat × Nat) (s : State) : State :=
  let close := fun (i : VenInst) =>
    { i with cmd := none, lastStatus := BitVec.ofNat 3 status, skipCnt := satAdd 32 i.skipCnt w.skipped,
             cycCoarse := cyc.1 % 2 ^ 32, cycRefine := cyc.2 % 2 ^ 32,
             clsCnt := if whole then satAdd 32 i.clsCnt w.out.count else i.clsCnt }
  let s := { s with ven := { s.ven with insts := upd s.ven.insts k close } }
  if whole then setHw (.classEvt k w.out.clsBits) s else s

/-- R165, R176: an instance can end its command normally: every input flag is complete, and the cycles have passed. -/
def venFinished (s : State) (p : Pattern) (c : VenCmd) (q : Pour) (w : VenPart) : Bool :=
  decide (c.startedAt + w.out.coarse + w.out.refine + 512 ≤ now s) &&
    (inputsOf p c.node).all fun e => (flagOf p e.flag).map FlagRec.sets == some (flagValue s e.flag q.ref.seq)

/-- R407 rows 3 and 6: the token names unit y, the binding names unit u. -/
def otherUnit (r : PourRef) (u y : Nat) (injected : Bool) (s : State) : State :=
  let c := unitClass y
  let s := viewConflict u (serveUnit r y s)
  let s := abortPour 0x0F07 r s
  if (classAt s c).unit = some y then unitFailed y 0x0F07 injected 6 s
  else
    let s := match logicalOf s u with
      | some k => if unitClass u = c ∧ logicalOf s y = none then bindLogical c k (some y) s else s
      | none => s
    unitFailed u 0x0F07 injected 3 s

/-- R407 row 4: a token from an idle unit is discarded, and the unit is failed. -/
def idleToken (k : Nat) (s : State) : State :=
  let cl := ([0, 1, 2, 3, 4].find? fun c => (logicals c).contains k).getD 0
  match boundUnit s cl k with
  | some u => unitFailed u 0x0F07 false 4 (viewConflict u s)
  | none => s

/-- R179, R180: the events of a command that a fault ended. -/
def venFault (how : EngineEnd) (r : PourRef) (u : Nat) (side inj : Bool) (s : State) : State :=
  let pairs := match graphOf (active s) r.slot with
    | some g => pairBits [g.pairId]
    | none => 0
  match how with
  | .ok => s
  | .memFault unc => if unc then detectS1 0x0704 pairs s else raise 0x0704 s
  | .parity =>
    let s := detectS1 0x0705 pairs s
    let s := if side then viewConflict u s else s
    unitFailed u 0x0705 inj (if side then 1 else 0) s

/-- R166: what the token of a command does. -/
def venTokenOut (k u : Nat) (c : VenCmd) (n : NodeRec) (how : EngineEnd) (w : VenPart) (whole : Bool) (status : Nat)
    (view : TokenView) (inj : Bool) (s : State) : State :=
  let s := applyWrites (unitId u) s ((w.out.units.take w.written).drop c.written).flatten
  let evs := (if whole then w.out.events.filter fun e => e != 0x0706 else []) ++
    (if 0 < w.skipped then [0x0706] else [])
  let s := raiseAll evs s
  let detail := match how with
    | .ok => ((evs.getLast?).map fun e => e.toNat % 256).getD 0
    | .memFault _ => 4
    | .parity => 5
  let cyc := venCycles n w.out whole (status == 0) (now s - c.startedAt) s
  let s := closeInst k status w whole cyc.1 cyc.2
  let y := ((view.namesOther.map fun y => y.val).filter fun y => y != u).getD u
  let s := endSource u c.node c.pour.seq (status != 0)
    (venToken c.node status (unitId y % 256) c.pour.seq w.flagged w.refined w.skipped detail) s
  let s := ladleRelease (unitId u) s
  let s := serveUnit c.pour u s
  let s := if 0 < w.skipped then updPour c.pour (fun q => { q with refineSkipped := true }) s else s
  let s := endNode c.pour c.node status s
  let s := venFault how c.pour u (how == .parity && view.sidebandOk) inj s
  if 4 ≤ status then abortPour (if status = 4 then 0x0704 else 0x0705) c.pour s else s

/-- R408: what an injection makes of a command's end. -/
def injectedEnd (u : Nat) (how : EngineEnd) (s : State) : EngineEnd × Bool × State :=
  let r := takeInjection u .parity s
  if r.1 && how == .ok then (.parity, true, r.2) else (how, false, r.2)

/-- R408 op 3: another unit of the class, which one the spec leaves open. -/
def injectedView (u : Nat) (s : State) : Option Nat × State :=
  let r := takeInjection u .view s
  if r.1 then
    let c := unitClass u
    let f := drawFree r.2
    let others := ((List.range (classUnits c)).map (· + classBase c)).filter fun y => y != u
    (others[f.1.toNat % max 1 others.length]?, f.2)
  else (none, r.2)

/-- R179: an access that the map or the firewall denies ends a command that nothing has stopped, with a fault. -/
def deniedEnd (u : Nat) (c : VenCmd) (p : Pattern) (q : Pour) (n : NodeRec) (how : EngineEnd) (s : State) : EngineEnd × State :=
  match how, c.stop, venDenied s (unitId u) p q n with
  | .ok, none, some a => (.memFault false, reportDenied (unitId u) a.1 a.2.1 a.2.2 s)
  | h, _, _ => (h, s)

/-- R177: why a command was stopped before it ended: a command that ends in the ECLK of an abort has not been stopped. -/
def stopOf (s : State) (p : Pattern) (q : Pour) (n : NodeRec) (c : VenCmd) : Option StopKind :=
  if c.stop == some .abort && c.stopAt == now s && venFinished s p c q (venWhole s p q n) then none else c.stop

/-- The status code of a token (R166). -/
def venStatus (how : EngineEnd) (stop : Option StopKind) : Nat :=
  match how, stop with
  | .memFault _, _ => 4
  | .parity, _ => 5
  | .ok, none => 0
  | .ok, some .abort => 2
  | .ok, some .deadline => 3
  | .ok, some .refused => 1

/-- R215, R223: of the retired pours those stay noted whose cut command has not delivered its token. -/
def leavePours (s : State) : State :=
  let held := fun (q : Pour) => s.ven.insts.any fun i => (i.cmd.map VenCmd.pour) == some q.ref
  { s with fgs := { s.fgs with leaving := s.fgs.leaving.filter held } }

/-- The end of the command of logical instance k, with everything it sets off. -/
def venEnd (k u : Nat) (c : VenCmd) (p : Pattern) (q : Pour) (n : NodeRec) (how : EngineEnd) (view : TokenView)
    (s : State) : State :=
  let i := injectedEnd u how s
  let e := deniedEnd u c p q n i.1 i.2.2
  let how := e.1
  let s := e.2
  let stop := stopOf s p q n c
  let w : (VenPart × State) × Bool := match how, stop with
    | .ok, none => ((venWhole s p q n, s), true)
    | .ok, some .deadline => (venCut p q n c s, true)
    | _, _ => (venBroken p q n c s, false)
  if how == .ok && stop.isNone && !venFinished s p c q w.1.1 then s
  else
    let j := injectedView u w.1.2
    let other := (view.namesOther.map fun y => y.val).or j.1
    let view := { view with namesOther := other.bind fun y => if h : y < 35 then some ⟨y, h⟩ else none }
    let s := venTokenOut k u c n how w.1.1 w.2 (venStatus how stop) view i.2.1 j.2
    let s := match other with
      | some y => if y = u then s else otherUnit c.pour u y (j.1.isSome) s
      | none => s
    roleMoves (unitClass u) (leavePours s)

/-- R215, R223: the pour of a command with the pattern it runs under: it is in flight, or has retired with the node cut. -/
def venPour (s : State) (r : PourRef) : Option (Pour × Pattern) :=
  match pourAt s r with
  | some q => some (q, active s)
  | none => (s.fgs.leaving.find? fun q => q.ref == r).map fun q => (q, if q.old then s.pat.previous.getD default else active s)

/-- R166: logical instance k delivers its completion token. -/
def execVenCommandEnd (k : Fin 13) (how : EngineEnd) (view : TokenView) (s : State) : Host.Outcome State Fault Refusal :=
  match (nth s.ven.insts k.val {}).cmd with
  | none => done (idleToken k.val s)
  | some c =>
    match venPour s c.pour with
    | none => done s
    | some (q, p) =>
      match nodeOf p.nodes c.node, boundUnit s (((nodeOf p.nodes c.node).map NodeRec.cls).getD 1 - 1) k.val with
      | some n, some u => done (venEnd k.val u c p q n how view s)
      | _, _ => done s

end Sys2Proof.Machine
end

