-- ==== Sys2Proof/Machine/NeuRun.lean ====
section
/-! DEFINITION. The Neural Engine's commands: tiles, output stages, layer barriers, stops and tokens (R231, R236 to R249,
R258 to R263), and the exchange of split layers as this chip sends it (R420 to R423). -/

namespace Sys2Proof.Machine

/-- NCLK as ECLK, rounded up: NCLK runs at 1.6 GHz, ECLK at 1.2 GHz (R53). -/
def nclk (n : Nat) : Nat := ceilDiv (3 * n) 4

/-- R237: a tile's compute time in NCLK. -/
def tileTime (p : Pattern) (n : NodeRec) (l : Layer) : Nat :=
  let rr := reductionRange p l
  match l.op with
  | 2 => 64 * l.kh * l.kw * (if 2 ≤ n.dtype then 4 else 1)
  | 3 => 64
  | _ => 64 * ceilDiv (rr.2 - rr.1) (kpOf n.dtype)

/-- The place of a logical array among a command's arrays (R236). -/
def arrayPlace (c : NeuCmd) (a : Nat) : Nat := (c.arrays.findIdx? fun r => r.array == a).getD 0

/-! ### The exchange (R420 to R423) -/

/-- R421: the number q of a split node. -/
def splitIndex (p : Pattern) (n : Nat) : Option Nat := (splitNodes p).findIdx? fun m => m == n

/-- R421: the split layers up to and with layer l. -/
def splitLayers (p : Pattern) (n : NodeRec) (l : Nat) : Nat :=
  (((layersOf p n).take (l + 1)).filter fun q => q.split != 0).length

/-- R422: every peer's counter has reached the layer. -/
def exchangeDone (s : State) (p : Pattern) (n : NodeRec) (c : NeuCmd) : Bool :=
  match layerNow p n c, splitIndex p n.nodeId with
  | some l, some q =>
    l.split == 0 || (peersOf p s).all fun i =>
      decide (splitLayers p n c.layer ≤ nth s.fgs.devFlags (16 * q + 8 * (c.pour.seq % 2) + i) 0)
  | _, _ => true

/-- R419, R420: the pour_seq that the exchange carries: the owner's. -/
def ownerSeq (s : State) (r : PourRef) : Nat := (((pourAt s r).bind Pour.owner).map fun o => o.2.seq).getD r.seq

/-- R420: a split layer's lines go to every peer. -/
def sendLines (p : Pattern) (n : NodeRec) (r : PourRef) (l : Layer) (ws : List (Nat × Nat × List Byte)) (s : State) : State :=
  match splitIndex p n.nodeId with
  | some q =>
    if l.split = 0 then s
    else
      let base := ((bufPlace p l.xchg).getD (0, 0)).1
      let seq := ownerSeq s r
      (peersOf p s).foldl (fun s i => ws.foldl (fun s w => sendPeer i [5, q, seq, w.1 - base, leNat w.2.2] s) s) s
  | none => s

/-- R421, R435: the last line of a layer from this chip, with the units that ran it. -/
def sendLayer (p : Pattern) (n : NodeRec) (c : NeuCmd) (l : Layer) (s : State) : State :=
  match splitIndex p n.nodeId with
  | some q =>
    if l.split = 0 then s
    else
      let seq := ownerSeq s c.pour
      (peersOf p s).foldl (fun s i => sendPeer i [6, q, seq, c.layer, c.physMask.toNat] s) s
  | none => s

/-- R423: the owner's lane groups, when the pour's first split layer starts. -/
def openExchange (p : Pattern) (n : NodeRec) (c : NeuCmd) (s : State) : State :=
  match pourAt s c.pour, layerNow p n c with
  | some q, some l =>
    let others := q.nodes.any fun m => m.node != n.nodeId && (splitNodes p).contains m.node &&
      (match m.st with
        | .waiting => false
        | .selected => false
        | _ => true)
    if l.split = 0 || q.owner.isSome || others || decide (1 < splitLayers p n c.layer) then s
    else
      let dl := some (pourDeadline p c.pour.slot (q.origin.getD 0))
      (peersOf p s).foldl (fun s i => requestGroup (linkTo (chipIndex s) i) 0 dl (some c.pour) s) s
  | _, _ => s

/-! ### Layers -/

/-- R237, R422: what a layer's end starts: the local barrier of 256 NCLK, and the wait for the exchange. -/
def armBarrier (r : PourRef) (node : Nat) (s : State) : State :=
  let p := active s
  match neuAt s r node, nodeOf p.nodes node with
  | some c, some n =>
    let s := if c.barrierAt.isNone && c.stop.isNone && layerFinished p n c then
        (match layerNow p n c with
          | some l => sendLayer p n c l (updNeu r node (fun c => { c with barrierAt := some (now s + 192) }) s)
          | none => s)
      else s
    if c.exchangeAt.isNone && exchangeDone s p n c then updNeu r node (fun c => { c with exchangeAt := some (now s) }) s
    else s
  | _, _ => s

/-- R422: NCLK that the sums of a layer with input split take on each array. -/
def sumTime (p : Pattern) (l : Layer) (w : Nat) : Nat :=
  if l.split = 2 then 64 * p.hdr.flaskSize * ceilDiv (ceilDiv l.m 64 * ceilDiv l.n 64) (max 1 w) else 0

/-- R237, R422: the ECLK in which the next layer can start. -/
def layerEnd (p : Pattern) (l : Layer) (c : NeuCmd) : Option Nat :=
  match c.barrierAt, c.exchangeAt with
  | some a, some b => some (max a b + nclk (sumTime p l c.arrays.length))
  | _, _ => none

/-- R165, R236, R239: the command of a class 6 node as it begins. -/
def neuCommand (p : Pattern) (q : Pour) (n : NodeRec) (res : List Nat) : NeuCmd :=
  { pour := q.ref, node := n.nodeId, origin := q.origin.getD 0, head := cmdHead p n, width := res.length,
    arrays := res.map fun b => { array := b } }

/-- R239: an array's ramp has ended, and it begins its tiles of layer 0, after a change of its binding. The first one begins
the command. -/
def beginArray (r : PourRef) (node a : Nat) (s : State) : State :=
  let p := active s
  match pourAt s r, nodeOf p.nodes node, arrayUnit s a with
  | some q, some n, some u =>
    let res := ((q.nodes.find? fun m => m.node == node).map NodeRun.res).getD []
    let first := (neuAt s r node).isNone
    let s := if first then startNode r node { s with neu := { s.neu with cmds := s.neu.cmds ++ [neuCommand p q n res] } } else s
    let go := max (now s) (nth s.neu.arrays a {}).bindUntil
    let s := updNeu r node (fun c =>
      { c with arrays := updAll (fun x => x.array == a) (fun x => { x with begun := true, beganAt := now s, nextAt := go }) c.arrays }) s
    let mark := fun (x : ArrayL) => { x with busy := true, reserved := false, nodeId := node, stall := 0 }
    let s := { s with neu := { s.neu with arrays := upd s.neu.arrays a mark } }
    let s := beginSource u node r.seq (leBytes 8 (q.origin.getD 0) ++ leBytes 1 6 ++ leBytes 1 n.mode ++ leBytes 1 a) s
    let s := match neuAt s r node with
      | some c => if first then openExchange p n c s else s
      | none => s
    armBarrier r node s
  | _, _, _ => s

/-! ### Stalls (R259) -/

/-- R259: ECLK of an array's stall on its output stages that have passed and that NEU_STALL does not hold yet. -/
def ArrayRun.stalled (x : ArrayRun) (t : Nat) : Nat := min t x.stallTo - min t x.stallFrom

/-! ### Tokens (R245) -/

/-- R245: the detail of a token without a fault: the low byte of the event that the command has raised. -/
def NeuCmd.detail (c : NeuCmd) : Nat := if c.fpRaised then 4 else if c.satRaised then 3 else 0

/-- An array stops: its trace end, its tickets, its registers. One that had not begun gives back what it reserved. -/
def stopArray (c : NeuCmd) (status layers detail : Nat) (x : ArrayRun) (s : State) : State :=
  let free := fun (a : ArrayL) =>
    { a with busy := false, reserved := false, stall := satAdd 32 a.stall (x.stalled (now s)),
             cyc := if x.begun then (now s - x.beganAt) * 4 / 3 % 2 ^ 32 else a.cyc }
  let s := { s with neu := { s.neu with arrays := upd s.neu.arrays x.array free } }
  match arrayUnit s x.array with
  | none => s
  | some u =>
    if x.begun then
      ladleRelease (unitId u) (endSource u c.node c.pour.seq (status != 0)
        (neuToken c.node status c.width c.pour.seq (2 ^ (u - 18)) layers detail) s)
    else ladleStop (unitId u) false s

/-- R245: the command ends with its token. -/
def neuEnd (c : NeuCmd) (status detail : Nat) (view : TokenView) (s : State) : State :=
  let s := { s with neu := { s.neu with cmds := s.neu.cmds.filter fun d => !(d.pour == c.pour && d.node == c.node) } }
  let s := c.arrays.foldl (fun s x => stopArray c status c.layer detail x s) s
  let us := (List.range 17).filter fun p => c.physMask.getLsbD p
  let s := us.foldl (fun s p => serveUnit c.pour (p + 18) s) s
  let s := endNode c.pour c.node status s
  let u := ((c.arrays.head?).bind fun x => arrayUnit s x.array).getD 18
  let j := injectedView u s
  let s := match (view.namesOther.map fun y => y.val).or j.1 with
    | some y => if y = u then j.2 else otherUnit c.pour u y j.1.isSome j.2
    | none => j.2
  roleMoves 5 s

/-! ### Tiles -/

/-- R240, R241: a tile's saturations and specials, counted; each raises its event once per command. -/
def countResult (c : NeuCmd) (t : TileResult) (s : State) : State :=
  let s := { s with neu := { s.neu with satCnt := satAdd 32 s.neu.satCnt t.sats, fpCnt := satAdd 32 s.neu.fpCnt t.specials } }
  let sat := decide (0 < t.sats) && !c.satRaised
  let fp := decide (0 < t.specials) && !c.fpRaised
  let s := updNeu c.pour c.node (fun c => { c with satRaised := c.satRaised || sat, fpRaised := c.fpRaised || fp }) s
  let s := if sat then raise 0x0903 s else s
  if fp then raise 0x0904 s else s

/-- R231, R401: this array is to be taken at its tile boundary. -/
def wanted (s : State) (u : Nat) : Bool := ((classAt s 5).target.map Prod.fst) == some u

/-- R238: what array a reads for its tile: its physical array's local buffer, of which the tile has the half of its number's
parity. -/
def tileReader (s : State) (u : Nat) (x : ArrayRun) : Reader := (nth s.neu.bufs (u - 18) {}).reader (x.tiles % 2) s

/-- R259: the ECLK in which the array can go on after its tile joined its stages: when both hold unwritten tiles, once the older
one is empty. -/
def goesOn (stages : List StagedTile) (t : Nat) : Nat := match stages with
  | a :: _ :: _ => max t a.freeAt
  | _ => t

/-- R236, R237, R259, R260: a tile's result goes to an output stage. A store through the transposition tiles goes before a read
that needs them. -/
def passTile (c : NeuCmd) (n : NodeRec) (l : Layer) (a u : Nat) (x : ArrayRun) (s : State) : State :=
  let p := active s
  let r := tileResult (tileReader s u x) p n l c.pour.seq (arrayPlace c a + x.tiles * c.arrays.length)
  let s := countResult c r s
  let free := max (((x.stages.getLast?).map StagedTile.freeAt).getD 0) (now s) + storeTime p l
  let stages := x.stages ++ [{ freeAt := free, writes := r.writes.map fun w => (w.addr, w.part, w.data) }]
  let go := goesOn stages (now s)
  let fill := if storesChw p l && readsChw p l && decide (now s < x.fillAt) then x.fillAt + storeTime p l else x.fillAt
  let s := { s with neu := { s.neu with arrays := upd s.neu.arrays a fun y =>
    { y with stall := satAdd 32 y.stall (x.stalled (now s)) } } }
  let s := updRun a (fun x => { x with
    tiles := x.tiles + 1, stages := stages, nextAt := max go fill, fillAt := fill, stallFrom := now s, stallTo := go,
    tileAt := some (now s), paused := wanted s u }) s
  updNeu c.pour c.node (fun c => { c with physMask := setBit c.physMask (u - 18) }) s

/-! ### Output stages (R257, R258, R259, R261, R263) -/

/-- R258: the 64-byte lines of a stage, in the order of their store. -/
def stageLines (t : StagedTile) : List (List (Nat × Nat × List Byte)) :=
  ((t.writes.map fun w => w.1 / 64).dedup).map fun b => t.writes.filter fun w => w.1 / 64 == b

/-- R257: a line of a store that the map or the firewall denies to the physical array. -/
def lineDenied (s : State) (id : Nat) (ws : List (Nat × Nat × List Byte)) : Bool :=
  ws.any fun w => unitDenied s id .write w.1 w.2.2.length

/-- R254: the element writes of a line, made. -/
def storeLine (s : State) (ws : List (Nat × Nat × List Byte)) : State :=
  applyElems s (ws.map fun w => { addr := w.1, part := w.2.1, data := w.2.2 })

/-- R261, R263: a stop or a fault discards the unwritten lines of an array's stages: a part of the lines from the oldest on has
been written, of a faulting store not all. How many, the spec leaves open: a free value (assumption 34). -/
def discardRun (store : Bool) (x : ArrayRun) (s : State) : State :=
  let id := ((arrayUnit s x.array).map unitId).getD 0
  let lines := x.stages.flatMap stageLines
  let f := drawFree s
  let most := if store then lines.length else lines.length + 1
  ((lines.take (f.1.toNat % max 1 most)).takeWhile fun l => !lineDenied s id l).foldl storeLine f.2

/-- R261, R263: the stages of a command's arrays are discarded; the store of one array may have met the fault. -/
def discardStages (c : NeuCmd) (fault : Option Nat) (s : State) : State :=
  c.arrays.foldl (fun s x => if x.stages.isEmpty then s else discardRun (fault == some x.array) x s) s

/-- R249: a fault ends the command, unless a stop has reached it (R262); `store` names the array whose store met it. -/
def neuFault (c : NeuCmd) (u : Nat) (how : TileEnd) (inj : Bool) (store : Option Nat) (s : State) : State :=
  let pairs := match graphOf (active s) c.pour.slot with
    | some g => pairBits [g.pairId]
    | none => 0
  let view : TokenView := { namesOther := none, sidebandOk := false }
  let c' := { c with arrays := c.arrays.map fun x => { x with stages := [] } }
  let close := fun (status detail : Nat) (s : State) =>
    if c.stop.isSome then s else neuEnd c' status detail view (discardStages c store s)
  match how with
  | .ok _ => s
  | .memFault unc =>
    let s := if unc then detectS1 0x0905 pairs s else raise 0x0905 s
    abortPour 0x0905 c.pour (close 4 5 s)
  | .parity =>
    let s := detectS1 0x0906 pairs s
    abortPour 0x0906 c.pour (unitFailed u 0x0906 inj 0 (close 5 6 s))
  | .bufferEcc =>
    let s := detectS1 0x0907 pairs s
    abortPour 0x0907 c.pour (unitFailed u 0x0907 false 0 (close 5 7 s))

/-- R259, R420: the stages of one array that have become empty by now: their lines are written and handed on. A denied line is
not written, and ends the command (R257, R263). -/
def flushRun (r : PourRef) (node a : Nat) (s : State) : State :=
  let p := active s
  match neuAt s r node, nodeOf p.nodes node, arrayUnit s a with
  | some c, some n, some u =>
    (match c.arrays.find? fun x => x.array == a with
      | none => s
      | some x =>
        let due := x.stages.filter fun t => decide (t.freeAt ≤ now s)
        let lines := due.flatMap stageLines
        let good := lines.takeWhile fun l => !lineDenied s (unitId u) l
        let s := good.foldl storeLine s
        let s := match layerNow p n c with
          | some l => if due.isEmpty then s else sendLines p n c.pour l good.flatten s
          | none => s
        let s := updRun a (fun x => { x with stages := x.stages.filter fun t => decide (now s < t.freeAt) }) s
        match (lines.drop good.length).head?.bind List.head? with
        | some w => neuFault c u (.memFault false) false (some a) (reportDenied (unitId u) .write w.1 w.2.2.length s)
        | none => s)
  | _, _, _ => s

/-- R259: every stage that has become empty by now has its lines written; what waits for that follows. -/
def flushStages (s : State) : State :=
  let due := s.neu.cmds.any fun c => c.stop.isNone && c.arrays.any fun x => x.stages.any fun t => decide (t.freeAt ≤ now s)
  if !due then s
  else
    let cs := s.neu.cmds.filter fun c => c.stop.isNone
    let s := cs.foldl (fun s c => c.arrays.foldl (fun s x => flushRun c.pour c.node x.array s) s) s
    cs.foldl (fun s c => armBarrier c.pour c.node s) s

/-! ### Local buffers (R238, R260) -/

/-- A local buffer changed. -/
def updBuf (ph : Nat) (f : LocalBuf → LocalBuf) (s : State) : State :=
  { s with neu := { s.neu with bufs := upd s.neu.bufs ph f } }

/-- R238: the operands of a tile fill the halves of its number's parity, as memory holds them in this ECLK. -/
def fillHalf (p : Pattern) (l : Layer) (seq t k ph : Nat) (s : State) : State :=
  updBuf ph (fun b => { b with
    acts := upd b.acts (k % 2) fun _ => halfCells s (operandBytes p l seq t true),
    weights := upd b.weights (k % 2) fun _ => halfCells s (operandBytes p l seq t false) }) s

/-- R238, R260: the ECLK in which the read of the operands of a tile ends; a read through the transposition tiles follows the
stores that wait for them. -/
def fillEnd (p : Pattern) (l : Layer) (seq t : Nat) (b : LocalBuf) (x : ArrayRun) (at_ : Nat) : Nat :=
  let stores := if storesChw p l && readsChw p l then ((x.stages.getLast?).map StagedTile.freeAt).getD 0 else 0
  max at_ stores + fillTime p l seq t b

/-- R260: what the transposition tiles hold of an array's oldest store. -/
def transposing (p : Pattern) (l : Layer) (x : ArrayRun) : List (List Byte) :=
  if storesChw p l then
    let bs := ((x.stages.head?).map fun t => t.writes.flatMap fun w => w.2.2).getD []
    [bs.take 1024, (bs.drop 1024).take 1024]
  else [[], []]

/-- R238: the local buffer of one array in this ECLK: the tile it computes has its operands, and the next one's are read. The
spec does not say when a read begins: the model begins the first with the tile, and each further one as soon as the array
computes (assumption 73). -/
def fillRun (r : PourRef) (node a : Nat) (s : State) : State :=
  let p := active s
  match neuAt s r node, nodeOf p.nodes node, arrayUnit s a with
  | some c, some n, some u =>
    (match c.arrays.find? fun x => x.array == a, layerNow p n c with
      | some x, some l =>
        let ph := u - 18
        let s := updBuf ph (fun b => { b with tiles := transposing p l x }) s
        let total := tilesOfArray p l c.arrays.length (arrayPlace c a)
        let tile := fun k => arrayPlace c a + k * c.arrays.length
        if !x.begun || x.paused || decide (now s < x.nextAt) then s
        else if x.filled ≤ x.tiles then
          (if x.tiles < total then
            updRun a (fun x => { x with filled := x.tiles + 1 }) (fillHalf p l c.pour.seq (tile x.tiles) x.tiles ph s)
           else s)
        else if x.filled = x.tiles + 1 ∧ x.filled < total then
          let t := fillEnd p l c.pour.seq (tile x.filled) (nth s.neu.bufs ph {}) x (now s)
          updRun a (fun x => { x with filled := x.filled + 1, fillAt := t })
            (fillHalf p l c.pour.seq (tile x.filled) x.filled ph s)
        else s
      | _, _ => s)
  | _, _, _ => s

/-- R238: the local buffers in this ECLK. -/
def fillBuffers (s : State) : State :=
  (s.neu.cmds.filter fun c => c.stop.isNone).foldl (fun s c =>
    c.arrays.foldl (fun s x => fillRun c.pour c.node x.array s) s) s

/-! ### Ends of tiles -/

/-- R257: a line that a tile reads and that the map or the firewall denies to the physical array. -/
def readDenied (s : State) (p : Pattern) (l : Layer) (seq t id : Nat) : Option Nat :=
  (((operandBytes p l seq t true ++ operandBytes p l seq t false).map fun a => a / 64 * 64).dedup).find? fun a =>
    unitDenied s id .read a 64

/-- An array has a tile in progress that can end now. -/
def tileReady (s : State) (p : Pattern) (n : NodeRec) (l : Layer) (c : NeuCmd) (a : Nat) (x : ArrayRun) : Bool :=
  x.begun && !x.paused && decide (x.tiles < tilesOfArray p l c.arrays.length (arrayPlace c a)) &&
    decide (x.nextAt + nclk (tileTime p n l) ≤ now s)

/-- A tile that ended: it is passed on, or its fault ends the command. Whether a fault met a read or a store, the command does not
say: a free value. -/
def endTile (c : NeuCmd) (n : NodeRec) (l : Layer) (a u : Nat) (x : ArrayRun) (how : TileEnd) (s : State) : State :=
  let i := takeInjection u .parity s
  match how with
  | .ok k =>
    let s := countSel 10 k { i.2 with neu := { i.2.neu with eccFix := satAdd 32 i.2.neu.eccFix k } }
    if i.1 then neuFault c u .parity true none s
    else
      match readDenied s (active s) l c.pour.seq (arrayPlace c a + x.tiles * c.arrays.length) (unitId u) with
      | some line => neuFault c u (.memFault false) false none (reportDenied (unitId u) .read line 64 s)
      | none => passTile c n l a u x s
  | h =>
    let f := drawFree i.2
    neuFault c u h false (if f.1.getLsbD 0 then some a else none) f.2

/-- R237, R249, R263: logical array a ends a tile, or meets a fault in it. -/
def execNeuTileEnd (a : Fin 16) (how : TileEnd) (s : State) : Host.Outcome State Fault Refusal :=
  let p := active s
  match s.neu.cmds.find? fun c => c.arrays.any fun x => x.array == a.val with
  | none => done s
  | some c =>
    match nodeOf p.nodes c.node, c.arrays.find? fun x => x.array == a.val, arrayUnit s a.val with
    | some n, some x, some u =>
      (match layerNow p n c, how with
        | some l, .ok _ => if c.stop.isNone && tileReady s p n l c a.val x then done (endTile c n l a.val u x how s) else done s
        | some l, _ => if x.begun then done (endTile c n l a.val u x how s) else done s
        | none, _ => done s)
    | _, _, _ => done s

/-! ### Barriers and stops -/

/-- R243: the sums of a layer with input split, once every chip's partials have come. -/
def layerSums (s : State) (c : NeuCmd) (n : NodeRec) (l : Layer) : TileResult :=
  if l.split = 2 then splitSumResult s (active s) n l c.pour.seq else {}

/-- R257: a write of a layer's sums that the map or the firewall denies to the command's first array. -/
def sumsDenied (s : State) (c : NeuCmd) (r : TileResult) : Option (Nat × ElemWrite) :=
  match (c.arrays.head?).bind fun x => arrayUnit s x.array with
  | some u => (r.writes.find? fun w => unitDenied s (unitId u) .write w.addr w.data.length).map fun w => (u, w)
  | none => none

/-- R237, R245: a layer is complete: the next layer starts on every array, or the last one's token follows. -/
def nextLayer (r : PourRef) (n : NodeRec) (view : TokenView) (s : State) : State :=
  match neuAt s r n.nodeId with
  | none => s
  | some c =>
    if c.layer + 1 = (layersOf (active s) n).length then neuEnd { c with layer := c.layer + 1 } 0 c.detail view s
    else
      let s := updNeu r n.nodeId (fun c =>
        { c with layer := c.layer + 1, barrierAt := none, exchangeAt := none,
                 arrays := c.arrays.map fun x => { x with tiles := 0, filled := 0, nextAt := max x.nextAt (now s) } }) s
      let s := match neuAt s r n.nodeId with
        | some c => openExchange (active s) n c s
        | none => s
      armBarrier r n.nodeId s

/-- R237, R243, R249: the layer's barrier ends, with the sums of a layer with input split. -/
def passBarrier (c : NeuCmd) (n : NodeRec) (l : Layer) (view : TokenView) (s : State) : State :=
  let r := layerSums s c n l
  match sumsDenied s c r with
  | some (u, w) => neuFault c u (.memFault false) false none (reportDenied (unitId u) .write w.addr w.data.length s)
  | none => nextLayer c.pour n view (countResult c r (applyElems s r.writes))

/-- R177, R246: the command goes on, or it ends in the very ECLK of its abort, so that its token stands. -/
def NeuCmd.goes (c : NeuCmd) (last : Bool) (t : Nat) : Bool :=
  c.stop.isNone || (last && c.stop == some .abort && c.stopAt == t)

/-- R237, R422: a class 6 node of a pour passes a layer barrier. -/
def execNeuLayerBarrier (node : Nat) (seq : Word32) (view : TokenView) (s : State) : Host.Outcome State Fault Refusal :=
  let p := active s
  match nodeOf p.nodes node with
  | none => done s
  | some n =>
    match neuAt s { slot := n.slot, seq := seq.toNat } node with
    | none => done s
    | some c =>
      match layerNow p n c with
      | none => done s
      | some l =>
        match layerEnd p l c with
        | some t =>
          let last := decide (c.layer + 1 = (layersOf p n).length)
          if c.goes last (now s) && decide (t ≤ now s) then done (passBarrier c n l view s) else done s
        | none => done s

/-- The status code of a stop (R166). -/
def StopKind.status : StopKind → Nat
  | .abort => 2
  | .deadline => 3
  | .refused => 1

/-- R246: the last array of a stopped node has stopped. -/
def execNeuArrayStopped (node : Nat) (seq : Word32) (s : State) : Host.Outcome State Fault Refusal :=
  match nodeOf (active s).nodes node with
  | none => done s
  | some n =>
    match neuAt s { slot := n.slot, seq := seq.toNat } node with
    | none => done s
    | some c =>
      match c.stop with
      | none => done s
      | some k =>
        let s := neuEnd { c with arrays := c.arrays.map fun x => { x with stages := [] } } k.status
          (if k = .refused then 3 else c.detail) { namesOther := none, sidebandOk := false } (discardStages c none s)
        done (if k = .refused then abortPour 0x0303 c.pour s else s)

end Sys2Proof.Machine
end

