-- ==== Sys2Proof/Machine/Dma.lean ====
section
/-! DEFINITION. Runner's channels as registers, the FGS and Ladle drive them (R346, R347, R351, R356, R362 to R367):
start, stop, doorbell, recovery, datapaths and pre-emption, and the common stop of a bus error. -/

namespace Sys2Proof.Machine

/-- R81, R347: the characterised cost of a burst class; 3 acts as 2. -/
def classCost (c : Nat) : Nat := if c = 0 then 2 else if c = 1 then 3 else 4

/-- The class of a channel's configuration, 0 C, 1 P, 2 D. -/
def cfgClass (c : DmaCh) : Nat := min 2 c.cls.toNat

/-- DMA_CH_PACE as it acts. -/
def unitBytes (c : DmaCh) : Nat := 64 * 2 ^ min 10 c.unitLog2.toNat
def pollEvery (c : DmaCh) : Nat := max 64 c.poll.toNat

/-- DMA_CH_CFG. -/
def chCfg (c : DmaCh) : Nat :=
  put 0 1 (flagNat c.regRing) + put 1 1 (flagNat c.regPosted) + put 2 1 (flagNat c.hipri) + put 4 2 c.cls.toNat +
    put 8 1 (flagNat c.pace)

/-! ### Datapaths (R351) -/

/-- The channel's current descriptor has been moved and awaits its completion. -/
def moved (c : DmaCh) : Bool := match c.cur with
  | some d => c.bytes == d.len && c.buffer.isEmpty
  | none => false

/-- A channel that can use a datapath. -/
def chReady (c : DmaCh) : Bool := (c.st == .running || c.st == .preempted) && !c.needDoorbell && !moved c

/-- The channel holds a datapath. -/
def onPath (s : State) (ch : Nat) : Bool := s.dma.paths.any fun d => d.ch == some ch

/-- The next ready channel in round-robin order after channel last; high-priority ones first. -/
def nextReady (s : State) (last : Nat) : Option Nat :=
  let order := (List.range 32).map fun (i : Nat) => (last + 1 + i) % 32
  let ok := order.filter fun ch => chReady (chAt s ch) && !onPath s ch
  match ok.find? fun ch => (chAt s ch).hipri with
  | some ch => some ch
  | none => ok.head?

/-- A datapath takes a channel. -/
def givePath (i ch : Nat) (s : State) : State :=
  let s := updCh ch (fun c => { c with st := .running }) s
  { s with dma := { s.dma with paths := upd s.dma.paths i fun d => { d with ch := some ch, beganAt := now s, beats := 0 } } }

/-- R351: free datapaths take ready channels. -/
def assignPaths (s : State) : State :=
  if s.dma.stopped then s
  else
    [0, 1].foldl (fun s i =>
      let d := nth s.dma.paths i {}
      if d.ch.isSome then s
      else match nextReady s d.lastCh with
        | some ch => givePath i ch s
        | none => s) s

/-- R351: the datapath that a high-priority channel takes by pre-emption: that of the normal channel whose burst began
later, or datapath 1. -/
def victimPath (s : State) : Option Nat :=
  let normal := fun (i : Nat) => match (nth s.dma.paths i {}).ch with
    | some ch => !(chAt s ch).hipri
    | none => false
  match normal 0, normal 1 with
  | true, true => some (if (nth s.dma.paths 1 {}).beganAt < (nth s.dma.paths 0 {}).beganAt then 0 else 1)
  | true, false => some 0
  | false, true => some 1
  | false, false => none

/-! ### Errors (R361, R364) -/

/-- R361, R364: a channel stops in ERROR; its owned node ends with MEM_FAULT and its pour is aborted. -/
def failChannel (ch result : Nat) (code : EventCode) (s : State) : State :=
  let c := chAt s ch
  let s := ringResult ch result s
  let s := freePath ch (ladleStop (dmaId ch) true (endChannel ch result s))
  let s := updCh ch (fun c => { c with st := .error, buffer := [], needDoorbell := false, serves := none }) s
  match c.serves with
  | some (r, n) => abortPour code r (endNode r n 4 s)
  | none => s

/-- R361: a descriptor error. -/
def descError (ch result : Nat) (code : EventCode) (s : State) : State :=
  assignPaths (failChannel ch result code (raise code s))

/-- R364: every channel that is not idle, but one in ERROR, is HALTED and gives back its tickets. -/
def haltAll (s : State) : State :=
  (List.range 32).foldl (fun s ch =>
    let c := chAt s ch
    if c.st == .idle || c.st == .error then s
    else updCh ch (fun c => { c with st := .halted }) (freePath ch (ladleStop (dmaId ch) true s))) s

/-- R364: the kind code of an access fault. -/
def busKind (f : AccessFault) : Nat := if f.kind = 5 ∨ f.kind = 6 ∨ f.kind = 7 ∨ f.kind = 0 then 3 else 2

/-- R364: a bus error of a channel; further ones only count, and an uncorrectable word is still a detection of S1 (R34). -/
def busError (ch kind : Nat) (isWrite : Bool) (addr : Nat) (s : State) : State :=
  let c := chAt s ch
  let pairs := pourPairs s (c.serves.map Prod.fst)
  if s.dma.stopped then
    let s := if kind = 4 then detectS1 0x0D01 pairs s else s
    { s with dma := { s.dma with errMore := BitVec.ofNat 8 (satAdd 8 s.dma.errMore.toNat 1) } }
  else
    let desc := (c.cur.map Descriptor.addr).getD c.fetchAddr
    let s := { s with dma := { s.dma with
      stopped := true, errCh := BitVec.ofNat 5 ch, errKind := BitVec.ofNat 3 kind, errWrite := isWrite, errMore := 0,
      errValid := true, errAddr := BitVec.ofNat 48 addr, errDesc := BitVec.ofNat 48 desc } }
    let s := if kind = 4 then detectS1 0x0D01 pairs s else raise 0x0D01 s
    haltAll (failChannel ch 3 0x0D01 s)

/-! ### Start and stop -/

/-- R84, R347: the request of a channel's tickets. -/
def requestChannel (ch : Nat) (s : State) : State :=
  let c := chAt s ch
  match c.serves with
  | some (r, n) =>
    let p := active s
    let dl := (pourAt s r).map fun q =>
      if c.hipri then pourDeadline p r.slot (q.origin.getD q.fsOpen) else absDeadline p q n
    let q := ladleRequest (dmaId ch) (if c.hipri then 0 else 1) dl (ticketsOf (active s) n) (some r) s
    if q.2 then updCh ch (fun c => { c with st := .waitGrant, tickets := ticketsOf (active s) n }) q.1
    else abortPour 0x0303 r (endNode r n 1 (updCh ch (fun c => { c with st := .idle, serves := none }) q.1))
  | none =>
    let t := classCost (cfgClass c)
    let q := ladleRequest (dmaId ch) (if c.hipri then 0 else 2) none t none s
    updCh ch (fun c => { c with st := if q.2 then .waitGrant else .idle, tickets := t }) q.1

/-- A channel at the start of a chain. -/
def chainStart (c : DmaCh) : DmaCh :=
  { c with cur := none, buffer := [], needDoorbell := false, readPos := 0, bytes := 0, completed := 0, chainBytes := 0,
           postedOpen := [], postedLost := false, fetchAddr := c.desc.toNat, level := 0 }

/-- R356, R483: a software channel takes its form, its completion and its count at its start. -/
def softStart (c : DmaCh) : DmaCh :=
  { chainStart c with units := 0, ring := c.regRing, posted := c.regPosted, count := c.regCount }

/-- R346, R347: the start of a software channel; none starts while a transition drains (R91). -/
def startChannel (ch : Nat) (s : State) : State :=
  let c := chAt s ch
  if c.owned then raise 0x0D06 s
  else if c.st != .idle || s.dma.stopped || changing s then s
  else requestChannel ch (updCh ch softStart s)

/-- R356: the stop of a software channel. -/
def softStop (ch : Nat) (s : State) : State :=
  let c := chAt s ch
  if c.owned then raise 0x0D06 s
  else if c.st == .idle || c.st == .error then s
  else assignPaths (stopChannel ch 4 s)

/-- R350: a doorbell makes a ring channel fetch its head entry again. -/
def ringDoorbell (ch : Nat) (s : State) : State :=
  let c := chAt s ch
  if c.owned && c.st == .idle then s
  else if c.ring then assignPaths (updCh ch (fun c => { c with needDoorbell := false }) s)
  else s

/-- R366: a channel in ERROR returns to IDLE. -/
def clearError (ch : Nat) (s : State) : State :=
  if (chAt s ch).st == .error then updCh ch (fun c => { c with st := .idle, cur := none }) s else s

/-- R366: DMA_CTRL.resume. -/
def resumeDma (s : State) : State :=
  if s.dma.errValid || s.dma.chs.any fun c => c.st == .error then raise 0x0D07 s
  else if !s.dma.stopped || changing s then s
  else
    let s := { s with dma := { s.dma with stopped := false } }
    (List.range 32).foldl (fun s ch => if (chAt s ch).st == .halted then requestChannel ch s else s) s

/-- R346: a start through the channel's registers. -/
def execDmaStart (who : Agent) (ch : Fin 32) (s : State) : Host.Outcome State Fault Refusal :=
  if agentKeeperOrHost s who then done (startChannel ch.val s) else done s

/-- R350: a doorbell. -/
def execDmaDoorbell (who : Agent) (ch : Fin 32) (s : State) : Host.Outcome State Fault Refusal :=
  if agentKeeperOrHost s who then done (ringDoorbell ch.val s) else done s

/-- R356: a stop. -/
def execDmaStop (who : Agent) (ch : Fin 32) (s : State) : Host.Outcome State Fault Refusal :=
  if agentKeeperOrHost s who then done (softStop ch.val s) else done s

/-- R366: clear_err, a step of the recovery of keeper firmware. -/
def execDmaClearErr (who : Agent) (ch : Fin 32) (s : State) : Host.Outcome State Fault Refusal :=
  if agentKeeperOrHost s who then done (clearError ch.val s) else done s

/-- R366: resume, by a keeper-mode thread only. -/
def execDmaResume (who : Agent) (s : State) : Host.Outcome State Fault Refusal :=
  if agentKeeper s who then done (resumeDma s) else done s

/-! ### After the ramp, and the swap -/

/-- R347, R353, R438: a channel whose ramp has ended: it runs, or waits for its queue. -/
def beginChannel (ch : Nat) (s : State) : State :=
  let begun := (nth s.tap.srcs (srcDma ch) {}).beganAt.isSome
  let c := chAt s ch
  let s := match c.serves with
    | some (_, n) => if begun then s else updCh ch (fun c => { chainStart c with tickets := ticketsOf (active s) n }) s
    | none => s
  let c := chAt s ch
  let midUnit := c.bytes % unitBytes c != 0
  let pause := c.pace && !midUnit && c.buffer.isEmpty
  let s := updCh ch (fun c => { c with st := if pause then .paused else .running, pollAt := now s }) s
  let s := if begun then s
    else
      beginSource (srcDma ch) ((c.serves.map Prod.snd).getD 0xFFFF) ((c.serves.map fun q => q.1.seq).getD 0)
        (leBytes 8 c.desc.toNat ++ leBytes 2 (chCfg c)) s
  assignPaths s

/-- R367: a channel as a class 7 node's parameter block configures it. -/
def ownedChannel (p : Pattern) (n : NodeRec) : DmaCh :=
  let b := paramOf p n
  { regRing := bitAt n.mode 3, regPosted := bitAt n.mode 2, regCount := BitVec.ofNat 13 (leAt b 0xA 2),
    ring := bitAt n.mode 3, posted := bitAt n.mode 2, hipri := leAt b 0xC 1 == 1, pace := leAt b 0xD 1 == 1,
    desc := BitVec.ofNat 48 (leAt b 0 8), prod := BitVec.ofNat 48 (leAt b 0x10 8), cons := BitVec.ofNat 48 (leAt b 0x18 8),
    entries := BitVec.ofNat 13 (leAt b 8 2), count := BitVec.ofNat 13 (leAt b 0xA 2), unitLog2 := BitVec.ofNat 4 (leAt b 0xE 1),
    poll := BitVec.ofNat 16 (leAt b 0x28 2), hi := BitVec.ofNat 25 (leAt b 0x20 4), lo := BitVec.ofNat 25 (leAt b 0x24 4),
    owned := true }

/-- R346, R367: the channels at a swap point. -/
def bindChannels (p : Pattern) (s : State) : State :=
  let taken := (p.nodes.filter fun n => n.cls == 7).map NodeRec.channel
  let s := taken.foldl (fun s ch =>
    if (chAt s ch).st != DmaSt.idle && !(chAt s ch).owned then stopChannel ch 4 s else s) s
  let chs := (s.dma.chs.zipIdx).map fun q =>
    match p.nodes.find? fun n => n.cls == 7 && n.channel == q.2 with
    | some n => { ownedChannel p n with notify := q.1.notify }
    | none => if q.1.owned then { q.1 with owned := false, st := .idle, head := 0, units := 0 } else { q.1 with head := 0, units := 0 }
  { s with dma := { s.dma with chs := chs } }

end Sys2Proof.Machine
end

