-- ==== Sys2Proof/Machine/Grant.lean ====
section
/-! DEFINITION. Ladle's grants reach their requesters (R76, R77, R82, R86 to R88, R216, R217, R239), and the overrun of the
current monitor (R92, R93). -/

namespace Sys2Proof.Machine

/-! ### Who a queue entry belongs to (R83) -/

/-- The requester of a queue identity. -/
inductive Holder
  | unit (u : Nat)
  | isp (p : Nat)
  | channel (ch : Nat)
  | load (n : Nat)
  | group (l : Nat)
  deriving DecidableEq, Repr

/-- The requester of a queue identity. -/
def holderOf (id : Nat) : Option Holder :=
  if 0x200 ≤ id ∧ id < 0x203 then some (.group (id - 0x200))
  else if 0x180 ≤ id ∧ id < 0x1A0 then some (.channel (id - 0x180))
  else if 0x175 ≤ id ∧ id < 0x177 then some (.load (id - 0x175))
  else if 0x160 ≤ id ∧ id < 0x168 then some (.isp (id - 0x160))
  else ((List.range 35).find? fun u => unitId u == id).map .unit

/-- The selected node of a pour that holds a resource of a class. -/
def nodeHolding (s : State) (cls k : Nat) : Option (PourRef × Nat) :=
  let p := active s
  ((s.fgs.pours.flatMap fun q => (q.nodes.filter fun m =>
    (m.st == NodeSt.selected || m.st == NodeSt.running) && m.res.contains k &&
      ((nodeOf p.nodes m.node).map NodeRec.cls) == some cls).map fun m => (q.ref, m.node)).head?)

/-- The node that a unit's queue entry serves, with the logical instance it waits on. -/
def unitNode (s : State) (u : Nat) : Option (PourRef × Nat × Nat) :=
  match logicalOf s u with
  | none => none
  | some k =>
    if unitClass u = 5 then (nodeHolding s 6 k).map fun q => (q.1, q.2, k)
    else ((nth s.ven.insts k {}).reserved).map fun q => (q.1, q.2, k)

/-! ### Refusal (R87) -/

/-- R87: the requester of a refused entry ends its command. -/
def refuseHolder (id : Nat) (s : State) : State :=
  match holderOf id with
  | some (.unit u) => (match unitNode s u with
      | some q => refuseNode q.1 q.2.1 s
      | none => s)
  | some (.isp p) => (match nodeHolding s 0 p with
      | some q => refuseNode q.1 q.2 s
      | none => s)
  | some (.channel ch) => (match (chAt s ch).serves with
      | some q => refuseNode q.1 q.2 s
      | none => updCh ch (fun c => { c with st := .idle }) s)
  | some (.load n) => { s with ldl := { s.ldl with loads := upd s.ldl.loads n fun l => { l with phase := .idle } } }
  | _ => s

/-- R87: a head that can never fit leaves the queue. -/
def refuseHead (r : Request) (s : State) : State := refuseHolder r.id (raise 0x0303 (withdrawRequest r.id s))

/-- R76, R84, R87: Ladle looks at the head of its queue. -/
def execLadleGrant (s : State) : Host.Outcome State Fault Refusal :=
  match queueHead s.ldl.queue with
  | none => done s
  | some r =>
    if !canFit s r.tickets then done (refuseHead r s)
    else if grantDue s r then done (countSel 6 r.tickets (takeGrant r s))
    else done s

/-! ### The end of a ramp (R77) -/

/-- R217, R438: a vision command starts. -/
def beginVision (r : PourRef) (node k u : Nat) (s : State) : State :=
  let p := active s
  match pourAt s r, nodeOf p.nodes node with
  | some q, some n =>
    let cmd : VenCmd :=
      { pour := r, node := node, origin := q.origin.getD 0, head := cmdHead p n, startedAt := now s }
    let s := { s with ven := { s.ven with insts := upd s.ven.insts k fun i => { i with cmd := some cmd, reserved := none } } }
    beginSource u node r.seq (leBytes 8 (q.origin.getD 0) ++ leBytes 1 n.cls ++ leBytes 1 n.mode ++ leBytes 1 k)
      (startNode r node s)
  | _, _ => s

/-- R216: an ISP node's grant. In whole-frame buffering its pipe has written the frame, so the node ends; in tile buffering
it runs until its frame's last band flag. -/
def beginIsp (r : PourRef) (node port : Nat) (s : State) : State :=
  let p := active s
  let s := startNode r node s
  match nodeOf p.nodes node with
  | some n =>
    let open_ := fun (k : Nat) =>
      let c := nth s.cams port {}
      (c.frame.toList ++ c.tail).any fun f => f.index == k
    let runs := (ispCfgOf p n).tile && (match pourAt s r with
      | some q => !(q.frames.any fun f => f.1 == port) || q.frames.any fun f => f.1 == port && open_ f.2
      | none => false)
    if runs then s else ladleRelease (ispId port) (endNode r node 0 s)
  | none => s

/-- R82: lane group 1 is active when both ends have granted it. -/
def joinGroup (l : Nat) (s : State) : State :=
  { s with lnk := { s.lnk with links := upd s.lnk.links l fun k => { k with grp1 := k.grantHere && k.grantPeer } } }

/-- R82: this chip's grant of a lane group, told to the peer. -/
def beginGroup (l : Nat) (s : State) : State :=
  let s := { s with lnk := { s.lnk with links := upd s.lnk.links l fun k => { k with grantHere := true } } }
  sendPeer (linkPeer (chipIndex s) l) [7] (joinGroup l s)

/-- R77: the requester of a grant begins. -/
def beginHolder (id : Nat) (s : State) : State :=
  match holderOf id with
  | some (.unit u) => (match unitNode s u with
      | some q => if unitClass u = 5 then beginArray q.1 q.2.1 q.2.2 s else beginVision q.1 q.2.1 q.2.2 u s
      | none => s)
  | some (.isp p) => (match nodeHolding s 0 p with
      | some q => beginIsp q.1 q.2 p s
      | none => s)
  | some (.channel ch) => if (chAt s ch).st == .waitGrant then beginChannel ch s else s
  | some (.load n) =>
    let drawOn := fun (l : TestLoad) => { l with phase := .drawing (now s + l.runHold) }
    { s with ldl := { s.ldl with loads := upd s.ldl.loads n drawOn } }
  | some (.group l) => beginGroup l s
  | none => s

/-! ### The ceiling (R88) -/

/-- R88: a write of LDL_CEIL that is in range. The loaded patterns are the active one and one that is pending. -/
def writeCeiling (v : Nat) (s : State) : State :=
  if v < 320 ∨ 960 < v then raise 0x0301 s
  else
    let loaded := [s.pat.active, s.pat.pending].filterMap id
    if loaded.any fun p => decide (v < peakDraw p s.ldl.standing) then raise 0x0302 s
    else
      let run := s.pwr.cur == .run
      { s with ldl := { s.ldl with
          ceil := v, oldCeil := if run then some (now s, ceilingNow s) else s.ldl.oldCeil,
          activeCeil := if run then v else s.ldl.activeCeil } }

/-- R88: a write of LDL_CEIL by an agent that the firewall admits. -/
def execLadleCeilingWrite (_who : Agent) (ceiling : BitVec 10) (s : State) : Host.Outcome State Fault Refusal :=
  done (writeCeiling ceiling.toNat s)

/-! ### Overrun (R92, R93) -/

/-- The pairs of pours. -/
def pairsOf (s : State) (rs : List PourRef) : List Nat :=
  rs.filterMap fun r => (graphOf (active s) r.slot).map GraphRec.pairId

/-- R92, R93: the allowance has been exceeded in enough consecutive windows: once for each such run, also while Ladle is
frozen. -/
def execLdlOverrun (s : State) : Host.Outcome State Fault Refusal :=
  if !s.ldl.overRaised && decide (monWindows s ≤ s.ldl.overRun) then
    let es := s.ldl.exposed
    let s := { s with ldl := { s.ldl with frozen := true, overRaised := true, withinRun := 0 } }
    let s := detectS1 0x0320 (pairBits (pairsOf s es)) s
    done (es.foldl (fun s r => invalidatePour r s) s)
  else done s

end Sys2Proof.Machine
end

