-- ==== Sys2Proof/Machine/IspRun.lean ====
section
/-! DEFINITION. A pipe's frames: rows received and written (R149 to R152, R157), frame ends and descriptors (R151, R154), and
the damage of pours (R156). -/

namespace Sys2Proof.Machine

/-- A camera. -/
def camAt (s : State) (p : Nat) : Camera := nth s.cams p {}

/-- A camera changed. -/
def updCam (p : Nat) (f : Camera → Camera) (s : State) : State := { s with cams := upd s.cams p f }

/-- R160, R162: the receiver is powered: in WATCH, only that of PWR_WAKE_CFG. -/
def camOn (s : State) (p : Nat) : Bool :=
  (camAt s p).powered && match s.pwr.cur with
    | .run => true
    | .trim => true
    | .watch => s.pwr.pipe.toNat == p
    | _ => false

/-- R160, R162: the receiver has synchronised, and its pipe runs. -/
def camRuns (s : State) (p : Nat) : Bool := (camAt s p).sync && camOn s p

/-! ### Outputs (R149, R150, R151) -/

/-- Address of luma output row y of a frame's half. -/
def lumaPlace (c : IspCfg) (k y : Nat) : Nat :=
  c.luma.1 + k % 2 * lumaHalf c.lumaFmt c.w c.h + y * c.w * lumaBytes c.lumaFmt

/-- Address of the mark of row y, and of the frame descriptor. -/
def markPlace (c : IspCfg) (k y : Nat) : Nat :=
  c.luma.1 + k % 2 * lumaHalf c.lumaFmt c.w c.h + alignUp (c.w * c.h * lumaBytes c.lumaFmt) 64 + 4 * y
def descPlace (c : IspCfg) (k : Nat) : Nat :=
  c.luma.1 + k % 2 * lumaHalf c.lumaFmt c.w c.h + alignUp (c.w * c.h * lumaBytes c.lumaFmt) 64 + alignUp (4 * c.h) 64

/-- R149, R150, R340: output row y written with its mark under the pipe's initiator ID; chroma and IR rows follow the odd luma rows. -/
def writeRow (watch : Bool) (f : Frame) (y : Nat) (s : State) : State :=
  let c := f.cfg
  let id := ispId c.port
  let s := unitWrite id (lumaPlace c f.index y) (lumaRow c f.raw y) s
  let s := unitWrite id (markPlace c f.index y) (leBytes 4 (nth f.marks y 0).toNat) s
  if watch || y % 2 = 0 then s
  else
    let s := match c.chroma with
      | some b => if c.chromaOn then
            unitWrite id (b.1 + f.index % 2 * chromaHalf c.w c.h + y / 2 * c.w) (chromaRow c f.raw (y / 2)) s
          else s
      | none => s
    match c.ir with
    | some b =>
      if c.irOn then unitWrite id (b.1 + f.index % 2 * irHalf c.w c.h + y / 2 * (c.w / 2)) (irRow c f.raw (y / 2)) s else s
    | none => s

/-- The output rows from a to b - 1 written. -/
def writeRows (watch : Bool) (f : Frame) (a b : Nat) (s : State) : State :=
  (List.range (b - a)).foldl (fun s i => writeRow watch f (a + i) s) s

/-- R150: the OR of the marks' bits [26:21]. -/
def markOr (f : Frame) : Nat := bits (f.marks.foldl (fun a m => a ||| m) (0 : Word32)).toNat 21 6

/-- R151: the flag byte of the descriptor. -/
def descFlags (f : Frame) : Nat :=
  flagNat f.damage.isSome + 2 * flagNat f.forced + 4 * flagNat f.late + 8 * flagNat f.skew

/-- R151: the frame descriptor. -/
def descBytes (f : Frame) : List Byte :=
  leBytes 4 f.index ++ leBytes 4 f.rows ++ leBytes 8 f.fsStamp ++ leBytes 8 f.feStamp ++ leBytes 4 (markOr f) ++
    leBytes 1 (descFlags f) ++ leBytes 35 0

/-! ### Damage (R156) -/

/-- The pour in flight that reads a port's frame. -/
def pourOfFrame (s : State) (p k : Nat) : Option Pour := s.fgs.pours.find? fun q => q.frames.contains (p, k)

/-- R151, R156: a frame's damage: the pour that reads it is aborted. -/
def damageFrame (p : Nat) (k : Nat) (code : EventCode) (s : State) : State :=
  let hit := fun (f : Frame) => if f.index = k ∧ f.damage = none then { f with damage := some code } else f
  let s := updCam p (fun c => { c with frame := c.frame.map hit, tail := c.tail.map hit, ready := c.ready.map hit }) s
  match pourOfFrame s p k with
  | some q => abortPour code q.ref s
  | none => s

/-! ### Rows (R154, R157) -/

def markCrc : Nat := 2 ^ 21
def markFixed : Nat := 2 ^ 22
def markShort : Nat := 2 ^ 23
def markLong : Nat := 2 ^ 24
def markMissing : Nat := 2 ^ 25
def markOverflow : Nat := 2 ^ 26

/-- R157: a pipe's line buffer in pixels. -/
def lineBuffer : Nat := 8192

/-- A row of w samples: cut, or padded with 0. -/
def fitRow (w : Nat) (px : List Nat) : List Nat := px.take w ++ List.replicate (w - px.length) 0

/-- R157: a port counter that saturates at 0xFFFF. -/
def bump16 (v : BitVec 16) (n : Nat) : BitVec 16 := BitVec.ofNat 16 (satAdd 16 v.toNat n)

/-- R150: a row's mark. -/
def rowMark (row k extra : Nat) : Word32 := BitVec.ofNat 32 (put 0 13 row + put 13 8 k + extra)

/-- R157: what a row's length says: its mark bits and events. -/
def lengthBits (w n : Nat) : Nat × List EventCode :=
  let over_ := decide (lineBuffer < n)
  let kept := min n lineBuffer
  let a : Nat × List EventCode := if over_ then (markOverflow, [0x0616]) else (0, [])
  if kept < w then (a.1 + markShort, a.2 ++ [0x0604])
  else if w < kept then (a.1 + markLong, a.2 ++ [0x0605])
  else a

/-- The first event of a row that damages it. -/
def rowDamage (extra : Nat) : Option EventCode :=
  if bitAt extra 21 then some 0x0603 else if bitAt extra 26 then some 0x0616 else if bitAt extra 23 then some 0x0604
  else if bitAt extra 24 then some 0x0605 else if bitAt extra 25 then some 0x0602 else none

/-- A row joins the open frame with its mark bits; rows whose window is complete are written. -/
def pushRow (p : Nat) (px : List Nat) (extra : Nat) (got : Bool) (s : State) : State :=
  match (camAt s p).frame with
  | none => s
  | some f =>
    let r := f.raw.length
    let f := { f with
      raw := f.raw ++ [fitRow f.cfg.w px], marks := f.marks ++ [rowMark r f.index extra], rowAt := f.rowAt ++ [now s],
      rows := f.rows + flagNat got, openRow := none, written := max f.written (r + 1 - 2) }
    let old := ((camAt s p).frame.map Frame.written).getD 0
    let s := updCam p (fun c => { c with frame := some f }) s
    let s := writeRows (s.pwr.cur == .watch) f old (r + 1 - 2) s
    match rowDamage extra with
    | some code => damageFrame p f.index code s
    | none => s

/-- R157: a row beyond sensor_h is discarded, and the last row is marked long. -/
def extraRow (p : Nat) (f : Frame) (s : State) : State :=
  let last := f.cfg.h - 1
  let was := bitAt (nth f.marks last 0).toNat 24
  let s := raiseCamOnce p 0x0607 s
  if was then s
  else
    let f := { f with marks := upd f.marks last fun m => m ||| BitVec.ofNat 32 markLong, openRow := none }
    let s := updCam p (fun c => { c with frame := some f, cntLine := bump16 c.cntLine 1 }) s
    let mark := leBytes 4 (nth f.marks last 0).toNat
    let s := if last < f.written then unitWrite (ispId f.cfg.port) (markPlace f.cfg f.index last) mark s else s
    damageFrame p f.index 0x0607 s

/-- R157: a whole row received: its pixels, and the bits of CRC and header ECC. -/
def takeRow (p : Nat) (px : List Nat) (extra : Nat) (s : State) : State :=
  match (camAt s p).frame with
  | none => s
  | some f =>
    if f.cfg.h ≤ f.raw.length then extraRow p f s
    else
      let l := lengthBits f.cfg.w px.length
      let s := l.2.foldl (fun s e => raiseCamOnce p e s) s
      let s := updCam p (fun c => { c with cntLine := bump16 c.cntLine (flagNat (bitAt l.1 23) + flagNat (bitAt l.1 24)) }) s
      pushRow p (px.take lineBuffer) (extra + l.1) true s

/-- R157: a pixel row that was lost is missing. -/
def lostRow (p : Nat) (s : State) : State :=
  match (camAt s p).frame with
  | none => s
  | some f =>
    if f.cfg.h ≤ f.raw.length then extraRow p f s
    else pushRow p [] markMissing false (updCam p (fun c => { c with cntLine := bump16 c.cntLine 1 }) s)

/-! ### Frame ends (R151, R154, R157) -/

/-- R154, R221: the pipe sets a flag of its node for the pour that reads the frame: foreign, an overset, or counted. -/
def ispSet (node : Nat) (r : PourRef) (f k : Nat) (s : State) : State :=
  match flagOf (active s) f with
  | none => s
  | some rec => if rec.producer != node then raise 0x0805 s else countSets rec r k s

/-- R136: a frame whose trigger is deferred. -/
def deferredFrame (s : State) (p k : Nat) : Bool := s.pat.deferred.any fun d => d.frames.contains (p, k)

/-- R154, R221: flags that a pipe sets for a frame. The node counts as running from its frame on, in the pour that reads the frame.
In tile buffering the sets of a frame that no pour reads, and whose trigger is not deferred, are foreign; in whole-frame
buffering they count when the pour opens (assumption 74). -/
def frameSets (p : Nat) (f : Frame) (flags : List Nat) (s : State) : State :=
  match pourOfFrame s p f.index with
  | some q => flags.foldl (fun s g => ispSet f.cfg.node q.ref g 1 s) s
  | none =>
    if f.cfg.tile && s.pwr.cur != .watch && !deferredFrame s p f.index then flags.foldl (fun s _ => raise 0x0805 s) s else s

/-- R154: the flags of emb_buf and user_buf, set once per frame. -/
def setAux (p : Nat) (f : Frame) (s : State) : State := frameSets p f (f.cfg.embFlags ++ f.cfg.userFlags).dedup s

/-- R157: rows never received are filled with 0 and marked missing. -/
def fillRows (f : Frame) (t : Nat) : Frame :=
  let n := f.cfg.h - f.raw.length
  let r0 := f.raw.length
  { f with
    raw := f.raw ++ List.replicate n (List.replicate f.cfg.w 0)
    marks := f.marks ++ (List.range n).map (fun i => rowMark (r0 + i) f.index markMissing)
    rowAt := f.rowAt ++ List.replicate n t }

/-- R151, R154, R157, R438: the open frame closes, at a frame end packet or by force with an event. -/
def closeFrame (p : Nat) (force : Option EventCode) (s : State) : State :=
  match (camAt s p).frame with
  | none => s
  | some f =>
    let missing := f.cfg.h - f.raw.length
    let events := match force with
      | some e => [e]
      | none => if 0 < missing then [0x0606] else []
    let s := events.foldl (fun s e => raiseCamOnce p e s) s
    let bad := match force with
      | some e => some e
      | none => if 0 < missing then some 0x0606 else none
    let f := { fillRows f (now s) with
      feStamp := now s, closed := true, forced := force.isSome, openRow := none, damage := f.damage.or bad, auxSet := true }
    let wrote := f.written
    let f := { f with written := f.cfg.h }
    let s := updCam p (fun c => { c with frame := none, tail := c.tail ++ [f], cntLine := bump16 c.cntLine missing }) s
    let s := writeRows (s.pwr.cur == .watch) f wrote f.cfg.h s
    let s := unitWrite (ispId f.cfg.port) (descPlace f.cfg f.index) (descBytes f) s
    let s := endSource (srcIsp p) f.cfg.node 0 f.damage.isSome
      (leBytes 4 f.rows ++ leBytes 1 (descFlags f) ++ leBytes 1 (markOr f)) s
    let s := setAux p f s
    match bad with
    | some code => (match pourOfFrame s p f.index with
        | some q => abortPour code q.ref s
        | none => s)
    | none => s

/-! ### Frame starts (R149, R158, R161) -/

/-- The port whose frames a plane holds; none for an engine's plane. -/
def PlaneDesc.port (p : Pattern) (d : PlaneDesc) : Option Nat :=
  if d.cls = 0 then (nodeOf p.nodes d.node).map fun n => leAt (paramOf p n) 0 1 else none

/-- R197, R205: a Flow node of a pour that has not ended reads a port's other half as previous plane. -/
def readsPrevFrame (s : State) (p : Pattern) (q : Pour) (port : Nat) : Bool :=
  prevValid s q && q.nodes.any fun m => !m.hasEnded && (match nodeOf p.nodes m.node with
    | some d => d.cls == 4 && ((inPlane p d).bind (PlaneDesc.port p)) == some port
    | none => false)

/-- R158, R205: the half that frame k would take is still read by a pour in flight, as current or as previous plane. -/
def halfRead? (s : State) (p k : Nat) : Bool :=
  s.fgs.pours.any fun q => q.frames.any fun f =>
    f.1 == p && (f.2 % 2 == k % 2 || readsPrevFrame s (active s) q p)

/-- R149, R160, R438: a frame opens. -/
def openFrame (p : Nat) (cfg : IspCfg) (s : State) : State :=
  let c := camAt s p
  let f : Frame := { cfg := cfg, index := c.frameCount, fsStamp := now s, late := c.nextLate }
  let s := updCam p (fun c =>
    { c with frame := some f, frameCount := (c.frameCount + 1) % 2 ^ 32, half := f.index % 2, raised := [] }) s
  beginSource (srcIsp p) cfg.node 0 (leBytes 8 f.fsStamp ++ leBytes 4 f.index) s

end Sys2Proof.Machine
end

