-- ==== Sys2Proof/Machine/Cam.lean ====
section
/-! DEFINITION. The camera and ISP commands (07_camera_and_isp.md): packets (R145 to R147, R154, R157), band flags and the
pair trigger (R154 to R156, R211), and the blanking test (R161). -/

namespace Sys2Proof.Machine

/-! ### Pair triggers (R155, R156, R211) -/

/-- A frame of a port. -/
structure PortFrame where
  port : Nat
  frame : Frame
  deriving Repr

/-- Frames of the other side of a frame's graph: open, closed and ready ones. -/
def partnerFrames (s : State) (f : Frame) : List PortFrame :=
  ((s.cams.zipIdx).flatMap fun q =>
    (q.1.frame.toList ++ q.1.tail ++ q.1.ready.toList).map fun g => { port := q.2, frame := g }).filter fun g =>
      g.frame.cfg.slot == f.cfg.slot && g.frame.cfg.side != f.cfg.side

/-- R155: two FS stamps differ by at most sync_tol. -/
def inSync (f g : Frame) : Bool := decide (max f.fsStamp g.fsStamp - min f.fsStamp g.fsStamp ≤ f.cfg.syncTol)

/-- The damage of a trigger's frames. -/
def damageOf (fs : List PortFrame) : Option EventCode := (fs.filterMap fun f => f.frame.damage).head?

/-- R374: the FS stamps of a trigger's frames. -/
def fsOf (fs : List PortFrame) : Nat × Nat :=
  match fs with
  | [] => (0, 0)
  | f :: l => (f.frame.fsStamp, ((l.head?).map fun g => g.frame.fsStamp).getD f.frame.fsStamp)

/-- R374: the pair trigger fixes the pour's exposure origin. -/
def fixOrigin (r : PourRef) (fs : Nat × Nat) (s : State) : State :=
  let o := min fs.1 fs.2 - expMaxOf (active s) r.slot
  let s := updPour r (fun q => { q with fixedOrigin := some o, pairDone := true }) s
  { s with asy := { s.asy with
      announced := updFirst (fun a => a.ref == r) (fun a => { a with origin := o }) s.asy.announced } }

/-- R154, R214: the flags that a frame written before its pour opened has set count for that pour. -/
def fillBands (r : PourRef) (ports : List Nat) (s : State) : State :=
  let p := active s
  let cs := (p.nodes.filter fun n => n.cls == 0 && n.slot == r.slot).map (ispCfgOf p)
  (cs.filter fun c => ports.contains c.port).foldl (fun s c =>
    (c.bandFlags ++ c.embFlags ++ c.userFlags).dedup.foldl (fun s f =>
      putFlag f r.seq (((flagOf p f).map FlagRec.sets).getD 0) s) s) s

/-- The luma buffers of the ISP nodes of a slot, by port. -/
def lumaBuffers (p : Pattern) (slot : Nat) : List (Nat × Nat) :=
  ((sortBy (fun c => c.port) ((p.nodes.filter fun n => n.cls == 0 && n.slot == slot).map (ispCfgOf p))).map IspCfg.luma)

/-- R136: the luma buffers of a source, as the pattern has them that was active when the swap was requested. -/
def oldBuffers (s : State) (src : Nat × Nat) : List (Nat × Nat) :=
  ((graphOfSource (oldPattern s) src).map fun g => lumaBuffers (oldPattern s) g.slot).getD []

/-- R156: a pour whose frame is damaged is aborted in the ECLK in which it opens. -/
def abortDamaged (r : PourRef) (d : Option EventCode) (s : State) : State :=
  match d with
  | some code => abortPour code r s
  | none => s

/-- R211, R214: a whole-frame pour opens at its pair trigger. -/
def openWhole (slot : Nat) (frames : List (Nat × Nat)) (fs : Nat × Nat) (damage : Option EventCode) (s : State) : State :=
  if 2 ≤ (slotPours s slot).length then dropTrigger slot (min fs.1 fs.2) s
  else
    let r : PourRef := { slot := slot, seq := (nth s.fgs.slots slot {}).nextSeq }
    let s := openPour slot (min fs.1 fs.2) frames none s
    abortDamaged r damage (fixOrigin r fs (fillBands r (frames.map Prod.fst) s))

/-- R211, R226, R136: the pair trigger of a graph. In tile buffering it completes the pour that its frames opened. -/
def pairTrigger (slot : Nat) (fs : List PortFrame) (s : State) : State :=
  let ids := fs.map fun f => (f.port, f.frame.index)
  let st := fsOf fs
  if (fs.any fun f => f.frame.cfg.tile) then
    let join := fun (d : Deferred) =>
      if (d.frames.any ids.contains) then { d with paired := true, fsPair := st, frames := (d.frames ++ ids).dedup } else d
    let s := { s with pat := { s.pat with deferred := s.pat.deferred.map join } }
    match (slotPours s slot).find? fun q => q.frames.any ids.contains with
    | some q => fixOrigin q.ref st s
    | none => s
  else if defersNow s then
    let src := (0, ((fs.head?).map fun f => f.frame.cfg.source).getD slot)
    deferTrigger { source := src, stamp := min st.1 st.2, buffers := oldBuffers s src, damaged := damageOf fs,
                   fsPair := st, frames := ids, paired := true } s
  else if refusing s then raise 0x0807 s
  else openWhole slot ids st (damageOf fs) s

/-- R512: PAIR_SKEW sets its bit in both receivers, and is raised once for the pair: not again while a frame of it lasts for
which it has been raised. -/
def raiseSkew (ports : List Nat) (s : State) : State :=
  if ports.any fun p => (camAt s p).raised.contains 0x060B then s
  else
    raise 0x060B (ports.foldl (fun s p =>
      noteCam p 0x060B (markCam p 0x060B (updCam p (fun c => { c with raised := 0x060B :: c.raised }) s))) s)

/-- R155, R512: a frame without partner is marked with pair skew, and the trigger still fires. -/
def skewFrame (f : PortFrame) (s : State) : State :=
  let g := { f.frame with skew := true, damage := f.frame.damage.or (some 0x060B) }
  let s := raiseSkew (portsOf (active s) g.cfg.slot) s
  let s := unitWrite (ispId g.cfg.port) (descPlace g.cfg g.index) (descBytes g) s
  let s := match pourOfFrame s f.port g.index with
    | some q => abortPour 0x060B q.ref s
    | none => s
  pairTrigger g.cfg.slot [{ f with frame := g }] s

/-- R155: a frame's last band flag has been set: its partner's last flag fires the trigger, is awaited, or does not come. -/
def lastFlag (f : PortFrame) (s : State) : State :=
  let ps := (partnerFrames s f.frame).filter fun g => inSync f.frame g.frame
  let waits := ps.find? fun g => ((camAt s g.port).ready.map Frame.index) == some g.frame.index
  match waits with
  | some g =>
    let s := updCam g.port (fun c => { c with ready := none }) s
    pairTrigger f.frame.cfg.slot (if f.frame.cfg.side = 0 then [f, g] else [g, f]) s
  | none =>
    if ps.isEmpty then skewFrame f s
    else updCam f.port (fun c => { c with ready := some f.frame }) s

/-! ### Band flags (R154, R211) -/

/-- R211: the first band of a frame in tile buffering opens its pour, or joins the one its partner opened. -/
def firstBand (f : PortFrame) (s : State) : State :=
  let slot := f.frame.cfg.slot
  let id := (f.port, f.frame.index)
  let fs := f.frame.fsStamp
  let near := fun (q : Pour) => !q.pairDone && !(q.frames.any fun x => x.1 == f.port) &&
    decide (max q.fsOpen fs - min q.fsOpen fs ≤ f.frame.cfg.syncTol)
  let began := (partnerFrames s f.frame).any fun g => inSync f.frame g.frame && decide (1 ≤ g.frame.bandsSet)
  match (slotPours s slot).find? near with
  | some q => abortDamaged q.ref f.frame.damage (updPour q.ref (fun q => { q with frames := q.frames ++ [id] }) s)
  | none =>
    if began then s
    else if defersNow s then
      let src := (0, f.frame.cfg.source)
      deferTrigger { source := src, stamp := fs, buffers := oldBuffers s src, damaged := f.frame.damage,
                     fsPair := (fs, fs), frames := [id], paired := false } s
    else if refusing s then raise 0x0807 s
    else
      let r : PourRef := { slot := slot, seq := (nth s.fgs.slots slot {}).nextSeq }
      let s := acceptTrigger slot fs [id] none s
      abortDamaged r f.frame.damage s

/-- The number of bands of a frame. -/
def bandCount (f : Frame) : Nat := f.cfg.h / max 1 f.cfg.bandRows

/-- R154: the ECLK in which the next band flag of a frame is due. -/
def bandDue (f : Frame) : Option Nat :=
  if bandCount f ≤ f.bandsSet then none
  else if f.bandsSet + 1 = bandCount f then (if f.closed then some (f.feStamp + 400) else none)
  else (f.rowAt[(f.bandsSet + 1) * f.cfg.bandRows + 1]?).map (· + 400)

/-- R154: an ISP node in tile buffering ends with its frame's last band flag. -/
def endIspNode (f : PortFrame) (s : State) : State :=
  match pourOfFrame s f.port f.frame.index with
  | none => s
  | some q =>
    match q.nodes.find? fun m => m.node == f.frame.cfg.node with
    | some m => if f.frame.cfg.tile && m.st == NodeSt.running then
        ladleRelease (ispId f.port) (endNode q.ref m.node 0 s) else s
    | none => s

/-- R160, R187: the cells of a WATCH frame reach the presence detector. -/
def watchLast (f : Frame) (s : State) : State := watchFrame (watchCells f.cfg f.raw) s

/-- R154: a band flag of a frame is set. -/
def setBand (p : Nat) (f : Frame) (s : State) : State :=
  let g := { f with bandsSet := f.bandsSet + 1 }
  let last := decide (g.bandsSet = bandCount g)
  let put_ := fun (x : Frame) => if x.index = g.index then g else x
  let s := updCam p (fun c => { c with
    frame := c.frame.map put_, tail := if last then c.tail.filter (fun x => x.index != g.index) else c.tail.map put_ }) s
  let pf : PortFrame := { port := p, frame := g }
  if s.pwr.cur == .watch then (if last then watchLast g s else s)
  else
    let s := if g.cfg.tile && f.bandsSet == 0 then firstBand pf s else s
    let s := if g.cfg.tile then frameSets p g g.cfg.bandFlags s else s
    if last then lastFlag pf (endIspNode pf s) else s

/-- R154: the next band flag of a pipe, 400 ECLK after the input that it needs. -/
def execIspBandFlag (p : Fin 8) (s : State) : Host.Outcome State Fault Refusal :=
  let c := camAt s p.val
  match (c.tail ++ c.frame.toList).head? with
  | none => done s
  | some f =>
    match bandDue f with
    | some t => if t ≤ now s then done (setBand p.val f s) else done s
    | none => done s

/-- R156, R512: dmg_limit consecutive pours of a camera pair ended by damage. -/
def execCsiPairLost (pair : Fin 4) (s : State) : Host.Outcome State Fault Refusal :=
  let p := active s
  match graphOfSource p (0, pair.val) with
  | none => done s
  | some g =>
    let ports := portsOf p g.slot
    let due := ports.any fun q =>
      let c := camAt s q
      !c.lostRaised && (match c.cfg with
        | some k => decide (k.dmgLimit ≤ c.damageRun)
        | none => false)
    if !due then done s
    else
      let s := ports.foldl (fun s q =>
        noteCam q 0x0614 (markCam q 0x0614 (updCam q (fun c => { c with lostRaised := true }) s))) s
      done (detectS1 0x0614 (pairBits [g.pairId]) s)

/-! ### Packets (R145 to R147, R154, R157) -/

/-- R157: the header ECC of a packet: its counters and event. The Bool says that the packet is used. -/
def headerCheck (p : Nat) (h : HeaderEcc) (s : State) : Bool × State :=
  match h with
  | .ok => (true, s)
  | .fixed => (true, updCam p (fun c => { c with cntEccFix := bump16 c.cntEccFix 1 }) s)
  | .failed => (false, raiseCamOnce p 0x0602 (updCam p (fun c => { c with cntEccFail := bump16 c.cntEccFail 1 }) s))

/-- R147: the VC of the node that the open frame, or else the port, follows. -/
def vcOf (s : State) (p : Nat) : Option Nat :=
  let c := camAt s p
  ((c.frame.map Frame.cfg).or c.cfg).map IspCfg.vc

/-- R157: the port has heard a packet. -/
def heard (p : Nat) (s : State) : State := updCam p (fun c => { c with lastPacket := now s }) s

/-- R154: the row that a line start began ends. One of which no pixel came is missing. -/
def closeRow (p : Nat) (s : State) : State :=
  match (camAt s p).frame with
  | some f =>
    (match f.openRow with
      | some (px, extra) =>
        let s := updCam p (fun c => { c with frame := c.frame.map fun f => { f with openRow := none } }) s
        if px.isEmpty then lostRow p s else takeRow p px extra s
      | none => s)
  | none => s

/-- R157, R158, R160 to R162: a frame start that the port takes. -/
def startFrame (p : Nat) (s : State) : State :=
  let s := if (camAt s p).frame.isSome then closeFrame p (some 0x0608) (closeRow p s) else s
  let c := camAt s p
  let s := if c.testAt.isSome then raiseCam p 0x0619 s else s
  let s := updCam p (fun c => { c with awaitFs := false, discarding := false, testAt := none, lastFs := some (now s), raised := [] }) s
  match c.cfg with
  | none => s
  | some cfg =>
    let s := if halfRead? s p c.frameCount then
        raiseCamOnce p 0x0615 (updCam p (fun c => { c with discarding := true }) s)
      else openFrame p cfg s
    updCam p (fun c => { c with nextLate := false }) s

/-- R154: a frame start packet. -/
def execCsiFrameStart (p : Fin 8) (vc : BitVec 4) (hdr : HeaderEcc) (s : State) : Host.Outcome State Fault Refusal :=
  if !camRuns s p.val then done s
  else
    let h := headerCheck p.val hdr (heard p.val s)
    if h.1 && (camAt s p.val).cfg.map IspCfg.vc == some vc.toNat then done (startFrame p.val h.2) else done h.2

/-- R154, R161: a frame end that the port takes; the blanking test begins. -/
def endFrame (p : Nat) (s : State) : State :=
  let c := camAt s p
  if c.frame.isSome then
    updCam p (fun c => { c with testAt := some (now s) }) (closeFrame p none (closeRow p s))
  else if c.discarding then updCam p (fun c => { c with discarding := false }) s
  else if c.awaitFs then s
  else raiseCamOnce p 0x0608 s

/-- R154: a frame end packet. -/
def execCsiFrameEnd (p : Fin 8) (vc : BitVec 4) (hdr : HeaderEcc) (s : State) : Host.Outcome State Fault Refusal :=
  if !camRuns s p.val then done s
  else
    let h := headerCheck p.val hdr (heard p.val s)
    if h.1 && vcOf h.2 p.val == some vc.toNat then done (endFrame p.val h.2) else done h.2

/-- R154: a line start packet. -/
def execCsiLineStart (p : Fin 8) (vc : BitVec 4) (hdr : HeaderEcc) (s : State) : Host.Outcome State Fault Refusal :=
  if !camRuns s p.val then done s
  else
    let h := headerCheck p.val hdr (heard p.val s)
    if h.1 && vcOf h.2 p.val == some vc.toNat then
      let extra := if hdr = .fixed then markFixed else 0
      let s := closeRow p.val h.2
      done (updCam p.val (fun c => { c with frame := c.frame.map fun f => { f with openRow := some ([], extra) } }) s)
    else done h.2

/-- R145: a line end packet. -/
def execCsiLineEnd (p : Fin 8) (vc : BitVec 4) (hdr : HeaderEcc) (s : State) : Host.Outcome State Fault Refusal :=
  if !camRuns s p.val then done s
  else
    let h := headerCheck p.val hdr (heard p.val s)
    if h.1 && vcOf h.2 p.val == some vc.toNat then done (closeRow p.val h.2) else done h.2

/-- R145: data types that a pipe takes. -/
def pixelType (dt : Nat) : Bool := dt == 0x1E || decide (0x2A ≤ dt ∧ dt ≤ 0x2E)

/-- R145: data types that the receiver accepts. -/
def acceptedType (dt : Nat) : Bool :=
  pixelType dt || decide (dt < 4) || decide (0x08 ≤ dt ∧ dt ≤ 0x0F) || dt == 0x12 || decide (0x30 ≤ dt ∧ dt ≤ 0x37)

/-- R157, R162: an event of a frame; the frames before the first frame start after synchronisation raise none. -/
def frameEvent (p : Nat) (code : EventCode) (s : State) : State :=
  if (camAt s p).awaitFs then s else raiseCamOnce p code s

/-- R145: a packet of a data type that the receiver does not take: counted, with its event once per frame. -/
def discardType (p : Nat) (s : State) : State :=
  frameEvent p 0x060A (updCam p (fun c => { c with cntDt := bump16 c.cntDt 1 }) s)

/-- R157: the payload check of a packet. -/
def crcCheck (p : Nat) (ok : Bool) (s : State) : State :=
  if ok then s else frameEvent p 0x0603 (updCam p (fun c => { c with cntCrc := bump16 c.cntCrc 1 }) s)

/-- R154, R157: pixels of the open frame. In line framing they join the row that is open. -/
def takePixels (p : Nat) (f : Frame) (extra : Nat) (px : List Nat) (s : State) : State :=
  match f.openRow with
  | some (got, e) =>
    let mix := (BitVec.ofNat 32 e ||| BitVec.ofNat 32 extra).toNat
    updCam p (fun c => { c with frame := c.frame.map fun f => { f with openRow := some (got ++ px, mix) } }) s
  | none => takeRow p px extra s

/-- R154, R157: a pixel row of the open frame whose header could be read: of another type than the node's it is not taken. -/
def pixelRow (p : Nat) (f : Frame) (dt : Nat) (fixed crcOk : Bool) (payload : List Byte) (s : State) : State :=
  if f.cfg.dt ≠ dt then s
  else
    let extra := (if fixed then markFixed else 0) + (if crcOk then 0 else markCrc)
    takePixels p f extra (unpackRow dt payload) s

/-- R145, R147, R154, R157: a pixel long packet. -/
def execCsiPixelRow (p : Fin 8) (vc : BitVec 4) (dt : BitVec 6) (hdr : HeaderEcc) (crcOk : Bool) (payload : List Byte)
    (s : State) : Host.Outcome State Fault Refusal :=
  if !camRuns s p.val then done s
  else
    let h := headerCheck p.val hdr (heard p.val s)
    let s := h.2
    if !h.1 then
      done (match (camAt s p.val).frame with
        | some f => if f.openRow.isSome then s else lostRow p.val s
        | none => s)
    else if vcOf s p.val ≠ some vc.toNat then done s
    else if !acceptedType dt.toNat then done (discardType p.val s)
    else if !pixelType dt.toNat then done s
    else
      let s := crcCheck p.val crcOk s
      match (camAt s p.val).frame with
      | none => done s
      | some f => done (pixelRow p.val f dt.toNat (hdr == .fixed) crcOk payload s)

/-- R149: a half of an embedded or user buffer, and the bytes that still fit behind an offset. -/
def auxWrite (port : Nat) (b : Nat × Nat) (k off : Nat) (bs : List Byte) (s : State) : State :=
  let half := b.2 / 2 / 64 * 64
  unitWrite (ispId port) (b.1 + k % 2 * half + off) (bs.take (half - off)) s

/-- R147, R157: a long packet beside the pixels: the state after its checks, and the frame that takes it. -/
def auxPacket (p : Nat) (vc : Nat) (hdr : HeaderEcc) (crcOk : Bool) (s : State) : Option Frame × State :=
  let h := headerCheck p hdr (heard p s)
  if !h.1 || vcOf h.2 p != some vc then (none, h.2)
  else
    let s := crcCheck p crcOk h.2
    (if s.pwr.cur == .watch then none else (camAt s p).frame, s)

/-- R147: embedded data. -/
def execCsiEmbeddedData (p : Fin 8) (vc : BitVec 4) (pkt : LongPacket) (s : State) : Host.Outcome State Fault Refusal :=
  if !camRuns s p.val then done s
  else
    let r := auxPacket p.val vc.toNat pkt.hdr pkt.crcOk s
    match r.1, r.1.bind fun f => f.cfg.emb with
    | some f, some b =>
      let s := auxWrite p.val b f.index f.embOff pkt.payload r.2
      done (updCam p.val (fun c =>
        { c with frame := c.frame.map fun f => { f with embOff := f.embOff + pkt.payload.length } }) s)
    | _, _ => done r.2

/-- R147: user-defined data that user_dt_mask routes. -/
def execCsiUserData (p : Fin 8) (vc : BitVec 4) (kind : Fin 8) (pkt : LongPacket) (s : State) :
    Host.Outcome State Fault Refusal :=
  if !camRuns s p.val then done s
  else
    let r := auxPacket p.val vc.toNat pkt.hdr pkt.crcOk s
    match r.1, r.1.bind fun f => f.cfg.user with
    | some f, some b =>
      if bitAt f.cfg.userMask kind.val then
        let s := auxWrite p.val b f.index f.userOff pkt.payload r.2
        done (updCam p.val (fun c =>
          { c with frame := c.frame.map fun f => { f with userOff := f.userOff + pkt.payload.length } }) s)
      else done r.2
    | _, _ => done r.2

/-- R145: a generic short packet. -/
def execCsiGenericShort (pkt : PortPacket) (s : State) : Host.Outcome State Fault Refusal :=
  let p := pkt.port.val
  if !camRuns s p then done s
  else
    let h := headerCheck p pkt.hdr (heard p s)
    if h.1 && vcOf h.2 p == some pkt.vc.toNat then
      done (updCam p (fun c => { c with shortCount := c.shortCount + 1 }) h.2)
    else done h.2

/-- R145: a packet of an unsupported data type. -/
def execCsiUnsupportedPacket (pkt : PortPacket) (dt : BitVec 6) (s : State) : Host.Outcome State Fault Refusal :=
  let p := pkt.port.val
  if !camRuns s p then done s
  else
    let h := headerCheck p pkt.hdr (heard p s)
    if h.1 && vcOf h.2 p == some pkt.vc.toNat && !acceptedType dt.toNat then done (discardType p h.2) else done h.2

/-- R157: no packet for line_tmo inside a frame. -/
def execCsiLineTimeout (p : Fin 8) (s : State) : Host.Outcome State Fault Refusal :=
  match (camAt s p.val).frame with
  | some f =>
    if (camAt s p.val).lastPacket + f.cfg.lineTmo ≤ now s then done (closeFrame p.val (some 0x0609) (closeRow p.val s))
    else done s
  | none => done s

/-- R157: no frame start in time. -/
def execCsiFrameLate (p : Fin 8) (s : State) : Host.Outcome State Fault Refusal :=
  let c := camAt s p.val
  match c.lastFs, c.cfg with
  | some t, some k =>
    if camRuns s p.val && !c.nextLate && decide (t + k.framePeriod + k.lateTol < now s) then
      done (raiseCam p.val 0x0612 (updCam p.val (fun c => { c with nextLate := true }) s))
    else done s
  | _, _ => done s

/-- R157, R162: synchronisation is lost. -/
def execCsiPhySyncLost (p : Fin 8) (s : State) : Host.Outcome State Fault Refusal :=
  let c := camAt s p.val
  if !camRuns s p.val then done s
  else
    let s := if c.frame.isSome then closeFrame p.val (some 0x0601) (closeRow p.val s) else raiseCamOnce p.val 0x0601 s
    done (updCam p.val (fun c => { c with sync := false, awaitFs := true, discarding := false, testAt := none }) s)

/-- R162: a receiver achieves synchronisation. -/
def execCsiLaneSync (p : Fin 8) (s : State) : Host.Outcome State Fault Refusal :=
  if camOn s p.val then done (updCam p.val (fun c => { c with sync := true, awaitFs := true }) s) else done s

/-! ### The blanking test (R161) -/

/-- R161, R383: a pipe failed its test: what its pair has computed since its last pass loses its records. -/
def pipeFailed (p pair pass : Nat) (s : State) : State :=
  let rs := ((s.asy.announced.filter fun a => a.pair == pair && !a.missing).map Announce.ref)
  let s := rs.foldl (fun s r => invalidatePour r s) s
  recallPours (fun e => e.pair == pair && e.pipes.contains p && decide (pass < e.release)) s

/-- R161: the Assayer compares the test frame's CRC-32C. -/
def execIspTestResult (p : Fin 8) (sig : Word32) (s : State) : Host.Outcome State Fault Refusal :=
  let c := camAt s p.val
  match c.testAt, c.cfg with
  | some t, some k =>
    if now s < t + 2448 then done s
    else
      let s := updCam p.val (fun c => { c with testAt := none, testSig := sig }) s
      if sig.toNat = k.testSig then
        done (updCam p.val (fun c => { c with lastPass := now s, staleRaised := false }) s)
      else
        let s := detectS1 0x0618 (pairBits [k.pair]) (noteCam p.val 0x0618 (markCam p.val 0x0618 s))
        done (pipeFailed p.val k.pair c.lastPass s)
  | _, _ => done s

/-- R161: a pipe without a pass for 8 ms. -/
def execIspTestStale (p : Fin 8) (s : State) : Host.Outcome State Fault Refusal :=
  let c := camAt s p.val
  if camOn s p.val && !c.staleRaised && decide (c.lastPass + Config.dfdt ≤ now s) then
    let pair := (c.cfg.map IspCfg.pair).getD 0xFF
    let s := updCam p.val (fun c => { c with staleRaised := true }) s
    done (detectS1 0x061A (pairBits [pair]) (noteCam p.val 0x061A (markCam p.val 0x061A s)))
  else done s

end Sys2Proof.Machine
end

