-- ==== Sys2Proof/Machine/Sched.lean ====
section
/-! DEFINITION. The Task Scheduler's happenings (14_task_scheduler.md): spawns (R291, R292), ends and links (R301,
R302), operands (R294), cancels (R304), and selection and delivery (R296 to R300). -/

namespace Sys2Proof.Machine

/-- R61, R66, R287: the Riser cores and the scheduler run, in RUN and TRIM. -/
def coresRun (s : State) : Bool := !s.sys.inReset && (s.pwr.cur == .run || s.pwr.cur == .trim)

/-! ### Spawn (R291, R292) -/

/-- R291: every field of a spawn descriptor is in its range. -/
def spawnFieldsOk (d : List Byte) : Bool :=
  let ready := leAt d 0x19 1
  let ops := leAt d 0x1A 1
  let wait := leAt d 0x1E 2
  leAt d 0 8 % 4 == 0 && leAt d 0x10 8 % 64 == 0 && decide (leAt d 0x18 1 ≤ 15) && decide (ready ≤ 1) &&
    (if ready = 1 then decide (1 ≤ ops ∧ ops ≤ 4) else ops == 0) && decide (leAt d 0x1B 1 < 4) &&
    (if ready = 1 then leAt d 0x1C 2 == 0 && wait == 0xFFFF else decide (wait ≤ 4031) || wait == 0xFFFF) &&
    ((List.range 4).all fun (i : Nat) => leAt d (0x23 + 4 * i) 1 == 0) && zeroAt d 0x30 16

/-- R288: the lowest free spawned slot. -/
def freeSlot (s : State) : Option Nat :=
  (List.range 6144).findSome? fun (i : Nat) => if s.sch.tasks.any fun t => t.slot == 2048 + i then none else some (2048 + i)

/-- R288: the generation of a slot's next allocation. -/
def nextGen (s : State) (slot : Nat) : Nat :=
  (((s.sch.gens.find? fun g => g.1 == slot).map Prod.snd).getD 0 + 1) % 256

/-- R291: the task that a descriptor names. -/
def spawnedTask (d : List Byte) (slot gen : Nat) (parent : Option Task) : Task :=
  let wait := leAt d 0x1E 2
  let waits := wait != 0xFFFF
  let flags := leAt d 0x1B 1
  { slot := slot, gen := gen, entry := leAt d 0 8, arg := BitVec.ofNat 64 (leAt d 8 8), ctx := leAt d 0x10 8,
    group := leAt d 0x18 1, matching := leAt d 0x19 1 == 1, nOperands := leAt d 0x1A 1, acceptCancel := bitAt flags 0,
    noPreempt := bitAt flags 1, counter := leAt d 0x1C 2 + flagNat waits, flagWait := if waits then some wait else none,
    links := (List.range 4).map fun (i : Nat) => BitVec.ofNat 32 (leAt d (0x20 + 4 * i) 4),
    pour := parent.bind Task.pour, node := parent.bind Task.node, parent := parent.map fun t => (t.slot, t.gen) }

/-- R292: the word of SCH_PORT_RESULT after a spawn that succeeded. -/
def spawnResult (slot gen : Nat) : Word32 := BitVec.ofNat 32 (slot + gen * 65536 + 0x80000000)

/-- The task bound to a thread's port. -/
def portTask (s : State) (t : Nat) : Option Task :=
  (nth s.sch.ports t {}).task.bind fun k => taskAt s k.1 k.2

/-- R289, R305: a task takes its slot; one whose pour is aborted is cancelled. -/
def allocTask (k : Task) (s : State) : State :=
  let gens := (k.slot, k.gen) :: s.sch.gens.filter fun g => g.1 != k.slot
  let s := { s with sch := { s.sch with tasks := s.sch.tasks ++ [k], gens := gens } }
  let s := settleTasks (makeReady k.slot k.gen (wakeWaits s))
  match k.pour.bind (pourAt s) with
  | some q => if q.aborted.isSome then cancelAndSettle k.slot k.gen s else s
  | none => s

/-- R292: a refused spawn. -/
def refuseSpawn (t : Nat) (code : EventCode) (s : State) : State :=
  updPort t (fun p => { p with result := 0 }) (raise code s)

/-- R292: the port's descriptor is submitted. -/
def submitSpawn (t : Nat) (s : State) : State :=
  let d := (nth s.sch.ports t {}).desc
  match freeSlot s with
  | none => refuseSpawn t 0x0B01 s
  | some slot =>
    if !spawnFieldsOk d then refuseSpawn t 0x0B02 s
    else
      let gen := nextGen s slot
      let k := spawnedTask d slot gen (portTask s t)
      let waits := (s.sch.tasks.filter fun q => q.flagWait.isSome).length
      if k.flagWait.isSome && decide (256 ≤ waits) then refuseSpawn t 0x0B07 s
      else allocTask k (updPort t (fun p => { p with result := spawnResult slot gen }) s)

/-- R292: a write of 1 to a thread's own SCH_PORT_SPAWN. -/
def execSpawn (t : Fin 256) (s : State) : Host.Outcome State Fault Refusal := done (submitSpawn t.val s)

/-! ### Ends and links (R301, R302) -/

/-- R301: a write to SCH_PORT_END; a status of 3 names no end, and a thread without a task ends nothing. -/
def portEnd (t status : Nat) (s : State) : State :=
  match (nth s.sch.ports t {}).task with
  | some (slot, gen) => if status < 3 then endTask slot gen status s else s
  | none => s

/-- R307: an uncorrectable error in a slot or store entry: its task is cancelled and its pour aborted. -/
def tableError (slot gen : Nat) (s : State) : State :=
  let pour := (taskAt s slot gen).bind fun t => t.pour
  let s := detectS1 0x0B0A (pourPairs s pour) s
  let s := match pour with
    | some r => abortPour 0x0B0A r s
    | none => s
  cancelAndSettle slot gen s

/-- R301: a write to a thread's own SCH_PORT_END. -/
def execTaskEnd (t : Fin 256) (status : BitVec 2) (ecc : Ecc) (s : State) : Host.Outcome State Fault Refusal :=
  match ecc, (nth s.sch.ports t.val {}).task with
  | .uncorrectable, some k => done (tableError k.1 k.2 s)
  | _, some _ => done (portEnd t.val status.toNat (noteEcc ecc s))
  | _, none => done s

/-- R294, R218: an operand reaches a slot, with the end of the node of a task that it cancels. -/
def sendOperand (slot gen index : Nat) (value : Word32) (status : Nat) (s : State) : State :=
  settleTasks (deliverOperand slot gen index value status s)

/-- R301, R295: a link's operand or token reaches its slot. -/
def sendLink (l : LinkWork) (s : State) : State :=
  match taskAt s l.slot l.gen with
  | some t =>
    if t.matching then sendOperand l.slot l.gen l.index l.value l.status s
    else settleTasks (deliverToken l.slot l.gen l.index l.status s)
  | none => raise 0x0B05 s

/-- R307: the slot that a link reaches reads an uncorrectable error. -/
def linkOrError (ecc : Ecc) (l : LinkWork) (s : State) : State :=
  if ecc = .uncorrectable ∧ (taskAt s l.slot l.gen).isSome then tableError l.slot l.gen s else sendLink l (noteEcc ecc s)

/-- R301: the next link, one per ECLK. A task whose links have all been sent leaves its slot. -/
def execSuccessorLink (ecc : Ecc) (s : State) : Host.Outcome State Fault Refusal :=
  match s.sch.links with
  | [] => done s
  | l :: ls =>
    if s.sch.linkAt = some (now s) ∨ now s < l.dueAt then done s
    else
      let s := linkOrError ecc l { s with sch := { s.sch with links := ls, linkAt := some (now s) } }
      if s.sch.links.any fun q => q.source == l.source then done s else done (dropTask l.source.1 l.source.2 s)

/-- R294: a write to a thread's own SCH_PORT_SEND. -/
def execOperandSend (_t : Fin 256) (slot : BitVec 13) (index : BitVec 2) (gen : Byte) (value : Word32) (ecc : Ecc) (s : State) :
    Host.Outcome State Fault Refusal :=
  if ecc = .uncorrectable ∧ (taskAt s slot.toNat gen.toNat).isSome then done (tableError slot.toNat gen.toNat s)
  else done (sendOperand slot.toNat gen.toNat index.toNat value 0 (noteEcc ecc s))

/-- R304: a write of SCH_CANCEL by a keeper-mode thread; a slot without that generation is a mismatch. -/
def cancelWrite (slot gen : Nat) (s : State) : State :=
  match taskAt s slot gen with
  | none => raise 0x0B05 s
  | some _ => cancelAndSettle slot gen s

/-- R304: SCH_CANCEL; a write by anyone but a keeper-mode thread is ignored. -/
def execSchCancel (who : Agent) (slot : BitVec 13) (gen : Byte) (s : State) : Host.Outcome State Fault Refusal :=
  if agentKeeper s who then done (cancelWrite slot.toNat gen.toNat s) else done s

/-! ### Selection and delivery (R296 to R300) -/

/-- SCH_GRP_CFG of a group, with its values as they act. -/
def groupAt (s : State) (g : Nat) : Group := nth s.sch.groups g {}
def groupWeight (s : State) (g : Nat) : Nat := max 1 (groupAt s g).weight.toNat
def groupLimit (s : State) (g : Nat) : Nat :=
  let l := (groupAt s g).limit.toNat
  if l = 0 ∨ 256 < l then 256 else l

/-- R300: the running tasks of a group, from their selection on. -/
def groupRunning (s : State) (g : Nat) : Nat :=
  (s.sch.tasks.filter fun t => t.st == TaskSt.running && t.group == g).length

/-- R297: a task that can be selected in this ECLK. -/
def selectable (s : State) (t : Task) : Bool :=
  (t.st == TaskSt.ready || t.st == TaskSt.preempted) && decide (t.waitFrom < now s)

/-- R268: the thread is reserved for keeper firmware. -/
def inKeeperMask (s : State) (t : Nat) : Bool := (nth s.rsr.keeperMask (t / 32) 0).getLsbD (t % 32)

/-- R298: an idle thread that a task can be delivered to. -/
def idleThreadOk (s : State) (t : Nat) : Bool :=
  let th := threadAt s t
  th.st == ThreadSt.idle && th.async.isEmpty && !inKeeperMask s t

/-- R298: tasks running on a core. -/
def coreRunning (s : State) (c : Nat) : Nat :=
  (s.sch.tasks.filter fun t => t.st == TaskSt.running && (t.thread.map (· / 8)) == some c).length

/-- R298: the idle thread of the core with the fewest running tasks, ties to the lowest number. -/
def pickIdle (s : State) : Option Nat :=
  minBy (fun t => coreRunning s (t / 8) * 256 + t) ((List.range 256).filter (idleThreadOk s))

/-- R268, R299: the running task that may be pre-empted first. -/
def pickVictim (s : State) : Option Task :=
  let vs := s.sch.tasks.filter fun t => t.st == TaskSt.running && !t.noPreempt && t.ctx != 0 &&
    (match t.thread with
      | some th => (threadAt s th).async.isEmpty && !inKeeperMask s th && (nth s.sch.ports th {}).task == some (t.slot, t.gen)
      | none => false)
  let newest := fun (t : Task) => now s - t.deliveredAt
  minBy (fun t => (groupWeight s t.group * (now s + 1) + newest t) * 256 + (255 - t.thread.getD 0)) vs

/-- R296: the credits after a selection among the candidate groups, and the group chosen. -/
def chooseGroup (s : State) (cands : List Nat) : Option Nat × List Group :=
  let gs := (s.sch.groups.zipIdx).map fun (q : Group × Nat) =>
    if cands.contains q.2 then { q.1 with credit := q.1.credit + groupWeight s q.2 } else q.1
  let best := cands.foldl (fun (b : Option Nat) (g : Nat) =>
    match b with
    | none => some g
    | some h => if (nth gs h {}).credit < (nth gs g {}).credit then some g else some h) none
  match best with
  | none => (none, s.sch.groups)
  | some g =>
    let total := sumNat (cands.map (groupWeight s))
    (some g, upd gs g fun c => { c with credit := c.credit - total })

/-- R296: the task of a group that goes first. -/
def firstTask (s : State) (g : Nat) : Option Task :=
  minBy (fun t => t.readyAt * 8192 + t.slot) (s.sch.tasks.filter fun t => selectable s t && t.group == g)

/-- R298, R299, R300: a task is bound to a thread, whose exception follows at its boundary; selector 8 of R446 counts it. -/
def bindTask (k : Task) (th : Nat) (d : AsyncDelivery) (gs : List Group) (s : State) : State :=
  let s := { s with sch := { s.sch with
    groups := gs, deliveredAt := some (now s), waitMax := max s.sch.waitMax (min (now s - k.waitFrom) (2 ^ 32 - 1)) } }
  let s := updTask k.slot k.gen (fun t => { t with st := .running, thread := some th, deliveredAt := now s }) s
  updThread th (fun r => { r with async := r.async ++ [d] }) (countSel 8 1 s)

/-- R296, R307: the selected task goes to its thread, unless its slot reads an uncorrectable error. -/
def deliverOrError (ecc : Ecc) (k : Task) (th : Nat) (d : AsyncDelivery) (gs : List Group) (s : State) : State :=
  if ecc = .uncorrectable then tableError k.slot k.gen s else bindTask k th d gs (noteEcc ecc s)

/-- R296 to R300: at most one selection and delivery per ECLK. With no idle thread, the groups that could pre-empt are
the candidates. -/
def execSchDelivery (ecc : Ecc) (s : State) : Host.Outcome State Fault Refusal :=
  if !coresRun s || s.sch.deliveredAt == some (now s) then done s
  else
    let cands := (List.range 16).filter fun (g : Nat) =>
      (firstTask s g).isSome && decide (groupRunning s g < groupLimit s g)
    match pickIdle s with
    | some th =>
      let r := chooseGroup s cands
      match r.1.bind (firstTask s) with
      | some k =>
        let d : AsyncDelivery := { code := 0x10, detail := BitVec.ofNat 8 (flagNat k.resumed), task := some (k.slot, k.gen) }
        done (deliverOrError ecc k th d r.2 s)
      | none => done s
    | none =>
      match pickVictim s with
      | none => done s
      | some v =>
        let r := chooseGroup s (cands.filter fun g => (groupAt s g).preempt && decide (groupWeight s v.group < groupWeight s g))
        match r.1.bind (firstTask s), v.thread with
        | some k, some th =>
          let d : AsyncDelivery := { code := 0x11, detail := 0, task := some (k.slot, k.gen), victim := some (v.slot, v.gen) }
          done (deliverOrError ecc k th d r.2 s)
        | _, _ => done s

end Sys2Proof.Machine
end

