-- ==== Sys2Proof/Machine/Riser.lean ====
section
/-! DEFINITION. Riser threads (13_riser_threads.md): issue and fetch, loop-end evaluation (R275), exception entry and
return (R277 to R280), the branch, loop and mode instructions (R271 to R276), special registers (R270), and release,
reset and halt (R279, R283 to R287). The instruction itself comes with the command. -/

namespace Sys2Proof.Machine

/-- R270: emode.exl. -/
def inHandler (th : Thread) : Bool := th.emode.getLsbD 1

/-- R281: a delivery can be taken: at an instruction boundary, in task mode and outside a handler. -/
def deliverable (th : Thread) : Bool :=
  (th.st == ThreadSt.running || th.st == ThreadSt.idle) && !inHandler th && !th.keeper && decide (th.shadow = 0) &&
    th.branch.isNone && th.waiting == Waiting.none

/-- R265, R281, R310: the thread is ready: it runs, waits for nothing, has room in its store queue, and has no delivery to take
at this boundary. -/
def threadReady (s : State) (t : Nat) : Bool :=
  let th := threadAt s t
  th.st == ThreadSt.running && th.waiting == Waiting.none && decide (th.stores.length < 8) && decide (th.nextAt ≤ now s) &&
    !(deliverable th && !th.async.isEmpty)

/-- R265: a core and its place in the round robin after the thread that issued last. -/
def coreAt (s : State) (c : Nat) : CoreTurn := nth s.rsr.cores c {}
def turnOf (s : State) (t : Nat) : Nat := (t % 8 + 15 - (coreAt s (t / 8)).last) % 8

/-- R265: it is the thread's turn: its core has issued nothing in this ECLK, and no ready thread comes before it. -/
def inTurn (s : State) (t : Nat) : Bool :=
  (coreAt s (t / 8)).issuedAt != some (now s) &&
    (List.range 8).all fun (j : Nat) =>
      let u := 8 * (t / 8) + j
      !(threadReady s u && decide (turnOf s u < turnOf s t))

/-- R265, R310: the thread can issue. -/
def mayIssue (s : State) (t : Nat) : Bool := coresRun s && threadReady s t && inTurn s t

/-- R265: the thread issues: it is its core's last one. -/
def noteIssue (t : Nat) (s : State) : State :=
  { s with rsr := { s.rsr with cores := upd s.rsr.cores (t / 8) fun _ => { last := t % 8, issuedAt := some (now s) } } }

/-- R265, R309, R318: the instruction at the thread's turn waits, and the thread is not ready in this ECLK. -/
def holdBack (t : Nat) (s : State) : State :=
  if mayIssue s t then updThread t (fun th => { th with nextAt := now s + 1 }) s else s

/-- R269: g0 reads 0. -/
def readG (s : State) (t : Nat) (r : BitVec 5) : Word64 :=
  if r = 0 then 0 else nth (threadAt s t).g r.toNat 0

/-- R269: a write to g0 is discarded. -/
def writeG (t : Nat) (r : BitVec 5) (v : Word64) (s : State) : State :=
  if r = 0 then s else updThread t (fun th => { th with g := upd th.g r.toNat fun _ => v }) s

/-- An address of 48 bits, past the end of the space from its beginning. -/
def addr48 (a : Nat) : Nat := a % 2 ^ 48

/-! ### Loops (R269, R275) -/

/-- R269: the address of a loop's last instruction, its length and its start. -/
def loopEnd (le : Word64) : Nat := bits le.toNat 0 48
def loopLen (le : Word64) : Nat := bits le.toNat 48 16
def loopStart (le : Word64) : Nat := addr48 (loopEnd le + 2 ^ 48 + 4 - 4 * loopLen le)

/-- R275, R276: a level whose count is not 0, outside a handler, ends at one of the addresses. -/
def activeEnd (th : Thread) (as : List Nat) : Bool :=
  !inHandler th && ((th.lc0 != 0 && as.contains (loopEnd th.le0)) || (th.lc1 != 0 && as.contains (loopEnd th.le1)))

/-- R275: loop-end evaluation after the instruction at x: the thread, and the next address. Level 1 comes first. -/
def loopEval (th : Thread) (x : Nat) : Thread × Nat :=
  let next := addr48 (x + 4)
  if inHandler th then (th, next)
  else
    let hit1 := th.lc1 != 0 && loopEnd th.le1 == x
    if hit1 && th.lc1 != 1 then ({ th with lc1 := th.lc1 - 1 }, loopStart th.le1)
    else
      let th := if hit1 then { th with lc1 := 0 } else th
      if th.lc0 != 0 && loopEnd th.le0 == x then
        (if th.lc0 != 1 then ({ th with lc0 := th.lc0 - 1 }, loopStart th.le0) else ({ th with lc0 := 0 }, next))
      else (th, next)

/-- R276: one instruction of the shadow has run; after the second the new mode holds. -/
def shadowStep (th : Thread) : Thread :=
  if th.shadow = 0 then th
  else if th.shadow = 1 then { th with shadow := 0, keeper := th.newMode }
  else { th with shadow := th.shadow - 1 }

/-- R273, R275, R276: the thread after the instruction at its pc has completed: on to the branch target after a delay
slot, else to the next instruction after loop-end evaluation. -/
def advance (th : Thread) : Thread :=
  match th.branch with
  | some (_, target) => { th with branch := none, pc := target }
  | none =>
    let r := loopEval th th.pc
    shadowStep { r.1 with pc := r.2 }

/-- The instruction at the thread's pc completes. -/
def complete (t : Nat) (s : State) : State := updThread t advance s

/-! ### Tasks of a lost thread -/

/-- R300: a selected task whose thread is lost returns to its group in its place. -/
def returnDelivery (d : AsyncDelivery) (s : State) : State :=
  match d.task with
  | some k => updTask k.1 k.2 (fun t => { t with st := if t.resumed then .preempted else .ready, thread := none }) s
  | none => s

/-- R279, R285, R301: the thread's task ends with FAULT, and a delivery not yet taken returns. -/
def loseTasks (t : Nat) (s : State) : State :=
  let ds := (threadAt s t).async
  let s := updThread t (fun th => { th with async := [] }) s
  let s := ds.foldl (fun s d => returnDelivery d s) s
  match (nth s.sch.ports t {}).task with
  | some k => updPort t (fun p => { p with task := none }) (endTask k.1 k.2 2 s)
  | none => s

/-- R279, R285, R286: the thread halts. -/
def haltThread (t : Nat) (s : State) : State :=
  loseTasks t (raise 0x0A03 (updThread t (fun th => { th with st := .halted, waiting := .none }) s))

/-! ### Exceptions (R277 to R280) -/

/-- R272, R315 to R317: a thread of this chip loses its reservation, here or in a peer's monitor (R417). -/
def dropResv (t : Nat) (s : State) : State :=
  let far := (threadAt s t).remote
  let s := { s with rsr := { s.rsr with resvs := s.rsr.resvs.filter fun r => r.owner != { thread := t } } }
  match far with
  | some n => sendPeer n [13, t] (updThread t (fun th => { th with remote := none }) s)
  | none => s

/-- R277: ecause. -/
def causeOf (code detail addr : Nat) : Word64 := BitVec.ofNat 64 (put 0 8 code + put 8 8 detail + put 16 48 addr)

/-- R277, R320: emode as entry writes it. -/
def entryMode (th : Thread) (ds : Bool) : Word64 :=
  BitVec.ofNat 64 (flagNat th.keeper + 2 + put 2 1 (flagNat ds) + put 3 2 th.shadow +
    put 5 1 (flagNat (decide (th.shadow ≠ 0) && th.newMode)) + put 6 1 (flagNat th.ioOpen) + put 7 1 (flagNat th.ioUsed))

/-- R277, R272, R320: the thread after exception entry, which it issues from at an ECLK. -/
def enterHandler (vec code detail addr epc : Nat) (ds : Bool) (next : Nat) (th : Thread) : Thread :=
  { th with
    nextAt := next
    epc := BitVec.ofNat 64 (addr48 epc), ecause := causeOf code detail addr, emode := entryMode th ds, keeper := true,
    pc := vec, branch := none, shadow := 0, newMode := false, ioOpen := false, ioUsed := false,
    waiting := .none }

/-- R277: exception entry; R279: within a handler it is a double fault. -/
def takeException (t code detail addr epc : Nat) (ds : Bool) (s : State) : State :=
  if inHandler (threadAt s t) then haltThread t (raise 0x0A01 s)
  else
    let s := updThread t (enterHandler s.rsr.vec.toNat code detail addr epc ds (now s + 6)) (dropResv t s)
    { s with rsr := { s.rsr with excCnt := satAdd 32 s.rsr.excCnt 1 } }

/-- R280: a fault of the instruction at the thread's pc; in a delay slot the branch is to run again. -/
def fault (t code detail addr : Nat) (s : State) : State :=
  let th := threadAt s t
  match th.branch with
  | some (b, _) => takeException t code detail addr b true s
  | none => takeException t code detail addr th.pc false s

/-- ILLEGAL (R271) and PRIV (R267), which carry no address here. -/
def illegal (t : Nat) (s : State) : State := fault t 0x01 0 0 s
def privFault (t : Nat) (s : State) : State := fault t 0x02 0 0 s

/-- The pour of a thread's current task. -/
def taskPour (s : State) (t : Nat) : Option PourRef := (portTask s t).bind Task.pour

/-- R25, R49: the records of the pour of a thread's task are invalid. -/
def spoilPour (t : Nat) (s : State) : State :=
  match taskPour s t with
  | some r => invalidatePour r s
  | none => s

/-- R340: the exception of a Riser access that translation or the firewall refuses; an uncorrectable error of the walk has
called for S1. A breach has reset the device. -/
def accessFault (t code addr : Nat) (f : AccessFault) (s : State) : State :=
  if s.sys.inReset then s
  else if f = .priv then fault t 0x02 0 addr s
  else fault t code f.detail addr (if f = .walkEcc then spoilPour t s else s)

/-- R265, R332, R340: an instruction issues: its fetch is checked, and what it does follows. -/
def issue (t : Nat) (body : State → State) (s : State) : State :=
  if !mayIssue s t then s
  else
    let th := threadAt s t
    let s := noteIssue t (updThread t (fun th => { th with lastPc := th.pc }) (countSel 7 1 s))
    let r := checkAccess t th.keeper .execute th.pc 4 false s
    match r.1 with
    | .ok _ => body r.2
    | .error f => accessFault t 0x03 th.pc f r.2

/-- R273, R276: a branch, LOOPN, MODE, TRAP or XRET in a delay slot or a shadow is ILLEGAL. -/
def misplaced (th : Thread) : Bool := th.branch.isSome || decide (th.shadow ≠ 0)

/-! ### Branches (R271, R273, R275) -/

/-- R273, R275: a branch to a target is not allowed here. -/
def branchBarred (th : Thread) : Bool := misplaced th || activeEnd th [th.pc, addr48 (th.pc + 4)]

/-- R273: the thread after a branch: its delay slot comes next, then the target. -/
def startBranch (target : Nat) (th : Thread) : Thread :=
  { th with branch := some (th.pc, target), pc := addr48 (th.pc + 4) }

/-- R271: the link value. -/
def linkValue (th : Thread) : Word64 := BitVec.ofNat 64 (addr48 (th.pc + 8))

/-- R271: the target of a branch with an offset in instructions. -/
def offsetTarget (th : Thread) (off : Int) : Nat := ((th.pc : Int) + 4 + 4 * off).emod (2 ^ 48) |>.toNat

/-- R271: the condition of Bcc; none is the reserved value. -/
def branchCond (cond : BitVec 3) (a b : Word64) : Option Bool :=
  match cond.toNat with
  | 0 => some (a == b)
  | 1 => some (a != b)
  | 2 => some (a.slt b)
  | 3 => some (!a.slt b)
  | 4 => some (a.ult b)
  | 5 => some (!a.ult b)
  | 6 => some true
  | _ => none

/-- R271: Bcc. -/
def bccBody (t : Nat) (cond : BitVec 3) (ga gb : BitVec 5) (off : BitVec 13) (s : State) : State :=
  let th := threadAt s t
  match branchCond cond (readG s t ga) (readG s t gb) with
  | none => illegal t s
  | some c =>
    if branchBarred th then illegal t s
    else updThread t (startBranch (if c then offsetTarget th off.toInt else addr48 (th.pc + 8))) s

/-- R271: a branch on a condition. -/
def execBcc (t : Fin 256) (cond : BitVec 3) (ga gb : BitVec 5) (off : BitVec 13) (s : State) :
    Host.Outcome State Fault Refusal :=
  done (issue t.val (bccBody t.val cond ga gb off) s)

/-- R271: BAL. -/
def balBody (t : Nat) (off : BitVec 26) (s : State) : State :=
  let th := threadAt s t
  if branchBarred th then illegal t s
  else updThread t (startBranch (offsetTarget th off.toInt)) (writeG t 31 (linkValue th) s)

/-- R271: branch and link. -/
def execBal (t : Fin 256) (off : BitVec 26) (s : State) : Host.Outcome State Fault Refusal :=
  done (issue t.val (balBody t.val off) s)

/-- R271: JR and JALR: a target that is no multiple of 4 raises ALIGN. -/
def jumpBody (t : Nat) (gs : BitVec 5) (link : Bool) (s : State) : State :=
  let th := threadAt s t
  let target := readG s t gs
  if branchBarred th || (link && gs == 31) then illegal t s
  else if target.toNat % 4 ≠ 0 then fault t 0x06 0 target.toNat s
  else updThread t (startBranch (addr48 target.toNat)) (if link then writeG t 31 (linkValue th) s else s)

/-- R271: a register jump. -/
def execJr (t : Fin 256) (gs : BitVec 5) (s : State) : Host.Outcome State Fault Refusal :=
  done (issue t.val (jumpBody t.val gs false) s)

/-- R271: a register jump with link. -/
def execJalr (t : Fin 256) (gs : BitVec 5) (s : State) : Host.Outcome State Fault Refusal :=
  done (issue t.val (jumpBody t.val gs true) s)

/-! ### Loops and modes (R274, R276) -/

/-- R274: the loop of a level set: its count, end and length. -/
def setLoop (lvl : BitVec 1) (count le : Word64) (next : Nat) (th : Thread) : Thread :=
  if lvl = 0 then { th with lc0 := count, le0 := le, pc := next } else { th with lc1 := count, le1 := le, pc := next }

/-- R274: LOOPN is ILLEGAL here. -/
def loopBarred (th : Thread) (lvl : BitVec 1) (len newEnd : Nat) : Bool :=
  misplaced th || len == 0 ||
    (if lvl = 0 then th.lc1 != 0 else th.lc0 != 0 && decide (loopEnd th.le0 < newEnd))

/-- R274: LOOPN. -/
def loopnBody (t : Nat) (lvl : BitVec 1) (gs : BitVec 5) (len : BitVec 16) (s : State) : State :=
  let th := threadAt s t
  let newEnd := addr48 (th.pc + 4 * len.toNat)
  let count := readG s t gs
  if loopBarred th lvl len.toNat newEnd then illegal t s
  else
    updThread t (setLoop lvl count (BitVec.ofNat 64 (newEnd + put 48 16 len.toNat))
      (if count = 0 then addr48 (newEnd + 4) else addr48 (th.pc + 4))) s

/-- R274: a hardware loop begins, or its body is skipped. -/
def execLoopn (t : Fin 256) (lvl : BitVec 1) (gs : BitVec 5) (len : BitVec 16) (s : State) :
    Host.Outcome State Fault Refusal :=
  done (issue t.val (loopnBody t.val lvl gs len) s)

/-- R276: MODE. -/
def modeBody (t : Nat) (m : BitVec 1) (s : State) : State :=
  let th := threadAt s t
  if misplaced th || activeEnd th [th.pc, addr48 (th.pc + 4), addr48 (th.pc + 8)] then illegal t s
  else if m = 1 && !th.keeper then privFault t s
  else updThread t (fun th => { th with shadow := 2, newMode := m == 1, pc := addr48 (th.pc + 4) }) s

/-- R276: a change of mode, with its shadow. -/
def execMode (t : Fin 256) (m : BitVec 1) (s : State) : Host.Outcome State Fault Refusal :=
  done (issue t.val (modeBody t.val m) s)

/-! ### TRAP, XRET, special registers -/

/-- R280: TRAP completes, and its exception resumes at what would have followed. -/
def trapBody (t : Nat) (code : BitVec 16) (s : State) : State :=
  let th := threadAt s t
  if misplaced th then illegal t s
  else if inHandler th then fault t 0x07 0 0 s
  else
    let r := loopEval th th.pc
    takeException t 0x07 (code.toNat % 256) 0 r.2 false (updThread t (fun _ => r.1) s)

/-- R280: a trap. -/
def execTrap (t : Fin 256) (code : BitVec 16) (s : State) : Host.Outcome State Fault Refusal :=
  done (issue t.val (trapBody t.val code) s)

/-- R278, R272, R320: the thread after XRET, which it issues from at an ECLK. -/
def leaveHandler (next : Nat) (th : Thread) : Thread :=
  let e := th.emode
  let sh := bits e.toNat 3 2
  { th with
    nextAt := next
    keeper := e.getLsbD 0, shadow := if sh = 3 then 0 else sh, newMode := e.getLsbD 5, emode := e &&& 0xFD,
    ioOpen := e.getLsbD 6, ioUsed := e.getLsbD 7, pc := th.epc.toNat, branch := none }

/-- R278: XRET. -/
def xretBody (t : Nat) (s : State) : State :=
  let th := threadAt s t
  if misplaced th then illegal t s
  else if !th.keeper then privFault t s
  else updThread t (leaveHandler (now s + 4)) (dropResv t s)

/-- R278: return from an exception. -/
def execXret (t : Fin 256) (s : State) : Host.Outcome State Fault Refusal := done (issue t.val (xretBody t.val) s)

/-- R271: the special registers by number. -/
def readSpecial (th : Thread) (sr : BitVec 5) : Word64 :=
  match sr.toNat with
  | 0 => th.epc
  | 1 => th.ecause
  | 2 => th.emode
  | 3 => th.lc0
  | 4 => th.lc1
  | 5 => th.le0
  | _ => th.le1

/-- R270: a write to a special register; emode keeps exl, epc keeps [47:2]. -/
def writeSpecial (sr : BitVec 5) (v : Word64) (th : Thread) : Thread :=
  match sr.toNat with
  | 0 => { th with epc := v &&& 0x0000FFFFFFFFFFFC }
  | 1 => { th with ecause := v }
  | 2 => { th with emode := (v &&& 0xFD) ||| (th.emode &&& 2) }
  | 3 => { th with lc0 := v }
  | 4 => { th with lc1 := v }
  | 5 => { th with le0 := v }
  | _ => { th with le1 := v }

/-- R270: MFS. -/
def mfsBody (t : Nat) (gd sr : BitVec 5) (s : State) : State :=
  let th := threadAt s t
  if 7 ≤ sr.toNat then illegal t s
  else if !th.keeper then privFault t s
  else complete t (writeG t gd (readSpecial th sr) s)

/-- R270: move from a special register. -/
def execMfs (t : Fin 256) (gd sr : BitVec 5) (s : State) : Host.Outcome State Fault Refusal :=
  done (issue t.val (mfsBody t.val gd sr) s)

/-- R270: MTS. -/
def mtsBody (t : Nat) (sr gs : BitVec 5) (s : State) : State :=
  let th := threadAt s t
  if 7 ≤ sr.toNat then illegal t s
  else if !th.keeper then privFault t s
  else complete t (updThread t (writeSpecial sr (readG s t gs)) s)

/-- R270: move to a special register. -/
def execMts (t : Fin 256) (sr gs : BitVec 5) (s : State) : Host.Outcome State Fault Refusal :=
  done (issue t.val (mtsBody t.val sr gs) s)

/-! ### Ordinary instructions -/

/-- R25, R49, R518: an access of a thread meets an uncorrectable error: S1, and the records of its task's pour are invalid. -/
def memoryError (t : Nat) (s : State) : State :=
  spoilPour t (detectS1 0x0C42 (pourPairs s (taskPour s t)) s)

/-- R285: a register parity error halts the thread. -/
def parityHalt (t : Nat) (s : State) : State := haltThread t (detectS1 0x0A02 (pourPairs s (taskPour s t)) s)

/-- R271, R280, R285: an instruction that R271 does not list; a word that is no instruction is ILLEGAL. -/
def ordinaryBody (t : Nat) (op : OrdinaryOp) (s : State) : State :=
  match op with
  | .result gd v => complete t (writeG t gd v s)
  | .word w =>
    (match decodeRiser (Fin.ofNat 256 t) w with
      | .listed _ => s
      | _ => illegal t s)
  | .fetchUncorrectable =>
    let a := (threadAt s t).pc
    fault t 0x03 1 a (memoryError t s)
  | .registerParity => parityHalt t s

/-- R280: an ordinary register or arithmetic instruction. -/
def execOrdinaryInstruction (t : Fin 256) (op : OrdinaryOp) (s : State) : Host.Outcome State Fault Refusal :=
  done (issue t.val (ordinaryBody t.val op) s)

/-! ### Deliveries (R281, R298, R299, R304) -/

/-- R298: SCH_PORT_CUR of a task. -/
def curWord (k : Task) : Word32 :=
  BitVec.ofNat 32 (k.slot + put 16 4 k.group + put 20 1 (flagNat k.resumed) + put 24 8 k.poison.toNat)

/-- R294, R298: the port shows the task, and its operand entries are freed; a resumed task keeps its operands. -/
def showTask (t : Nat) (k : Task) (s : State) : State :=
  let ops := (List.range 4).map fun (i : Nat) => ((k.operands.find? fun o => o.1 == i).map Prod.snd).getD 0
  let s := updPort t (fun p => { p with
    cur := curWord k, arg := k.arg, ctx := BitVec.ofNat 64 k.ctx, task := some (k.slot, k.gen),
    opnd := if k.resumed then k.shown else ops }) s
  updTask k.slot k.gen (fun q => { q with operands := [], shown := if k.resumed then k.shown else ops }) s

/-- R299, R304: the victim of a pre-emption returns to its group, or ends when its cancel was waiting. -/
def preemptVictim (t : Nat) (v : Nat × Nat) (s : State) : State :=
  let isCancel := fun (d : AsyncDelivery) => d.code == 0x11 && d.detail == 1
  if (threadAt s t).async.any isCancel then
    let s := updThread t (fun th => { th with async := th.async.filter fun d => !isCancel d }) s
    endTask v.1 v.2 1 (updTask v.1 v.2 (fun q => { q with thread := none }) s)
  else
    updTask v.1 v.2 (fun q => { q with st := .preempted, resumed := true, thread := none, waitFrom := now s }) s

/-- R298, R299: the first delivery of a thread is taken. An idle thread resumes at the task's entry. -/
def takeDelivery (t : Nat) (d : AsyncDelivery) (s : State) : State :=
  let th := threadAt s t
  let idle := th.st == ThreadSt.idle
  let s := updThread t (fun th => { th with async := th.async.drop 1, st := .running }) s
  match d.task.bind fun k => taskAt s k.1 k.2 with
  | none => takeException t d.code.toNat d.detail.toNat 0 th.pc false s
  | some k =>
    let s := match d.victim with
      | some v => if !idle && (nth s.sch.ports t {}).task == some v then preemptVictim t v s else s
      | none => s
    let s := showTask t k s
    if idle then takeException t 0x10 (flagNat k.resumed) 0 k.entry false s
    else takeException t d.code.toNat d.detail.toNat 0 th.pc false s

/-- R305: a delivery stands once the ECLK of its selection is over: until then a cancel takes it back. -/
def deliveryStands (s : State) (d : AsyncDelivery) : Bool :=
  match d.task.bind fun k => taskAt s k.1 k.2 with
  | some k => decide (k.deliveredAt < now s)
  | none => true

/-- R281: a held delivery is taken at the first boundary where it is allowed. -/
def execAsyncDeliveryTaken (t : Fin 256) (s : State) : Host.Outcome State Fault Refusal :=
  let th := threadAt s t.val
  match th.async with
  | d :: _ => if coresRun s && deliverable th && deliveryStands s d then done (takeDelivery t.val d s) else done s
  | [] => done s

/-! ### Release and reset (R283, R287) -/

/-- R267: a write to a RSR register by someone who may not: a task-mode thread takes PRIV. -/
def refuseRsr (who : Agent) (s : State) : State :=
  match who with
  | .thread t => if (threadAt s t.val).st == ThreadSt.running then privFault t.val s else s
  | _ => s

/-- R287: a held thread starts in task mode, idle. -/
def releaseOne (t : Nat) (s : State) : State :=
  updThread t (fun th => if th.st == ThreadSt.held then { th with st := .idle, keeper := false } else th) s

/-- R287: the threads of a word's mask are released. -/
def releaseThreads (w : Nat) (mask : Word32) (s : State) : State :=
  let ts := ((List.range 32).filter fun (b : Nat) => mask.getLsbD b).map fun b => 32 * w + b
  let s := { s with
    rsr := { s.rsr with rel := upd s.rsr.rel w fun r => r ||| mask }
    cyc := { s.cyc with released := ts ++ s.cyc.released } }
  ts.foldl (fun s t => releaseOne t s) s

/-- R287: a keeper write to RSR_THR_REL. -/
def execThreadRelease (who : Agent) (word : Fin 8) (mask : Word32) (s : State) : Host.Outcome State Fault Refusal :=
  if agentKeeper s who then done (releaseThreads word.val mask s) else done (refuseRsr who s)

/-- R14, R283: a thread returns to HELD with its exception state cleared; the task it held ends with FAULT. A release that is
written in the same ECLK stands, and lets the thread go again. -/
def resetThread (t : Nat) (s : State) : State :=
  let s := updThread t (fun th => { th with
    st := .held, keeper := false, branch := none, shadow := 0, newMode := false, epc := 0, ecause := 0, emode := 0,
    ioOpen := false, ioUsed := false, waiting := .none }) (dropResv t s)
  let s := loseTasks t s
  if s.cyc.released.contains t then releaseOne t s
  else
    { s with rsr := { s.rsr with rel := upd s.rsr.rel (t / 32) fun r => r &&& ~~~(BitVec.ofNat 32 (2 ^ (t % 32))) } }

/-- R283: a keeper write to RSR_THR_RESET. -/
def execThreadReset (who : Agent) (t : Fin 256) (s : State) : Host.Outcome State Fault Refusal :=
  if agentKeeper s who then done (resetThread t.val s) else done (refuseRsr who s)

/-! ### Registers that task mode may not touch (R335, R338, R447, R513) -/

/-- R335, R513: the caches are cleared of one context, or of all; a task-mode thread takes PRIV. -/
def execXltInv (who : Agent) (ctx : BitVec 6) (everything : Bool) (s : State) : Host.Outcome State Fault Refusal :=
  if agentKeeper s who then done (startInv ctx.toNat everything s) else done (refuseRsr who s)

/-- R338, R513: a keeper-mode thread locks a region; a task-mode thread takes PRIV. -/
def execFwlLock (who : Agent) (r : Fin 64) (s : State) : Host.Outcome State Fault Refusal :=
  if agentKeeper s who then done (writeRegion r.val (fun q => { q with lock := true }) s) else done (refuseRsr who s)

/-- R449, R447: a 32-bit read of a counter's low word; of a global counter a task-mode thread takes PRIV. -/
def execCtrReadLow (who : Agent) (ctr : CounterName) (s : State) : Host.Outcome State Fault Refusal :=
  if mayReadCounter s who ctr then
    let r := ctrReadLow (agentId who) ctr s
    done { r.2 with tap := { r.2.tap with readValue := r.1 } }
  else done (refuseRsr who s)

/-- R449, R447: a 32-bit read of a counter's high word; of a global counter a task-mode thread takes PRIV. -/
def execCtrReadHigh (who : Agent) (ctr : CounterName) (s : State) : Host.Outcome State Fault Refusal :=
  if mayReadCounter s who ctr then
    let r := ctrReadHigh (agentId who) ctr s
    done { r.2 with tap := { r.2.tap with readValue := r.1 } }
  else done (refuseRsr who s)

end Sys2Proof.Machine
end

