-- ==== Sys2Proof/Machine/Rotate.lean ====
section
/-! DEFINITION. The rotation of tests and what it finds (19_periodic_tests_and_unit_failure.md): starts, scores, forced
handovers and stale units (R391 to R396, R401, R402), the rows of R407 that the management path finds, and injections
(R408). -/

namespace Sys2Proof.Machine

/-- R392: test length, pacing and the extra time before a handover is forced in tight mode, by class. -/
def testLength (c : Nat) : Nat := nth [144000, 180000, 180000, 288000, 288000, 345600] c 0
def testPacing (c : Nat) : Nat := nth [3144000, 2340000, 3180000, 3168000, 1908000, 384000] c 0
def tightExtra (c : Nat) : Nat := nth [1560000, 780000, 1560000, 1560000, 480000, 0] c 0

/-- R405: the 8 ms of a rotation. -/
def rotationSpan : Nat := 9600000

/-- R394, R410, R411: the rotation runs: it has begun, and the mode is RUN or TRIM. -/
def rotating (s : State) : Bool :=
  s.tst.rotationAt.isSome && !s.sys.inReset && (s.pwr.cur == .run || s.pwr.cur == .trim)

/-- R62, R248: a class, or an array, that the mode runs. -/
def classEnabled (s : State) (c : Nat) : Bool :=
  if s.pwr.cur = .trim ∧ c < 5 then s.pwr.trimNow.venEn.getLsbD c else true
def unitEnabled (s : State) (u : Nat) : Bool :=
  let c := unitClass u
  if s.pwr.cur = .trim ∧ c = 5 then
    match logicalOf s u with
    | some k => decide (k < s.pwr.trimNow.arrays)
    | none => (classAt s 5).unit == some u || decide (0 < failures s 5)
  else classEnabled s c

/-- R391: the unit of a list with the oldest last pass; ties go to the lower unit. -/
def oldestPass (s : State) (us : List Nat) : Option Nat := minBy (fun u => passKey s u * 64 + u) us

/-- R392: the pacing has passed since the class's last test began. -/
def paced (s : State) (c : Nat) : Bool :=
  match (classAt s c).testAt with
  | none => true
  | some t => decide (t + testPacing c ≤ now s)

/-- R246, R261: a tile that has ended in the ECLK of the request is the boundary at which the array is taken. -/
def pauseAtTile (t : Nat) (s : State) : State :=
  match logicalOf s t with
  | some a => updRun a (fun x => if x.tileAt = some (now s) then { x with paused := true } else x) s
  | none => s

/-- R392: a target's logical instance takes no new command from the request; an array goes on to its tile boundary. -/
def requestTarget (c t : Nat) (s : State) : State :=
  let s := updClass c (fun ct => { ct with target := some (t, now s) }) s
  let s := if c = 5 then pauseAtTile t s else s
  let s := match logicalOf s t with
    | some k => if c < 5 || 0 < failures s c then withhold c k true s else s
    | none => s
  roleMoves c (noteTestPhys s)

/-- R392, R401: the next test of a class begins, or its unit is asked for. -/
def startTest (c : Nat) (s : State) : State :=
  let ct := classAt s c
  let held := match ct.unit with
    | some u => if s.tst.failed.contains u then none else some u
    | none => none
  match held with
  | some u => beginTest c u s
  | none =>
    if failures s c = 0 then s
    else
      match oldestPass s ((survivors s c).filter (unitEnabled s)) with
      | none => s
      | some u => if (logicalOf s u).isSome then requestTarget c u s else beginTest c u s

/-- The place of a class in R391. -/
def classIndex : TestClass → Nat
  | .pyramid => 0
  | .warp => 1
  | .feature => 2
  | .flow => 3
  | .stereo => 4
  | .neural => 5

/-- R392, R401: the class's next unit takes the test role. -/
def execTestStart (cls : TestClass) (s : State) : Host.Outcome State Fault Refusal :=
  let c := classIndex cls
  let ct := classAt s c
  if rotating s && classEnabled s c && !ct.running && ct.target.isNone && paced s c then done (startTest c s) else done s

/-- R393, R398, R401: what a pass sets off: the handover of the oldest unit in normal state, else the unit's own
instance takes commands again, or it is bound to an instance that lacks a unit. -/
def afterPass (c u : Nat) (s : State) : State :=
  if failures s c = 0 then
    let bound := (logicals c).filterMap fun k =>
      (boundUnit s c k).filter fun v => v != u && unitEnabled s v
    match oldestPass s bound with
    | some t => requestTarget c t s
    | none => s
  else
    let s := updClass c (fun ct => { ct with unit := none }) s
    let s := match logicalOf s u with
      | some k =>
        let s := withhold c k false s
        if c = 5 then resumeArray k 0 s else s
      | none => s
    noteTestPhys (settleBindings c s)

/-- R396: a test passes when signature, status and cycles are right and no injection corrupted it. -/
def testPassed (cls : TestClass) (res : TestOutcome) (corrupted : Bool) : Bool :=
  !corrupted && res.signature == Config.goldenSignature cls && res.statusOk && res.cyclesOk

/-- R440: the end record of a test; the values of its token are free. -/
def traceTestEnd (u : Nat) (s : State) : State :=
  let a := drawFree s
  let b := drawFree a.2
  traceTest u 1 (leBytes 8 a.1.toNat ++ leBytes 8 b.1.toNat) b.2

/-- R396: the score of an ended test. -/
def scoreTest (cls : TestClass) (u : Nat) (res : TestOutcome) (s : State) : State :=
  let c := classIndex cls
  let s := traceTestEnd u s
  let inj := takeInjection u .signature s
  let f := drawFree inj.2
  let sig : Word32 := if inj.1 then f.1.setWidth 32 else res.signature
  let s := updClass c (fun ct => { ct with running := false, sigLast := sig }) f.2
  if testPassed cls res inj.1 then
    let s := { s with tst := { s.tst with
      lastPass := upd s.tst.lastPass u fun _ => some (now s), stale := s.tst.stale.filter fun v => v != u } }
    afterPass c u s
  else
    let real := !testPassed cls res false
    let s := updClass c (fun ct => { ct with running := true }) s
    unitFailed u 0x0F01 (inj.1 && !real) 0 (detectS1 0x0F01 (unitPairs u s) s)

/-- R396: the Assayer scores the class's test once it has ended. -/
def execTestScore (cls : TestClass) (res : TestOutcome) (s : State) : Host.Outcome State Fault Refusal :=
  let c := classIndex cls
  let ct := classAt s c
  match ct.unit, ct.testAt with
  | some u, some t => if ct.running && decide (t + testLength c ≤ now s) then done (scoreTest cls u res s) else done s
  | _, _ => done s

/-- R392, R401: the ECLK from which a vision class's handover is forced. -/
def forcePoint (s : State) (c : Nat) : Nat :=
  ((classAt s c).testAt.getD 0) + testPacing c + if failures s c = 0 then 0 else tightExtra c

/-- R393: the target still holds a command at the forcing point; arrays are never forced. -/
def execHandoverForced (cls : TestClass) (s : State) : Host.Outcome State Fault Refusal :=
  let c := classIndex cls
  match (classAt s c).target with
  | none => done s
  | some (t, _) =>
    match (logicalOf s t).bind fun k => (nth s.ven.insts k {}).cmd with
    | none => done s
    | some q =>
      if c = 5 || q.stop.isSome || decide (now s < forcePoint s c) then done s
      else done (abortPour 0x0F04 q.pour (raise 0x0F04 s))

/-- R394: the ECLK from which a unit's 8 ms run: its last pass, or the rotation's begin. -/
def staleFrom (s : State) (u : Nat) : Nat := (nth s.tst.lastPass u none).getD (s.tst.rotationAt.getD 0)

/-- R394: a surviving unit without a pass for 8 ms. -/
def execTestStale (u : Fin 35) (s : State) : Host.Outcome State Fault Refusal :=
  if !rotating s || !unitEnabled s u.val || s.tst.failed.contains u.val || s.tst.stale.contains u.val ||
      decide (now s < staleFrom s u.val + rotationSpan) then done s
  else
    let s := detectS1 0x0F05 (unitPairs u.val s) { s with tst := { s.tst with stale := u.val :: s.tst.stale } }
    match commandPour s u.val with
    | some r => done (invalidatePour r s)
    | none => done s

/-- R405: every surviving unit that runs has passed since an ECLK. -/
def rotationPassed (s : State) (since : Nat) : Bool :=
  (List.range 35).all fun (u : Nat) => s.tst.failed.contains u || !unitEnabled s u ||
    (match nth s.tst.lastPass u none with
      | some t => decide (since ≤ t)
      | none => false)

/-! ### Disagreeing views (R407) -/

/-- R407 row 5: the management state of a busy unit without a token is cleared. -/
def clearBusy (u : Nat) (s : State) : State :=
  match logicalOf s u with
  | none => s
  | some k =>
    let s := ladleRelease (unitId u) s
    if unitClass u = 5 then
      let drop := fun (c : NeuCmd) => { c with arrays := c.arrays.filter fun x => x.array != k }
      { s with neu := { s.neu with
          cmds := s.neu.cmds.map drop,
          arrays := upd s.neu.arrays k fun a => { a with busy := false } } }
    else
      match (nth s.ven.insts k {}).cmd with
      | some c =>
        endNode c.pour c.node 2
          { s with ven := { s.ven with insts := upd s.ven.insts k fun i => { i with cmd := none } } }
      | none => s

/-- The pour and node of the command a unit holds. -/
def commandOf (s : State) (u : Nat) : Option (PourRef × Nat) :=
  match logicalOf s u with
  | none => none
  | some k =>
    if unitClass u = 5 then
      (s.neu.cmds.find? fun c => c.arrays.any fun a => a.array == k).map fun c => (c.pour, c.node)
    else ((nth s.ven.insts k {}).cmd).map fun c => (c.pour, c.node)

/-- R407 row 5: no token by the node's deadline plus 256 ECLK. -/
def execTokenTimeout (u : Fin 35) (s : State) : Host.Outcome State Fault Refusal :=
  match commandOf s u.val with
  | none => done s
  | some (r, n) =>
    match pourAt s r with
    | none => done s
    | some q =>
      if now s < absDeadline (active s) q n + 256 then done s
      else
        let s := unitFailed u.val 0x0F07 false 5 (viewConflict u.val s)
        done (roleMoves (unitClass u.val) (clearBusy u.val s))

/-- R407 row 2: the sideband says fault while the tokens say OK. -/
def execHealthSidebandFault (u : Fin 35) (s : State) : Host.Outcome State Fault Refusal :=
  if s.tst.failed.contains u.val || s.sys.inReset then done s
  else done (unitFailed u.val 0x0F07 false 2 (viewConflict u.val s))

/-! ### Injections (R408) -/

/-- R408: a keeper-mode thread's injection waits for the unit. -/
def injectTest (u : Nat) (k : Injection) (s : State) : State :=
  raise 0x0F08 { s with tst := { s.tst with inject := (u, k) :: s.tst.inject.filter fun q => q != (u, k) } }

/-- R408 op 1. -/
def execTstInjectSignature (who : Agent) (u : Fin 35) (s : State) : Host.Outcome State Fault Refusal :=
  if agentKeeper s who then done (injectTest u.val .signature s) else done s

/-- R408 op 2. -/
def execTstInjectParity (who : Agent) (u : Fin 35) (s : State) : Host.Outcome State Fault Refusal :=
  if agentKeeper s who then done (injectTest u.val .parity s) else done s

/-- R408 op 3. -/
def execTstInjectView (who : Agent) (u : Fin 35) (s : State) : Host.Outcome State Fault Refusal :=
  if agentKeeper s who then done (injectTest u.val .view s) else done s

end Sys2Proof.Machine
end

