-- ==== Sys2Proof/Machine/Assayer.lean ====
section
/-! DEFINITION. The Assayer (18_assayer_and_age.md): lockstep and heartbeat (R368 to R370), the Witness (R375, R376), the
judgement of a pour (R378, R379), batches and their release (R379, R382, R469), missing records (R381), the exit from S1
(R35) and the counting of S2 entries (R36). -/

namespace Sys2Proof.Machine

/-- The Assayer firmware runs (R390) and its domain is clocked (R61). -/
def assayerRuns (s : State) : Bool :=
  !s.sys.inReset && assayerStarted s && s.pwr.cur != .hold && s.pwr.cur != .off

/-! ### Lockstep and heartbeat -/

/-- R368: a mismatch between cores A and B. -/
def execAsyLockstep (s : State) : Host.Outcome State Fault Refusal :=
  if assayerRuns s then done (detectS2 0x0E01 s) else done s

/-- R369: a burst that every check passed. -/
def passBurst (s : State) : State :=
  { s with asy := { s.asy with
      beat := BitVec.ofNat 3 s.asy.beats.toNat, beats := s.asy.beats + 1, lastBurst := s.clock.watch } }

/-- R369: a heartbeat burst, every 1 ms; the first may come sooner. -/
def execHeartbeatBurst (report : BurstReport) (s : State) : Host.Outcome State Fault Refusal :=
  if !assayerRuns s || decide (s.asy.beats ≠ 0 ∧ s.clock.watch < s.asy.lastBurst + Config.oneMs) then done s
  else
    match report with
    | .exact => done (passBurst s)
    | .wrong => done (detectS2 0x0E02 s)

/-- R369, R511: no burst within 1.2 ms, as the watch oscillator times them, of the last, or of the firmware's start. -/
def execHeartbeatMissed (s : State) : Host.Outcome State Fault Refusal :=
  let last := s.asy.lastBurst
  if assayerRuns s && decide (last + Config.watchSpan 1440000 last ≤ s.clock.watch) then done (detectS2 0x0E02 s) else done s

/-! ### The Witness (R375, R376) -/

/-- The pattern a pour ran under. -/
def patternOf (s : State) (q : Pour) : Pattern := if q.old then s.asy.oldPattern.getD (active s) else active s

/-- A pour in flight, or one that waits for its judgement. -/
def anyPour (s : State) (r : PourRef) : Option Pour :=
  (pourAt s r).or (s.asy.handed.find? fun q => q.ref == r)

/-- R375: the luma plane of the ISP node of a side. -/
def lumaPlane (p : Pattern) (slot side : Nat) : Option PlaneDesc :=
  ((p.nodes.filter fun n => n.cls == 0 && n.slot == slot).map (ispCfgOf p)).findSome? fun c =>
    if c.side = side then
      some { cls := 0, node := c.node, base := c.luma.1, halves := 2, halfSize := lumaHalf c.lumaFmt c.w c.h, off := 0,
             stride := c.w * lumaBytes c.lumaFmt, w := c.w, h := c.h, bpp := lumaBytes c.lumaFmt }
    else none

/-- A Witness image: its rows, width and height. -/
structure WitnessImage where
  rows : List (List Nat)
  w : Nat
  h : Nat

/-- A sample of a Witness image; beyond its edge the spec states none (Config.witnessOutside). -/
def WitnessImage.at (m : WitnessImage) (x y : Int) : Nat :=
  if 0 ≤ x ∧ x < m.w ∧ 0 ≤ y ∧ y < m.h then nth (nth m.rows y.toNat []) x.toNat 0 else Config.witnessOutside x y

/-- R375 step 1: the 4 × 4 box mean at U8 scale, rounded half up. -/
def boxMean (s : State) (d : PlaneDesc) (half x y : Nat) : Nat :=
  let vs := (List.range 16).map fun (i : Nat) =>
    u8Scale d.bpp (planePix s d half ((4 * x + i % 4 : Nat) : Int) ((4 * y + i / 4 : Nat) : Int))
  (2 * sumNat vs + 16) / 32

/-- R375 step 1: the Witness image of a plane. -/
def witnessImage (s : State) (d : PlaneDesc) (half : Nat) : WitnessImage :=
  let w := d.w / 4
  let h := d.h / 4
  { rows := (List.range h).map fun (y : Nat) => (List.range w).map fun (x : Nat) => boxMean s d half x y, w := w, h := h }

/-- R375 step 2: an entry of a rectification grid in DATA. -/
def gridData (p : Pattern) (off gw i j : Nat) : Int × Int :=
  let a := off + (j * gw + i) * 8
  (signedOf 32 (leAt p.data a 4), signedOf 32 (leAt p.data (a + 4) 4))

/-- R375 step 2: where an output pixel samples: its interpolated grid position, to the nearest pixel. -/
def rectSource (p : Pattern) (off g w x y : Nat) : Int × Int :=
  let k := 2 ^ g
  let gw := ceilDiv w k + 1
  let e := gridData p off gw
  let i := x / k
  let j := y / k
  let ox : Int := (x % k : Nat)
  let oy : Int := (y % k : Nat)
  let lerp := fun (f : Int × Int → Int) =>
    bilerp k ox oy (f (e i j)) (f (e (i + 1) j)) (f (e i (j + 1))) (f (e (i + 1) (j + 1)))
  ((lerp Prod.fst + 128) / 256, (lerp Prod.snd + 128) / 256)

/-- R375 step 2: the rectified image. -/
def rectify (p : Pattern) (off g : Nat) (m : WitnessImage) : WitnessImage :=
  let sample := fun (x y : Nat) =>
    let q := rectSource p off g m.w x y
    m.at q.1 q.2
  { m with rows := (List.range m.h).map fun (y : Nat) => (List.range m.w).map fun (x : Nat) => sample x y }

/-- R375 step 3: the SAD over 5 × 5 of left (x, y) against right (x - d, y). -/
def sad5 (l r : WitnessImage) (x y d : Int) : Nat :=
  let o : List Int := [-2, -1, 0, 1, 2]
  sumNat (o.flatMap fun dy => o.map fun dx =>
    let a := l.at (x + dx) (y + dy)
    let b := r.at (x + dx - d) (y + dy)
    max a b - min a b)

/-- R375 step 3: the winner of a search in 1/4 pixel: the smallest disparity of least cost, refined as R203 states. -/
def quarterBest (lo hi : Nat) (cost : Int → Nat) : Int :=
  let ds := intRange lo hi
  let b := (minBy (fun d => cost d * 256 + d.toNat) ds).getD 0
  let den := (cost (b - 1) : Int) - 2 * cost b + cost (b + 1)
  if b = lo ∨ b = hi ∨ den ≤ 0 then 4 * b
  else 4 * b + max (-2) (min 2 (roundHalfUp (4 * ((cost (b - 1) : Int) - cost (b + 1))) (2 * den)))

/-- R375 steps 3 and 4: an occupied pixel's disparity in 1/4 pixel. -/
def occupiedAt (l r : WitnessImage) (lo hi : Nat) (x y : Int) : Option Int :=
  let dq := quarterBest lo hi (sad5 l r x y)
  let xr := x - (dq + 2) / 4
  if xr < 0 ∨ (l.w : Int) ≤ xr then none
  else
    let dr := quarterBest lo hi fun d => sad5 l r (xr + d) y d
    if (dq - dr).natAbs ≤ 4 ∧ 4 ≤ dq then some dq else none

/-- R376: the median of a window's occupied pixels, the lower middle of an even count. -/
def lowMedian (vs : List Int) : Option Int :=
  let l := sortBy (fun v => v.toNat) vs
  l[(l.length - 1) / 2]?

/-- R376: d_w of a zone: the largest value of a window that holds min_pix occupied pixels. -/
def zoneDisparity (l r : WitnessImage) (z : WitnessRec) (minPix : Nat) : Option Int :=
  let occ := fun (x y : Nat) => occupiedAt l r z.dispMin z.dispMax x y
  let vals := (List.range (z.y1 - z.y0 - 3)).flatMap fun (j : Nat) => (List.range (z.x1 - z.x0 - 3)).filterMap fun (i : Nat) =>
    let vs := (List.range 16).filterMap fun (k : Nat) => occ (z.x0 + i + k % 4) (z.y0 + j + k / 4)
    if minPix ≤ vs.length then lowMedian vs else none
  vals.foldl (fun (b : Option Int) v => some (match b with
    | some m => max m v
    | none => v)) none

/-- R371: the parameter block of the slot's record emit node. -/
def emitBlock (p : Pattern) (slot : Nat) : List Byte :=
  match p.nodes.find? fun n => n.cls == 10 && n.slot == slot with
  | some n => paramOf p n
  | none => []

/-- R130: the WITNESS records of a pair. -/
def zonesOf (p : Pattern) (pair : Nat) : List WitnessRec := p.witness.filter fun w => w.pairId == pair

/-- R376: the Witness distance of each zone; none for an empty zone. -/
def witnessDistances (s : State) (p : Pattern) (q : Pour) (pair : Nat) : List (Option Int) :=
  let b := emitBlock p q.ref.slot
  let g := leAt b 0x44 1
  let off := leAt b 0x40 4
  let len := match graphOf p q.ref.slot with
    | some gr => witnessGridLen gr g
    | none => 0
  match lumaPlane p q.ref.slot 0, lumaPlane p q.ref.slot 1 with
  | some dl, some dr =>
    let l := rectify p off g (witnessImage s dl (halfRead p q dl))
    let r := rectify p (off + len) g (witnessImage s dr (halfRead p q dr))
    ((zonesOf p pair).zipIdx).map fun (z : WitnessRec × Nat) =>
      (zoneDisparity l r z.1 (leAt b 0x45 1)).map fun dw =>
        max 0 ((leAt b (0x48 + 4 * z.2) 4 : Int) - (4 * leAt b 0x28 4 : Nat) / dw)
  | _, _ => (zonesOf p pair).map fun _ => none

/-- The exposure origin of a pour's records (R374): fixed at its pair trigger, else the provisional one. -/
def originOf (p : Pattern) (q : Pour) : Nat := q.fixedOrigin.getD (q.fsOpen - expMaxOf p q.ref.slot)

/-- The pour_seq before one. -/
def seqBefore (seq : Nat) : Nat := (seq + 2 ^ 32 - 1) % 2 ^ 32

/-- R376: the Witness speed, where both zones are occupied. -/
def witnessSpeed (prev : Option WitnessView) (origin i : Nat) (d : Option Int) : Option Int :=
  match prev, d with
  | some v, some wd =>
    let dt : Int := (origin : Int) - v.origin
    (match (nth v.zones i {}).dist with
      | some wp => if 0 < dt then some (truncDiv ((wp - wd) * 1200000000) dt) else none
      | none => none)
  | _, _ => none

/-- R376: the Witness result of a pour. -/
def witnessView (s : State) (p : Pattern) (q : Pour) (pair : Nat) : WitnessView :=
  let before : PourRef := { slot := q.ref.slot, seq := seqBefore q.ref.seq }
  let prev := s.asy.witness.find? fun v => v.ref == before
  let o := originOf p q
  { ref := q.ref, origin := o,
    zones := ((witnessDistances s p q pair).zipIdx).map fun (z : Option Int × Nat) =>
      { dist := z.1, speed := witnessSpeed prev o z.2 z.1 } }

/-- R375 to R377: the Witness result of a pour whose bands are complete; R389: an uncorrectable error in its buffers enters
S2. -/
def execWitnessResult (slot : Fin 8) (seq : Word32) (ecc : Ecc) (s : State) : Host.Outcome State Fault Refusal :=
  let r : PourRef := { slot := slot.val, seq := seq.toNat }
  match anyPour s r with
  | none => done s
  | some q =>
    let p := patternOf s q
    match graphOf p r.slot with
    | none => done s
    | some g =>
      let camera := decide (g.triggerKind = 0)
      if !assayerRuns s || g.pairId = 0xFF || (camera && !q.pairDone) || s.asy.witness.any (fun v => v.ref == r) then done s
      else if ecc = .uncorrectable then done (detectS2 0x0E03 s)
      else
        let s := noteEcc ecc s
        done { s with asy := { s.asy with witness := (witnessView s p q g.pairId :: s.asy.witness).take 64 } }

/-! ### Judging (R378, R379) -/

/-- R371: the thresholds of a record emit block. -/
structure Limits where
  distMin : Int
  distMax : Int
  speedMax : Int
  distJump : Int
  speedJump : Int

def limitsOf (b : List Byte) : Limits :=
  let v := fun (o : Nat) => signedOf 32 (leAt b o 4)
  { distMin := v 0x2C, distMax := v 0x30, speedMax := v 0x34, distJump := v 0x38, speedJump := v 0x3C }

/-- A candidate's distance and speed as signed values. -/
def distOf (r : SepRecord) : Int := signedOf 32 r.dist.toNat
def speedOf (r : SepRecord) : Int := signedOf 32 r.speed.toNat

/-- R373: the zone is clear. -/
def isClear (r : SepRecord) : Bool := r.dist == clearDist && r.speed == 0

/-- R378 check 1. -/
def identityOk (bs : List Byte) (c : SepRecord) (z : WitnessRec) (pair origin : Nat) : Bool :=
  recordCrcOk bs && c.zoneId.toNat == z.zoneId && c.pairId.toNat == pair && c.origin == origin

/-- R378 check 2. -/
def rangeOk (l : Limits) (c : SepRecord) : Bool :=
  (isClear c || decide (l.distMin ≤ distOf c ∧ distOf c ≤ l.distMax)) && decide (((speedOf c).natAbs : Int) ≤ l.speedMax)

/-- R378 check 4: none when it cannot be made. -/
def continuityOk (l : Limits) (c : SepRecord) (h : Option ZoneHist) (seq origin : Nat) : Option Bool :=
  match h with
  | some h =>
    if h.seq = seqBefore seq ∧ h.dist ≠ 0x7FFFFFFF then
      let pred := h.dist - truncDiv (h.speed * ((origin : Int) - h.origin)) 1200000000
      some (decide (((distOf c - pred).natAbs : Int) ≤ l.distJump ∧ ((speedOf c - h.speed).natAbs : Int) ≤ l.speedJump))
    else none
  | none => none

/-- R378 check 5: whether it holds, and whether its speed part could be made. -/
def witnessOk (z : WitnessRec) (c : SepRecord) (w : ZoneView) : Bool × Bool :=
  match isClear c, w.dist with
  | true, d => (d.isNone, true)
  | false, none => (false, true)
  | false, some wd =>
    if (z.distTol : Int) < (distOf c - wd).natAbs then (false, true)
    else
      match w.speed with
      | some wv => (decide (((speedOf c - wv).natAbs : Int) ≤ z.speedTol), true)
      | none => (true, false)

/-- R378: the first failing check of a candidate, 0 to 4, and how many checks could not be made. -/
def judgeOne (bs : List Byte) (z : WitnessRec) (l : Limits) (pair origin seq : Nat) (h : Option ZoneHist) (w : ZoneView) :
    Option Nat × Nat :=
  let c := SepRecord.parse bs
  if !identityOk bs c z pair origin then (some 0, 0)
  else if !rangeOk l c then (some 1, 0)
  else if c.conf.toNat < z.minConf then (some 2, 0)
  else
    let k := if isClear c then some true else continuityOk l c h seq origin
    let un := if k.isNone then 1 else 0
    if k = some false then (some 3, un)
    else
      let v := witnessOk z c w
      if !v.1 then (some 4, un) else (none, un + if v.2 then 0 else 1)

/-- R373: where candidate i of a pour lies. -/
def candidateAt (p : Pattern) (r : PourRef) (zones i : Nat) : Nat :=
  let b := emitBlock p r.slot
  ((bufPlace p (leAt b 0x20 2)).getD (0, 0)).1 + (r.seq % 2) * 64 * zones + 64 * i

/-- R376: a zone as a pour is judged: it has a speed only where the pour before has retired without abort. -/
def judgedView (s : State) (r : PourRef) (w : ZoneView) : ZoneView :=
  if s.asy.retired.contains { slot := r.slot, seq := seqBefore r.seq } then w else { w with speed := none }

/-- R378, R379: the candidates in order up to the first failure: its place and check, and the checks not made. -/
def judgeAll (s : State) (p : Pattern) (r : PourRef) (pair origin : Nat) (zs : List WitnessRec) (v : WitnessView) :
    Option (Nat × Nat) × Nat :=
  let l := limitsOf (emitBlock p r.slot)
  (zs.zipIdx).foldl (fun (acc : Option (Nat × Nat) × Nat) (z : WitnessRec × Nat) =>
    if acc.1.isSome then acc
    else
      let h := s.asy.history.find? fun h => h.pair == pair && h.zone == z.2
      let q := judgeOne (physRead s (candidateAt p r zs.length z.2) 64) z.1 l pair origin r.seq h (judgedView s r (nth v.zones z.2 {}))
      (q.1.map fun k => (z.2, k), acc.2 + q.2)) (none, 0)

/-- R378: the event of a failing check; check 3 enters no safe state. -/
def checkEvent (k : Nat) (pairs : BitVec 4) (s : State) : State :=
  match k with
  | 0 => detectS1 0x0E13 pairs s
  | 1 => detectS1 0x0E11 pairs s
  | 2 => raise 0x0E14 s
  | 3 => detectS1 0x0E12 pairs s
  | _ => detectS1 0x0E10 pairs s

/-- R379: the notices of a pour that failed: the failing zone carries its check's status. -/
def failNotices (a : Announce) (i k : Nat) (s : State) : State :=
  (a.zoneIds.zipIdx).foldl (fun s (z : BitVec 16 × Nat) =>
    let st : Byte := if z.2 = i then (if k = 4 then stWitness else stCheckFail) else 0
    pushNotice (noticeRecord z.1 a.pair a.origin (now s) a.ref.seq st) s) s

/-- R378: a failure counted in ASY_CNT. -/
def countCheck (k n : Nat) (s : State) : State :=
  { s with asy := { s.asy with counts := upd s.asy.counts k fun c => satAdd 32 c n } }

/-- R381: a pour's records are judged. -/
def settleAnnounce (r : PourRef) (s : State) : State :=
  { s with asy := { s.asy with
      announced := updFirst (fun a => a.ref == r) (fun a => { a with settled := true }) s.asy.announced,
      handed := s.asy.handed.filter fun q => q.ref != r } }

/-- R171, R218, R379: the records of a pour that passed, their release stamp and status still to come; REFINE_SKIPPED is set in
each where the pour's status word holds it. -/
def candidateRecords (s : State) (p : Pattern) (r : PourRef) (zones : Nat) (skipped : Bool) : List SepRecord :=
  (List.range zones).map fun (i : Nat) =>
    let c := SepRecord.parse (physRead s (candidateAt p r zones i) 64)
    { c with status := if skipped then stRefineSkipped else c.status &&& stRefineSkipped, seq := BitVec.ofNat 32 r.seq }

/-- R378, R379: a pour is judged. -/
def judgePour (q : Pour) (a : Announce) (v : WitnessView) (s : State) : State :=
  let p := patternOf s q
  let zs := zonesOf p a.pair
  let o := originOf p q
  let j := judgeAll s p q.ref a.pair o zs v
  let us := (pourAt s q.ref).getD q
  let recs := candidateRecords s p q.ref zs.length (q.refineSkipped || us.refineSkipped)
  let s := { s with asy := { s.asy with
    unchecked := satAdd 32 s.asy.unchecked j.2, origins := upd s.asy.origins a.pair fun _ => o } }
  let s := settleAnnounce q.ref s
  match j.1 with
  | some (i, k) => failNotices a i k (checkEvent k (pairBits [a.pair]) (countCheck k 1 s))
  | none =>
    { s with asy := { s.asy with batches := s.asy.batches ++
        [{ ref := q.ref, pair := a.pair, origin := o, waitSince := now s, ceiling := a.ceiling, records := recs,
           units := us.units, remoteUnits := us.remoteUnits, pipes := us.frames.map Prod.fst }] } }

/-- R378: the Assayer judges a pour that was handed to it, with the Witness result in hand; R389: an uncorrectable error in
its SRAM or in the ledger enters S2. -/
def execAsyJudgePour (slot : Fin 8) (seq : Word32) (ecc : Ecc) (s : State) : Host.Outcome State Fault Refusal :=
  let r : PourRef := { slot := slot.val, seq := seq.toNat }
  match s.asy.handed.find? (fun q => q.ref == r), s.asy.announced.find? (fun a => a.ref == r),
      s.asy.witness.find? (fun v => v.ref == r) with
  | some q, some a, some v =>
    if !assayerRuns s || a.settled then done s
    else if ecc = .uncorrectable then done (detectS2 0x0E03 s)
    else done (judgePour q a v (noteEcc ecc s))
  | _, _, _ => done s

/-! ### Release (R379, R380, R382, R469) -/

/-- R469: each queue has zones + 256 free entries. -/
def roomFor (s : State) (zones : Nat) : Bool :=
  decide (s.sfp.chA.queue.length + zones + 256 ≤ 1024 ∧ s.sfp.chB.queue.length + zones + 256 ≤ 1024)

/-- R432, R428: a record-contributing node, buffer or exchange of the active pattern uses the link to a chip. A node of a
flask graph contributes to the owner's record. -/
def recordUses (p : Pattern) (chip : Nat) : Bool :=
  let cs := contributing p
  p.hdr.safetyCfg != 1 &&
    ((p.edges.any fun e => (cs.contains e.src || cs.contains e.dst) && (match bufOf p e.buffer with
        | some b => b.location == 2 && b.peerChip == chip
        | none => false)) ||
      (!(splitNodes p).isEmpty && decide (chip < p.hdr.flaskSize)))

/-- R432: a link that a record needs is down. -/
def recordLinkDown (s : State) : Bool :=
  (peersOf (active s) s).any fun c =>
    recordUses (active s) c && !(nth s.lnk.links (linkTo (chipIndex s) c) {}).trained

/-- R35, R432: no detection for 8 ms, a passing rotation of every class in that time, and no link down that a record
needs. -/
def s1MayEnd (s : State) : Bool :=
  !recordLinkDown s && s.asy.state == .s1 && decide (s.asy.lastDetection + rotationSpan ≤ now s) && rotationPassed s (now s - rotationSpan)

/-- R378 check 4: the released records become the zones' history. -/
def recordHistory (b : Batch) (s : State) : State :=
  let new := (b.records.zipIdx).map fun (r : SepRecord × Nat) =>
    ({ pair := b.pair, zone := r.2, seq := b.ref.seq, dist := distOf r.1, speed := speedOf r.1, origin := b.origin } : ZoneHist)
  { s with asy := { s.asy with history := new ++ s.asy.history.filter fun h => h.pair != b.pair } }

/-- R382: the released pour enters the ledger. -/
def ledgerBatch (b : Batch) (s : State) : State :=
  let e : LedgerEntry :=
    { ref := b.ref, pair := b.pair, origin := b.origin, release := now s, units := b.units.map Prod.fst,
      remoteUnits := b.remoteUnits, pipes := b.pipes, zoneIds := b.records.map SepRecord.zoneId }
  pruneLedger { s with asy := { s.asy with ledger := e :: s.asy.ledger } }

/-- R379, R380, R472, R105: a batch within its age is released; a record without DEGRADED makes S1 ready to end. R68: past
the drain point of a transition into WATCH, HOLD or OFF a release counts toward no line. -/
def releaseBatch (b : Batch) (s : State) : State :=
  let ends := s1MayEnd s && releaseCounts s
  let degraded := s.asy.state == .s1 && !ends
  let st : Byte := if degraded then stValid ||| stDegraded else stValid
  let recs := b.records.map fun r => { r with status := r.status ||| st, release := now s }
  let s := recordHistory b (ledgerBatch b (pushRecords recs s))
  let s := { s with sys := { s.sys with phase := if s.sys.phase = 1 then 3 else s.sys.phase } }
  let s := { s with asy := { s.asy with
    ageMax := max s.asy.ageMax (min (now s - b.origin) (2 ^ 32 - 1)), exitReady := s.asy.exitReady || ends } }
  if s.asy.state == .normal && releaseCounts s then
    { s with sfp := { s.sfp with chA := { s.sfp.chA with released := true }, chB := { s.sfp.chB with released := true } } }
  else s

/-- R378 check 6: a batch beyond the age ceiling becomes invalid. -/
def lateBatch (b : Batch) (s : State) : State :=
  let s := countCheck 5 b.records.length s
  let s := detectS1 0x0E20 (pairBits [b.pair]) s
  b.records.foldl (fun s r => pushNotice (noticeRecord r.zoneId b.pair b.origin (now s) b.ref.seq stAgeLate) s) s

/-- R61, R63: records are released in RUN and TRIM only. -/
def releasesRecords (s : State) : Bool :=
  assayerRuns s && s.asy.state != .s2 && (s.pwr.cur == .run || s.pwr.cur == .trim)

/-- R379, R469: the first batch enters both queues once they have room. -/
def execBatchRelease (s : State) : Host.Outcome State Fault Refusal :=
  match s.asy.batches with
  | [] => done s
  | b :: bs =>
    if !releasesRecords s || !roomFor s b.records.length then done s
    else
      let s := { s with asy := { s.asy with batches := bs } }
      done (driveLines (if b.origin + b.ceiling < now s then lateBatch b s else releaseBatch b s))

/-- R469: a batch has waited 1 ms for room. -/
def execQueueStall (s : State) : Host.Outcome State Fault Refusal :=
  match s.asy.batches.find? fun b => !b.stalled && !roomFor s b.records.length && decide (b.waitSince + Config.oneMs ≤ now s) with
  | none => done s
  | some b =>
    let bs := updFirst (fun c => c.ref == b.ref) (fun c => { c with stalled := true }) s.asy.batches
    let s := { s with asy := { s.asy with batches := bs } }
    done (driveLines (detectS1 0x1213 (pairBits [b.pair]) s))

/-! ### Missing records (R381) -/

/-- R381: a pour is declared missing. -/
def declareMissing (a : Announce) (s : State) : State :=
  let s := { s with asy := { s.asy with
    announced := updFirst (fun b => b.ref == a.ref) (fun b => { b with settled := true, missing := true }) s.asy.announced,
    handed := s.asy.handed.filter (fun q => q.ref != a.ref), missCnt := satAdd 32 s.asy.missCnt 1 } }
  noticesOf a stAgeLate (detectS1 0x0E21 (pairBits [a.pair]) s)

/-- Announcements that no later happening can name. -/
def pruneAnnounced (s : State) : State :=
  { s with asy := { s.asy with announced := s.asy.announced.filter fun a =>
      !a.settled || (s.fgs.pours.any fun q => q.ref == a.ref) || (s.asy.batches.any fun b => b.ref == a.ref) } }

/-- R381: the 1 ms tick. -/
def execAgeTick (s : State) : Host.Outcome State Fault Refusal :=
  if !assayerRuns s || now s % Config.oneMs != 0 then done s
  else
    let due := s.asy.announced.filter fun a => !a.settled && !a.zoneIds.isEmpty && decide (a.origin + a.ceiling ≤ now s)
    done (pruneAnnounced (due.foldl (fun s a => declareMissing a s) s))

/-! ### Leaving S1, counting S2 (R35, R36) -/

/-- R35, R384, R464, R472: S1 ends with the release without DEGRADED. -/
def execS1Exit (s : State) : Host.Outcome State Fault Refusal :=
  if s.asy.state == .s1 && s.asy.exitReady && releaseCounts s then
    let s := { s with
      asy := { s.asy with state := .normal, exitReady := false },
      sfp := { s.sfp with faultPairs := 0, chA := { s.sfp.chA with released := true },
                          chB := { s.sfp.chB with released := true } } }
    done (driveLines (raise 0x0E32 s))
  else done s

/-- R36: the device is held by its third S2 entry, and logs it in the retained event store, once. -/
def execS2Repeat (s : State) : Host.Outcome State Fault Refusal :=
  if !s.ret.s2Held || s.ret.s2Logged then done s
  else done (driveLines (raise 0x0E30 { s with ret := { s.ret with s2Logged := true, events := 0x0E30 :: s.ret.events } }))

/-- R36: an entry of 60 minutes no longer counts, unless the device is held. -/
def execS2CountExpire (s : State) : Host.Outcome State Fault Refusal :=
  if s.ret.s2Held then done s else done { s with ret := { s.ret with s2Times := s2Counting s } }

end Sys2Proof.Machine
end

