-- ==== Sys2Proof/Machine/Link.lean ====
section
/-! DEFINITION. The flask (20_flask.md): training and time alignment of the links (R412 to R414, R424 to R426, R434), peer
status (R427), loss of links and lane groups (R416, R432, R433), remote sets and exchange lines (R419 to R421), aborts,
coordinated swaps and failed units of other chips (R429 to R431, R435). -/

namespace Sys2Proof.Machine

/-- A link of this chip. -/
def linkAt (s : State) (l : Nat) : Link := nth s.lnk.links l {}

/-- A link changed. -/
def updLink (l : Nat) (f : Link → Link) (s : State) : State := { s with lnk := { s.lnk with links := upd s.lnk.links l f } }

/-- The chip at the far end of a link. -/
def farChip (s : State) (l : Nat) : Nat := linkPeer (chipIndex s) l

/-- The chip is in a start sequence (R105, R424). -/
def starting (s : State) : Bool := s.sys.phase == 0

/-- The links that are trained. -/
def trainedLinks (s : State) : List Nat := (List.range 3).filter fun l => (linkAt s l).trained

/-- R424: the reference chip. -/
def referenceChip (s : State) : Nat :=
  let peers := (trainedLinks s).filter fun l => !(linkAt s l).peerStarting
  let own := if starting s || (trainedLinks s).isEmpty then [] else [chipIndex s]
  (minBy id (own ++ peers.map (farChip s))).getD 0

/-- LNK_ID.ref follows. -/
def noteReference (s : State) : State := { s with lnk := { s.lnk with ref := BitVec.ofNat 2 (referenceChip s) } }

/-- R79, R61: the lane groups 0 of trained links belong to the standing grant of RUN and TRIM. -/
def standLinks (k : Int) (s : State) : State :=
  if s.pwr.cur = .run ∨ s.pwr.cur = .trim then
    noteWindow { s with ldl := { s.ldl with standing := ((s.ldl.standing : Int) + 6 * k).toNat } }
  else s

/-! ### Time alignment (R424 to R426) -/

/-- Rounding of a / b to the nearest integer, ties to even. -/
def roundEven (a : Int) (b : Nat) : Int :=
  let q := a / (b : Int)
  let r := a % (b : Int)
  if 2 * r < (b : Int) then q
  else if (b : Int) < 2 * r then q + 1
  else if q % 2 = 0 then q else q + 1

/-- An ECLK stamp after the time-stamp counter, at so many ECLK, has been stepped back by d of them: the counter and all
stamps wrap when the step leads below 0; else a stamp from before the counter's beginning is at the beginning. -/
def stepTime (tsc : Nat) (d : Int) (t : Nat) : Nat :=
  if (tsc : Int) < d then (((t : Int) - d) % ((2 ^ 64 : Nat) : Int)).toNat else ((t : Int) - d).toNat % 2 ^ 64

/-- R425: the time-stamp counter is stepped; what has been stamped or awaits a time before the first pour keeps its
distance to it. -/
def stepClock (d : Int) (s : State) : State :=
  let f := stepTime s.clock.tsc d
  let grant := fun (g : Grant) =>
    { g with grantedAt := f g.grantedAt, rampEnd := f g.rampEnd, relAt := g.relAt.map f }
  let request := fun (r : Request) => { r with madeAt := f r.madeAt }
  let load := fun (l : TestLoad) => match l.phase with
    | .drawing t => { l with phase := .drawing (f t) }
    | .stopping t => { l with phase := .stopping (f t) }
    | _ => l
  let test := fun (c : ClassTest) => { c with testAt := c.testAt.map f, target := c.target.map fun q => (q.1, f q.2) }
  let entry := fun (e : FailEntry) => { e with stamp := f e.stamp }
  let link := fun (k : Link) => { k with failedAt := f k.failedAt, trainFrom := f k.trainFrom, lostAt := k.lostAt.map f }
  let chan := fun (c : DmaCh) => { c with pollAt := f c.pollAt }
  let path := fun (d : Datapath) => { d with beganAt := f d.beganAt }
  let source := fun (c : SrcCtr) => { c with beganAt := c.beganAt.map f }
  let resv := fun (r : Reservation) => { r with madeAt := f r.madeAt }
  let fail := fun (q : FailedCond) => { q with failedAt := f q.failedAt }
  let hold := fun (h : Hold) => { h with startedAt := f h.startedAt }
  let thread := fun (t : Thread) => { t with nextAt := f t.nextAt }
  let task := fun (t : Task) =>
    { t with readyAt := f t.readyAt, waitFrom := f t.waitFrom, deliveredAt := f t.deliveredAt }
  let inst := fun (i : VenInst) => { i with bindUntil := f i.bindUntil }
  let array := fun (a : ArrayL) => { a with bindUntil := f a.bindUntil }
  let slot := fun (g : GraphSlot) => { g with timerAt := f g.timerAt }
  let cam := fun (c : Camera) =>
    { c with lastPass := f c.lastPass, lastPacket := f c.lastPacket, lastFs := c.lastFs.map f, testAt := c.testAt.map f }
  let chanAB := fun (c : SafetyCh) => { c with lastConsumed := f c.lastConsumed }
  { s with
    clock := { s.clock with tsc := f s.clock.tsc }
    sys := { s.sys with fetchWait := s.sys.fetchWait.map f, fetchEnded := s.sys.fetchEnded.map f, step9At := f s.sys.step9At }
    idn := { s.idn with fuseOps := s.idn.fuseOps.map fun q => (q.1, f q.2),
                        att := s.idn.att.map fun j => { j with startedAt := f j.startedAt } }
    ldl := { s.ldl with grants := s.ldl.grants.map grant, queue := s.ldl.queue.map request, loads := s.ldl.loads.map load,
                        lastGrant := s.ldl.lastGrant.map f, lastRampEnd := f s.ldl.lastRampEnd, windowAt := none }
    dma := { s.dma with chs := s.dma.chs.map chan, paths := s.dma.paths.map path }
    tap := { s.tap with srcs := s.tap.srcs.map source }
    rsr := { s.rsr with resvs := s.rsr.resvs.map resv, fails := s.rsr.fails.map fail, holds := s.rsr.holds.map hold,
                        threads := s.rsr.threads.map thread }
    sch := { s.sch with tasks := s.sch.tasks.map task, links := s.sch.links.map fun l => { l with dueAt := f l.dueAt } }
    ven := { s.ven with insts := s.ven.insts.map inst }
    neu := { s.neu with arrays := s.neu.arrays.map array }
    fgs := { s.fgs with slots := s.fgs.slots.map slot }
    pat := { s.pat with swapAt := s.pat.swapAt.map f, acceptAt := s.pat.acceptAt.map f }
    cams := s.cams.map cam
    sfp := { s.sfp with chA := chanAB s.sfp.chA, chB := chanAB s.sfp.chB }
    asy := { s.asy with lastDetection := f s.asy.lastDetection }
    tst := { s.tst with classes := s.tst.classes.map test, log := s.tst.log.map entry,
                        lastPass := s.tst.lastPass.map fun t => t.map f, rotationAt := s.tst.rotationAt.map f }
    lnk := { s.lnk with links := s.lnk.links.map link, residAt := s.lnk.residAt.map f, statusAt := s.lnk.statusAt.map f } }

/-- R450: a residual has been measured; its sync record is written after a step, or when src_sync is set. -/
def noteResidual (stepped : Bool) (resid : Int) (s : State) : State :=
  let m := min resid.natAbs 0xFFFF
  let s := { s with lnk := { s.lnk with
    resid := BitVec.ofInt 16 resid,
    residMax := if s.lnk.residMax.toNat < m then BitVec.ofNat 16 m else s.lnk.residMax } }
  if stepped || (tapCtl s).2.getLsbD 5 then traceSync (BitVec.toInt s.lnk.step) resid s.lnk.ref.toNat s else s

/-- R424, R425: the alignment over the direct link to the reference, from 256 round trips. -/
def alignTime (offsetSum : Int) (s : State) : State :=
  let d := roundEven offsetSum 2048
  let s := stepClock d s
  let s := { s with lnk := { s.lnk with step := BitVec.ofInt 32 d, aligned := true, driftRun := 0 } }
  noteResidual true (roundEven (offsetSum - 2048 * d) 512) s

/-- R425: a chip that is not the reference aligns once, before its first pour. -/
def alignOnce (l : Nat) (offsetSum : Int) (s : State) : State :=
  if s.lnk.aligned || referenceChip s == chipIndex s || farChip s l != referenceChip s || !s.fgs.pours.isEmpty then s
  else alignTime offsetSum s

/-! ### Training (R412, R414) -/

/-- R414: training runs from after step 4 on, while the link is down and no retry is awaited, in RUN and TRIM. -/
def mayTrain (s : State) (l : Nat) : Bool :=
  !(linkAt s l).trained && !(linkAt s l).waiting && decide (5 ≤ s.sys.step.toNat) && !s.sys.failed && !s.ret.s2Held &&
    (s.pwr.cur == .run || s.pwr.cur == .trim)

/-- R412: a link leads to a chip of the wiring. -/
def cabled (s : State) (l : Nat) : Bool := decide (farChip s l < 4 ∧ l < 3)

/-- R414: a failed attempt. -/
def failTraining (l : Nat) (lanes : Byte) (s : State) : State :=
  updLink l (fun k => { k with attempts := min 15 (k.attempts + 1), failedAt := now s, waiting := true, lanes := lanes }) s

/-- R414: an attempt that ends well: the link is up and its lane group 0 enters the standing grant. -/
def passTraining (l : Nat) (inp : TrainInputs) (s : State) : State :=
  let s := updLink l (fun k =>
    { k with trained := true, peer := inp.peerIndex, lanes := inp.lanes, attempts := 0, waiting := false,
             slowRetry := false, lostAt := none, grp1 := false, grantHere := false, grantPeer := false,
             peerStarting := inp.peerStarting, peerTag := inp.peerTag }) s
  let s := standLinks 1 (noteReference s)
  -- R95: lane group 0 ramps over 180 ECLK, and ramps do not overlap (R77).
  alignOnce l inp.offsetSum { s with ldl := { s.ldl with lastRampEnd := max s.ldl.lastRampEnd (now s + 180) } }

/-- R414: 1.2 ms, the length of a training attempt. -/
def trainSpan : Nat := 1440000

/-- R412, R414: the end of one training attempt of a link, 1.2 ms after it began: lanes 0 to 3 lock, the peer's index is that of
the wiring. -/
def execLinkTrainAttempt (l : Fin 3) (inp : TrainInputs) (s : State) : Host.Outcome State Fault Refusal :=
  if !mayTrain s l.val || !cabled s l.val || decide (now s < (linkAt s l.val).trainFrom + trainSpan) then done s
  else if inp.lanes.toNat % 16 ≠ 15 then done (failTraining l.val inp.lanes s)
  else if inp.peerIndex.toNat ≠ farChip s l.val then done (raise 0x1002 (failTraining l.val inp.lanes s))
  else done (passTraining l.val inp s)

/-- R414: the retry after 1 ms; after the fourth failure the event, and retries every 100 ms. -/
def execLinkTrainRetry (l : Fin 3) (s : State) : Host.Outcome State Fault Refusal :=
  let k := linkAt s l.val
  if !k.waiting then done s
  else if 4 ≤ k.attempts ∧ k.slowRetry = false then done (raise 0x1001 (updLink l.val (fun k => { k with slowRetry := true }) s))
  else if k.failedAt + (if k.slowRetry then 120000000 else Config.oneMs) ≤ now s then
    done (updLink l.val (fun k => { k with waiting := false, trainFrom := now s }) s)
  else done s

/-! ### Residuals (R426, R434) -/

/-- R434: the chip holds a flask graph. -/
def holdsFlaskGraph (s : State) : Bool := !(splitNodes (active s)).isEmpty

/-- R426, R427: what happens every 1 ms can happen now. -/
def everyMs (last : Option Nat) (s : State) : Bool := match last with
  | some t => decide (t + Config.oneMs ≤ now s)
  | none => true

/-- R426, R434: the residual from 16 round trips, in WCLK; the sum of both differences is 32 times it. -/
def execResidualMeasure (offsetSum : Int) (s : State) : Host.Outcome State Fault Refusal :=
  if !s.lnk.aligned || referenceChip s == chipIndex s || !everyMs s.lnk.residAt s then done s
  else
    let s := { s with lnk := { s.lnk with residAt := some (now s) } }
    let s := noteResidual false (roundEven offsetSum 32) s
    if offsetSum.natAbs ≤ 19 * 32 then done { s with lnk := { s.lnk with driftRun := 0 } }
    else
      let s := { s with lnk := { s.lnk with driftRun := s.lnk.driftRun + 1 } }
      done (if holdsFlaskGraph s then detectS1 0x1006 (flaskPairs s) s else raise 0x1006 s)

/-- R434: eight consecutive drifting residuals. -/
def execLnkTimeLost (s : State) : Host.Outcome State Fault Refusal :=
  if 8 ≤ s.lnk.driftRun then done (detectS2 0x1007 s) else done s

/-! ### Peer status (R427) -/

/-- R427, R429: what a chip tells every peer: its ASY_STATE, its pending flask_tag, and whether it has passed its swap
point. -/
def statusWords (s : State) : List Nat :=
  let tag := s.pat.pending.map fun p => p.hdr.flaskTag
  [1, s.asy.state.code.toNat, flagNat tag.isSome, tag.getD 0, flagNat (s.pat.swapAt.isNone && s.pat.active.isSome)]

/-- R427: the status goes out on every trained link. -/
def execPeerStatusSend (s : State) : Host.Outcome State Fault Refusal :=
  if !everyMs s.lnk.statusAt s then done s
  else
    let s := { s with lnk := { s.lnk with statusAt := some (now s) } }
    done ((trainedLinks s).foldl (fun s l => sendPeer (farChip s l) (statusWords s) s) s)

/-- R427: LNK_PEER_STATE with a chip's two bits replaced. -/
def putPeerState (old : Byte) (chip : Nat) (st : BitVec 2) : Byte :=
  (old &&& ~~~(BitVec.ofNat 8 (3 * 4 ^ chip))) ||| BitVec.ofNat 8 (st.toNat * 4 ^ chip)

/-- R424: a peer that has passed its swap point runs a pattern: its start sequence is over (assumption 51). -/
def notePeerUp (chip : Nat) (s : State) : State :=
  noteReference (updLink (linkTo (chipIndex s) chip) (fun k => { k with peerStarting := false }) s)

/-- R427, R429: a peer's status arrives. -/
def execPeerStatusReceive (chip : Fin 4) (state : BitVec 2) (pendingTag : Option Word32) (swapped : Bool) (s : State) :
    Host.Outcome State Fault Refusal :=
  if chip.val = chipIndex s ∨ (linkAt s (linkTo (chipIndex s) chip.val)).trained = false then done s
  else
    let s := { s with lnk := { s.lnk with
      peerState := putPeerState s.lnk.peerState chip.val state,
      peerTags := s.lnk.peerTags.set chip.val pendingTag,
      peerSwapped := s.lnk.peerSwapped.set chip.val swapped } }
    done (if swapped then notePeerUp chip.val s else s)

/-- R416: a replayed flit. -/
def execFlitReplay (l : Fin 3) (s : State) : Host.Outcome State Fault Refusal :=
  if (linkAt s l.val).trained then done (updLink l.val (fun k => { k with replayCnt := satAdd 32 k.replayCnt 1 }) s) else done s

/-! ### Loss of links and lane groups (R344, R432, R433, R78, R82) -/

/-- R344, R432, n2 of R479: a link leaves: its window goes in the next ECLK, its lane groups give back their tickets. -/
def dropLink (l : Nat) (s : State) : State :=
  let s := ladleStop (laneGroupId l) true (standLinks (-1) s)
  let s := updLink l (fun k =>
    { k with trained := false, grp1 := false, grantHere := false, grantPeer := false, lanes := 0, lostAt := some (now s), trainFrom := now s }) s
  noteReference s

/-- R432: the pours of flask graphs that exchange with the lost chip are aborted. -/
def abortExchanges (s : State) : State :=
  let rs := (s.fgs.pours.filter fun q => flaskGraph (active s) q.ref.slot && q.aborted.isNone).map Pour.ref
  if rs.isEmpty then s else rs.foldl (fun s r => abortPour 0x100A r s) (raise 0x100A s)

/-- R432: a link is lost. -/
def execLinkDown (l : Fin 3) (s : State) : Host.Outcome State Fault Refusal :=
  if !(linkAt s l.val).trained then done s
  else
    let far := farChip s l.val
    let needs := recordUses (active s) far
    let s := dropLink l.val s
    let s := if needs then detectS1 0x1004 (flaskPairs s) s else raise 0x1004 s
    done (if far < (active s).hdr.flaskSize then abortExchanges s else s)

/-- R433: a lane of group 1 lost its lock. -/
def execLaneGroup1Lost (l : Fin 3) (s : State) : Host.Outcome State Fault Refusal :=
  let k := linkAt s l.val
  if !k.trained || k.lanes.toNat / 16 == 0 then done s
  else
    let s := ladleStop (laneGroupId l.val) true s
    done (raise 0x1003 (updLink l.val (fun k =>
      { k with lanes := k.lanes &&& 0x0F, grp1 := false, grantHere := false, grantPeer := false }) s))

/-- R78, R423: lane group 1 returns to idle and releases its tickets. -/
def execLaneGroupIdle (l : Fin 3) (s : State) : Host.Outcome State Fault Refusal :=
  if (linkAt s l.val).grantHere then
    done (ladleRelease (laneGroupId l.val)
      (updLink l.val (fun k => { k with grp1 := false, grantHere := false, grantPeer := false }) s))
  else done s

/-- R82: the peer has granted lane group 1. -/
def execLaneGroup1Join (l : Fin 3) (s : State) : Host.Outcome State Fault Refusal :=
  let k := linkAt s l.val
  if k.trained && k.lanes.toNat / 16 == 15 then
    done (joinGroup l.val (updLink l.val (fun k => { k with grantPeer := true }) s))
  else done s

/-! ### Remote sets and the exchange (R419 to R422) -/

/-- A message of a peer reaches this chip: its link is trained. -/
def fromPeer (s : State) (chip : Nat) : Bool :=
  chip != chipIndex s && decide (chip < 4) && (linkAt s (linkTo (chipIndex s) chip)).trained

/-- R419: the pour of this chip that a chip names by its owner's slot and pour_seq: the pour that owner opened, or this
chip's own. -/
def pourOfOwner (s : State) (ref : PourRef) : Option Pour :=
  s.fgs.pours.find? fun q => flaskGraph (active s) q.ref.slot && (match q.owner with
    | some o => o.2 == ref
    | none => q.ref == ref)

/-- R419: a remote set that has reached its flag. -/
def remoteSet (chip f : Nat) (ref : PourRef) (origin : Nat) (s : State) : State :=
  let p := active s
  match flagOf p f with
  | none => raise 0x0805 s
  | some r =>
    if r.producer ≠ 0xFFFF then raise 0x0805 s
    else if persistent p f then
      (if r.sets < flagValue s f 0 + 1 then raise 0x0804 s
       else fireFlag f origin (some (chip, ref)) (wakeWaits (putFlag f 0 (flagValue s f 0 + 1) s)))
    else
      match pourOfOwner s ref with
      | none => raise 0x0805 s
      | some q =>
        let v := flagValue s f q.ref.seq + 1
        if r.sets < v then abortPour 0x0804 q.ref (raise 0x0804 s) else wakeWaits (putFlag f q.ref.seq v s)

/-- R419: a remote set arrives. -/
def execRemoteFlagSet (chip : Fin 4) (flag : Nat) (slot : Fin 8) (seq : Word32) (origin : Nat) (s : State) :
    Host.Outcome State Fault Refusal :=
  if fromPeer s chip.val then done (remoteSet chip.val flag { slot := slot.val, seq := seq.toNat } origin s) else done s

/-- R420: the initiator ID under which exchange lines of a chip are written. -/
def xchgId (chip : Nat) : Nat := 0x1C0 + 16 * chip + 4

/-- R420: the exchange buffer of the n-th split layer of a node. -/
def xchgBuf (p : Pattern) (n : NodeRec) (k : Nat) : Option (Nat × Nat) :=
  match ((layersOf p n).filter fun l => l.split != 0)[k]? with
  | some l => bufPlace p l.xchg
  | none => none

/-- R420: a line is written under the peer's identity, when this chip's firewall admits it. -/
def writeLineIn (buf : Nat × Nat) (line : ExchangeLine) (s : State) : State × Bool :=
  if buf.2 < line.offset + line.data.length then (s, false)
  else
    let r := checkAccess (xchgId line.chip.val) false .write (buf.1 + line.offset) line.data.length false s
    match r.1 with
    | .error _ => (r.2, false)
    | .ok a => (physWrite r.2 a line.data, true)

/-- R435: the units of another chip that served a pour. -/
def remoteServe (ref : PourRef) (chip : Nat) (phys : BitVec 17) (s : State) : State :=
  let us := ((List.range 17).filter fun i => phys.getLsbD i).map fun i => (chip, 18 + i)
  updPour ref (fun q => { q with remoteUnits := (us ++ q.remoteUnits).dedup }) s

/-- R420, R421: an exchange line arrives; the last line of a layer advances the device flag of its chip. A reservation hold on its
granule keeps it waiting (R317). -/
def takeLine (line : ExchangeLine) (n : NodeRec) (q : Pour) (s : State) : State :=
  let i := 16 * line.q.val + 8 * (q.ref.seq % 2) + line.chip.val
  match xchgBuf (active s) n (nth s.fgs.devFlags i 0) with
  | none => s
  | some buf =>
    if heldByOther s none (buf.1 + line.offset) line.data.length then s
    else
      let r := writeLineIn buf line s
      if !r.2 || !line.lastOfLayer then r.1
      else
        let s := { r.1 with fgs := { r.1.fgs with devFlags := upd r.1.fgs.devFlags i (· + 1) } }
        armBarrier q.ref n.nodeId (remoteServe q.ref line.chip.val line.phys s)

/-- R420, R421: an exchange line from a peer. -/
def execXchgLine (line : ExchangeLine) (s : State) : Host.Outcome State Fault Refusal :=
  let p := active s
  match (splitNodes p)[line.q.val]?.bind (nodeOf p.nodes) with
  | some n =>
    (match s.fgs.pours.find? fun q => q.ref.slot == n.slot && ownerSeq s q.ref == line.seq.toNat with
      | some q => if fromPeer s line.chip.val then done (takeLine line n q s) else done s
      | none => done s)
  | none => done s

/-- R430: a peer's abort of an owner pour; each chip aborts the pour once. -/
def execPeerAbort (chip : Fin 4) (slot : Fin 8) (seq : Word32) (s : State) : Host.Outcome State Fault Refusal :=
  match pourOfOwner s { slot := slot.val, seq := seq.toNat } with
  | some q => if fromPeer s chip.val && q.aborted.isNone then done (abortPour 0x100A q.ref (raise 0x100A s)) else done s
  | none => done s

/-! ### The coordinated swap (R429, R431) -/

/-- The request of the swap of the pending pattern (R135). -/
def requestSwap (s : State) : State :=
  { s with pat := { s.pat with swapAt := some (now s), st := .draining, committed := false } }

/-- R135: hold_swap did not hold the pending pattern, or a commit released it. -/
def swapReleased (s : State) : Bool := s.pat.committed

/-- R431: the flask_tag of the pattern that the other chips of the flask run, when this chip starts beside them. -/
def runningTag (p : Pattern) (s : State) : Option Word32 :=
  if s.pat.active.isSome then none
  else ((peersOf p s).filterMap fun c => (linkAt s (linkTo (chipIndex s) c)).peerTag).head?

/-- R429, R431: what the pending pattern of a flask waits for. A chip that starts beside running chips goes on with
their flask_tag and ends its start without a pattern on another. Otherwise chip 0 announces the swap once every chip
reports the same pending tag; differing tags raise LNK_TAG_MISMATCH once for the pattern. -/
def announceSwap (p : Pattern) (s : State) : State :=
  let tags := (peersOf p s).map fun c => nth s.lnk.peerTags c none
  let own : Word32 := BitVec.ofNat 32 p.hdr.flaskTag
  match runningTag p s with
  | some t =>
    if t = own then requestSwap s
    else if s.lnk.tagMismatch then s
    else
      raise 0x1008 { s with
        sys := { s.sys with phase := 2 }, lnk := { s.lnk with tagMismatch := true } }
  | none =>
    if tags.any fun t => match t with
        | some v => v != own
        | none => false then
      (if s.lnk.tagMismatch then s else raise 0x1008 { s with lnk := { s.lnk with tagMismatch := true } })
    else if tags.all Option.isSome then { s with lnk := { s.lnk with announcedAt := some (now s) } }
    else s

/-- R429, R431: the announcement; on the other chips it is chip 0's, as it arrives. -/
def execFlaskSwapAnnounce (s : State) : Host.Outcome State Fault Refusal :=
  match s.pat.pending with
  | some p =>
    if p.hdr.flaskSize < 2 ∨ s.pat.swapAt.isSome ∨ s.lnk.announcedAt.isSome ∨ swapReleased s = false then done s
    else done (announceSwap p s)
  | none => done s

/-- R429: every chip takes the swap 2.0 µs after the announcement. -/
def execFlaskSwapTake (s : State) : Host.Outcome State Fault Refusal :=
  match s.lnk.announcedAt with
  | some t =>
    if t + 2400 ≤ now s ∧ s.pat.pending.isSome ∧ s.pat.swapAt = none then
      done (requestSwap { s with lnk := { s.lnk with
        announcedAt := none, tagMismatch := false, peerSwapped := List.replicate 4 false } })
    else done s
  | none => done s

/-! ### Failed units of other chips (R435) -/

/-- R435, R383: a non-owner reports a failed unit; the owner's pours it served lose their records. -/
def execRemoteUnitFailed (chip : Fin 4) (u : Fin 35) (s : State) : Host.Outcome State Fault Refusal :=
  if !fromPeer s chip.val then done s
  else
    let k := (chip.val, u.val)
    let rs := ((s.fgs.pours ++ s.asy.handed).filter fun q => q.remoteUnits.contains k).map Pour.ref ++
      (s.asy.batches.filter fun b => b.remoteUnits.contains k).map Batch.ref
    let s := rs.dedup.foldl (fun s r => invalidatePour r s) s
    done (recallPours (fun e => e.remoteUnits.contains k) s)

end Sys2Proof.Machine
end

