-- ==== Sys2Proof/Machine/Power.lean ====
section
/-! DEFINITION. Clocks, rails, power modes and reset sources (03_clocks_and_power_modes.md, R96, R97, R490 to R505). -/

namespace Sys2Proof.Machine

/-- The root clocks run: VDD_ASY is present, reset is released and the mode is not HOLD or OFF (R61, R74). -/
def clocksRun (s : State) : Bool := s.rails.asy && !s.sys.inReset && s.pwr.cur != .hold && s.pwr.cur != .off

/-- R64, R66: a HOLD exit is in progress. -/
def holdExiting (s : State) : Bool := match s.pwr.trans with
  | some t => t.source == .hold
  | none => false

/-- R64, R74: the PLL is up: the clocks run, or a HOLD exit has raised it 100.0 µs after it began. R97: a loss in the very
cycle of a reset is a further source of that reset. -/
def pllUp (s : State) : Bool := clocksRun s || resetNow s || (match s.pwr.trans with
  | some t => s.rails.asy && t.source == .hold && decide (t.requestedAt + 120000 ≤ s.clock.watch)
  | none => false)

/-! ### Standing grant and ceiling of a mode (R61, R79) -/

/-- R79: the tickets of the instance under test of each vision class. -/
def testShare (c : Nat) : Nat := nth [6, 8, 10, 14, 18] c 0

/-- R79: the standing grant of RUN with every class, or of TRIM with the classes of venEn. -/
def standingWith (venEn : BitVec 5) (s : State) : Nat :=
  240 - sumNat ((List.range 5).map fun c => if venEn.getLsbD c then 0 else testShare c) + 6 * (trainedLinks s).length

/-- R61, R79: standing grant and ceiling of a mode. -/
def budgetOf (m : PowerMode) (t : TrimSet) (s : State) : Nat × Nat :=
  match m with
  | .run => (standingWith 0x1F s, s.ldl.ceil)
  | .trim => (standingWith t.venEn s, t.ceiling)
  | .watch => (28, 40)
  | .hold => (0, 0)
  | .off => (0, 0)

/-- R62, R139: a loaded pattern fits a TRIM configuration. -/
def trimFits (s : State) (t : TrimSet) (p : Pattern) : Bool :=
  !trimGates p t.venEn.toNat t.arrays && decide (peakDraw p (standingWith t.venEn s) ≤ t.ceiling)

/-- R62: the TRIM configuration of the registers, when the device accepts it. The loaded patterns are the active one and
one that is pending (assumption 64). -/
def trimAccepted (s : State) : Option TrimSet :=
  let t : TrimSet := { arrays := s.pwr.trimArrays.toNat, venEn := s.pwr.trimVen, ceiling := s.pwr.trimCeil.toNat }
  let st := standingWith t.venEn s
  let bad := decide (t.arrays < 1 ∨ 16 < t.arrays) || decide (s.ldl.ceil < t.ceiling) || decide (t.ceiling < st) ||
    !([s.pat.active, s.pat.pending].filterMap id).all (trimFits s t)
  if bad then none else some t

/-! ### Reset sources (R96, R97, R498) -/

/-- R96, R498 step 2: VDD_ASY rises within its limits: a cold reset. -/
def execVddAsyPowerOn (s : State) : Host.Outcome State Fault Refusal :=
  let s := coldReset s
  done (driveLines { s with rails := { s.rails with asy := true, io := true, pll := true, asyGoodAt := s.clock.watch } })

/-- R51, R494, R495, R501: without VDD_ASY no logic runs, both SAFE lines are undriven, FAULT_N is held low while VDD_IO
is present and floats otherwise, and PMIC_EN falls. -/
def execVddAsyLoss (vddIoPresent : Bool) (s : State) : Host.Outcome State Fault Refusal :=
  let s := coldReset s
  done { s with
    rails := { s.rails with asy := false, io := vddIoPresent, pll := vddIoPresent, faultFloats := !vddIoPresent }
    sfp := { s.sfp with faultN := vddIoPresent } }

/-- R498 steps 4 and 5: VDD_CORE has come within its limits, after VDD_CRU. -/
def coreUp (s : State) : State :=
  { s with rails := { s.rails with core := true, cru := .run, coreAt := some s.clock.watch } }

/-- R96, R498 step 5, R500: VDD_CORE powers on. In a power-up, and after a HOLD exit, it is the awaited rail; otherwise it
has gone and come back, which is the warm reset core_por. -/
def execVddCorePowerOn (s : State) : Host.Outcome State Fault Refusal :=
  if !s.rails.asy then done s
  else if s.rails.core then done (coreUp (driveLines (warmReset 0x02 s)))
  else if s.rails.pmicEn && !s.rails.pmicHold then done (coreUp s)
  else done s

/-- R498 step 3: PMIC_EN rises 200.0 µs after VDD_ASY is within limits; a reset in OFF raises it again. -/
def execPmicEnAssert (s : State) : Host.Outcome State Fault Refusal :=
  if s.rails.asy && s.sys.inReset && !s.rails.pmicEn && decide (s.rails.asyGoodAt + Config.pmicEnDelay ≤ s.clock.watch) then
    done { s with rails := { s.rails with pmicEn := true, pmicEnAt := s.clock.watch } }
  else done s

/-- R498 steps 5 and 6: VDD_CORE, VDD_PHY and VDD_DDR are within their limits. -/
def railsUp (s : State) : Bool := s.rails.core && s.rails.phy && s.rails.ddr

/-- R498: steps 5 and 6 are not met 20 ms after step 3. -/
def execPowerUpTimeout (s : State) : Host.Outcome State Fault Refusal :=
  if s.rails.asy && s.sys.inReset && s.rails.pmicEn && !s.sys.powerUpFailed && !railsUp s &&
      decide (s.rails.pmicEnAt + 24000000 ≤ s.clock.watch) then
    done (driveLines { s with
      sys := { s.sys with powerUpFailed := true }, ret := { s.ret with events := 0x0230 :: s.ret.events } })
  else done s

/-- R64, R66, R500: HOLD ends: PMIC_HOLD falls and the exit begins, once. -/
def holdExit (s : State) : State :=
  if s.pwr.cur != .hold || s.pwr.trans.isSome then s
  else
    let target : PowerMode := match s.pwr.holdExit.toNat with
      | 1 => .trim
      | 2 => .watch
      | _ => .run
    let at_ := s.clock.watch
    let t : Transition := { target := target, source := .hold, requestedAt := at_, startedAt := some at_ }
    { s with
      rails := { s.rails with pmicHold := false, holdFellAt := s.clock.watch }
      pwr := { s.pwr with trans := some t } }

/-- R67, R501: RST_N ends OFF: PMIC_EN rises and a warm reset with cause pin follows; the safety channels answer as after
a cold reset. -/
def offExit (s : State) : State :=
  let s := warmReset 0x04 { s with rails := { s.rails with pmicEn := true, pmicEnAt := s.clock.watch } }
  driveLines { s with sfp := { s.sfp with chA := {}, chB := {} } }

/-- R96, R66, R67, R505: a low pulse on RST_N. -/
def execRstNPulse (lowEclk : Nat) (s : State) : Host.Outcome State Fault Refusal :=
  if lowEclk < 1200 ∨ s.rails.asy = false then done s
  else
    match s.pwr.cur with
    | .hold => done (holdExit s)
    | .off => done (offExit s)
    | _ => done (driveLines (warmReset 0x04 s))

/-- R97: an agent whose write reached SYS_RST_CTRL in the very cycle of a reset had keeper mode then. -/
def keptMode (s : State) : Agent → Bool
  | .thread t => s.sys.resetKeepers.contains t.val
  | _ => false

/-- R96: SYS_RST_CTRL.full by a keeper-mode thread; others have no effect. -/
def execSoftReset (who : Agent) (s : State) : Host.Outcome State Fault Refusal :=
  if (agentKeeper s who && clocksRun s) || (resetNow s && keptMode s who) then done (driveLines (warmReset 0x10 s)) else done s

/-! ### Clock and supply monitors (R56 to R60, R74, R491, R496) -/

/-- R58, R74: the PLL lock detector drops. -/
def execPllUnlock (s : State) : Host.Outcome State Fault Refusal :=
  if pllUp s then done (detectS2 0x0220 { s with pwr := { s.pwr with pllLock := false } }) else done s

/-- R56, R74: REFCLK shows no edge; in a HOLD exit the check runs before the PLL rises. -/
def execRefclkLost (s : State) : Host.Outcome State Fault Refusal :=
  if pllUp s || (s.rails.asy && holdExiting s) then
    done (detectS2 0x0221 { s with pwr := { s.pwr with refOk := false } })
  else done s

/-- R56: a count lies within 1.5 % of what is expected. -/
def countOk (n expected : Nat) : Bool := decide (expected * 985 ≤ n * 1000 ∧ n * 1000 ≤ expected * 1015)

/-- R56, R57: the events that a window's counts raise, by rising code. -/
def monitorCodes (c : ClockCounts) : List EventCode :=
  (if countOk c.refclk 38400 then [] else [0x0221]) ++
  (if countOk c.eclk 1200000 && countOk c.nclk 1600000 && countOk c.aclk 400000 && countOk c.pclk 200000 then [] else [0x0222]) ++
  (let a := c.watchPerAclk * c.aclk
   let b := 25000 * 400000
   if max a b - min a b ≤ c.watchPerAclk + c.aclk then [] else [0x0223])

/-- R56, R511: a monitor window can end now: 1 ms of the watch oscillator after the one before it. -/
def windowDue (s : State) : Bool := match s.pwr.windowAt with
  | some t => decide (t + Config.watchSpan Config.oneMs t ≤ s.clock.watch)
  | none => true

/-- R56 to R58, R74: the end of a monitor window. Its events enter S2 once, the lowest code first. -/
def execClockMonitorWindow (counts : ClockCounts) (s : State) : Host.Outcome State Fault Refusal :=
  if !pllUp s || !windowDue s then done s
  else
    let s := { s with pwr := { s.pwr with
      windowAt := some s.clock.watch,
      pclkCount := BitVec.ofNat 18 counts.pclk, refOk := countOk counts.refclk 38400, monOk := (monitorCodes counts).isEmpty } }
    done ((monitorCodes counts).foldl (fun s c => detectS2 c s) s)

/-- R491: the thresholds in millivolts. -/
def railBad (r : MonitoredRail) (mv : Nat) : Bool :=
  match r with
  | .core => decide (mv < 700 ∨ 800 < mv)
  | .asy => decide (mv < 760 ∨ 840 < mv)

/-- R60, R74: a monitored rail stays outside its thresholds for more than 2.0 µs. -/
def execSupplyExcursion (rail : MonitoredRail) (millivolts eclk : Nat) (s : State) : Host.Outcome State Fault Refusal :=
  let armed := s.rails.asy && (match rail with
    | .asy => true
    | .core => s.rails.core && !s.rails.coreMasked && !s.sys.powerUpFailed)
  if armed && railBad rail millivolts && decide (2400 < eclk) then
    done (detectS2 (match rail with
      | .core => 0x0230
      | .asy => 0x0231) s)
  else done s

/-- R496: VDD_IO below 1.71 V. -/
def execVddIoLow (s : State) : Host.Outcome State Fault Refusal :=
  if s.rails.asy then done (detectS2 0x1215 { s with rails := { s.rails with io := false } }) else done s

/-- R504, R511: 1 ms of the watch oscillator has passed since the last reading. -/
def tempDue (s : State) : Bool := match s.pwr.tempAt with
  | some t => decide (t + Config.watchSpan Config.oneMs t ≤ s.clock.watch)
  | none => true

/-- R504, R505: a temperature reading, signed, in °C. -/
def execTempSample (celsius : BitVec 9) (s : State) : Host.Outcome State Fault Refusal :=
  if !s.rails.asy || !tempDue s then done s
  else
    let t := celsius.toInt
    let s := { s with pwr := { s.pwr with
      tempAt := some s.clock.watch, temp := celsius, tempPeak := if s.pwr.tempPeak.toInt < t then celsius else s.pwr.tempPeak,
      hotRun := if 115 < t then s.pwr.hotRun + 1 else 0 } }
    if 105 < t then done (raise 0x0232 { s with pwr := { s.pwr with tempHigh := true } }) else done s

/-- R504: a second consecutive reading above 115 °C. -/
def execTempTrip (s : State) : Host.Outcome State Fault Refusal :=
  if s.rails.asy && decide (2 ≤ s.pwr.hotRun) then done (detectS2 0x0233 s) else done s

/-- R74, R511: VDD_CORE has been within limits for 100.0 µs, as the watch oscillator times them, since PMIC_HOLD fell. -/
def execVddCoreMonRearm (s : State) : Host.Outcome State Fault Refusal :=
  let since := max (s.rails.coreAt.getD 0) s.rails.holdFellAt
  if s.rails.coreMasked && !s.rails.pmicHold && s.rails.core &&
      decide (since + Config.watchSpan 120000 since ≤ s.clock.watch) then
    done { s with rails := { s.rails with coreMasked := false } }
  else done s

/-- R74, R511: VDD_CORE has not reached its limits 10 ms after PMIC_HOLD fell. -/
def execHoldCoreTimeout (s : State) : Host.Outcome State Fault Refusal :=
  let fell := s.rails.holdFellAt
  if s.rails.asy && holdExiting s && !s.rails.core && decide (fell + Config.watchSpan 12000000 fell ≤ s.clock.watch) then
    done (detectS2 0x0230 s)
  else done s

/-- R66, R511: the wake timer, which the watch oscillator times. -/
def execHoldWakeTimer (s : State) : Host.Outcome State Fault Refusal :=
  let wake := Config.watchSpan (s.pwr.holdWake.toNat * Config.oneMs) s.pwr.holdAt
  if s.pwr.cur == .hold && s.pwr.holdWake != 0 && decide (s.pwr.holdAt + wake ≤ s.clock.watch) then
    done (holdExit s)
  else done s

/-! ### Mode requests and transitions (R62 to R73, R91) -/

/-- R65, R71: a write of PWR_MODE_REQ. -/
def writeModeReq (code : BitVec 3) (s : State) : State :=
  let s := { s with pwr := { s.pwr with modeReq := code } }
  match powerModeOf code.toNat with
  | some m => requestMode m s
  | none => raise 0x0202 s

/-- R71, R515: the mode requests of one PCLK, at its end: keeper firmware's is taken; the host's is replaced. -/
def takeModeReq (keeper host : Option (BitVec 3)) (s : State) : State :=
  match keeper, host with
  | some k, some _ => raise 0x0203 (writeModeReq k s)
  | some k, none => writeModeReq k s
  | none, some h => writeModeReq h s
  | none, none => s

/-- R515: the place of PWR_MODE_REQ in the register window, and the mode that waiting writes of a writer ask for. -/
def modeReqAt : Nat := 0x10000
def heldMode (s : State) (keeper : Bool) : Option (BitVec 3) :=
  ((heldAt s modeReqAt keeper).getLast?).map fun h => BitVec.ofNat 3 h.v

/-- R71, R515: writes of PWR_MODE_REQ, at the end of their PCLK, with those of the registers that wait for it. No write
reaches the device in HOLD, OFF or reset (R66, R67). -/
def execPwrModeRequest (keeper host : Option (BitVec 3)) (s : State) : Host.Outcome State Fault Refusal :=
  if !clocksRun s then done s
  else
    done (takeModeReq (keeper.orElse fun _ => heldMode s true) (host.orElse fun _ => heldMode s false)
      (dropHeld modeReqAt s))

/-- R91: what the drain point ends: software channels, test loads and lane groups 1. -/
def drainLadle (s : State) : State :=
  let s := (List.range 32).foldl (fun s ch =>
    let c := chAt s ch
    if c.owned || c.st == .idle || c.st == .error || c.st == .halted then s else stopChannel ch 4 s) s
  let s := (List.range 2).foldl (fun s n =>
    if (nth s.ldl.loads n {}).phase != .idle then stopLoad n s else s) s
  (List.range 3).foldl (fun s l =>
    ladleStop (laneGroupId l) true
      (updLink l (fun k => { k with grp1 := false, grantHere := false, grantPeer := false }) s)) s

/-- R62, R64: a mode other than RUN and TRIM. -/
def quiet (m : PowerMode) : Bool := m == .watch || m == .hold || m == .off

/-- R68, n2 of R479: a change into WATCH, HOLD or OFF deasserts the SAFE lines and takes the links down. -/
def enterQuiet (s : State) : State := dropSafe ((trainedLinks s).foldl (fun s l => dropLink l s) s)

/-- The ECLK of a mode request on the time-stamp counter (R483). -/
def requestTsc (s : State) (t : Transition) : Nat := t.requestedAt + now s - s.clock.watch

/-- R483: the swap that was requested first comes first. -/
def swapBefore (s : State) (t : Transition) : Bool := match s.pat.swapAt with
  | some a => decide (a ≤ requestTsc s t)
  | none => false

/-- The request that waits starts its transition (R71). -/
def startPending (s : State) : State :=
  match s.pwr.pend with
  | some m => if s.pwr.trans.isNone then requestMode m { s with pwr := { s.pwr with pend := none } } else s
  | none => s

/-- R91, R77: the new standing grant, where it is larger, ramps by 1 ticket per 30 ECLK within the change. -/
def rampStanding (next : Nat) (s : State) : State :=
  { s with ldl := { s.ldl with lastRampEnd := max s.ldl.lastRampEnd (now s + 30 * (next - s.ldl.standing)) } }

/-- R64: the drain point, or from WATCH the request: the change begins. A TRIM request that R62 refuses leaves the mode. -/
def startChange (t : Transition) (s : State) : State :=
  let trim := if t.target = .trim then trimAccepted s else none
  if t.target = .trim ∧ trim = none then startPending (raise 0x0204 { s with pwr := { s.pwr with trans := none } })
  else
    let s := { s with pwr := { s.pwr with trans := some { t with startedAt := some s.clock.watch, trim := trim } } }
    let s := if t.source = .watch then s else drainLadle s
    let s := rampStanding ((budgetOf t.target (trim.getD {}) s).1) s
    if quiet t.target then enterQuiet s else s

/-- R64: a transition starts once the pours in flight have retired. -/
def execModeTransitionStart (s : State) : Host.Outcome State Fault Refusal :=
  match s.pwr.trans with
  | some t =>
    if t.startedAt.isSome || !clocksRun s || swapBefore s t || (t.source != .watch && !s.fgs.pours.isEmpty) then done s
    else done (startChange t s)
  | none => done s

/-- R64: the latency of a change. -/
def latency (source target : PowerMode) : Nat :=
  if source = .hold then 3000000
  else if target = .hold ∨ target = .off then 240000
  else if source = .watch ∨ target = .watch then 180000
  else 24000

/-- R160, R61: receivers that a mode powers down lose their synchronisation and their open frame. -/
def sleepCams (keep : Nat → Bool) (s : State) : State :=
  { s with cams := (s.cams.zipIdx).map fun q =>
      if keep q.2 then q.1
      else { q.1 with sync := false, awaitFs := true, discarding := false, frame := none, tail := [], ready := none, testAt := none } }

/-- R519: HOLD and OFF remove the host interface. -/
def hifOff (s : State) : State := { s with hif := { posted := s.hif.posted } }

/-- R66, R74, R500: the HOLD entry completes. -/
def enterHold (s : State) : State :=
  let s := hifOff (sleepCams (fun _ => false) s)
  { s with
    rails := { s.rails with pmicHold := true, coreMasked := true, core := false, phy := false, cru := .retention }
    held := []
    pwr := { s.pwr with pllLock := false, windowAt := none, holdExit := s.pwr.exitMode, holdWake := s.pwr.wakeMs, holdAt := s.clock.watch } }

/-- R64, R67, R501: the OFF entry completes: PMIC_EN falls, and the rails of Crucible and DRAM go. -/
def enterOff (s : State) : State :=
  let s := hifOff (sleepCams (fun _ => false) s)
  { s with
    rails := { s.rails with pmicEn := false, coreMasked := true, core := false, phy := false, ddr := false, cru := .off }
    pwr := { s.pwr with pllLock := false, windowAt := none }
    held := []
    mem := {} }

/-- R64, R68, R410, R414: back to RUN or TRIM from WATCH or HOLD: one full rotation precedes the first trigger, and the links train
anew. -/
def returnToRun (source : PowerMode) (s : State) : State :=
  let s := { s with
    sys := { s.sys with ready := false }
    tst := { s.tst with rotationAt := some (now s) }
    lnk := { s.lnk with links := s.lnk.links.map fun k => { k with trainFrom := now s } } }
  if source = .hold then { s with pwr := { s.pwr with pllLock := true }, lnk := { s.lnk with aligned := false } }
  else carryOver s

/-- R65, R61: the new mode with its ceiling, standing grant and configuration. -/
def applyMode (t : Transition) (s : State) : State :=
  let cfg := t.trim.getD {}
  let b := budgetOf t.target cfg s
  let s := { s with
    pwr := { s.pwr with cur := t.target, trans := none, trimNow := cfg }
    ldl := { s.ldl with standing := b.1, activeCeil := b.2, oldCeil := none } }
  let s := noteWindow s
  match t.target with
  | .run => if quiet t.source then returnToRun t.source s else s
  | .trim => if quiet t.source then returnToRun t.source s else s
  | .watch =>
    let s := sleepCams (fun p => p == s.pwr.pipe.toNat && t.source != .hold) s
    { s with pwr := { s.pwr with window := 0, count := 0, reference := none, heldFrames := [], carried := false,
                                 pllLock := true } }
  | .hold => enterHold s
  | .off => enterOff s

/-- R64, R66: the bytes of the pattern in the pattern area. -/
def areaBytes (s : State) : List Byte :=
  let room := stagingBase + stagingSize - s.sys.patternArea
  s.mem.read s.sys.patternArea (min room (leAt (s.mem.read s.sys.patternArea 12) 8 4))

/-- R64, R66, R131: a HOLD exit re-verifies the signature of the pattern in the pattern area. The spec does not say what a
failure changes besides its event: the model drops the pattern and shows NO_PATTERN, as R113 does at a start (assumption
57). -/
def reverify (s : State) : State :=
  if s.pat.active.isNone && s.pat.pending.isNone then s
  else if (signatureCheck s (areaBytes s)).isNone then s
  else
    raise 0x0512 (setHw .rejected { s with
      pat := { s.pat with active := none, previous := none, pending := none, checked := none, swapAt := none,
                          acceptAt := none, deferred := [], committed := false, st := .idle, failCode := 0x0512 }
      sys := { s.sys with phase := 2 } })

/-- R66: what a HOLD exit to TRIM takes: the configuration of the registers, or RUN with its refusal. -/
def resolveExit (t : Transition) (s : State) : Transition × State :=
  if t.source = .hold ∧ t.target = .trim then
    match trimAccepted s with
    | some c => ({ t with trim := some c }, s)
    | none => ({ t with target := .run }, raise 0x0204 s)
  else (t, s)

/-- R66: a request that waits at the completion of HOLD is discarded. For OFF the spec says nothing of it: the model
discards it in the same way (assumption 63). -/
def discardPending (m : PowerMode) (s : State) : State :=
  if (m = .hold ∨ m = .off) ∧ s.pwr.pend.isSome then raise 0x0203 { s with pwr := { s.pwr with pend := none } } else s

/-- R64: the moment from which the latency of a change counts: the request for an upward one, else the drain point. -/
def latencyFrom (t : Transition) (startedAt : Nat) : Nat := if t.source = .watch then t.requestedAt else startedAt

/-- R500: VDD_PHY comes back with a HOLD exit. -/
def phyBack (t : Transition) (s : State) : State :=
  if t.source = .hold then { s with rails := { s.rails with phy := true } } else s

/-- R64, R65, R71: a transition completes; its event precedes the loss of the host interface in HOLD and OFF (R519), and a
request that waits starts. -/
def execModeTransitionComplete (s : State) : Host.Outcome State Fault Refusal :=
  match s.pwr.trans with
  | some t =>
    (match t.startedAt with
      | some a =>
        if s.clock.watch < latencyFrom t a + latency t.source t.target ∨ (t.source = .hold ∧ s.rails.core = false) then done s
        else
          let r := resolveExit t (if t.source = .hold then reverify (phyBack t s) else s)
          let s := discardPending r.1.target (raise 0x0201 r.2)
          done (driveLines (startPending (applyMode r.1 s)))
      | none => done s)
  | none => done s

end Sys2Proof.Machine
end

