-- ==== Sys2Proof/Machine/PatLoad.lean ====
section
/-! DEFINITION. Loading and swapping patterns (R132 to R143). -/

namespace Sys2Proof.Machine

/-- R330: the initiator ID of PAT. -/
def patId : Nat := 0x170

/-- R337: bytes that PAT writes at a physical address: to memory, or to the peer chip that the address names. -/
def placeWrite (s : State) (a : Nat) (bs : List Byte) : State :=
  match placeOf s a with
  | .peer n => sendPeer n (9 :: a % peerSpan :: bs.map BitVec.toNat) s
  | _ => unitWrite patId a bs s

/-! ### The load (R132 to R134, R138) -/

/-- R134: bytes read under an initiator ID, piece by piece within pages of 64 KiB; none after a fault. -/
def readPages (id : Nat) (walkBad : Bool) : Nat → Nat → Nat → State → Option (List Byte) × State
  | 0, _, _, s => (some [], s)
  | fuel + 1, addr, n, s =>
    if n = 0 then (some [], s)
    else
      let k := min n (0x10000 - addr % 0x10000)
      let r := checkAccess id false .read addr k walkBad s
      match r.1 with
      | .error _ => (none, r.2)
      | .ok a =>
        let q := readPages id walkBad fuel (addr + k) (n - k) r.2
        (q.1.map fun rest => physRead r.2 a k ++ rest, q.2)

/-- R142: PAT after a rejected load. -/
def rejectState (code : EventCode) (s : State) : State :=
  setHw .rejected { s with pat := { s.pat with st := .idle, checked := none, failCode := code } }

/-- R142: a rejected load. -/
def rejectLoad (code : EventCode) (s : State) : State := raise code (rejectState code s)

/-- R34, R134: a load rejected for an uncorrectable error, which also calls for S1 (assumption 65). -/
def rejectEcc (s : State) : State := detectS1 0x0504 0 (rejectState 0x0504 s)

/-- R133, R138: a refused request leaves what is in progress. The spec does not say whether PAT_STAT.fail_code, the code of the
last rejection, shows a refusal: the model lets it (assumption 58). -/
def refuseLoad (code : EventCode) (s : State) : State :=
  raise code (setHw .rejected { s with pat := { s.pat with failCode := code } })

/-- R138: a load is in progress, or a pattern is pending. -/
def patBusy (s : State) : Bool := s.pat.checked.isSome || s.pat.pending.isSome || s.pat.swapAt.isSome

/-- R148, R512: the port of the ISP node that fails its parameter check, or else of a graph whose ISP nodes do not match. -/
def badIspPort (p : Pattern) : Option Nat :=
  let isp := (sortBy NodeRec.nodeId p.nodes).filter fun n => n.cls == 0
  let bad := (isp.filter fun n => (ispParamCheck p n).isSome) ++
    isp.filter fun n => (graphOf p n.slot).any fun g => (ispGraphCheck p g).isSome
  (bad.head?).map fun n => leAt (paramOf p n) 0 1

/-- R512: ISP_PARAM_BAD sets its bit in the pipe whose node is at fault. -/
def markParamBad (p : Pattern) (s : State) : State := match badIspPort p with
  | some q => noteCam q 0x0620 (markCam q 0x0620 s)
  | none => s

/-- R134: the check that an uncorrectable read of the pattern area falls into. -/
def checkFault : AreaFault → Option (Fin 4)
  | .check k => some k
  | .copy => none

/-- R132 steps 2 to 5 over the bytes in the pattern area, of which a read in one of the steps may be uncorrectable (R134), as may
one of step 6, which comes with PATTERN_LOADED. -/
def judgePattern (bs : List Byte) (len : Option Nat) (area : Option AreaFault) (s : State) : State :=
  match checkPattern s bs len (area.bind checkFault) with
  | .error 0x0504 => rejectEcc s
  | .error c => rejectLoad c (if c = 0x0620 then markParamBad (parsePattern bs) s else s)
  | .ok p => { s with pat := { s.pat with checked := some p, st := .parsing, initBad := area == some .copy } }

/-- The room of the pattern area (R132). -/
def areaRoom (s : State) : Nat := stagingBase + stagingSize - s.sys.patternArea

/-- R133: a load in TRIM of a pattern that needs what the mode gates: its nodes and its class 6 cap, as far as the magic of its
header and its section table let them be read. -/
def loadGated (bs : List Byte) (s : State) : Bool :=
  let p := parsePattern bs
  s.pwr.cur == .trim && leAt bs 0 4 == 0x54415047 && (sectCheck bs).isNone &&
    (gatesClass p s.pwr.trimNow.venEn.toNat || decide (s.pwr.trimNow.arrays < capOf p 6))

/-- R132 to R134, R138: a load request. The spec does not say what step 1 copies of a source longer than the pattern area, nor
what the area holds after a read fault within the source: the model copies what the area holds, and nothing after a fault
(assumption 75). -/
def requestLoad (ecc : Ecc) (area : Option AreaFault) (s : State) : State :=
  if patBusy s then refuseLoad 0x0502 s
  else if s.pwr.cur = .hold then refuseLoad 0x0503 s
  else
    let n := s.pat.len.toNat
    let r := readPages patId (ecc == .walkUncorrectable) (n / 0x10000 + 2) s.pat.src.toNat n s
    match r.1, ecc with
    | none, _ => rejectLoad 0x0504 r.2
    | some _, .uncorrectable => rejectEcc r.2
    | some bs, _ =>
      let s := noteEcc ecc r.2
      if loadGated bs s then refuseLoad 0x0503 s
      else judgePattern bs (some n) area (physWrite s s.sys.patternArea (bs.take (areaRoom s)))

/-- The register unit of PAT_CTRL. -/
def patUnit : Nat := 0x40000

/-- R132, R138, R515: the writes of PAT_CTRL.load of one PCLK; of two keeper firmware's is taken. -/
def takeLoad (keeper host : Bool) (ecc : Ecc) (area : Option AreaFault) (s : State) : State :=
  let k := keeper || !(heldAt s patUnit true).isEmpty
  let h := host || !(heldAt s patUnit false).isEmpty
  if !(clocksRun s || s.pwr.cur == .hold && !s.sys.inReset) || decide (s.sys.step.toNat < 8) || !(k || h) then s
  else
    let s := requestLoad ecc area (dropHeld patUnit s)
    if k && h then refuseLoad 0x0502 s else s

/-- R132, R138: writes of PAT_CTRL.load, and what their reads of memory meet. -/
def execPatternLoad (keeper host : Bool) (reads : LoadReads) (s : State) : Host.Outcome State Fault Refusal :=
  done (takeLoad keeper host reads.source reads.area s)

/-- R515: the writes that waited, with no error of memory. -/
def settleLoad (s : State) : State := dropHeld patUnit (takeLoad false false .clean none s)

/-- R124: the init content of a pattern's buffers: base, size and bytes. -/
def initContent (p : Pattern) : List (Nat × Nat × List Byte) :=
  (p.bufs.filter fun b => b.initOff != 0xFFFFFFFF && b.initLen != 0).map fun b =>
    (b.base, b.size, sliceBytes p.data b.initOff b.initLen)

/-- R132 step 6: a buffer overlaps one of the active pattern. -/
def overlapsActive (s : State) (base size : Nat) : Bool :=
  (active s).bufs.any fun b => decide (base < b.base + b.size ∧ b.base < base + size)

/-- R113, R415: a start pattern of a flask whose links have not trained is rejected, and the start completes at step 8. -/
def rejectStart (s : State) : State :=
  let s := rejectLoad 0x100C s
  { s with sys := { s.sys with step := 8, phase := 2 } }

/-- R132 steps 6 and 7, R135, R143, R429: the load ends; without hold_swap the swap is requested, in a flask after the
announcement. -/
def endLoad (p : Pattern) (s : State) : State :=
  let s := ((initContent p).filter fun c => !overlapsActive s c.1 c.2.1).foldl (fun s c => placeWrite s c.1 c.2.2) s
  let free := !s.pat.holdSwap || s.pat.active.isNone && s.sys.phase == 0
  let s := { s with
    pat := { s.pat with checked := none, pending := some p, st := .pending, committed := free }
    lnk := { s.lnk with tagMismatch := false }
    sys := { s.sys with phase := if s.sys.phase = 2 ∧ s.sys.provisioning = false then 1 else s.sys.phase } }
  let s := raise 0x0530 s
  if free && decide (p.hdr.flaskSize < 2) then requestSwap s else s

/-- R132, R134: the end of a load; an uncorrectable word of the pattern area, or at the start a missing link, rejects it. -/
def execPatternLoaded (s : State) : Host.Outcome State Fault Refusal :=
  match s.pat.checked with
  | none => done s
  | some p =>
    if s.pat.initBad then done (rejectEcc s)
    else if startLoad s && !linksUp s p then done (rejectStart s)
    else done (endLoad p s)

/-- R135: a commit releases a pattern that hold_swap holds; with none held it is ignored. -/
def commitSwap (s : State) : State :=
  match s.pat.pending with
  | some p =>
    if s.pat.committed || s.pat.swapAt.isSome then s
    else
      let s := { s with pat := { s.pat with committed := true } }
      if p.hdr.flaskSize < 2 then requestSwap s else s
  | none => s

/-- R135: a write of PAT_CTRL.commit. -/
def execSwapCommit (who : Agent) (s : State) : Host.Outcome State Fault Refusal :=
  if agentKeeperOrHost s who then done (commitSwap s) else done s

/-! ### The swap point (R135, R139, R141, R160, R162, R367, R388) -/

/-- R483: no transition is in progress that was requested before the swap. -/
def swapFirst (s : State) : Bool := match s.pwr.trans with
  | some t => t.startedAt.isNone && swapBefore s t
  | none => true

/-- R147, R160, R162: the ports take the new pattern's nodes; a receiver that it names starts, and one that no node names any
more is powered down. The 8 ms without a test pass run from its power-up (assumption 30). -/
def swapCams (p : Pattern) (s : State) : State :=
  let cfgs := (p.nodes.filter fun n => n.cls == 0).map (ispCfgOf p)
  { s with cams := (s.cams.zipIdx).map fun q =>
      match cfgs.find? fun c => c.port == q.2 with
      | some c => { q.1 with cfg := some c, powered := true, lastPass := if q.1.powered then q.1.lastPass else now s }
      | none => { q.1 with cfg := none, powered := false, sync := false, awaitFs := true, discarding := false, frame := none,
                           tail := [], ready := none, testAt := none } }

/-- ASY_RANGE of a pair from its class 10 block. -/
def rangeRegs (p : Pattern) (pair : Nat) : RangeRegs :=
  match p.graphs.find? fun g => g.pairId == pair with
  | some g =>
    let b := emitBlock p g.slot
    let v := fun (o : Nat) => BitVec.ofNat 32 (leAt b o 4)
    { distMin := v 0x2C, distMax := v 0x30, speedMax := v 0x34, distJump := v 0x38, speedJump := v 0x3C,
      minPix := BitVec.ofNat 4 (leAt b 0x45 1) }
  | none => {}

/-- R388: the Assayer and the age monitor at a swap point. -/
def swapAsy (old : Option Pattern) (p : Pattern) (s : State) : State :=
  { s with asy := { s.asy with
      handed := s.asy.handed.map fun q => { q with old := true },
      oldPattern := old, history := [], ceiling := p.hdr.ageCeilUs * 1200,
      ranges := (List.range 4).map (rangeRegs p) } }

/-- R135, R206, R211: the slot tables: kind 2 timers restart, and no graph has a valid previous pour. -/
def swapFgs (s : State) : State :=
  let slot := fun (g : GraphSlot) => { g with timerAt := now s, lastGood := none, lastUnits := [] }
  { s with fgs := { s.fgs with
      slots := s.fgs.slots.map slot, flags := [], leaving := s.fgs.leaving.map fun q => { q with old := true } } }

/-- R117, R316: the granule of the new pattern; every reservation and hold is cleared. -/
def swapMonitors (p : Pattern) (r : Rsr) : Rsr :=
  { r with
    granule := if p.hdr.resGranule = 0 then 64 else 256, resvs := [], fails := [], holds := []
    threads := r.threads.map fun t => { t with remote := none } }

/-- R117, R306, R316: the granule changes, every reservation ends, and the scheduler's credits are 0. -/
def swapRiser (p : Pattern) (s : State) : State :=
  let group := fun (g : Group) => { g with credit := 0 }
  { s with
    rsr := swapMonitors p s.rsr
    sch := { s.sch with groups := s.sch.groups.map group } }

/-- R135: the swap point, in one ECLK. -/
def swapIn (p : Pattern) (s : State) : State :=
  let old := s.pat.active
  let rest := (initContent p).filter fun c => overlapsActive s c.1 c.2.1
  let len := sumNat (rest.map fun c => c.2.2.length)
  let s := { s with pat := { s.pat with
    active := some p, previous := old, pending := none, swapAt := none, st := .swapping,
    acceptAt := some (now s + 2400 + ceilDiv len 8) } }
  let s := swapRiser p (swapFgs (swapAsy old p (swapCams p s)))
  let s := bindChannels p s
  raise 0x0531 (rest.foldl (fun s c => placeWrite s c.1 c.2.2) s)

/-- R135, R137: the swap point, once no pour is in flight. -/
def execSwapPoint (s : State) : Host.Outcome State Fault Refusal :=
  match s.pat.swapAt, s.pat.pending with
  | some _, some p => if s.fgs.pours.isEmpty && swapFirst s then done (swapIn p s) else done s
  | _, _ => done s

/-- R137: the pours in flight have not retired in time. -/
def execSwapDrainTimeout (s : State) : Host.Outcome State Fault Refusal :=
  match s.pat.swapAt with
  | some a =>
    let tmo := if s.pat.swapTmo = 0 then s.asy.ceiling else s.pat.swapTmo.toNat
    let open_ := s.fgs.pours.filter fun q => q.aborted.isNone
    if open_.isEmpty || decide (now s < a + tmo) then done s
    else done (open_.foldl (fun s q => abortPour 0x0532 q.ref s) (raise 0x0532 s))
  | none => done s

/-! ### Triggers are accepted again (R136) -/

/-- R136, R154: the flags that a deferred frame in tile buffering has set already count for its pour. -/
def fillSoFar (r : PourRef) (frames : List (Nat × Nat)) (s : State) : State :=
  let p := active s
  frames.foldl (fun s q =>
    let c := nth s.cams q.1 {}
    match (c.frame.toList ++ c.tail).find? fun f => f.index == q.2 with
    | some f =>
      let flags := ((p.nodes.filter fun n => n.cls == 0 && n.slot == r.slot).map (ispCfgOf p)).flatMap fun k =>
        if k.port = q.1 then k.bandFlags else []
      flags.dedup.foldl (fun s g => putFlag g r.seq f.bandsSet s) s
    | none => fillBands r [q.1] s) s

/-- R136: a deferred camera trigger of the same ISP buffers, taken by the graph of its source. -/
def takeDeferred (g : GraphRec) (d : Deferred) (s : State) : State :=
  if g.buffering ≠ 1 then openWhole g.slot d.frames d.fsPair d.damaged s
  else if 2 ≤ (slotPours s g.slot).length then dropTrigger g.slot d.stamp s
  else
    let r : PourRef := { slot := g.slot, seq := (nth s.fgs.slots g.slot {}).nextSeq }
    let s := fillSoFar r d.frames (openPour g.slot d.stamp d.frames none s)
    abortDamaged r d.damaged (if d.paired then fixOrigin r d.fsPair s else s)

/-- R136: the new pattern's graph of the source takes a deferred trigger when its buffers are the old ones, or the frame is
dropped. -/
def resolveDeferred (d : Deferred) (s : State) : State :=
  let p := active s
  match graphOfSource p d.source with
  | some g =>
    if g.triggerKind = 0 ∧ lumaBuffers p g.slot ≠ d.buffers then dropSource d.source d.stamp s
    else if refusing s then raise 0x0807 s
    else if g.triggerKind = 0 then takeDeferred g d s
    else acceptTrigger g.slot d.stamp [] d.owner s
  | none => dropSource d.source d.stamp s

/-- R429: every other chip of the flask has reported its swap point. -/
def peersSwapped (s : State) : Bool :=
  decide ((active s).hdr.flaskSize < 2) || (peersOf (active s) s).all fun c =>
    nth s.lnk.peerSwapped c false || !(linkAt s (linkTo (chipIndex s) c)).trained

/-- R135, R136, R429: the new pattern accepts triggers; while a further swap is requested they stay deferred. -/
def execTriggersAccepted (s : State) : Host.Outcome State Fault Refusal :=
  match s.pat.acceptAt with
  | some t =>
    if now s < t || !peersSwapped s then done s
    else
      let st := if s.pat.st = .swapping then PatState.idle else s.pat.st
      if s.pat.swapAt.isSome then done { s with pat := { s.pat with acceptAt := none, previous := none, st := st } }
      else
        let ds := s.pat.deferred
        let s := { s with pat := { s.pat with acceptAt := none, deferred := [], st := st } }
        let s := ds.foldl (fun s d => resolveDeferred d s) s
        done { s with pat := { s.pat with previous := none } }
  | none => done s

end Sys2Proof.Machine
end

