-- ==== Sys2Proof/Machine/Start.lean ====
section
/-! DEFINITION. The start sequence, firmware images, fuses and attestation (05_start_and_identity.md). -/

namespace Sys2Proof.Machine

/-! ### Staging (R98 to R100) -/

/-- R101: bytes of a firmware image's header. -/
def imageHeader : Nat := 0x120

/-- R100: the length of an image whose header is intact: magic, kind, version and length in range. Images 0 and 1 are the
Assayer and keeper firmware, image 2 is the pattern. -/
def intactLen (i : Nat) (bs : List Byte) : Option Nat :=
  if i < 2 then
    let len := leAt bs 0xC 4
    let most := if i = 0 then 0x80000 else 0x200000
    if leAt bs 0 4 = 0x4D494C50 ∧ leAt bs 4 1 = i + 1 ∧ leAt bs 6 2 = 1 ∧ len % 64 = 0 ∧ len ≤ most then
      some (imageHeader + len)
    else none
  else
    let len := leAt bs 0x08 4
    if leAt bs 0 4 = 0x54415047 ∧ len % 64 = 0 ∧ 1024 ≤ len then some len else none

/-- R99: an image of a boot source laid out as the staging region is: its place and length. An image whose header is not
intact takes one page, and those after it follow. -/
def layout (rd : Nat → Nat → List Byte) : Nat → Nat → Nat → List (Nat × Option Nat)
  | 0, _, _ => []
  | k + 1, i, a =>
    let n := intactLen i (rd a 0x120)
    (a, n) :: layout rd k (i + 1) (alignUp (a + n.getD 4096) 4096)

/-- The images in the staging region: place from its base, and length when the header is intact. -/
def stagedLayout (s : State) : List (Nat × Option Nat) := layout (fun a n => s.mem.read (stagingBase + a) n) 3 0 0

/-- The images of the boot flash (assumption 9). -/
def flashLayout (flash : List Byte) : List (Nat × Option Nat) := layout (fun a n => sliceBytes flash a n) 3 0 0

/-- R100: every staged image is intact and lies in the region. -/
def stagedIntact (s : State) : Bool :=
  (stagedLayout s).all fun q => match q.2 with
    | some n => decide (q.1 + n ≤ stagingSize)
    | none => false

/-- R99: the end of the images. -/
def layoutEnd (l : List (Nat × Option Nat)) : Nat := (l.map fun q => q.1 + q.2.getD 0).foldl max 0

/-- R98, R100: image i of the boot flash fetched to its place, from which the following images keep theirs. -/
def fetchImage (flash : List Byte) (i : Nat) (s : State) : State :=
  let from_ := nth (flashLayout flash) i (0, none)
  let dest := nth (stagedLayout s) i (0, none)
  let bs := sliceBytes flash from_.1 (from_.2.getD 4096)
  { s with mem := s.mem.write (stagingBase + dest.1) (bs.take (stagingSize - dest.1)) }

/-- R100: the images that are fetched again: those not intact, those of which a read is uncorrectable, and those that a
fetched image displaces. -/
def fetchMissing (flash : List Byte) (badReads : List (Fin 3)) (s : State) : State :=
  [0, 1, 2].foldl (fun s i =>
    let q := nth (stagedLayout s) i (0, none)
    let whole := match q.2 with
      | some n => decide (q.1 + n ≤ stagingSize)
      | none => false
    if whole && !(badReads.any fun j => j.val == i) then s else fetchImage flash i s) s

/-! ### Boot failure (R113) -/

/-- R113, R104: the start stops. -/
def bootFail (code : EventCode) (s : State) : State :=
  driveLines { s with sys := { s.sys with failed := true, failCode := code, fetchWait := none } }

/-- A boot failure with its event. -/
def raiseBootFail (code : EventCode) (s : State) : State := bootFail code (raise code s)

/-- A step of R103. -/
def atStep (n : Nat) (s : State) : State := { s with sys := { s.sys with step := BitVec.ofNat 4 n } }

/-! ### Image verification (R101, R102, R107) -/

/-- R102: the first failing check of the image at a place; none when it is accepted. i is 0 for the Assayer firmware and 1
for the keeper firmware. -/
def imageCheck (i place : Nat) (s : State) : Option EventCode :=
  let h := s.mem.read (stagingBase + place) imageHeader
  let bad : EventCode := if i = 0 then 0x0401 else 0x0402
  let slot := leAt h 5 1
  let svn := leAt h 8 4
  let len := leAt h 0xC 4
  let blank := s.fuses.lifecycle == .blank
  let fused := if i = 0 then s.fuses.asySvn else s.fuses.kprSvn
  let keyInRange := if i = 0 then decide (slot ≤ 1) else decide (slot ≤ 3) || (slot == 0xFF && blank)
  let pub := sliceBytes h 0x20 96
  let k := nth s.fuses.slots slot {}
  let rom := i == 0 || slot == 0xFF
  let romKey := if i = 0 then slot else 1
  let keyHash := if rom then Config.romKeyHash romKey else k.hash
  firstOf
    [ need (leAt h 0 4 == 0x4D494C50 && leAt h 4 1 == i + 1 && keyInRange && leAt h 6 2 == 1 && decide (svn ≤ 32)) bad,
      need (decide (fused ≤ svn)) 0x0403,
      need (len % 64 == 0 && decide (len ≤ (if i = 0 then 0x80000 else 0x200000)) && leAt h 0x10 4 % 4 == 0 &&
        decide (leAt h 0x10 4 < len) && zeroAt h 0x14 12 && zeroAt h 0xB0 16 &&
        decide (place + imageHeader + len ≤ stagingSize)) bad,
      need (rom || !blank) 0x0405,
      need (if rom then romKey != 0 || !s.fuses.romKey0Revoked else !k.revoked) 0x0404,
      need ((rom || slotValid k) && sha384 pub == keyHash && (rom || k.useKeeper) &&
        ecdsaVerify pub (sha384 (h.take 0xC0)) (sliceBytes h 0xC0 96) &&
        sha384 (s.mem.read (stagingBase + place + imageHeader) len) == sliceBytes h 0x80 48) bad ]

/-- The svn and SHA-384 of the image at a place, as attestation reports them (R111). -/
def imageId (place : Nat) (s : State) : Nat × List Byte :=
  let h := s.mem.read (stagingBase + place) imageHeader
  (leAt h 8 4, sha384 (s.mem.read (stagingBase + place) (imageHeader + leAt h 0xC 4)))

/-- The place of a staged image. -/
def imagePlace (i : Nat) (s : State) : Nat := (nth (stagedLayout s) i (0, none)).1

/-- R98, R100: the host source: the device waits for the doorbell. -/
def waitDoorbell (inp : StartInputs) (s : State) : State :=
  { s with sys := { s.sys with fetchWait := some (now s), fetchTimedOut := false, startInputs := some inp } }

/-- R113: a failing image is fetched once more before the start stops. The Bool says that the start goes on now. -/
def verifyImage (i : Nat) (inp : StartInputs) (s : State) : Bool × State :=
  match imageCheck i (imagePlace i s) s with
  | none => (true, s)
  | some c =>
    let s := raise c s
    let again := if i = 0 then s.sys.refetched.1 else s.sys.refetched.2
    if again then (false, bootFail c s)
    else
      let s := { s with sys := { s.sys with
        refetched := if i = 0 then (true, s.sys.refetched.2) else (s.sys.refetched.1, true) } }
      if s.sys.source = 1 then
        let s := fetchImage inp.flash i s
        match imageCheck i (imagePlace i s) s with
        | none => (true, s)
        | some c => (false, raiseBootFail c s)
      else (false, waitDoorbell inp s)

/-! ### Steps 6 to 9 (R103) -/

/-- R110: the public key that the Assayer ROM derives from the identity seed is that of the device certificate. -/
def identityMatches (s : State) : Bool := Config.identityKey s.fuses.seed == Config.certificateKey s.fuses.certs

/-- R103 step 6, R104, R110, R390, R476: the Assayer firmware starts: FAULT_N is released, the numbering of messages begins
again, and the detections held since the reset take effect. -/
def startAssayer (s : State) : State :=
  let id := imageId (imagePlace 0 s) s
  let chan := fun (c : SafetyCh) =>
    { c with msgSeq := 0, frozen := none, released := false, queue := [], cur := none, lastConsumed := now s }
  let held := s.ret.heldS1
  let s := { s with
    sys := { s.sys with asyFwSvn := id.1, asyFwHash := id.2, identityOk := identityMatches s }
    asy := { s.asy with state := .normal, lastBurst := s.clock.watch }
    ret := { s.ret with heldS1 := [] }
    sfp := { s.sfp with chA := chan s.sfp.chA, chB := chan s.sfp.chB } }
  let s := if s.sys.identityOk then s else raise 0x0408 s
  driveLines (held.reverse.foldl (fun s c => enterS1 c s) s)

/-- R103 step 9, R143: the staged start pattern goes through R132 from step 2; with one that fails the start completes at
step 8 with phase NO_PATTERN (R113, R142). -/
def startPattern (inp : StartInputs) (s : State) : State :=
  let place := imagePlace 1 s
  let len := imageHeader + leAt (s.mem.read (stagingBase + place) imageHeader) 0xC 4
  let s := atStep 9 s
  let s := { s with sys := { s.sys with step9At := now s, patternArea := stagingBase + alignUp (place + len) 4096 } }
  let s := judgePattern (areaBytes s) none inp.areaFault s
  if s.pat.checked.isSome then s else atStep 8 { s with sys := { s.sys with phase := 2 } }

/-- R103 steps 7 and 8, R107: the keeper firmware is verified, the first rotation starts, and thread 0 jumps to the keeper
entry point. A provisioning image ends the start there. -/
def startKeeper (inp : StartInputs) (s : State) : State :=
  let s := atStep 7 s
  let r := verifyImage 1 inp s
  if !r.1 then r.2
  else
    let s := r.2
    let place := imagePlace 1 s
    let h := s.mem.read (stagingBase + place) imageHeader
    let id := imageId place s
    let thread := fun (t : Thread) => { t with pc := stagingBase + place + imageHeader + leAt h 0x10 4, branch := none }
    let s := atStep 8 { s with
      sys := { s.sys with kprFwSvn := id.1, kprFwHash := id.2, provisioning := leAt h 5 1 == 0xFF }
      tst := { s.tst with rotationAt := some (now s) }
      rsr := { s.rsr with threads := upd s.rsr.threads 0 thread } }
    if s.sys.provisioning then { s with sys := { s.sys with phase := 2 } } else startPattern inp s

/-- R103 step 6 on. -/
def startFirmware (inp : StartInputs) (s : State) : State :=
  let r := verifyImage 0 inp (atStep 6 s)
  if !r.1 then r.2 else startKeeper inp (startAssayer r.2)

/-- R98, R14: a fetch ends: the wait is over, and SYS_BOOT_DOORBELL.staged clears in the next ECLK. -/
def endFetch (s : State) : State :=
  { s with sys := { s.sys with fetchWait := none, startInputs := none, fetchEnded := some (now s) } }

/-- R99: images beyond 8 MiB stop the start; else the firmware is verified. -/
def afterStaging (inp : StartInputs) (s : State) : State :=
  let s := endFetch s
  if stagingSize < layoutEnd (stagedLayout s) then raiseBootFail 0x0105 s else startFirmware inp s

/-- R98, R100: step 5: intact staged images are used in place, others are fetched. -/
def startStaging (inp : StartInputs) (s : State) : State :=
  let s := atStep 5 { s with sys := { s.sys with dramUnits := inp.dramUnits.val } }
  if 2 ≤ inp.bootSel.toNat then raiseBootFail 0x0103 s
  else if stagedIntact s && inp.badReads.isEmpty then afterStaging inp s
  else if inp.bootSel = 1 then
    (if stagingSize < layoutEnd (flashLayout inp.flash) then raiseBootFail 0x0105 s
     else afterStaging inp (fetchMissing inp.flash inp.badReads s))
  else if s.sys.doorbell then afterStaging inp s
  else waitDoorbell inp s

/-- R499, R514, R98, R412: reset is released; the pins are sampled, the time-stamp counter and the windows of R92 restart.
Every rail of the power-up is within its limits by then (R498). -/
def releaseReset (inp : StartInputs) (s : State) : State :=
  { s with
    clock := { s.clock with tsc := 0 }
    ret := { s.ret with starts := s.ret.starts + 1 }
    rails := { s.rails with phy := true, ddr := true }
    ldl := { s.ldl with windowAt := some 0 }
    sys := { s.sys with inReset := false, resetAt := none, source := inp.bootSel, flaskId := inp.flaskId } }

/-- R103 steps 1 to 3: the self-test: its failure enters S2, an uncorrectable fuse error is a boot failure (R106, R114). -/
def startSelfTest (inp : StartInputs) (s : State) : State :=
  let s := atStep 3 s
  if !inp.mismatchReported || !inp.romCrcOk then detectS2 0x0406 s
  else if !inp.fuseEccOk then raiseBootFail 0x0407 s
  else startStaging inp (atStep 4 s)

/-- R499: VDD_CORE has been within its limits for 100.0 µs. -/
def coreSettled (s : State) : Bool := match s.rails.coreAt with
  | some t => decide (t + 120000 ≤ s.clock.watch)
  | none => true

/-- R36, R499: reset can be released: the rails are present and R36 does not hold the device. -/
def mayStart (s : State) : Bool :=
  s.rails.asy && s.rails.core && s.sys.inReset && !s.ret.s2Held && !s.sys.powerUpFailed && coreSettled s

/-- R103: the start sequence, up to a wait for the doorbell or for the load of the start pattern. -/
def execStartSequence (inp : StartInputs) (s : State) : Host.Outcome State Fault Refusal :=
  if mayStart s then done (driveLines (startSelfTest inp (releaseReset inp s))) else done s

/-- R14, R98, R100: the doorbell: a start that waits for it goes on with the images as the host has staged them. -/
def writeDoorbell (s : State) : State :=
  let s := { s with sys := { s.sys with doorbell := true }, cyc := { s.cyc with bell := true } }
  match s.sys.fetchWait, s.sys.startInputs with
  | some _, some inp =>
    driveLines (if s.sys.step.toNat ≤ 6 then afterStaging inp s else startKeeper inp (endFetch s))
  | _, _ => s

/-- R98: a write of SYS_BOOT_DOORBELL.staged. -/
def execBootDoorbell (_who : Agent) (s : State) : Host.Outcome State Fault Refusal :=
  if clocksRun s then done (writeDoorbell s) else done s

/-- R100: the fetch has waited more than 1 s. -/
def execFetchTimeout (s : State) : Host.Outcome State Fault Refusal :=
  match s.sys.fetchWait with
  | some t =>
    if t + 1200000000 < now s ∧ s.sys.fetchTimedOut = false then
      done (raise 0x0106 { s with sys := { s.sys with fetchTimedOut := true } })
    else done s
  | none => done s

/-- R103 step 10, R68, R105: the pattern is loaded and the rotation has completed: the FGS accepts triggers. Only a start
that has not ended without a pattern has its step 10 and its event. -/
def execSysReady (s : State) : Host.Outcome State Fault Refusal :=
  match s.tst.rotationAt with
  | some t =>
    let loaded := s.pat.active.isSome || s.pat.pending.isSome
    if s.sys.ready || s.sys.inReset || s.sys.failed || !loaded || decide (now s < t + rotationSpan) || !rotationPassed s t ||
        !(s.pwr.cur == .run || s.pwr.cur == .trim) then done s
    else
      let s := { s with sys := { s.sys with ready := true } }
      if s.sys.step = 9 ∧ s.sys.phase = 0 then
        done (raise 0x0107 { s with sys := { s.sys with step := 10, phase := 1 } })
      else done s
  | none => done s

/-! ### Fuses (R106, R108, R109) -/

/-- R106, R107: a slot counts as valid outside BLANK. -/
def slotShown (s : State) (i : Nat) : Bool := s.fuses.lifecycle != .blank && slotValid (nth s.fuses.slots i {})

/-- R108: a fuse operation may start at all: it is armed, no pour is in flight, and no attestation is busy. -/
def fuseFree (s : State) : Bool := s.idn.unlock == 2 && s.fgs.pours.isEmpty && s.idn.att.isNone

/-- R108, R109: what an operation needs of its slot. -/
def fuseSlotOk (s : State) : FuseOp → Bool
  | .writeKey slot _ _ =>
    let k := nth s.fuses.slots slot.val {}
    !k.written && k.hash.all fun b => b == 0
  | .revoke slot =>
    (List.range 4).any fun i => i != slot.val && slotValid (nth s.fuses.slots i {}) && (nth s.fuses.slots i {}).usePattern
  | _ => true

/-- R108: a write of IDN_FUSE_CTRL: the operation starts, or is refused. -/
def startFuse (op : FuseOp) (s : State) : State :=
  let ok := fuseFree s && fuseSlotOk s op
  let s := { s with idn := { s.idn with unlock := 0 } }
  if ok then { s with idn := { s.idn with fuseOps := s.idn.fuseOps ++ [(op, now s)] } }
  else raise 0x0411 (setHw .fuseError s)

/-- R108: an operation by an agent that may write IDN. -/
def fuseBy (who : Agent) (op : FuseOp) (s : State) : Host.Outcome State Fault Refusal :=
  if agentKeeperOrHost s who && clocksRun s then done (startFuse op s) else done s

/-- R108 step 2: both unlock words, one after the other. -/
def execFuseUnlock (who : Agent) (s : State) : Host.Outcome State Fault Refusal :=
  if agentKeeperOrHost s who && clocksRun s then done { s with idn := { s.idn with unlock := 2 } } else done s

/-- R108: op 1. -/
def execFuseWriteKey (who : Agent) (slot : Fin 4) (usage : BitVec 2) (s : State) : Host.Outcome State Fault Refusal :=
  fuseBy who (.writeKey slot usage s.idn.fuseData) s

/-- R108: op 2. -/
def execFuseRevokeSlot (who : Agent) (slot : Fin 4) (s : State) : Host.Outcome State Fault Refusal :=
  fuseBy who (.revoke slot) s

/-- R108: op 3. -/
def execFuseAdvanceAsySvn (who : Agent) (s : State) : Host.Outcome State Fault Refusal := fuseBy who .advanceAsy s

/-- R108: op 4. -/
def execFuseAdvanceKprSvn (who : Agent) (s : State) : Host.Outcome State Fault Refusal := fuseBy who .advanceKpr s

/-- R107, R108: op 5. -/
def execFuseDecommission (who : Agent) (s : State) : Host.Outcome State Fault Refusal := fuseBy who .decommission s

/-- R106, R108, R109: the fuses after an operation; a key whose read-back differs leaves its slot burnt. -/
def programFuses (op : FuseOp) (ok : Bool) (s : State) : Fuses :=
  let f := s.fuses
  match op with
  | .writeKey slot usage h =>
    let k : KeySlot := { hash := h, usePattern := usage.getLsbD 0, useKeeper := usage.getLsbD 1, written := ok }
    { f with slots := f.slots.set slot.val k,
             lifecycle := if ok ∧ f.lifecycle = .blank then .secured else f.lifecycle }
  | .revoke slot => if ok then { f with slots := upd f.slots slot.val fun k => { k with revoked := true } } else f
  | .advanceAsy => if ok then { f with asySvn := max f.asySvn s.sys.asyFwSvn } else f
  | .advanceKpr => if ok then { f with kprSvn := max f.kprSvn s.sys.kprFwSvn } else f
  | .decommission => if ok then { f with lifecycle := .decommissioned } else f

/-- R108: the programming that began first ends 2.0 ms after its start, with a read-back. -/
def execFuseProgDone (readBackOk : Bool) (s : State) : Host.Outcome State Fault Refusal :=
  match s.idn.fuseOps with
  | (op, t) :: rest =>
    if now s < t + 2400000 then done s
    else
      let s := { s with
        fuses := programFuses op readBackOk s
        idn := { s.idn with fuseOps := rest } }
      let s := setHw .fuseDone s
      done (if readBackOk then raise 0x0410 s else raise 0x0414 (setHw .fuseError s))
  | [] => done s

/-! ### Attestation (R111, R112) -/

/-- R105, R107, R110: attestation is available from step 6, outside DECOMMISSIONED, with a matching identity. -/
def startReport (s : State) : State :=
  if s.fuses.lifecycle = .decommissioned then raise 0x0405 (setHw .attError s)
  else if s.sys.identityOk = false then setHw .attError s
  else if s.idn.att.isSome then raise 0x0413 s
  else
    let p := s.pat.active
    let zero := List.replicate 48 (0 : Byte)
    let job : AttJob :=
      { startedAt := now s, nonce := s.idn.nonce, patHash := (p.map Pattern.hash).getD zero,
        slotHash := (p.map Pattern.slotHash).getD zero }
    { s with idn := { s.idn with att := some job } }

/-- The register unit of IDN_ATT_CTRL. -/
def attUnit : Nat := 0x300A0

/-- R112, R515: the writes of IDN_ATT_CTRL.go of one PCLK, with those of the registers that wait for its end; of two the
host's finds the report busy. R108: a write of another register of IDN breaks the unlock sequence. -/
def takeGo (keeper host : Bool) (s : State) : State :=
  let k := keeper || !(heldAt s attUnit true).isEmpty
  let h := host || !(heldAt s attUnit false).isEmpty
  if !assayerRuns s || !(k || h) then s
  else
    let s := startReport (dropHeld attUnit { s with idn := { s.idn with unlock := if keeper || host then 0 else s.idn.unlock } })
    if k && h then raise 0x0413 s else s

/-- R111, R112: writes of IDN_ATT_CTRL.go. -/
def execAttGo (keeper host : Bool) (s : State) : Host.Outcome State Fault Refusal := done (takeGo keeper host s)

/-- R515: the writes that waited; before step 6 they have no effect. -/
def settleGo (s : State) : State := dropHeld attUnit (takeGo false false s)

/-- R106: the code of a lifecycle. -/
def lifeCode : Lifecycle → Nat
  | .blank => 0
  | .secured => 1
  | .decommissioned => 2

/-- SYS_ID: part 0x0480, stepping B0, family 0x01. -/
def sysId : Nat := 0x01B00480

/-- R36: ASY_STATE.s2_count: the entries that still count; 3 while the device is held. -/
def s2Count (s : State) : Nat := if s.ret.s2Held then 3 else min 3 (s2Counting s).length

/-- R111: bytes 0x000 to 0x11F of the report. The spec does not say whether byte 0x035 shows a cause that software has
cleared since, or a host reset since: the model reports SYS_RST_CAUSE as it stands at the signing (assumption 76). -/
def reportBody (j : AttJob) (s : State) : List Byte :=
  leBytes 4 0x52544147 ++ leBytes 2 1 ++ leBytes 2 384 ++ sliceBytes j.nonce 0 32 ++ leBytes 8 s.fuses.serial.toNat ++
  leBytes 4 sysId ++ leBytes 1 (lifeCode s.fuses.lifecycle) ++ leBytes 1 s.sys.rstCause.toNat ++
  leBytes 1 (sumNat ((List.range 4).map fun i => if slotShown s i then 2 ^ i else 0)) ++
  leBytes 1 (s2Count s) ++ leBytes 4 s.ret.starts ++ leBytes 4 0 ++ leBytes 8 (now s) ++
  leBytes 4 s.sys.asyFwSvn ++ leBytes 4 s.sys.kprFwSvn ++ sliceBytes s.sys.asyFwHash 0 48 ++
  sliceBytes s.sys.kprFwHash 0 48 ++ sliceBytes j.patHash 0 48 ++ sliceBytes j.slotHash 0 48 ++
  leBytes 2 s.ret.lastEvent.toNat ++ List.replicate 14 0

/-- R111: the report is written, with a signature that only the identity key makes. -/
def execAttDone (s : State) : Host.Outcome State Fault Refusal :=
  match s.idn.att with
  | some j =>
    if !assayerRuns s then done s
    else
      let body := reportBody j s
      let sig := Config.attestationSignature s.fuses.seed (sha384 body) s.draws
      done (raise 0x0412 (setHw .attDone { s with
        idn := { s.idn with att := none, attBuf := body ++ sliceBytes sig 0 96 }
        draws := s.draws + 1 }))
  | none => done s

end Sys2Proof.Machine
end

