-- ==== Sys2Proof/Machine/HostOps.lean ====
section
/-! DEFINITION. The host interface's own happenings (R459, R460, R475, R487, R519) and the safety channels' transfers (R462 to
R468, R471, R473, R476). -/

namespace Sys2Proof.Machine

/-! ### The event FIFO (R460) -/

/-- R12: where the number of events that HIF_EVT_POP can return in this ECLK stands in the list of RC fields. -/
def rcPopAt : Nat := 14

/-- R12, R460: a read of HIF_EVT_POP removes the oldest event of those that the FIFO held as the ECLK began; a drop run's entry
takes the entry that becomes free. -/
def popEvent (s : State) : Word32 × State :=
  match s.hif.fifo, nth s.rcOld rcPopAt 0 with
  | [], _ => (0, s)
  | _, 0 => (0, s)
  | c :: rest, n + 1 =>
    let s := { s with hif := { s.hif with fifo := rest }, rcOld := s.rcOld.set rcPopAt n }
    let s := if s.hif.dropRun then
        let s := markEvt s 0x1203
        signalEvent { s with hif := { s.hif with fifo := s.hif.fifo ++ [0x1203], dropRun := false } } 0x1203
      else s
    (BitVec.ofNat 32 (put 0 16 c.toNat + put 31 1 1), s)

/-- R460: a read of HIF_EVT_POP by the host or a keeper-mode thread; the code it returns is the access's answer. -/
def execEvtPop (who : Agent) (s : State) : Host.Outcome State Fault Refusal :=
  if !agentKeeperOrHost s who then done s
  else
    let r := popEvent s
    done { r.2 with hif := { r.2.hif with reply := .data (leBytes 4 r.1.toNat) } }

/-! ### MSI-X (R459) -/

/-- A vector changed. -/
def updVector (v : Nat) (f : MsixVec → MsixVec) (s : State) : State :=
  { s with hif := { s.hif with vectors := upd s.hif.vectors v f } }

/-- R459: the mask bit of a vector is cleared: a vector whose PBA bit is set sends its message. -/
def unmaskVector (v : Nat) (s : State) : State :=
  let e := nth s.hif.vectors v {}
  let s := updVector v (fun e => { e with masked := false, pba := false }) s
  if e.pba then signalMsix s v else s

/-- R459: the mask bit of a vector is set; a merged message that still waits sets the PBA bit. -/
def maskVector (v : Nat) (s : State) : State :=
  updVector v (fun e => { e with masked := true, pba := e.pba || e.waiting, waiting := false }) s

/-- R459: an unmasking by the host. -/
def execMsixUnmask (v : Fin 64) (s : State) : Host.Outcome State Fault Refusal :=
  if (nth s.hif.vectors v.val {}).masked then done (unmaskVector v.val s) else done s

/-- R459: 1.0 µs after a vector's previous message its merged message goes. -/
def execMsixPendingSend (v : Fin 64) (s : State) : Host.Outcome State Fault Refusal :=
  let e := nth s.hif.vectors v.val {}
  if e.waiting && !e.masked && decide (e.lastSent.getD 0 + 1200 ≤ s.clock.watch) then done (sendMsix s v.val) else done s

/-! ### Resets and training of the host interface (R475, R487, R519) -/

/-- The rails of the host interface are present (R519). -/
def hifPowered (s : State) : Bool := s.rails.asy && s.rails.core && s.pwr.cur != .hold && s.pwr.cur != .off

/-- R475: the copies that have left and not reached the host are discarded; how many is open. -/
def dropCopies (s : State) : Nat × State :=
  let copies := (s.hif.posted.reverse.takeWhile fun w => w.data.length == 64).length
  if s.hif.copyEn && decide (0 < copies) then
    let f := drawFree s
    let k := f.1.toNat % (copies + 1)
    (k, { f.2 with hif := { f.2.hif with posted := f.2.hif.posted.take (f.2.hif.posted.length - k) } })
  else (0, s)

/-- R475, R487: the host interface alone is reset; HIF_EVT_LOST and HIF_COPY_DROP keep their counts. -/
def resetHif (s : State) : State :=
  let d := dropCopies s
  { d.2 with
    hif := { posted := d.2.hif.posted, evtLost := d.2.hif.evtLost, copyDrop := satAdd 32 d.2.hif.copyDrop d.1 }
    cyc := { d.2.cyc with sets := d.2.cyc.sets.filter fun c => blockOf c != 0x12, pushed := 0 } }

/-- R475: the link goes down in this reset. -/
def takesLinkDown (s : State) (kind : HostResetKind) : Bool :=
  s.hif.linkUp && (kind == .linkDown || kind == .perstN)

/-- R475, R96: a reset of the host interface alone. -/
def execHostReset (kind : HostResetKind) (s : State) : Host.Outcome State Fault Refusal :=
  if !hifPowered s then done s
  else
    let down := takesLinkDown s kind
    let s := resetHif s
    let s := setHw .hostReset { s with sys := { s.sys with hostAt := some s.clock.watch } }
    let s := raise 0x0104 s
    done (if down then raise 0x1201 s else s)

/-- R519: the link trains to L0. -/
def execPcieLinkTrained (speed : BitVec 3) (width : BitVec 4) (s : State) : Host.Outcome State Fault Refusal :=
  if hifPowered s && !s.hif.linkUp then
    done { s with hif := { s.hif with linkUp := true, speed := speed, width := width } }
  else done s

/-! ### Transfers on the safety channels -/

/-- R61, R471: the channels answer: VDD_ASY is present and the device is not in HOLD or OFF. -/
def channelsAnswer (s : State) : Bool := s.rails.asy && s.pwr.cur != .hold && s.pwr.cur != .off

/-- R474: the entries of a queue that entered before the current PCLK; a batch of the PCLK of the fall joins the next message.
The spec says this of a batch; the model takes notices in the same way, and entries of the two PCLK until the message is
formed (assumption 79). -/
def queuedBefore (s : State) (c : SafetyCh) : Nat :=
  (c.queue.filter fun r => decide (s.clock.watch % 6 < now s - r.release)).length

/-- R462: the fall of CS_N, sampled in this PCLK: the message is formed two PCLK later. -/
def execSpiCsFall (ch : Channel) (s : State) : Host.Outcome State Fault Refusal :=
  if (chanOf s ch).selected then done s
  else
    let n := queuedBefore s (chanOf s ch)
    done (updChan s ch fun c => { c with selected := true, forming := some (6 * (s.clock.watch / 6 + 2), n) })

/-- R462, R463, R471, R476: the message of a transfer, of the first n entries of the queue; none is 0x00 bytes. -/
def messageFor (s : State) (c : Channel) (n : Nat) : Option Message :=
  if !channelsAnswer s then none
  else if assayerStarted s then some (formMessage s c n)
  else (chanOf s c).frozen

/-- R462, R469, R474: the message of a transfer is formed when its time has come. -/
def formDue (ch : Channel) (s : State) : State :=
  match (chanOf s ch).forming with
  | some (t, n) =>
    if s.clock.watch < t then s
    else
      let m := messageFor s ch n
      let live := channelsAnswer s && assayerStarted s
      updChan s ch fun c =>
        { c with forming := none, cur := m, formed := c.formed || live, noticeLost := c.noticeLost && !live }
  | none => s

/-- R468: a message has been consumed: its entries leave the queue; a frozen one advances nothing (R476). -/
def consumeMessage (m : Message) (t : Nat) (c : SafetyCh) : SafetyCh :=
  let frozen := m.hdr.safe == 2 || m.hdr.seq != c.msgSeq
  let c := { c with lastConsumed := t, lateRaised := false, lastSeq := m.hdr.seq }
  if frozen then c else { c with msgSeq := c.msgSeq + 1, queue := c.queue.drop m.records.length }

/-- R468, R469: CS_N rises after a number of bytes; queue room that comes free lets a batch enter later. -/
def execSpiCsRise (ch : Channel) (bytes : Nat) (s : State) : Host.Outcome State Fault Refusal :=
  let c := chanOf s ch
  if !c.selected then done s
  else
    let s := updChan s ch fun c => { c with selected := false, forming := none, cur := none }
    match c.cur with
    | none => done s
    | some m =>
      if m.bytes.length ≤ bytes then done (updChan s ch (consumeMessage m (now s)))
      else
        done (raise 0x1211 (updChan s ch fun c =>
          { c with trunc := satAdd 32 c.trunc 1, noticeLost := c.noticeLost || m.hdr.noticeLost }))

/-- R471: 2 ms without a consumed message. -/
def execSfpPollLate (ch : Channel) (s : State) : Host.Outcome State Fault Refusal :=
  let c := chanOf s ch
  if channelsAnswer s && assayerStarted s && !c.lateRaised && decide (c.lastConsumed + 2400000 ≤ now s) then
    done (raise 0x1212 (updChan s ch fun c => { c with lateRaised := true }))
  else done s

/-- R473, R496: a pad differs from its driven level for 1.0 µs. -/
def execSfpLineStuck (_line : SafetyLine) (s : State) : Host.Outcome State Fault Refusal :=
  if s.rails.asy && s.rails.io then done (detectS2 0x1215 s) else done s

end Sys2Proof.Machine
end

