-- ==== Sys2Proof/Machine/RegRead.lean ====
section
/-! DEFINITION. Reads of the register windows (R8, R506, R507): one function per block, from an offset in the block to the
value of the 4-byte word there and what the read does (RC). -/

namespace Sys2Proof.Machine

/-- R330, R267: who makes a register access, and whether it carries the keeper mode of a thread of this chip. -/
structure RegAcc where
  who : Agent
  keeper : Bool
  deriving DecidableEq, Repr

/-- The access of an agent, in the mode its thread has now. -/
def accOf (s : State) (who : Agent) : RegAcc := { who := who, keeper := agentKeeper s who }

/-- A keeper-mode thread of this chip, or the host. -/
def RegAcc.kh (a : RegAcc) : Bool := a.keeper || a.who == .host

/-- The word of a 64-bit register at an offset. -/
def half (o v : Nat) : Nat := if o % 8 < 4 then v % 2 ^ 32 else v / 2 ^ 32 % 2 ^ 32

/-- A read without effect. -/
abbrev plain (v : Nat) (s : State) : Nat × State := (v, s)

/-- The bit of a flag at a place. -/
def flag (lo : Nat) (b : Bool) : Nat := put lo 1 (flagNat b)

/-! ### RC fields (R12) -/

/-- R12: the RC fields in one order, each as one number: those of PWR, LDL, FGS, NEU, RSR, SCH, TAP and LNK, of HIF with the
events of its FIFO, then those of the links, the vision instances and the CSI receivers. -/
def rcValues (s : State) : List Nat :=
  [s.pwr.tempPeak.toNat, s.ldl.peak.toNat, s.ldl.waitMax, s.fgs.dlMiss, s.fgs.dlCut, s.neu.satCnt, s.neu.fpCnt,
   s.neu.eccFix, s.rsr.excCnt, s.sch.waitMax, s.tap.drop, s.lnk.residMax.toNat, s.hif.copyDrop, s.hif.evtLost,
   s.hif.fifo.length] ++
  s.lnk.links.map Link.replayCnt ++ s.ven.insts.map VenInst.skipCnt ++ s.ven.insts.map VenInst.clsCnt ++
  s.cams.flatMap fun c => [c.cntEccFix.toNat, c.cntEccFail.toNat, c.cntCrc.toNat, c.cntLine.toNat, c.cntDt.toNat]

/-- R12: an RC read of field i: the value as the ECLK began, which a second read of it finds cleared; and the state with what
`keep` leaves. -/
def rcRead (i : Nat) (keep : Nat → State → State) (s : State) : Nat × State :=
  let old := nth s.rcOld i 0
  (old, keep old { s with rcOld := s.rcOld.set i 0 })

/-- R12: what a read leaves of a counter: what has been counted in the ECLK of the read. -/
def rcCount (now old : Nat) : Nat := now - old

/-- R12: what a read leaves of a maximum: one that was set in the ECLK of the read. -/
def rcPeak (now old : Nat) : Nat := if now = old then 0 else now

/-! ### SYS, PWR, LDL -/

/-- SYS. -/
def sysRead (o : Nat) (s : State) : Nat × State :=
  match o with
  | 0x000 => plain sysId s
  | 0x004 => plain s.sys.rstCause.toNat s
  | 0x00C => plain (s.sys.step.toNat + put 4 2 s.sys.phase.toNat + put 6 2 s.sys.source.toNat + flag 8 s.sys.failed +
      put 16 16 s.sys.failCode.toNat) s
  | 0x010 => plain (flagNat s.sys.doorbell) s
  | 0x018 => plain s.sys.dramUnits s
  | _ => plain 0 s

/-- PWR and CLK_STAT. -/
def pwrRead (o : Nat) (s : State) : Nat × State :=
  let p := s.pwr
  match o with
  | 0x000 => plain p.modeReq.toNat s
  | 0x004 => plain ((powerCode p.cur).toNat + flag 8 p.trans.isSome + put 9 3 ((p.pend.map fun m => (powerCode m).toNat).getD 0) +
      flag 12 p.pend.isSome) s
  | 0x008 => plain (p.trimArrays.toNat + put 16 5 p.trimVen.toNat) s
  | 0x00C => plain p.trimCeil.toNat s
  | 0x010 => plain (p.minHits.toNat + put 4 8 p.delta.toNat + put 12 10 p.cells.toNat + put 24 3 p.pipe.toNat +
      flag 28 p.autoRun) s
  | 0x014 => plain (p.window.toNat + put 8 4 p.count.toNat + flag 16 p.fired) s
  | 0x018 =>
    let r := rcRead 0 (fun old s => { s with pwr := { s.pwr with tempPeak := BitVec.ofNat 9 (rcPeak s.pwr.tempPeak.toNat old) } }) s
    (p.temp.toNat + put 16 9 r.1 + flag 28 p.tempHigh, r.2)
  | 0x01C => plain (p.exitMode.toNat + put 16 16 p.wakeMs.toNat) s
  | 0x100 => plain (flag 0 p.pllLock + flag 1 p.refOk + flag 2 p.monOk + put 8 18 p.pclkCount.toNat) s
  | _ => plain 0 s

/-- LDL. -/
def ldlRead (o : Nat) (s : State) : Nat × State :=
  let l := s.ldl
  let head := queueHead l.queue
  let load := fun (n : Nat) =>
    let t := nth l.loads n {}
    t.tickets.toNat + flag 12 (loadPhase s n != .idle) + put 16 16 t.hold.toNat
  match o with
  | 0x000 => plain l.ceil s
  | 0x004 => plain (put 0 10 (grantedSum s) + put 16 10 l.activeCeil + flag 28 l.frozen) s
  | 0x008 => plain l.standing s
  | 0x00C => plain (l.marginAbs.toNat + put 8 4 l.marginRel.toNat + put 12 4 l.windows.toNat) s
  | 0x010 =>
    let r := rcRead 1 (fun old s => { s with ldl := { s.ldl with peak := BitVec.ofNat 11 (rcPeak s.ldl.peak.toNat old) } }) s
    (l.measured.toNat + put 16 11 r.1, r.2)
  | 0x014 => plain l.evt.toNat s
  | 0x018 => plain (put 0 7 l.queue.length + put 16 10 ((head.map Request.id).getD 0) +
      put 26 6 ((head.map Request.tickets).getD 0)) s
  | 0x020 => rcRead 2 (fun old s => { s with ldl := { s.ldl with waitMax := rcPeak s.ldl.waitMax old } }) s
  | 0x030 => plain (load 0) s
  | 0x038 => plain (load 1) s
  | _ => plain 0 s

/-! ### IDN, PAT -/

/-- A word of a byte window. -/
def wordOf (bs : List Byte) (o : Nat) : Nat := leAt bs o 4

/-- The two status registers of IDN. -/
def opStat (busy ok bad : Bool) : Nat := flag 0 busy + flag 1 ok + flag 2 bad

/-- IDN. -/
def idnRead (o : Nat) (s : State) : Nat × State :=
  let slots := sumNat ((List.range 4).map fun i => if slotShown s i then 2 ^ i else 0)
  if o < 0x008 then plain (half o s.fuses.serial.toNat) s
  else if o = 0x008 then
    plain (lifeCode s.fuses.lifecycle + put 4 4 slots + put 8 6 s.fuses.asySvn + put 16 6 s.fuses.kprSvn) s
  else if o = 0x078 then plain (opStat (!s.idn.fuseOps.isEmpty) s.idn.fuseDone s.idn.fuseError) s
  else if o = 0x0A4 then plain (opStat s.idn.att.isSome s.idn.attDone s.idn.attError) s
  else if o = 0x0A8 then plain s.fuses.certs.length s
  else if 0x100 ≤ o ∧ o < 0x280 then plain (wordOf s.idn.attBuf (o - 0x100)) s
  else if 0x400 ≤ o ∧ o < 0xC00 then plain (wordOf s.fuses.certs (o - 0x400)) s
  else plain 0 s

/-- PAT_STAT.state. -/
def patCode : PatState → Nat
  | .idle => 0
  | .copying => 1
  | .verifying => 2
  | .parsing => 3
  | .pending => 4
  | .draining => 5
  | .swapping => 6

/-- PAT. -/
def patRead (o : Nat) (s : State) : Nat × State :=
  let p := s.pat
  match o with
  | 0x000 => plain (flag 8 p.holdSwap) s
  | 0x008 => plain (half o p.src.toNat) s
  | 0x00C => plain (half o p.src.toNat) s
  | 0x010 => plain p.len.toNat s
  | 0x014 => plain (patCode p.st + flag 8 p.active.isSome + put 16 16 p.failCode.toNat) s
  | 0x018 => plain ((p.active.map fun q => q.hdr.patternId % 2 ^ 32).getD 0) s
  | 0x01C => plain ((p.active.map fun q => q.hdr.revision % 2 ^ 32).getD 0) s
  | 0x020 => plain p.swapTmo.toNat s
  | 0x024 => plain p.evt.toNat s
  | _ => plain 0 s

/-! ### CSI and ISP -/

/-- CSI receiver p. -/
def csiRead (p o : Nat) (s : State) : Nat × State :=
  let c := nth s.cams p {}
  let rc := fun (i : Nat) (f : Nat → Camera → Camera) =>
    rcRead (44 + 5 * p + i) (fun old s => { s with cams := upd s.cams p (f old) }) s
  let left := fun (n : BitVec 16) (old : Nat) => BitVec.ofNat 16 (rcCount n.toNat old)
  match o with
  | 0x000 => plain (flag 0 c.sync + flag 1 c.frame.isSome + put 8 4 c.damageRun + put 16 16 c.frameCount) s
  | 0x010 => rc 0 fun old c => { c with cntEccFix := left c.cntEccFix old }
  | 0x014 => rc 1 fun old c => { c with cntEccFail := left c.cntEccFail old }
  | 0x018 => rc 2 fun old c => { c with cntCrc := left c.cntCrc old }
  | 0x01C => rc 3 fun old c => { c with cntLine := left c.cntLine old }
  | 0x020 => rc 4 fun old c => { c with cntDt := left c.cntDt old }
  | 0x030 => plain c.csiEvt.toNat s
  | _ => plain 0 s

/-- ISP pipe p. -/
def ispRead (p o : Nat) (s : State) : Nat × State :=
  let c := nth s.cams p {}
  match o with
  | 0x000 => plain (put 0 1 c.half + flag 1 c.frame.isSome + put 8 24 (min (2 ^ 24 - 1) ((now s - c.lastPass) / 1024))) s
  | 0x004 => plain c.testSig.toNat s
  | 0x008 => plain (put 16 16 c.ispEvt.toNat + flag 0 c.paramBad) s
  | _ => plain 0 s

/-! ### VEN, FGS, NEU -/

/-- R163: the class of a logical instance. -/
def instClass (k : Nat) : Nat := if k < 2 then 0 else if k < 5 then 1 else if k < 7 then 2 else if k < 9 then 3 else 4

/-- VEN_STAT.pass of a command in progress or just ended is the engine's own: a free value. -/
def venPass (i : VenInst) (s : State) : Nat × State :=
  if i.cmd.isNone && i.cycCoarse == 0 && i.cycRefine == 0 then plain 0 s
  else ((drawFree s).1.toNat % 2, (drawFree s).2)

/-- VEN_STAT: an unbound instance shows a free value as its physical one. -/
def venStat (k : Nat) (s : State) : Nat × State :=
  let i := nth s.ven.insts k {}
  let a := venPass i s
  let b := match boundUnit a.2 (instClass k) k with
    | some u => plain (unitId u) a.2
    | none => ((drawFree a.2).1.toNat, (drawFree a.2).2)
  (flag 0 i.cmd.isSome + put 1 1 a.1 + put 8 8 b.1 + put 16 3 i.lastStatus.toNat, b.2)

/-- A logical instance's page. -/
def venPage (k o : Nat) (s : State) : Nat × State :=
  let i := nth s.ven.insts k {}
  let rc := fun (j : Nat) (f : Nat → VenInst → VenInst) =>
    rcRead (j + k) (fun old s => { s with ven := { s.ven with insts := upd s.ven.insts k (f old) } }) s
  match o with
  | 0x000 => venStat k s
  | 0x004 => rc 18 fun old i => { i with skipCnt := rcCount i.skipCnt old }
  | 0x100 => plain i.cycCoarse s
  | 0x104 => plain i.cycRefine s
  | 0x108 => rc 31 fun old i => { i with clsCnt := rcCount i.clsCnt old }
  | 0x10C => plain i.clsEvt.toNat s
  | _ => plain 0 s

/-- VEN_MAP: the physical index under test of each class, 7 for none. -/
def venMap (s : State) : Nat :=
  sumNat ((List.range 5).map fun c => put (4 * c) 3 (match (classAt s c).unit with
    | some u => u - classBase c
    | none => 7))

/-- VEN. -/
def venRead (o : Nat) (s : State) : Nat × State :=
  let k := o / 0x1000
  if k < 13 then venPage k (o % 0x1000) s
  else if o = 0xF000 then plain (venMap s) s
  else if o = 0xF004 then plain s.ven.evt.toNat s
  else plain 0 s

/-- FGS. -/
def fgsRead (o : Nat) (s : State) : Nat × State :=
  let f := s.fgs
  let slot := fun (n r : Nat) =>
    let g := nth f.slots n {}
    match r with
    | 0x0 => put 0 2 (slotPours s n).length + put 4 4 g.abortRun
    | 0x4 => g.lastSeq
    | 0x8 => g.abortCause.toNat
    | _ => 0
  match o with
  | 0x000 => plain (flag 0 f.drain + put 8 4 f.abortLimit.toNat) s
  | 0x004 => plain (put 0 5 f.pours.length + flag 8 (drained s)) s
  | 0x00C =>
    let miss := rcRead 3 (fun old s => { s with fgs := { s.fgs with dlMiss := rcCount s.fgs.dlMiss old } }) s
    let cut := rcRead 4 (fun old s => { s with fgs := { s.fgs with dlCut := rcCount s.fgs.dlCut old } }) miss.2
    (put 0 16 miss.1 + put 16 16 cut.1, cut.2)
  | 0x010 => plain f.evt.toNat s
  | _ => if 0x100 ≤ o ∧ o < 0x180 then plain (slot ((o - 0x100) / 16) (o % 16)) s else plain 0 s

/-- NEU_LMAP: an unbound array shows a free value as its physical one. -/
def neuMap (n : Nat) (s : State) : Nat × State :=
  let a := nth s.neu.arrays n {}
  let p := match a.phys with
    | some q => plain q s
    | none => ((drawFree s).1.toNat, (drawFree s).2)
  (put 0 5 p.1 + flag 8 a.busy + put 16 10 a.nodeId, p.2)

/-- R259: NEU_STALL of an array, with the stall of the command in progress so far. -/
def neuStall (n : Nat) (s : State) : Nat :=
  let runs := (s.neu.cmds.flatMap NeuCmd.arrays).filter fun x => x.array == n
  satAdd 32 (nth s.neu.arrays n {}).stall (sumNat (runs.map fun x => x.stalled (now s)))

/-- NEU. -/
def neuRead (o : Nat) (s : State) : Nat × State :=
  let n := s.neu
  match o with
  | 0x000 => plain (put 0 5 (n.testPhys.getD 31) + flag 8 n.handover.isSome) s
  | 0x004 => rcRead 5 (fun old s => { s with neu := { s.neu with satCnt := rcCount s.neu.satCnt old } }) s
  | 0x008 => rcRead 6 (fun old s => { s with neu := { s.neu with fpCnt := rcCount s.neu.fpCnt old } }) s
  | 0x00C => rcRead 7 (fun old s => { s with neu := { s.neu with eccFix := rcCount s.neu.eccFix old } }) s
  | 0x010 => plain n.evt.toNat s
  | 0x014 => plain n.layEvt.toNat s
  | _ =>
    if 0x100 ≤ o ∧ o < 0x140 then neuMap ((o - 0x100) / 4) s
    else if 0x200 ≤ o ∧ o < 0x240 then plain (nth n.arrays ((o - 0x200) / 4) {}).cyc s
    else if 0x300 ≤ o ∧ o < 0x340 then plain (neuStall ((o - 0x300) / 4) s) s
    else plain 0 s

/-! ### RSR, SCH -/

/-- RSR_THR_STAT.state. -/
def threadCode : ThreadSt → Nat
  | .held => 0
  | .running => 1
  | .idle => 2
  | .halted => 3

/-- RSR_THR_STAT. -/
def threadStat (th : Thread) : Nat :=
  threadCode th.st + flag 3 th.keeper + flag 4 (inHandler th) + put 16 48 th.lastPc

/-- RSR. -/
def rsrRead (o : Nat) (s : State) : Nat × State :=
  let r := s.rsr
  if o < 0x20 then plain (nth r.rel (o / 4) 0).toNat s
  else if 0x40 ≤ o ∧ o < 0x60 then plain (nth r.keeperMask ((o - 0x40) / 4) 0).toNat s
  else if o = 0x80 ∨ o = 0x84 then plain (half o r.vec.toNat) s
  else if o = 0x90 then plain r.evt.toNat s
  else if o = 0x98 then rcRead 8 (fun old s => { s with rsr := { s.rsr with excCnt := rcCount s.rsr.excCnt old } }) s
  else if 0x100 ≤ o ∧ o < 0x900 then plain (half o (threadStat (threadAt s ((o - 0x100) / 8)))) s
  else plain 0 s

/-- SCH_GRP_CFG. -/
def groupCfg (g : Group) : Nat := g.weight.toNat + put 8 9 g.limit.toNat + flag 24 g.preempt

/-- SCH_GRP_STAT. -/
def groupStat (s : State) (g : Nat) : Nat :=
  let waits := fun (t : Task) => t.group == g && (t.st == TaskSt.ready || t.st == TaskSt.preempted)
  put 0 14 (s.sch.tasks.filter waits).length + put 16 9 (groupRunning s g)

/-- SCH, the thread ports apart. -/
def schRead (o : Nat) (s : State) : Nat × State :=
  match o with
  | 0x000 => plain (put 0 14 s.sch.tasks.length + put 16 12 (matchUsed s)) s
  | 0x010 => plain s.sch.evt.toNat s
  | 0x018 => rcRead 9 (fun old s => { s with sch := { s.sch with waitMax := rcPeak s.sch.waitMax old } }) s
  | _ =>
    if 0x100 ≤ o ∧ o < 0x140 then plain (groupCfg (nth s.sch.groups ((o - 0x100) / 4) {})) s
    else if 0x180 ≤ o ∧ o < 0x1C0 then plain (groupStat s ((o - 0x180) / 4)) s
    else plain 0 s

/-- A word of a thread's port, as its own thread reads it. -/
def portWord (t o : Nat) (s : State) : Nat × State :=
  let p := nth s.sch.ports t {}
  if o = 0x44 then (p.result.toNat, updPort t (fun p => { p with result := 0 }) s)
  else if o = 0x4C then plain p.cur.toNat s
  else if o = 0x58 ∨ o = 0x5C then plain (half o p.arg.toNat) s
  else if o = 0x60 ∨ o = 0x64 then plain (half o p.ctx.toNat) s
  else if 0x70 ≤ o then plain (nth p.opnd ((o - 0x70) / 4) 0).toNat s
  else plain 0 s

/-- R307: CUR, ARG, CTX and OPND of any port, which keeper-mode threads and the host may read. -/
def portOpen (o : Nat) : Bool := o == 0x4C || decide (0x58 ≤ o ∧ o < 0x68) || decide (0x70 ≤ o ∧ o < 0x80)

/-- R307: an access of a port by an initiator other than its own thread. -/
def foreignPort (a : RegAcc) (t : Nat) : Bool := match a.who with
  | .thread u => u.val != t
  | _ => true

/-- R307: words of a port: a foreign access reads 0 and raises SCH_PORT_FOREIGN, once. -/
def portRead (a : RegAcc) (t o n : Nat) (s : State) : Nat × State :=
  if foreignPort a t && !(a.kh && portOpen o) then (0, raise 0x0B08 s)
  else
    let lo := portWord t o s
    if n ≤ 4 then lo
    else
      let hi := portWord t (o + 4) lo.2
      (lo.1 + 2 ^ 32 * hi.1, hi.2)

/-! ### XLT, FWL, DMA -/

/-- XLT_FAULT_INFO and FWL_FAULT_INFO. -/
def faultInfo (f : FaultRec) : Nat :=
  f.id.toNat + put 12 3 f.kind.toNat + flag 15 f.write + put 16 8 f.more.toNat + flag 31 f.valid

/-- XLT. -/
def xltRead (o : Nat) (s : State) : Nat × State :=
  let x := s.xlt
  if 8 ≤ o ∧ o < 0x200 then
    let r := nth x.roots (o / 8) (false, 0)
    plain (half o (flag 0 r.1 + put 9 39 (r.2.toNat / 512))) s
  else if o = 0x804 then plain (flag 0 !x.invBusy.isEmpty) s
  else if o = 0x810 ∨ o = 0x814 then plain (half o x.fault.addr.toNat) s
  else if o = 0x818 then plain (faultInfo x.fault) s
  else if o = 0x820 then plain x.evt.toNat s
  else if 0x1000 ≤ o ∧ o < 0x2000 then plain (((x.bind.find? fun b => b.1 == (o - 0x1000) / 4).map Prod.snd).getD 0) s
  else plain 0 s

/-- FWL_REG. -/
def regionRead (r : Region) (o : Nat) : Nat :=
  if o < 8 then half o (put 12 36 r.base.toNat)
  else if o < 0x10 then half o (put 12 36 r.limit.toNat)
  else if o = 0x10 then r.idLo.toNat + put 16 10 r.idHi.toNat
  else if o = 0x18 then flag 0 r.en + flag 1 r.r + flag 2 r.w + flag 3 r.x + flag 4 r.keeper + flag 8 r.lock
  else 0

/-- FWL. -/
def fwlRead (o : Nat) (s : State) : Nat × State :=
  if o < 0x800 then plain (regionRead (nth s.fwl.regions (o / 0x20) {}) (o % 0x20)) s
  else if o < 0x808 then plain (half o s.fwl.fault.addr.toNat) s
  else if o = 0x808 then plain (faultInfo s.fwl.fault) s
  else if o = 0x810 then plain s.fwl.evt.toNat s
  else plain 0 s

/-- DMA_CH_STAT.state. -/
def dmaCode : DmaSt → Nat
  | .idle => 0
  | .waitGrant => 1
  | .running => 2
  | .paused => 3
  | .preempted => 4
  | .halted => 5
  | .error => 6

/-- A channel's page. -/
def channelRead (c : DmaCh) (o : Nat) : Nat :=
  match o with
  | 0x04 => chCfg c
  | 0x08 => half o c.desc.toNat
  | 0x0C => half o c.desc.toNat
  | 0x10 => c.entries.toNat + put 16 13 c.head
  | 0x14 => c.regCount.toNat
  | 0x18 => half o c.prod.toNat
  | 0x1C => half o c.prod.toNat
  | 0x20 => half o c.cons.toNat
  | 0x24 => half o c.cons.toNat
  | 0x28 => c.unitLog2.toNat + put 16 16 c.poll.toNat
  | 0x2C => c.hi.toNat
  | 0x30 => c.lo.toNat
  | 0x40 => dmaCode c.st + flag 4 c.owned + flag 8 c.notify + put 16 12 c.buffer.length
  | 0x48 => c.bytes % 2 ^ 32
  | 0x50 => c.units % 2 ^ 32
  | _ => 0

/-- DMA. -/
def dmaRead (o : Nat) (s : State) : Nat × State :=
  let d := s.dma
  if 0x1000 ≤ o ∧ o < 0x3000 then plain (channelRead (chAt s ((o - 0x1000) / 0x100)) (o % 0x100)) s
  else
    match o with
    | 0x004 => plain (flag 0 d.stopped + put 8 5 d.errCh.toNat) s
    | 0x008 => plain (d.errCh.toNat + put 8 3 d.errKind.toNat + flag 11 d.errWrite + put 16 8 d.errMore.toNat +
        flag 31 d.errValid) s
    | 0x010 => plain (half o d.errAddr.toNat) s
    | 0x014 => plain (half o d.errAddr.toNat) s
    | 0x018 => plain (half o d.errDesc.toNat) s
    | 0x01C => plain (half o d.errDesc.toNat) s
    | 0x020 => plain d.evt.toNat s
    | _ => plain 0 s

/-! ### TAP, CTR, LNK, HIF -/

/-- R445, R446: the counter whose low word lies at an offset of CTR, on 8 bytes. -/
def counterAt (o : Nat) : Option CounterName :=
  if o = 0x1000 then some .time
  else if 0x2000 ≤ o ∧ o < 0x2100 ∧ o % 16 = 0 then some (.global (Fin.ofNat 16 ((o - 0x2000) / 16)))
  else if h : 0x4000 ≤ o ∧ o < 0x4960 then
    let src : Fin 75 := ⟨(o - 0x4000) / 32, by omega⟩
    match (o - 0x4000) % 32 with
    | 0 => some (.sourceCmd src)
    | 8 => some (.sourceBusy src)
    | 16 => some (.sourceErr src)
    | _ => none
  else none

/-- TAP and CTR, the counters apart. -/
def tapRead (o : Nat) (s : State) : Nat × State :=
  let t := s.tap
  match o with
  | 0x000 => plain (flag 0 t.en + put 8 6 t.src.toNat) s
  | 0x008 => plain (half o t.base.toNat) s
  | 0x00C => plain (half o t.base.toNat) s
  | 0x010 => plain t.log2.toNat s
  | 0x018 => plain t.wr.toNat s
  | 0x020 => plain t.rd.toNat s
  | 0x028 => plain (put 0 11 t.fifo.length + flag 16 t.error) s
  | 0x030 => rcRead 10 (fun old s => { s with tap := { s.tap with drop := rcCount s.tap.drop old } }) s
  | 0x038 => plain t.evt.toNat s
  | _ =>
    if 0x2000 ≤ o ∧ o < 0x2100 ∧ o % 16 = 8 then
      let g := nth t.glbs ((o - 0x2000) / 16) {}
      plain (g.sel.toNat + flag 8 g.ovf + flag 9 g.irqEn) s
    else plain 0 s

/-- R449: a read of a counter's word, or of the whole counter in one ECLK. -/
def counterRead (a : RegAcc) (c : CounterName) (o n : Nat) (s : State) : Nat × State :=
  let r := if 4 < n then counterValue s c
    else if o % 8 < 4 then ctrReadLow (agentId a.who) c s
    else ctrReadHigh (agentId a.who) c s
  (r.1.toNat, { r.2 with tap := { r.2.tap with readValue := r.1 } })

/-- LNK. -/
def lnkRead (o : Nat) (s : State) : Nat × State :=
  let l := s.lnk
  let stat := fun (k : Link) =>
    flag 0 k.trained + flag 1 k.grp1 + put 4 2 k.peer.toNat + put 8 8 k.lanes.toNat + put 16 4 k.attempts
  if o = 0x000 then plain (s.sys.flaskId.toNat + put 4 2 l.ref.toNat) s
  else if 0x010 ≤ o ∧ o < 0x028 ∧ o % 8 = 0 then plain (stat (nth l.links ((o - 0x10) / 8) {})) s
  else if o = 0x040 then plain l.step.toNat s
  else if o = 0x048 then
    let left := fun (n : BitVec 16) (old : Nat) => BitVec.ofNat 16 (rcPeak n.toNat old)
    let r := rcRead 11 (fun old s => { s with lnk := { s.lnk with residMax := left s.lnk.residMax old } }) s
    (l.resid.toNat + put 16 16 r.1, r.2)
  else if 0x060 ≤ o ∧ o < 0x06C then
    let i := (o - 0x60) / 4
    rcRead (15 + i) (fun old s => updLink i (fun k => { k with replayCnt := rcCount k.replayCnt old }) s) s
  else if o = 0x070 then plain l.peerState.toNat s
  else if o = 0x080 then plain l.evt.toNat s
  else plain 0 s

/-- R457: a word of the MSI-X table. -/
def vectorWord (e : MsixVec) (w : Nat) : Nat :=
  match w with
  | 0 => half 0 e.addr.toNat
  | 1 => half 4 e.addr.toNat
  | 2 => e.data.toNat
  | _ => flagNat e.masked

/-- HIF. -/
def hifRead (o : Nat) (s : State) : Nat × State :=
  let h := s.hif
  match o with
  | 0x000 => plain (half o h.bar2Base.toNat) s
  | 0x004 => plain (half o h.bar2Base.toNat) s
  | 0x008 => plain (flag 0 h.linkUp + put 1 3 h.speed.toNat + put 4 4 h.width.toNat) s
  | 0x010 => plain (flag 0 h.copyEn + put 8 5 h.copyLog2.toNat) s
  | 0x018 => plain (half o h.copyBase.toNat) s
  | 0x01C => plain (half o h.copyBase.toNat) s
  | 0x020 => plain h.copyHead.toNat s
  | 0x024 => plain h.copyTail.toNat s
  | 0x028 => rcRead 12 (fun old s => { s with hif := { s.hif with copyDrop := rcCount s.hif.copyDrop old } }) s
  | 0x030 => ((popEvent s).1.toNat, (popEvent s).2)
  | 0x034 => rcRead 13 (fun old s => { s with hif := { s.hif with evtLost := rcCount s.hif.evtLost old } }) s
  | 0x038 => plain h.evt.toNat s
  | _ =>
    if 0x8000 ≤ o ∧ o < 0x8400 then plain (vectorWord (nth h.vectors ((o - 0x8000) / 16) {}) (o % 16 / 4)) s
    else if o = 0xC000 ∨ o = 0xC004 then
      let base := (o - 0xC000) * 8
      plain (sumNat ((List.range 32).map fun (i : Nat) => if (nth h.vectors (base + i) {}).pba then 2 ^ i else 0)) s
    else plain 0 s

/-! ### The accelerator window -/

/-- The word at an offset of the accelerator register window, ports and counters apart. -/
def regWord (off : Nat) (s : State) : Nat × State :=
  let o := off % 0x10000
  match off / 0x10000 with
  | 0 => sysRead o s
  | 1 => pwrRead o s
  | 2 => ldlRead o s
  | 3 => idnRead o s
  | 4 => patRead o s
  | 5 => if o < 0x8000 then csiRead (o / 0x1000) (o % 0x1000) s else ispRead (o / 0x1000 - 8) (o % 0x1000) s
  | 6 => venRead o s
  | 7 => fgsRead o s
  | 8 => neuRead o s
  | 9 => rsrRead o s
  | 10 => schRead o s
  | 11 => xltRead o s
  | 12 => fwlRead o s
  | 13 => dmaRead o s
  | 14 => tapRead o s
  | 15 => lnkRead o s
  | 16 => hifRead o s
  | _ => plain 0 s

/-- The thread port that an offset of the accelerator window lies in. -/
def portAt (off : Nat) : Option Nat :=
  if 0xA1000 ≤ off ∧ off < 0xA9000 then some ((off - 0xA1000) / 0x80) else none

/-- The counter whose 8 bytes hold an offset of the accelerator window. -/
def counterOf (off : Nat) : Option CounterName :=
  if off / 0x10000 = 14 then counterAt (off % 0x10000 / 8 * 8) else none

/-- A read of 4 bytes, or of 8 aligned ones, of the accelerator window. -/
def regRead (a : RegAcc) (off n : Nat) (s : State) : Nat × State :=
  match portAt off with
  | some t => portRead a t (off % 0x80) n s
  | none =>
    match counterOf off with
    | some c => counterRead a c off n s
    | none =>
      let lo := regWord off s
      if n ≤ 4 then lo
      else
        let hi := regWord (off + 4) lo.2
        (lo.1 + 2 ^ 32 * hi.1, hi.2)

/-! ### The Assayer window -/

/-- ASY. -/
def asyRead (s : State) (o : Nat) : Nat :=
  let r := nth s.asy.ranges ((o - 0x100) / 0x20) {}
  if o = 0 then s.asy.state.code.toNat + put 4 2 (s2Count s) + put 16 16 s.ret.lastEvent.toNat
  else if o = 4 then s.asy.beat.toNat + put 8 24 s.asy.beats.toNat
  else if 0x100 ≤ o ∧ o < 0x180 then
    (match o % 0x20 with
      | 0x00 => r.distMin.toNat
      | 0x04 => r.distMax.toNat
      | 0x08 => r.speedMax.toNat
      | 0x0C => r.distJump.toNat
      | 0x10 => r.speedJump.toNat
      | 0x14 => r.minPix.toNat
      | _ => 0)
  else if 0x200 ≤ o ∧ o < 0x218 then nth s.asy.counts ((o - 0x200) / 4) 0
  else 0

/-- AGE. -/
def ageRead (s : State) (o : Nat) : Nat :=
  if o = 0 then s.asy.ceiling
  else if o = 4 then s.asy.ageMax
  else if o = 8 then s.asy.missCnt
  else if o = 0xC then s.asy.unchecked
  else if 0x10 ≤ o ∧ o < 0x30 then half o (nth s.asy.origins ((o - 0x10) / 8) 0)
  else 0

/-- TST_CLASS.state. -/
def classCode : ClassSt → Nat
  | .normal => 0
  | .tight => 1
  | .degraded => 2
  | .lost => 3

/-- The failed units as a mask. -/
def failedMask (s : State) : Nat := sumNat ((List.range 35).map fun (u : Nat) => if s.tst.failed.contains u then 2 ^ u else 0)

/-- TST. -/
def tstRead (s : State) (o : Nat) : Nat :=
  if o < 0x18 then
    let c := classAt s (o / 4)
    c.unit.getD 63 + put 8 2 (classCode c.state) + put 16 5 (survivors s (o / 4)).length
  else if o = 0x20 then failedMask s % 2 ^ 32
  else if o = 0x24 then failedMask s / 2 ^ 32
  else if 0x40 ≤ o ∧ o < 0x58 then (classAt s ((o - 0x40) / 4)).sigLast.toNat
  else if 0x100 ≤ o ∧ o < 0x218 then half o ((nth s.tst.lastPass ((o - 0x100) / 8) none).getD 0)
  else if 0x400 ≤ o ∧ o < 0x480 then
    (match s.tst.log[(o - 0x400) / 16]? with
      | some e =>
        if o % 16 = 0 then e.unit + flag 6 e.injected + put 16 16 e.cause.toNat
        else if 8 ≤ o % 16 then half o e.stamp else 0
      | none => 0)
  else 0

/-- SFP. -/
def sfpRead (s : State) (o : Nat) : Nat :=
  let c := if o < 0x20 then s.sfp.chA else s.sfp.chB
  if 0x40 ≤ o then 0
  else
    match o % 0x20 with
    | 0x00 => put 0 11 c.queue.length + flag 16 c.safe + flag 17 (stallInForce s)
    | 0x04 => c.lastSeq.toNat
    | 0x08 => c.trunc
    | _ => 0

/-- The word at an offset of the Assayer window; its private memory is not shown to the model (F1 admits no reader
outside the Assayer). -/
def asyWord (s : State) (off : Nat) : Nat :=
  let o := off % 0x10000
  match off / 0x10000 with
  | 0 => asyRead s o
  | 1 => ageRead s o
  | 2 => tstRead s o
  | 3 => sfpRead s o
  | _ => 0

end Sys2Proof.Machine
end

