-- ==== Sys2Proof/Machine/RegWrite.lean ====
section
/-! DEFINITION. Writes of the register windows (R8 to R15, R506, R513): each block takes an 8-byte unit of its window with the
bits that the access writes; a field acts by its access code, or as its own chapter says. -/

namespace Sys2Proof.Machine

/-- The bits that an access writes within a unit: their values, and a mask of the bits that its bytes cover. -/
structure WBits where
  v : Nat
  m : Nat
  deriving DecidableEq, Repr

/-- R8, RW: a field of n bits at lo, old where the access does not write it. -/
def WBits.rw (w : WBits) (old lo n : Nat) : Nat :=
  bits ((put lo n old &&& (w.m ^^^ (2 ^ 64 - 1))) ||| (w.v &&& w.m)) lo n

/-- The ones written to a field: what a W1C, W1S or WO field acts on. -/
def WBits.ones (w : WBits) (lo n : Nat) : Nat := bits (w.v &&& w.m) lo n

/-- A bit written 1. -/
def WBits.one (w : WBits) (lo : Nat) : Bool := bitAt (w.v &&& w.m) lo

/-- R9: the access writes a bit of a field; one that writes reserved bits alone does nothing. -/
def WBits.touches (w : WBits) (lo n : Nat) : Bool := bits w.m lo n != 0

/-- The access covers a bit. -/
def WBits.covers (w : WBits) (lo : Nat) : Bool := bitAt w.m lo

/-- R8: a one-bit RW field. -/
def WBits.rwBit (w : WBits) (old : Bool) (lo : Nat) : Bool := w.rw (flagNat old) lo 1 == 1

/-- R8: a W1C bit. -/
def WBits.clearBit (w : WBits) (old : Bool) (lo : Nat) : Bool := old && !w.one lo

/-- The low and the high word of a unit. -/
def WBits.lo (w : WBits) : WBits := { v := w.v % 2 ^ 32, m := w.m % 2 ^ 32 }
def WBits.hi (w : WBits) : WBits := { v := w.v / 2 ^ 32, m := w.m / 2 ^ 32 }

/-- R515: a write that acts at the end of its PCLK. -/
def holdWrite (a : RegAcc) (off : Nat) (w : WBits) (s : State) : State :=
  { s with held := s.held ++ [{ off := off, v := w.v, m := w.m, keeper := a.keeper }] }

/-! ### SYS, PWR, LDL -/

/-- R408: a write of SYS_TST_INJECT. -/
def injectWrite (op u : Nat) (s : State) : State :=
  if 35 ≤ u then s
  else
    match op with
    | 1 => injectTest u .signature s
    | 2 => injectTest u .parity s
    | 3 => injectTest u .view s
    | _ => s

/-- SYS. -/
def sysWrite (a : RegAcc) (o : Nat) (w : WBits) (s : State) : State :=
  match o with
  | 0x000 => keepSets { s with sys := { s.sys with rstCause := w1c s.sys.rstCause (w.hi.ones 0 6) } }
  | 0x008 => if w.one 0 && a.keeper then driveLines (warmReset 0x10 s) else s
  | 0x010 => if w.one 0 then writeDoorbell s else s
  | 0x020 => if a.keeper then injectWrite (w.ones 0 3) (w.ones 8 6) s else s
  | _ => s

/-- PWR: MODE_REQ lies beside MODE_STAT. -/
def pwrWrite (a : RegAcc) (o : Nat) (w : WBits) (s : State) : State :=
  let p := s.pwr
  match o with
  | 0x000 => if w.touches 0 3 then holdWrite a modeReqAt w s else s
  | 0x008 =>
    { s with pwr := { p with
        trimArrays := BitVec.ofNat 5 (w.rw p.trimArrays.toNat 0 5),
        trimVen := BitVec.ofNat 5 (w.rw p.trimVen.toNat 16 5),
        trimCeil := BitVec.ofNat 10 (w.hi.rw p.trimCeil.toNat 0 10) } }
  | 0x010 =>
    keepSets { s with pwr := { p with
        minHits := BitVec.ofNat 4 (w.rw p.minHits.toNat 0 4),
        delta := BitVec.ofNat 8 (w.rw p.delta.toNat 4 8),
        cells := BitVec.ofNat 10 (w.rw p.cells.toNat 12 10),
        pipe := BitVec.ofNat 3 (w.rw p.pipe.toNat 24 3),
        autoRun := w.rwBit p.autoRun 28,
        fired := w.hi.clearBit p.fired 16 } }
  | 0x018 =>
    keepSets { s with pwr := { p with
        tempHigh := w.clearBit p.tempHigh 28,
        exitMode := BitVec.ofNat 2 (w.hi.rw p.exitMode.toNat 0 2),
        wakeMs := BitVec.ofNat 16 (w.hi.rw p.wakeMs.toNat 16 16) } }
  | _ => s

/-- R86: a write of LDL_TLOAD by a keeper-mode thread. Where it sets stop too, its go is ignored; the spec does not say whether
its tickets and hold are stored: the model stores them, as those of any write (assumption 77). -/
def tloadWrite (n : Nat) (w : WBits) (s : State) : State :=
  let l := nth s.ldl.loads n {}
  -- The fields as they will stand, which a go of the same write takes.
  let tickets := w.rw l.tickets.toNat 0 8
  let hold := w.rw l.hold.toNat 16 16
  let s := { s with ldl := { s.ldl with loads := upd s.ldl.loads n fun l =>
    { l with tickets := BitVec.ofNat 8 tickets, hold := BitVec.ofNat 16 hold } } }
  if w.one 9 then (if loadPhase s n == .idle then s else stopLoad n s)
  else if w.one 8 then goLoad n tickets hold s
  else s

/-- LDL: CEIL lies beside STAT, MON_CFG beside STANDING, EVT beside MON_MEAS. -/
def ldlWrite (a : RegAcc) (o : Nat) (w : WBits) (s : State) : State :=
  let l := s.ldl
  match o with
  | 0x000 => if w.touches 0 10 then writeCeiling (w.rw l.ceil 0 10) s else s
  | 0x008 =>
    { s with ldl := { l with
        marginAbs := BitVec.ofNat 8 (w.hi.rw l.marginAbs.toNat 0 8),
        marginRel := BitVec.ofNat 4 (w.hi.rw l.marginRel.toNat 8 4),
        windows := BitVec.ofNat 4 (w.hi.rw l.windows.toNat 12 4) } }
  | 0x010 => keepSets { s with ldl := { l with evt := w1c l.evt (w.hi.ones 0 4) } }
  | 0x030 => if a.keeper && w.lo.m != 0 then tloadWrite 0 w s else s
  | 0x038 => if a.keeper && w.lo.m != 0 then tloadWrite 1 w s else s
  | _ => s

/-! ### IDN, PAT -/

/-- Bytes of a byte window under a write of a unit at an offset of it. -/
def putUnit (bs : List Byte) (o : Nat) (w : WBits) : List Byte :=
  (List.range 8).foldl (fun bs (i : Nat) =>
    if w.covers (8 * i) then bs.set (o + i) (BitVec.ofNat 8 (bits w.v (8 * i) 8)) else bs) bs

/-- R108 step 2: the unlock words; any other write of IDN ends the sequence. -/
def unlockWrite (v : Nat) (s : State) : State :=
  { s with idn := { s.idn with
      unlock := if v = 0x5A5A then 1 else if v = 0xA5A5 ∧ s.idn.unlock = 1 then 2 else 0 } }

/-- R108: a write of IDN_FUSE_CTRL; an op that names no operation is refused. -/
def fuseWrite (w : WBits) (s : State) : State :=
  let slot : Fin 4 := Fin.ofNat 4 (w.ones 4 2)
  match w.ones 0 3 with
  | 1 => startFuse (.writeKey slot (BitVec.ofNat 2 (w.ones 8 2)) s.idn.fuseData) s
  | 2 => startFuse (.revoke slot) s
  | 3 => startFuse .advanceAsy s
  | 4 => startFuse .advanceKpr s
  | 5 => startFuse .decommission s
  | _ => raise 0x0411 (setHw .fuseError { s with idn := { s.idn with unlock := 0 } })

/-- The IDN registers but the unlock sequence. -/
def idnFields (a : RegAcc) (o : Nat) (w : WBits) (s : State) : State :=
  let d := s.idn
  if 0x40 ≤ o ∧ o < 0x70 then { s with idn := { d with fuseData := putUnit d.fuseData (o - 0x40) w } }
  else if o = 0x78 then
    keepSets { s with idn := { d with fuseDone := w.clearBit d.fuseDone 1, fuseError := w.clearBit d.fuseError 2 } }
  else if 0x80 ≤ o ∧ o < 0xA0 then { s with idn := { d with nonce := putUnit d.nonce (o - 0x80) w } }
  else if o = 0xA0 then
    let s := keepSets { s with idn := { d with
      attDone := w.hi.clearBit d.attDone 1, attError := w.hi.clearBit d.attError 2 } }
    if w.one 0 then holdWrite a attUnit w s else s
  else s

/-- IDN: the keeper's threads and the host write it (R108, R112). -/
def idnWrite (a : RegAcc) (o : Nat) (w : WBits) (s : State) : State :=
  if !a.kh then s
  else if o = 0x70 then
    let s := if w.touches 0 3 then fuseWrite w.lo s
      else if w.lo.m != 0 then { s with idn := { s.idn with unlock := 0 } } else s
    if w.hi.m = 0 then s else unlockWrite w.hi.v s
  else idnFields a o w { s with idn := { s.idn with unlock := 0 } }

/-- R132, R135, R515: a write of PAT_CTRL: hold_swap and commit act at once, load at the end of the PCLK. -/
def patCtrl (a : RegAcc) (w : WBits) (s : State) : State :=
  let s := { s with pat := { s.pat with holdSwap := w.rwBit s.pat.holdSwap 8 } }
  let s := if w.one 0 then holdWrite a patUnit w s else s
  if w.one 1 then commitSwap s else s

/-- PAT. -/
def patWrite (a : RegAcc) (o : Nat) (w : WBits) (s : State) : State :=
  let p := s.pat
  match o with
  | 0x000 => if a.kh then patCtrl a w s else s
  | 0x008 => { s with pat := { p with src := BitVec.ofNat 48 (w.rw p.src.toNat 0 48) } }
  | 0x010 => { s with pat := { p with len := BitVec.ofNat 23 (w.rw p.len.toNat 0 23) } }
  | 0x020 =>
    keepSets { s with pat := { p with
        swapTmo := BitVec.ofNat 32 (w.rw p.swapTmo.toNat 0 32), evt := w1c p.evt (w.hi.ones 0 5) } }
  | _ => s

/-! ### CSI, ISP, VEN, FGS, NEU: event registers, and FGS_CTRL and FGS_ABORT -/

/-- CSI and ISP. -/
def camWrite (o : Nat) (w : WBits) (s : State) : State :=
  let p := o / 0x1000 % 8
  let r := o % 0x1000
  if o < 0x8000 then
    (if r = 0x30 then keepSets { s with cams := upd s.cams p fun c => { c with csiEvt := w1c c.csiEvt (w.ones 0 16) } } else s)
  else if r = 0x08 then
    keepSets { s with cams := upd s.cams p fun c =>
        { c with ispEvt := w1c c.ispEvt (w.ones 16 16), paramBad := w.clearBit c.paramBad 0 } }
  else s

/-- VEN. -/
def venWrite (o : Nat) (w : WBits) (s : State) : State :=
  let k := o / 0x1000
  if k < 13 ∧ o % 0x1000 = 0x108 then
    let clear := fun (i : VenInst) => { i with clsEvt := w1c i.clsEvt (w.hi.ones 0 3) }
    keepSets { s with ven := { s.ven with insts := upd s.ven.insts k clear } }
  else if o = 0xF000 then keepSets { s with ven := { s.ven with evt := w1c s.ven.evt (w.hi.ones 1 7 * 2) } }
  else s

/-- FGS. -/
def fgsWrite (a : RegAcc) (o : Nat) (w : WBits) (s : State) : State :=
  let f := s.fgs
  match o with
  | 0x000 =>
    let s := { s with fgs := { f with abortLimit := BitVec.ofNat 4 (w.rw f.abortLimit.toNat 8 4) } }
    if w.covers 0 then writeDrain (w.one 0) s else s
  | 0x008 => if a.keeper then abortSlots (w.ones 0 8) s else s
  | 0x010 => keepSets { s with fgs := { f with evt := w1c f.evt (w.ones 1 9 * 2) } }
  | _ => s

/-- NEU: EVT beside LAY_EVT. -/
def neuWrite (o : Nat) (w : WBits) (s : State) : State :=
  match o with
  | 0x010 =>
    keepSets { s with neu := { s.neu with
        evt := w1c s.neu.evt (w.ones 1 8 * 2), layEvt := w1c s.neu.layEvt (w.hi.ones 0 2) } }
  | _ => s

/-! ### RSR, SCH -/

/-- R268: RSR_KEEPER_MASK; bit 0 of word 0 reads 1. -/
def maskWrite (i : Nat) (w : WBits) (s : State) : State :=
  let v := fun (old : Word32) => BitVec.ofNat 32 (w.rw old.toNat 0 32)
  { s with rsr := { s.rsr with keeperMask := upd s.rsr.keeperMask i fun old => if i = 0 then v old ||| 1 else v old } }

/-- RSR, by a keeper-mode thread. -/
def rsrWrite (a : RegAcc) (o : Nat) (w : WBits) (s : State) : State :=
  if !a.keeper then s
  else if o < 0x20 then
    let s := releaseThreads (o / 4) (BitVec.ofNat 32 (w.lo.ones 0 32)) s
    releaseThreads (o / 4 + 1) (BitVec.ofNat 32 (w.hi.ones 0 32)) s
  else if 0x40 ≤ o ∧ o < 0x60 then maskWrite ((o - 0x40) / 4 + 1) w.hi (maskWrite ((o - 0x40) / 4) w.lo s)
  else
    match o with
    | 0x80 => { s with rsr := { s.rsr with vec := BitVec.ofNat 48 (w.rw s.rsr.vec.toNat 0 48 / 256 * 256) } }
    | 0x88 => if w.touches 0 8 then resetThread (w.ones 0 8) s else s
    | 0x90 => keepSets { s with rsr := { s.rsr with evt := w1c s.rsr.evt (w.ones 1 3 * 2) } }
    | _ => s

/-- SCH_GRP_CFG. -/
def groupWrite (g : Nat) (w : WBits) (s : State) : State :=
  if w.m = 0 then s
  else
    { s with sch := { s.sch with groups := upd s.sch.groups g fun q =>
        { q with
            weight := BitVec.ofNat 8 (w.rw q.weight.toNat 0 8), limit := BitVec.ofNat 9 (w.rw q.limit.toNat 8 9),
            preempt := w.rwBit q.preempt 24 } } }

/-- SCH: CANCEL and GRP_CFG are written by keeper-mode threads. -/
def schWrite (a : RegAcc) (o : Nat) (w : WBits) (s : State) : State :=
  if o = 0x010 then keepSets { s with sch := { s.sch with evt := w1c s.sch.evt (w.ones 1 10 * 2) } }
  else if !a.keeper then s
  else if o = 0x008 then (if w.touches 0 13 then cancelWrite (w.ones 0 13) (w.ones 16 8) s else s)
  else if 0x100 ≤ o ∧ o < 0x140 then
    groupWrite ((o - 0x100) / 4 + 1) w.hi (groupWrite ((o - 0x100) / 4) w.lo s)
  else s

/-- R292, R294, R301: a thread writes its own port. -/
def ownPort (t o : Nat) (w : WBits) (s : State) : State :=
  if o < 0x40 then updPort t (fun p => { p with desc := putUnit p.desc o w }) s
  else
    match o with
    | 0x40 => if w.one 0 then submitSpawn t s else s
    | 0x48 => if w.touches 0 2 then portEnd t (w.ones 0 2) s else s
    | 0x50 => updPort t (fun p => { p with value := BitVec.ofNat 32 (w.rw p.value.toNat 0 32) }) s
    | 0x68 =>
      if !w.touches 0 13 then s
      else sendOperand (w.ones 0 13) (w.ones 16 8) (w.ones 13 2) (BitVec.ofNat 32 (w.ones 32 32)) 0 s
    | _ => s

/-- R307: a write of a port by another than its own thread is ignored and raises SCH_PORT_FOREIGN. -/
def portWrite (a : RegAcc) (t o : Nat) (w : WBits) (s : State) : State :=
  if foreignPort a t then raise 0x0B08 s else ownPort t o w s

/-! ### XLT, FWL -/

/-- R331: the IDs whose binding is writable. -/
def bindable (id : Nat) : Bool := decide (id < 0x100 ∨ 0x180 ≤ id ∧ id ≤ 0x1A0)

/-- R331: XLT_BIND. -/
def bindWrite (id : Nat) (w : WBits) (s : State) : State :=
  if !bindable id || w.m == 0 then s
  else
    let old := ((s.xlt.bind.find? fun b => b.1 == id).map Prod.snd).getD 0
    let c := w.rw old 0 6
    let rest := s.xlt.bind.filter fun b => b.1 != id
    let s := keepXlt s
    { s with xlt := { s.xlt with bind := if c = 0 then rest else (id, c) :: rest } }

/-- R333: XLT_CTX_ROOT. -/
def rootWrite (c : Nat) (w : WBits) (s : State) : State :=
  let s := keepXlt s
  { s with xlt := { s.xlt with roots := upd s.xlt.roots c fun r =>
      (w.rwBit r.1 0, BitVec.ofNat 48 (512 * w.rw (r.2.toNat / 512) 9 39)) } }

/-- R11: an event of one of 16 codes has come about in this ECLK. -/
def setNow (s : State) (sixteen : Nat) : Bool := s.cyc.sets.any fun c => c.toNat / 16 == sixteen

/-- R11, R341: XLT_FAULT_INFO.valid and FWL_FAULT_INFO.valid, which a fault of this ECLK keeps set. -/
def clearFault (faulted : Bool) (w : WBits) (f : FaultRec) : FaultRec :=
  if w.one 31 && !faulted then { f with valid := false, more := 0 } else f

/-- XLT; R513 admits only keeper-mode threads of this chip. -/
def xltWrite (a : RegAcc) (o : Nat) (w : WBits) (s : State) : State :=
  if !a.keeper then s
  else if 8 ≤ o ∧ o < 0x200 then rootWrite (o / 8) w s
  else if o = 0x800 then (if w.touches 0 6 || w.touches 8 1 then startInv (w.ones 0 6) (w.one 8) s else s)
  else if o = 0x818 then { s with xlt := { s.xlt with fault := clearFault (setNow s 0x0C0) w s.xlt.fault } }
  else if o = 0x820 then keepSets { s with xlt := { s.xlt with evt := w1c s.xlt.evt (w.ones 1 4 * 2) } }
  else if 0x1000 ≤ o ∧ o < 0x2000 then bindWrite ((o - 0x1000) / 4 + 1) w.hi (bindWrite ((o - 0x1000) / 4) w.lo s)
  else s

/-- R337, R338: a field of FWL_REG. -/
def regionField (o : Nat) (w : WBits) (r : Region) : Region :=
  match o with
  | 0x00 => { r with base := BitVec.ofNat 36 (w.rw r.base.toNat 12 36) }
  | 0x08 => { r with limit := BitVec.ofNat 36 (w.rw r.limit.toNat 12 36) }
  | 0x10 => { r with idLo := BitVec.ofNat 10 (w.rw r.idLo.toNat 0 10), idHi := BitVec.ofNat 10 (w.rw r.idHi.toNat 16 10) }
  | _ =>
    { r with
        en := w.rwBit r.en 0, r := w.rwBit r.r 1, w := w.rwBit r.w 2, x := w.rwBit r.x 3, keeper := w.rwBit r.keeper 4,
        lock := r.lock || w.one 8 }

/-- FWL; R513 admits only keeper-mode threads of this chip. -/
def fwlWrite (a : RegAcc) (o : Nat) (w : WBits) (s : State) : State :=
  if !a.keeper then s
  else if o < 0x800 then writeRegion (o / 0x20) (regionField (o % 0x20) w) s
  else if o = 0x808 then { s with fwl := { s.fwl with fault := clearFault (setNow s 0x0C1) w s.fwl.fault } }
  else if o = 0x810 then keepSets { s with fwl := { s.fwl with evt := w1c s.fwl.evt (w.ones 0 4) } }
  else s

/-! ### DMA -/

/-- DMA_CH_CTRL: start, doorbell, stop and clear_err, by keeper-mode threads and the host. -/
def channelCtrl (ch : Nat) (w : WBits) (s : State) : State :=
  let s := if w.one 3 then clearError ch s else s
  let s := if w.one 2 then softStop ch s else s
  let s := if w.one 1 then ringDoorbell ch s else s
  if w.one 0 then startChannel ch s else s

/-- The configuration and descriptor registers of a channel. -/
def channelField (o : Nat) (w : WBits) (c : DmaCh) : DmaCh :=
  match o with
  | 0x00 =>
    { c with
        regRing := w.hi.rwBit c.regRing 0, regPosted := w.hi.rwBit c.regPosted 1, hipri := w.hi.rwBit c.hipri 2,
        cls := BitVec.ofNat 2 (w.hi.rw c.cls.toNat 4 2), pace := w.hi.rwBit c.pace 8 }
  | 0x08 => { c with desc := BitVec.ofNat 48 (w.rw c.desc.toNat 0 48) }
  | 0x10 =>
    { c with entries := BitVec.ofNat 13 (w.rw c.entries.toNat 0 13), regCount := BitVec.ofNat 13 (w.hi.rw c.regCount.toNat 0 13) }
  | 0x18 => { c with prod := BitVec.ofNat 48 (w.rw c.prod.toNat 0 48) }
  | 0x20 => { c with cons := BitVec.ofNat 48 (w.rw c.cons.toNat 0 48) }
  | 0x28 =>
    { c with
        unitLog2 := BitVec.ofNat 4 (w.rw c.unitLog2.toNat 0 4), poll := BitVec.ofNat 16 (w.rw c.poll.toNat 16 16),
        hi := BitVec.ofNat 25 (w.hi.rw c.hi.toNat 0 25) }
  | 0x30 => { c with lo := BitVec.ofNat 25 (w.rw c.lo.toNat 0 25) }
  | _ => c

/-- R9: an access to a unit of a channel's page writes a bit of a configuration field. -/
def configTouched (o : Nat) (w : WBits) : Bool :=
  match o with
  | 0x00 => w.hi.touches 0 3 || w.hi.touches 4 2 || w.hi.touches 8 1
  | 0x08 => w.touches 0 48
  | 0x10 => w.touches 0 13 || w.hi.touches 0 13
  | 0x18 => w.touches 0 48
  | 0x20 => w.touches 0 48
  | 0x28 => w.touches 0 4 || w.touches 16 16 || w.hi.touches 0 25
  | 0x30 => w.touches 0 25
  | _ => false

/-- R346: a write of an owned channel's configuration is ignored and raises DMA_CH_OWNED. -/
def channelConfig (ch o : Nat) (w : WBits) (s : State) : State :=
  if !configTouched o w then s else if (chAt s ch).owned then raise 0x0D06 s else updCh ch (channelField o w) s

/-- A unit of a channel's page. -/
def channelWrite (a : RegAcc) (ch o : Nat) (w : WBits) (s : State) : State :=
  if o = 0x00 then
    let s := channelConfig ch o w s
    if a.kh then channelCtrl ch w s else s
  else if o ≤ 0x30 then channelConfig ch o w s
  else if o = 0x40 then keepSets (updCh ch (fun c => { c with notify := w.clearBit c.notify 8 }) s)
  else s

/-- DMA. -/
def dmaWrite (a : RegAcc) (o : Nat) (w : WBits) (s : State) : State :=
  if 0x1000 ≤ o ∧ o < 0x3000 then channelWrite a ((o - 0x1000) / 0x100) (o % 0x100) w s
  else
    match o with
    | 0x000 => if a.keeper && w.one 0 then resumeDma s else s
    | 0x008 =>
      -- R11: a bus error of this ECLK keeps the bit set.
      if w.one 31 && !s.cyc.sets.contains 0x0D01 then { s with dma := { s.dma with errValid := false, errMore := 0 } } else s
    | 0x020 => keepSets { s with dma := { s.dma with evt := w1c s.dma.evt (w.ones 1 8 * 2) } }
    | _ => s

/-! ### TAP, CTR -/

/-- R452: TAP_BUF_BASE and TAP_BUF_SIZE hold still while tracing is on. -/
def bufWrite (f : Tap → Tap) (s : State) : State := if s.tap.en then raise 0x1104 s else { s with tap := f s.tap }

/-- R446, R448, R451: CTR_GLB_CFG. -/
def glbConfig (g : Nat) (w : WBits) (s : State) : State :=
  keepSets { s with tap := { s.tap with glbs := upd s.tap.glbs g fun c =>
      { c with
          oldSel := some (now s, BitVec.ofNat 6 (selNow s c)), sel := BitVec.ofNat 6 (w.rw c.sel.toNat 0 6),
          ovf := w.clearBit c.ovf 8, irqEn := w.rwBit c.irqEn 9 } } }

/-- R451: a write of a counter. -/
def counterWrite (c : CounterName) (w : WBits) (s : State) : State :=
  let f := fun (c : Ctr64) => c.write (now s) (BitVec.ofNat 64 w.v) (BitVec.ofNat 64 w.m)
  let srcAt := fun (i : Nat) (g : SrcCtr → SrcCtr) => { s with tap := { s.tap with srcs := upd s.tap.srcs i g } }
  match c with
  | .global g => { s with tap := { s.tap with glbs := upd s.tap.glbs g.val fun q => { q with ctr := f q.ctr } } }
  | .sourceCmd i => srcAt i.val fun q => { q with cmd := f q.cmd }
  | .sourceBusy i =>
    -- The ECLK of the open begin so far are part of the value that the write replaces.
    srcAt i.val fun q =>
      let grown := match q.beganAt with
        | some t => { q.busy with value := q.busy.value + BitVec.ofNat 64 (now s - t) }
        | none => q.busy
      { q with busy := f grown, beganAt := q.beganAt.map fun _ => now s }
  | .sourceErr i => srcAt i.val fun q => { q with err := f q.err }
  | .time => s

/-- TAP, the counters apart. -/
def tapFields (o : Nat) (w : WBits) (s : State) : State :=
  let t := s.tap
  if o = 0x000 then
    (if w.touches 0 1 || w.touches 8 6 then
      writeTapCtl (flag 0 (w.rwBit t.en 0) + put 8 6 (w.rw t.src.toNat 8 6)) s else s)
  else if o = 0x008 then
    (if w.touches 12 36 then
      bufWrite (fun t => { t with base := BitVec.ofNat 48 (4096 * w.rw (t.base.toNat / 4096) 12 36) }) s else s)
  else if o = 0x010 then
    (if w.touches 0 5 then bufWrite (fun t => { t with log2 := BitVec.ofNat 5 (w.rw t.log2.toNat 0 5) }) s else s)
  else if o = 0x020 then { s with tap := { t with rd := BitVec.ofNat 26 (w.rw t.rd.toNat 0 26) } }
  else if o = 0x028 then keepSets { s with tap := { t with error := w.clearBit t.error 16 } }
  else if o = 0x038 then keepSets { s with tap := { t with evt := w1c t.evt (w.ones 1 4 * 2 + w.ones 16 2 * 2 ^ 16) } }
  else if 0x2000 ≤ o ∧ o < 0x2100 ∧ o % 16 = 8 then glbConfig ((o - 0x2000) / 16) w s
  else s

/-- R453: the fields of a unit of TAP and CTR, by the masks of their bits; a counter is one field. -/
def tapFieldMasks (o : Nat) : List Nat :=
  if o = 0x000 then ctlFields
  else if o = 0x038 then [0x1E, 0x30000]
  else if 0x2000 ≤ o ∧ o < 0x2100 ∧ o % 16 = 8 then [0x3F, 0x100, 0x200]
  else [2 ^ 64 - 1]

/-- A unit of TAP and CTR is written. -/
def tapApply (o : Nat) (w : WBits) (s : State) : State :=
  if w.m = 0 then s
  else
    match counterAt o with
    | some c => counterWrite c w s
    | none => tapFields o w s

/-- TAP and CTR, whose writes act at the end of their PCLK (R453, R515): the counters are written by keeper-mode threads and the
host; R447 admits a peer's keeper mode to the global ones. -/
def tapWrite (a : RegAcc) (o : Nat) (w : WBits) (s : State) : State :=
  let may := match counterAt o with
    | some (.global _) => true
    | some _ => a.kh
    | none => true
  if may then holdWrite a (tapUnit + o) w s else s

/-- R453, R515: the waiting writes of TAP and CTR act, each in the order of its arrival, keeper firmware's before others' on a
field that both write. -/
def settleTap (s : State) : State :=
  let units := (s.held.map HeldWrite.off).dedup.filter fun o => o / 0x10000 == tapUnit / 0x10000
  units.foldl (fun s o =>
    let l := keeperFirst (tapFieldMasks (o % 0x10000)) (s.held.filter fun h => h.off == o)
    l.foldl (fun s h => tapApply (o % 0x10000) { v := h.v, m := h.m } s) (dropHeld o s)) s

/-- R515: what waits for the end of the PCLK acts: mode requests, attestation, loads, and the writes of TAP and CTR. -/
def settleWrites (s : State) : State :=
  if s.held.isEmpty then s
  else
    let s := takeModeReq (heldMode s true) (heldMode s false) (dropHeld modeReqAt s)
    let s := settleGo s
    settleTap (settleLoad s)

/-! ### LNK, HIF -/

/-- LNK. -/
def lnkWrite (o : Nat) (w : WBits) (s : State) : State :=
  if o = 0x080 then keepSets { s with lnk := { s.lnk with evt := w1c s.lnk.evt (w.ones 1 12 * 2) } } else s

/-- R459: a word of the MSI-X table; word 3 holds the mask bit. -/
def vectorWrite (v : Nat) (high : Bool) (w : WBits) (s : State) : State :=
  if !high then updVector v (fun e => { e with addr := BitVec.ofNat 64 (w.rw e.addr.toNat 0 64) }) s
  else
    let s := updVector v (fun e => { e with data := BitVec.ofNat 32 (w.rw e.data.toNat 0 32) }) s
    let was := (nth s.hif.vectors v {}).masked
    let next := w.hi.rwBit was 0
    if was && !next then unmaskVector v s else if !was && next then maskVector v s else s

/-- R474: HIF_COPY_TAIL; the tail from before the write rules in its PCLK. -/
def tailWrite (w : WBits) (h : Hif) (t : Nat) : Hif :=
  if !w.touches 0 16 then h
  else { h with oldTail := some (t / 6, h.copyTail), copyTail := BitVec.ofNat 16 (w.rw h.copyTail.toNat 0 16) }

/-- HIF. -/
def hifWrite (o : Nat) (w : WBits) (s : State) : State :=
  let h := s.hif
  if 0x8000 ≤ o ∧ o < 0x8400 then vectorWrite ((o - 0x8000) / 16) (o % 16 == 8) w s
  else
    match o with
    | 0x000 => { s with hif := { h with bar2Base := BitVec.ofNat 48 (2 ^ 24 * w.rw (h.bar2Base.toNat / 2 ^ 24) 24 24) } }
    | 0x010 =>
      { s with hif := { h with copyEn := w.rwBit h.copyEn 0, copyLog2 := BitVec.ofNat 5 (w.rw h.copyLog2.toNat 8 5) } }
    | 0x018 => { s with hif := { h with copyBase := BitVec.ofNat 64 (4096 * w.rw (h.copyBase.toNat / 4096) 12 52) } }
    | 0x020 => { s with hif := tailWrite w.hi h s.clock.watch }
    | 0x038 => keepSets { s with hif := { h with evt := w1c h.evt (w.ones 1 5 * 2 + w.ones 16 6 * 2 ^ 16) } }
    | _ => s

/-! ### The accelerator window -/

/-- A unit of 8 bytes at an offset of the accelerator window is written. -/
def regUnit (a : RegAcc) (off : Nat) (w : WBits) (s : State) : State :=
  let o := off % 0x10000
  match portAt off with
  | some t => portWrite a t (off % 0x80) w s
  | none =>
    match off / 0x10000 with
    | 0 => sysWrite a o w s
    | 1 => pwrWrite a o w s
    | 2 => ldlWrite a o w s
    | 3 => idnWrite a o w s
    | 4 => patWrite a o w s
    | 5 => camWrite o w s
    | 6 => venWrite o w s
    | 7 => fgsWrite a o w s
    | 8 => neuWrite o w s
    | 9 => rsrWrite a o w s
    | 10 => schWrite a o w s
    | 11 => xltWrite a o w s
    | 12 => fwlWrite a o w s
    | 13 => dmaWrite a o w s
    | 14 => tapWrite a o w s
    | 15 => lnkWrite o w s
    | 16 => hifWrite o w s
    | _ => s

/-- How a register block itself answers an access that the firewall admits (R267, R447, R513). -/
inductive RegBar
  /-- A task-mode thread takes PRIV. -/
  | priv
  /-- The access receives an error response; the host's posted write is dropped. -/
  | refused
  deriving DecidableEq, Repr

/-- R447: the access carries keeper mode, from this chip or from a peer, or comes from the host. -/
def carriesKeeper (a : RegAcc) : Bool := a.kh || (match a.who with
  | .peer _ k => decide (k.val = 1)
  | _ => false)

/-- What R447, R513 and the RSR rule bar. -/
def regBar (a : RegAcc) (write : Bool) (off : Nat) : Option RegBar :=
  let bar : RegBar := match a.who with
    | .thread _ => .priv
    | _ => .refused
  let blk := off / 0x10000
  let o := off % 0x10000
  if write && (blk == 11 || blk == 12) && !a.keeper then some bar
  else if write && blk == 9 && !a.keeper && (match a.who with
      | .thread _ => true
      | _ => false) then some .priv
  else if blk == 14 && decide (0x2000 ≤ o ∧ o < 0x2100) && !carriesKeeper a then some bar
  else none

/-- The mask of bytes, and their value, that n bytes from an address write within the unit at u. -/
def unitBits (addr : Nat) (bs : List Byte) (u : Nat) : WBits :=
  let at_ := fun (i : Nat) => if addr ≤ u + i ∧ u + i < addr + bs.length then some (nth bs (u + i - addr) 0) else none
  { v := leNat ((List.range 8).map fun i => (at_ i).getD 0),
    m := leNat ((List.range 8).map fun i => if (at_ i).isSome then 0xFF else 0) }

/-- Bytes written at an offset of the accelerator window, unit by unit. -/
def regWrite (a : RegAcc) (off : Nat) (bs : List Byte) (s : State) : State :=
  let first := off / 8
  let n := (off + bs.length + 7) / 8 - first
  (List.range n).foldl (fun s (i : Nat) => regUnit a (8 * (first + i)) (unitBits off bs (8 * (first + i))) s) s

/-- Bytes read at an offset of the accelerator window: 8 aligned ones in one read, others by the words they lie in. -/
def regBytes (a : RegAcc) (off n : Nat) (s : State) : List Byte × State :=
  if off % 8 = 0 ∧ n % 8 = 0 then
    (List.range (n / 8)).foldl (fun (r : List Byte × State) (i : Nat) =>
      let q := regRead a (off + 8 * i) 8 r.2
      (r.1 ++ leBytes 8 q.1, q.2)) ([], s)
  else
    let first := off / 4
    let m := (off + n + 3) / 4 - first
    let r := (List.range m).foldl (fun (r : List Byte × State) (i : Nat) =>
      let q := regRead a (4 * (first + i)) 4 r.2
      (r.1 ++ leBytes 4 q.1, q.2)) ([], s)
    ((r.1.drop (off % 4)).take n, r.2)

/-- R8: a write of a register by an agent that the firewall admitted. A task-mode thread may take PRIV. -/
def execRegisterWrite (who : Agent) (addr : BitVec 48) (size : BitVec 2) (value : Word64) (s : State) :
    Host.Outcome State Fault Refusal :=
  let a := accOf s who
  let n := 2 ^ size.toNat
  if !clocksRun s || !within addr.toNat regBase regSize || addr.toNat % n != 0 then done s
  else
    let off := addr.toNat - regBase
    match regBar a true off with
    | some .priv => done (refuseRsr who s)
    | some .refused => done s
    | none => done (regWrite a off (leBytes n value.toNat) s)

end Sys2Proof.Machine
end

