-- ==== Sys2Proof/Machine/Access.lean ====
section
/-! DEFINITION. What lies behind a physical address, read and written by any initiator that translation and the firewall have
admitted (R329): memory, registers, flag slots (R321, R324) and peer windows; and the reservation monitor (R315 to R317,
R417). -/

namespace Sys2Proof.Machine

/-! ### Flag slots (R321, R322, R324) -/

/-- R421: the value of a device flag. -/
def devFlag (s : State) (f : Nat) : Nat := nth s.fgs.devFlags (f - 4032) 0

/-- R321 offset 0: the counter of the initiator's pour parity, or the persistent counter; without a pour it is open. -/
def flagOwn (who : Agent) (f : Nat) (s : State) : Nat × State :=
  let r := match who with
    | .thread t => taskPour s t.val
    | _ => none
  match r with
  | some r => (flagValue s f r.seq, s)
  | none =>
    if persistent (active s) f then (flagValue s f 0, s) else ((drawFree s).1.toNat % 2 ^ 32, (drawFree s).2)

/-- R321: sets of the FLAG record; a flag without a record shows a free value. -/
def flagSets (f : Nat) (s : State) : Nat × State :=
  match flagOf (active s) f with
  | some r => (r.sets, s)
  | none => ((drawFree s).1.toNat % 2 ^ 32, (drawFree s).2)

/-- R321, R324: a word of a flag slot. -/
def flagWord (who : Agent) (f o : Nat) (s : State) : Nat × State :=
  let dev := decide (4032 ≤ f)
  match o with
  | 0x00 => if dev then (devFlag s f, s) else flagOwn who f s
  | 0x04 => if dev then (devFlag s f, s) else ((flagCtr s f).c0, s)
  | 0x08 => if dev || persistent (active s) f then (0, s) else ((flagCtr s f).c1, s)
  | 0x0C => flagSets f s
  | _ => (0, s)

/-- Bytes of flag space, by the words they lie in. -/
def flagBytes (who : Agent) (off n : Nat) (s : State) : List Byte × State :=
  let first := off / 4
  let m := (off + n + 3) / 4 - first
  let r := (List.range m).foldl (fun (r : List Byte × State) (i : Nat) =>
    let w := 4 * (first + i)
    let q := flagWord who (w / 64) (w % 64) r.2
    (r.1 ++ leBytes 4 q.1, q.2)) ([], s)
  ((r.1.drop (off % 4)).take n, r.2)

/-- R322, R324: k sets of a flag by an initiator. -/
def agentSet (who : Agent) (f k : Nat) (s : State) : State :=
  if 4032 ≤ f then raise 0x0C41 s
  else
    let task := match who with
      | .thread t => portTask s t.val
      | _ => none
    match task with
    | some q =>
      (match q.node with
        | some n => if k = 0 then s else setFlag n f q.pour k s
        | none => raise 0x0805 s)
    | none => raise 0x0805 s

/-- R321, R324: a word written to a flag slot: SET adds 1, ADD its value, others nothing. -/
def flagWrite (who : Agent) (f o v : Nat) (s : State) : State :=
  if 4032 ≤ f then raise 0x0C41 s
  else if o = 0x10 then agentSet who f 1 s
  else if o = 0x14 then agentSet who f v s
  else s

/-- Bytes written to flag space, by words. -/
def flagStore (who : Agent) (off : Nat) (bs : List Byte) (s : State) : State :=
  (List.range (bs.length / 4)).foldl (fun s (i : Nat) =>
    let w := off / 4 * 4 + 4 * i
    flagWrite who (w / 64) (w % 64) (leAt bs (4 * i) 4) s) s

/-! ### Any place -/

/-- n free bytes: what another chip answers. -/
def freeBytes : Nat → State → List Byte × State
  | 0, s => ([], s)
  | n + 1, s =>
    let d := drawFree s
    let r := freeBytes n d.2
    (BitVec.ofNat 8 d.1.toNat :: r.1, r.2)

/-- Bytes of the Assayer window. -/
def asyBytes (s : State) (off n : Nat) : List Byte :=
  let first := off / 4
  let m := (off + n + 3) / 4 - first
  (((List.range m).flatMap fun i => leBytes 4 (asyWord s (4 * (first + i)))).drop (off % 4)).take n

/-- An admitted read of n bytes at a physical address. -/
def placeRead (a : RegAcc) (addr n : Nat) (s : State) : List Byte × State :=
  match placeOf s addr with
  | .regs => regBytes a (addr - regBase) n s
  | .assayer => (asyBytes s (addr - asyBase) n, s)
  | .flags => flagBytes a.who (addr - flagBase) n s
  | .peer _ => freeBytes n s
  | _ => (physRead s addr n, s)

/-- An admitted write of bytes at a physical address becomes visible. The registers of the Assayer window take no
write. -/
def placeStore (a : RegAcc) (addr : Nat) (bs : List Byte) (s : State) : State :=
  match placeOf s addr with
  | .regs => regWrite a (addr - regBase) bs s
  | .flags => flagStore a.who (addr - flagBase) bs s
  | _ => placeWrite s addr bs

/-- R318: the address names a device register, of this chip or of a peer. -/
def deviceAddr (s : State) (addr : Nat) : Bool :=
  match placeOf s addr with
  | .regs => true
  | .assayer => true
  | .peer _ => within (addr % peerSpan) regBase regSize || within (addr % peerSpan) asyBase asySize
  | _ => false

/-- R321: the address lies in flag space, of this chip or of a peer. -/
def flagAddr (s : State) (addr : Nat) : Bool :=
  match placeOf s addr with
  | .flags => true
  | .peer _ => within (addr % peerSpan) flagBase flagSize
  | _ => false

/-- The bar of R447, R513 or RSR on an access of the registers. -/
def placeBar (s : State) (a : RegAcc) (write : Bool) (addr : Nat) : Option RegBar :=
  match placeOf s addr with
  | .regs => regBar a write (addr - regBase)
  | _ => none

/-! ### The reservation monitor (R315 to R317, R417) -/

/-- R315: the granule of an address. -/
def granuleOf (s : State) (addr : Nat) : Nat := addr / s.rsr.granule * s.rsr.granule

/-- R316 event 6: the monitor that tracks an address: a Crucible bank with 16 entries, or a DRAM channel with 32. -/
def monitorOf (s : State) (addr : Nat) : Nat × Nat :=
  match placeOf s addr with
  | .dram => (64 + Config.dramChannel addr % 12, 32)
  | _ => ((addr - crucibleBase) / 0x100000, 16)

/-- R316 event 5: a reservation that has not lapsed. -/
def resvLive (s : State) (r : Reservation) : Bool := decide (now s < r.madeAt + 4096)

/-- R316 events 3 and 6: an owner's reservation, replacing its last one; a full monitor evicts its oldest entry. -/
def addResv (o : Owner) (addr : Nat) (s : State) : State :=
  let m := monitorOf s addr
  let rest := s.rsr.resvs.filter fun r => r.owner != o && resvLive s r
  let same := rest.filter fun r => (monitorOf s r.base).1 == m.1
  let kept := if same.length < m.2 then rest
    else match same.head? with
      | some e => rest.filter fun r => r.owner != e.owner
      | none => rest
  let mine : Reservation := { owner := o, base := granuleOf s addr, size := s.rsr.granule, madeAt := now s }
  { s with rsr := { s.rsr with resvs := kept ++ [mine] } }

/-- R315, R316: the owner's reservation holds for an address. -/
def resvHolds (s : State) (o : Owner) (addr : Nat) : Bool :=
  s.rsr.resvs.any fun r => r.owner == o && decide (r.base ≤ addr ∧ addr < r.base + r.size) && resvLive s r

/-- R317, R417: threads of more than one chip contend for a granule. -/
def contended (s : State) (o : Owner) (base : Nat) : Bool :=
  o.chip.isSome || (s.rsr.resvs.any fun r => r.base == base && r.owner.chip.isSome) ||
    s.rsr.fails.any fun f => f.base == base && f.owner.chip.isSome

/-- R317: a failed CONDST of the owner earns a hold at its next RESLD of the granule, in the order of the failures. -/
def grantHold (o : Owner) (addr : Nat) (s : State) : State :=
  let g := granuleOf s addr
  let fresh := s.rsr.fails.filter fun f => decide (now s ≤ f.failedAt + 64)
  let live := s.rsr.holds.filter (holdLive s)
  let free := !(live.any fun h => h.base == g)
  match fresh.find? fun f => f.base == g with
  | some f =>
    if f.owner == o && free then
      let h : Hold := { owner := o, base := g, startedAt := now s, remote := contended s o g }
      countSel 12 1 { s with rsr := { s.rsr with
        holds := live ++ [h], fails := fresh.filter fun f => !(f.owner == o && f.base == g) } }
    else { s with rsr := { s.rsr with fails := fresh } }
  | none => { s with rsr := { s.rsr with fails := fresh } }

/-- R315, R317: RESLD at its target: the reservation is set, and a hold may begin. -/
def reserve (o : Owner) (addr : Nat) (s : State) : State := grantHold o addr (addResv o addr s)

/-- R315 to R317: CONDST at its target: whether it stores. It clears the reservation either way, and a failure is noted. -/
def conditional (o : Owner) (addr : Nat) (bs : List Byte) (s : State) : Bool × State :=
  let ok := resvHolds s o addr
  let g := granuleOf s addr
  let s := { s with rsr := { s.rsr with
    resvs := s.rsr.resvs.filter fun r => r.owner != o, holds := s.rsr.holds.filter fun h => h.owner != o } }
  if ok then (true, physWrite s addr bs)
  else (false, { s with rsr := { s.rsr with fails := s.rsr.fails ++ [{ owner := o, base := g, failedAt := now s }] } })

/-- R316 event 5: a reservation lapses 4,096 ECLK after its RESLD. -/
def execReservationLapse (t : Fin 256) (s : State) : Host.Outcome State Fault Refusal :=
  let stale := fun (r : Reservation) => r.owner == { thread := t.val } && decide (r.madeAt + 4096 ≤ now s)
  done { s with rsr := { s.rsr with resvs := s.rsr.resvs.filter fun r => !stale r } }

/-- R317: a hold on a granule ends. -/
def execReservationHoldEnd (granule : Nat) (s : State) : Host.Outcome State Fault Refusal :=
  done { s with rsr := { s.rsr with holds := s.rsr.holds.filter fun h => h.base != granule } }

/-- R316 event 7: a scrub or an ECC write-back of a Crucible address. -/
def execCrucibleScrub (addr : BitVec 48) (s : State) : Host.Outcome State Fault Refusal :=
  if placeOf s addr.toNat == .crucible then done (clearResv addr.toNat 1 s) else done s

end Sys2Proof.Machine
end

