-- ==== Sys2Proof/Machine/DmaRun.lean ====
section
/-! DEFINITION. Runner at work (R348 to R366): descriptors, beats, pacing, completion, pre-emption and bus errors. A datapath
moves one beat in each ECLK (R351), which the clock's tick does. -/

namespace Sys2Proof.Machine

/-! ### A channel's accesses (R349, R364) -/

/-- The register access of a channel. -/
def channelAcc (ch : Nat) : RegAcc := { who := .runner (Fin.ofNat 32 ch), keeper := false }

/-- R364: a read of a channel: its bytes, or the kind of the bus error. -/
def dmaGet (ch addr n : Nat) (s : State) : (Except Nat (List Byte)) × State :=
  let r := checkAccess (dmaId ch) false .read addr n false s
  match r.1 with
  | .error f => (.error (busKind f), r.2)
  | .ok a =>
    if (placeBar r.2 (channelAcc ch) false a).isSome then (.error 1, r.2)
    else
      let d := placeRead (channelAcc ch) a n r.2
      (.ok d.1, d.2)

/-- R364: a write of a channel: none, or the kind of the bus error. -/
def dmaPut (ch addr : Nat) (bs : List Byte) (s : State) : Option Nat × State :=
  let r := checkAccess (dmaId ch) false .write addr bs.length false s
  match r.1 with
  | .error f => (some (busKind f), r.2)
  | .ok a =>
    if (placeBar r.2 (channelAcc ch) true a).isSome then (some 1, r.2)
    else (none, placeStore (channelAcc ch) a bs r.2)

/-! ### Beats (R349, R352, R353) -/

/-- R349: the address of one side at a position of the descriptor. -/
def sideAt (base : Nat) (fixed : Bool) (pos : Nat) : Nat := if fixed then base + pos % 8 else base + pos

/-- R349: the bytes one side can move at a position: 8 at a fixed address, else up to the end of the 64-byte line. -/
def sideBeat (base : Nat) (fixed : Bool) (pos : Nat) : Nat := if fixed then 8 else 64 - (base + pos) % 64

/-- R349: the bytes of the beat at a position: what both sides can move. -/
def beatSize (d : Descriptor) (pos : Nat) : Nat :=
  min (d.len - pos) (min (sideBeat d.src (d.ctrl.getLsbD 0) pos) (sideBeat d.dst (d.ctrl.getLsbD 1) pos))

/-- R353: where the unit that holds a position ends; the descriptor's end without pacing. -/
def unitEnd (c : DmaCh) (d : Descriptor) (pos : Nat) : Nat :=
  if c.pace then min d.len ((pos / unitBytes c + 1) * unitBytes c) else d.len

/-- R352: reads that a channel had issued complete into its buffer of 2 KiB. -/
def readAhead (ch : Nat) : Nat → State → State
  | 0, s => s
  | k + 1, s =>
    let c := chAt s ch
    match c.cur with
    | none => s
    | some d =>
      let n := beatSize d c.readPos
      if unitEnd c d c.bytes ≤ c.readPos ∨ 2048 < c.buffer.length + n ∨ n = 0 then s
      else
        let r := dmaGet ch (sideAt d.src (d.ctrl.getLsbD 0) c.readPos) n s
        match r.1 with
        | .error _ => s
        | .ok bs =>
          let dest := sideAt d.dst (d.ctrl.getLsbD 1) c.readPos
          let cells := (bs.zipIdx).map fun b => (dest + b.2, b.1)
          readAhead ch k (updCh ch (fun c => { c with buffer := c.buffer ++ cells, readPos := c.readPos + n }) r.2)

/-- R352, R364: a channel leaves its datapath in a burst; how many reads it had issued is open. -/
def keepReads (ch : Nat) (s : State) : State :=
  if onPath s ch && (chAt s ch).st == .running then
    let f := drawFree s
    readAhead ch (f.1.toNat % 33) f.2
  else s

/-- R364: a bus error: reads already issued complete, and Runner stops. A breach has reset the device. -/
def dmaFault (ch kind : Nat) (isWrite : Bool) (addr : Nat) (s : State) : State :=
  if s.sys.inReset then s
  else if s.dma.stopped then busError ch kind isWrite addr s
  else
    let others := (List.range 32).filter fun (k : Nat) => k != ch
    busError ch kind isWrite addr (others.foldl (fun s k => keepReads k s) s)

/-! ### Descriptors (R348, R350, R360, R361) -/

/-- R350: the address of the next descriptor. -/
def nextDesc (c : DmaCh) : Nat := if c.ring then c.desc.toNat + 32 * c.head else c.fetchAddr

/-- R348: the fields of a descriptor. -/
def parseDesc (addr : Nat) (bs : List Byte) : Descriptor :=
  { addr := addr, src := leAt bs 0 8, dst := leAt bs 8 8, len := leAt bs 0x10 4, ctrl := BitVec.ofNat 32 (leAt bs 0x14 4),
    next := leAt bs 0x18 8 }

/-- R348, R361: the ranges of a descriptor. -/
def descOk (c : DmaCh) (d : Descriptor) : Bool :=
  let k := d.ctrl.toNat
  decide (d.src % 8 = 0 ∧ d.dst % 8 = 0 ∧ d.len % 8 = 0 ∧ 8 ≤ d.len ∧ d.len ≤ 16777216) &&
    bits k 7 24 == 0 && (c.ring || (!bitAt k 31 && d.next % 32 == 0)) && (!c.pace || d.len % unitBytes c == 0) &&
    nextDesc c % 32 == 0

/-- R360: the class of a transfer by its two physical ends. -/
def transferClass (s : State) (a b : Nat) : Nat :=
  let near := fun (p : Place) => p == .crucible || p == .flags
  let far := fun (p : Place) => match p with
    | .peer _ => true
    | _ => false
  if near (placeOf s a) && near (placeOf s b) then 0 else if far (placeOf s a) || far (placeOf s b) then 1 else 2

/-- R81, R82, R84: a class-P transfer asks for lane group 1 of its link in class 2, with the deadline of the pour that its
channel serves. -/
def claimGroup (ch a : Nat) (s : State) : State :=
  match placeOf s a with
  | .peer n =>
    let r := (chAt s ch).serves.map Prod.fst
    let dl := (r.bind (pourAt s)).map fun q => pourDeadline (active s) q.ref.slot (q.origin.getD q.fsOpen)
    requestGroup (linkTo (chipIndex s) n) 2 dl r s
  | _ => s

/-- R360, R361, R364: a descriptor's two ends are translated and classified; the channel takes it, or stops. -/
def classify (ch : Nat) (d : Descriptor) (s : State) : State :=
  let c := chAt s ch
  let a := checkAccess (dmaId ch) false .read d.src 8 false s
  match a.1 with
  | .error f => dmaFault ch (busKind f) false d.src a.2
  | .ok pa =>
    let b := checkAccess (dmaId ch) false .write d.dst 8 false a.2
    match b.1 with
    | .error f => dmaFault ch (busKind f) true d.dst b.2
    | .ok pb => if c.tickets < classCost (transferClass b.2 pa pb) then descError ch 2 0x0D04 b.2
      else claimGroup ch pb (claimGroup ch pa b.2)

/-- R350, R361: the fetch of the next descriptor. A ring entry with own 0 waits for a doorbell. -/
def fetchDesc (ch : Nat) (s : State) : State :=
  let c := chAt s ch
  let addr := nextDesc c
  let r := dmaGet ch addr 32 s
  match r.1 with
  | .error k => dmaFault ch k false addr r.2
  | .ok bs =>
    let d := parseDesc addr bs
    if c.ring && !d.ctrl.getLsbD 31 then
      assignPaths (freePath ch (updCh ch (fun c => { c with needDoorbell := true }) r.2))
    else
      let s := updCh ch (fun c => { c with cur := some d, readPos := 0, bytes := 0 }) r.2
      if descOk c d then classify ch d s else descError ch 1 0x0D03 s

/-- A channel that runs and has no descriptor fetches one. -/
def wantsDesc (c : DmaCh) : Bool := c.st == .running && c.cur.isNone && !c.needDoorbell

/-! ### Pacing (R353, R354) -/

/-- R353: the fill level, with the producer word as read now. -/
def readLevel (ch : Nat) (s : State) : (Except Nat Nat) × State :=
  let c := chAt s ch
  let r := dmaGet ch c.prod.toNat 4 s
  match r.1 with
  | .error k => (.error k, r.2)
  | .ok bs => (.ok ((leNat bs + 2 ^ 32 - c.units % 2 ^ 32) % 2 ^ 32), r.2)

/-- R353: a unit has moved: C counts, is shown to the consumer, and the channel may pause. -/
def endUnit (ch : Nat) (s : State) : State :=
  let s := updCh ch (fun c => { c with units := (c.units + 1) % 2 ^ 32, level := c.level - 1 }) s
  let c := chAt s ch
  let r := if c.cons = 0 then (none, s) else dmaPut ch c.cons.toNat (leBytes 4 c.units) s
  match r.1 with
  | some k => dmaFault ch k true c.cons.toNat r.2
  | none =>
    if c.level ≤ c.lo.toNat then updCh ch (fun c => { c with st := .paused, pollAt := now s }) r.2 else r.2

/-- R349, R352: the bytes of a beat: the oldest of the buffer, else as read now. -/
def beatBytes (ch : Nat) (d : Descriptor) (n : Nat) (s : State) : (Except Nat (List Byte)) × State :=
  let c := chAt s ch
  if c.buffer.isEmpty then dmaGet ch (sideAt d.src (d.ctrl.getLsbD 0) c.bytes) n s
  else (.ok ((c.buffer.take n).map Prod.snd), s)

/-- R349, R364: a beat of n bytes. -/
def moveBeat (ch : Nat) (d : Descriptor) (n : Nat) (s : State) : State :=
  let c := chAt s ch
  let r := beatBytes ch d n s
  match r.1 with
  | .error k => dmaFault ch k false (sideAt d.src (d.ctrl.getLsbD 0) c.bytes) r.2
  | .ok bs =>
    let dest := sideAt d.dst (d.ctrl.getLsbD 1) c.bytes
    let w := dmaPut ch dest bs r.2
    match w.1 with
    | some k => dmaFault ch k true dest w.2
    | none =>
      let s := updCh ch (fun c => { c with
        buffer := c.buffer.drop n, bytes := c.bytes + n, readPos := max c.readPos (c.bytes + n),
        chainBytes := c.chainBytes + n }) (countSel 13 1 w.2)
      let c := chAt s ch
      if c.pace && c.bytes % unitBytes c == 0 then endUnit ch s else s

/-- R353: before each unit a paced channel reads P. -/
def beginUnit (ch : Nat) (s : State) : State :=
  let c := chAt s ch
  if !c.pace || c.bytes % unitBytes c != 0 || !c.buffer.isEmpty then s
  else
    let r := readLevel ch s
    match r.1 with
    | .error k => dmaFault ch k false c.prod.toNat r.2
    | .ok l => if 2 ^ 31 ≤ l then descError ch 1 0x0D05 r.2 else updCh ch (fun c => { c with level := l }) r.2

/-- R317: a reservation hold keeps the channel's write of n bytes waiting at the monitor. -/
def dmaHeld (ch addr n : Nat) (s : State) : Bool :=
  match (checkAccess (dmaId ch) false .write addr n false s).1 with
  | .ok a => heldByOther s none a n
  | .error _ => false

/-- R351: one beat of the channel on datapath i; a burst has at most 16. -/
def pathBeat (i : Nat) (s : State) : State :=
  let p := nth s.dma.paths i {}
  match p.ch with
  | none => s
  | some ch =>
    if 16 ≤ p.beats ∨ s.dma.stopped = true then s
    else
      let s := if wantsDesc (chAt s ch) then fetchDesc ch s else s
      if !onPath s ch || !chReady (chAt s ch) then s
      else
        let s := beginUnit ch s
        match (chAt s ch).cur with
        | some d =>
          let c := chAt s ch
          let n := beatSize d c.bytes
          if chReady c && onPath s ch && !dmaHeld ch (sideAt d.dst (d.ctrl.getLsbD 1) c.bytes) n s then
            let s := { s with dma := { s.dma with paths := upd s.dma.paths i fun q => { q with beats := q.beats + 1 } } }
            moveBeat ch d n s
          else s
        | none => s

/-! ### Datapath turns (R351, R352, R363) -/

/-- R351: a high-priority channel that got no free datapath pre-empts a normal one; the victim keeps its place and the
reads it had issued. -/
def preempt (ch : Nat) (s : State) : State :=
  if !(chAt s ch).hipri || !chReady (chAt s ch) || onPath s ch || s.dma.stopped then s
  else
    match victimPath s with
    | none => s
    | some i =>
      let v := ((nth s.dma.paths i {}).ch).getD 0
      givePath i ch (updCh v (fun c => if c.st == .running then { c with st := .preempted } else c) (keepReads v s))

/-- R351, R363: pre-emption by every high-priority channel that is ready, by channel number, then free datapaths are
assigned. -/
def turnPaths (s : State) : State :=
  assignPaths ((List.range 32).foldl (fun s ch => if (chAt s ch).hipri then preempt ch s else s) (assignPaths s))

/-- R351: both datapaths move a beat in an ECLK; a high-priority channel that has become ready pre-empts first. -/
def runDma (s : State) : State :=
  let waits := s.dma.chs.any fun c => c.hipri && chReady c
  pathBeat 1 (pathBeat 0 (if waits then turnPaths s else s))

/-- R351: a burst ends after 16 beats, or where its channel can move no more. -/
def burstOver (s : State) (p : Datapath) (ch : Nat) : Bool := decide (16 ≤ p.beats) || !chReady (chAt s ch)

/-- R351: a datapath's burst ends; the next ready channel takes it. -/
def execDmaBurstEnd (dp : Fin 2) (s : State) : Host.Outcome State Fault Refusal :=
  let p := nth s.dma.paths dp.val {}
  match p.ch with
  | none => done s
  | some ch =>
    if burstOver s p ch && !s.dma.stopped then
      let free := fun (d : Datapath) => { d with ch := none, lastCh := ch }
      done (turnPaths { s with dma := { s.dma with paths := upd s.dma.paths dp.val free } })
    else done s

/-- R77, R351: a ramp has ended, and the requester begins. -/
def execLadleRampEnd (id : BitVec 10) (s : State) : Host.Outcome State Fault Refusal :=
  match s.ldl.grants.find? fun g => g.id == id.toNat && !g.begun && g.relAt.isNone with
  | none => done s
  | some g =>
    if now s < g.rampEnd then done s
    else
      let s := { s with ldl := { s.ldl with
        grants := updFirst (fun h => h.id == id.toNat && !h.begun) (fun h => { h with begun := true }) s.ldl.grants } }
      let s := beginHolder id.toNat s
      done (match holderOf id.toNat with
        | some (.channel ch) => preempt ch s
        | _ => s)

/-- R353, R354: a paused channel reads the producer word. -/
def execDmaPacePoll (ch : Fin 32) (s : State) : Host.Outcome State Fault Refusal :=
  let c := chAt s ch.val
  if c.st != .paused || now s < c.pollAt || s.dma.stopped then done s
  else
    let r := readLevel ch.val s
    match r.1 with
    | .error k => done (dmaFault ch.val k false c.prod.toNat r.2)
    | .ok l =>
      if 2 ^ 31 ≤ l then done (descError ch.val 1 0x0D05 r.2)
      else if c.hi.toNat ≤ l then
        done (turnPaths (updCh ch.val (fun c => { c with st := .running, level := l }) r.2))
      else done (updCh ch.val (fun c => { c with level := l, pollAt := now s + pollEvery c }) r.2)

/-! ### Completion (R355 to R358) -/

/-- R350: result and done_len, then the ctrl word with own cleared, then the head. -/
def writeBack (ch : Nat) (d : Descriptor) (s : State) : (Option (Nat × Nat)) × State :=
  let c := chAt s ch
  if !c.ring then (none, s)
  else
    let a := dmaPut ch (d.addr + 0x18) (leBytes 4 0 ++ leBytes 4 c.bytes) s
    match a.1 with
    | some k => (some (k, d.addr + 0x18), a.2)
    | none =>
      let b := dmaPut ch (d.addr + 0x14) (leBytes 4 (d.ctrl.toNat % 2 ^ 31)) a.2
      match b.1 with
      | some k => (some (k, d.addr + 0x14), b.2)
      | none => (none, updCh ch (fun c => { c with head := (c.head + 1) % c.entries.toNat }) b.2)

/-- R355, R356: the chain ends with this descriptor. -/
def chainEnds (c : DmaCh) (d : Descriptor) : Bool :=
  if c.ring then c.count != 0 && c.completed == c.count.toNat else d.next == 0

/-- R357, R78: the chain's end: tickets are released, the channel is IDLE, an owned node ends. -/
def endChain (ch : Nat) (s : State) : State :=
  let c := chAt s ch
  let s := freePath ch (ladleRelease (dmaId ch) (endChannel ch 0 s))
  -- A posted channel keeps its node until its writes are confirmed (R365).
  let keep := if c.posted then c.serves else none
  let s := updCh ch (fun c => { c with st := .idle, cur := none, serves := keep }) s
  match c.serves with
  | some (r, n) => endNode r n 0 s
  | none => s

/-- R358: notify, and the channel's vector (R459). -/
def notifyChannel (ch : Nat) (d : Descriptor) (s : State) : State :=
  if d.ctrl.getLsbD 6 then signalMsix (setHw (.notify ch) s) (32 + ch) else s

/-- R355: the completion point of the current descriptor. -/
def completeDesc (ch : Nat) (d : Descriptor) (s : State) : State :=
  let w := writeBack ch d s
  match w.1 with
  | some (k, a) => dmaFault ch k true a w.2
  | none =>
    let entry := if (chAt w.2 ch).ring then d.addr else 0
    let s := updCh ch (fun c => { c with
      completed := c.completed + 1, postedOpen := if c.posted then c.postedOpen ++ [entry] else [] }) w.2
    let s := notifyChannel ch d s
    let s := if chainEnds (chAt s ch) d then endChain ch s
      else updCh ch (fun c => { c with cur := none, fetchAddr := d.next, readPos := 0, bytes := 0 }) s
    turnPaths s

/-- R355: a descriptor completes once its bytes have moved; a ring entry that a reservation hold covers waits (R317). -/
def execDmaDescComplete (ch : Fin 32) (s : State) : Host.Outcome State Fault Refusal :=
  let c := chAt s ch.val
  match c.cur with
  | some d =>
    let live := c.st == .running || c.st == .paused || c.st == .preempted
    if moved c && live && !s.dma.stopped && !(c.ring && dmaHeld ch.val (d.addr + 0x14) 12 s) then done (completeDesc ch.val d s)
    else done s
  | none => done s

/-! ### Bus errors from outside (R364, R365) -/

/-- R364: the code of a bus error's kind. -/
def errorKind : BusErrorKind → Nat
  | .errorResponse => 1
  | .translation => 2
  | .firewall => 3
  | .uncorrectable => 4

/-- R365: an error on a write of a descriptor that has completed under posted completion. -/
def postedError (ch addr entry : Nat) (s : State) : State :=
  let s := if entry = 0 then s else (chWrite ch (entry + 0x18) (leBytes 4 5) s).2
  let node := (chAt s ch).serves
  let s := updCh ch (fun c => { c with postedLost := true, serves := none }) s
  let s := dmaFault ch 5 true addr s
  let s := detectS1 0x0D02 (pourPairs s (node.map Prod.fst)) s
  match node with
  | some (r, n) =>
    let runs := match pourAt s r with
      | some q => q.nodes.any fun m => m.node == n && m.st == NodeSt.running
      | none => false
    abortPour 0x0D02 r (if runs then endNode r n 4 s else s)
  | none => s

/-- R364, R365: an error response, or another error, on a Runner access. -/
def execDmaBusError (ch : Fin 32) (kind : BusErrorKind) (isWrite : Bool) (addr : BitVec 48) (onPosted : Bool) (s : State) :
    Host.Outcome State Fault Refusal :=
  let c := chAt s ch.val
  match onPosted, c.postedOpen with
  | true, e :: _ => done (postedError ch.val addr.toNat e s)
  | true, [] => done s
  | false, _ =>
    if c.st == .idle || c.st == .error || c.st == .halted then done s
    else done (dmaFault ch.val (errorKind kind) isWrite addr.toNat s)

end Sys2Proof.Machine
end

