-- ==== Sys2Proof/Machine/Order.lean ====
section
/-! DEFINITION. The memory accesses of Riser threads (15_memory_model.md, R517): loads, the store queue, SEAL and IOSEAL,
RESLD and CONDST, flag sets, and the accesses that arrive from peer chips (R416, R417). -/

namespace Sys2Proof.Machine

/-! ### The checks of an access at issue (R339, R318, R319, R321, R517) -/

/-- The register access of a thread in its present mode. -/
def threadAcc (s : State) (t : Nat) : RegAcc := { who := .thread (Fin.ofNat 256 t), keeper := threadKeeper s t }

/-- R340: the exception code of an access kind. -/
def accessCode (acc : Access) : Nat := match acc with
  | .read => 0x04
  | .write => 0x05
  | .execute => 0x03

/-- An exception that a check calls for: code and detail; `quiet` holds the reports of a refused access. -/
structure Denial where
  code : Nat
  detail : Nat
  /-- The access fault, whose reports and PRIV rule apply. -/
  refused : Option AccessFault := none
  deriving DecidableEq, Repr

/-- R321, R517, R319: what the place of a translated access asks for, before the firewall. -/
def placeDenial (s : State) (th : Thread) (acc : Access) (reserving : Bool) (size a : Nat) : Option Denial :=
  if flagAddr s a && reserving || deviceAddr s a && reserving then some { code := accessCode acc, detail := 2 }
  else if flagAddr s a && size != 4 then some { code := 0x06, detail := 0 }
  else if deviceAddr s a then (if th.ioOpen then none else some { code := 0x09, detail := 0 })
  else if th.ioUsed then some { code := 0x09, detail := 1 }
  else none

/-- R339: the whole check of a thread's access: its physical address, or the denial. -/
def threadCheck (t : Nat) (acc : Access) (reserving : Bool) (addr size : Nat) (walkBad : Bool) (s : State) :
    (Except Denial Nat) × State :=
  let th := threadAt s t
  if addr % size ≠ 0 then (.error { code := 0x06, detail := 0 }, s)
  else
    let r := translateIn (ctxOf s t) true th.keeper acc addr walkBad s
    match r.1 with
    | .error f =>
      (.error { code := accessCode acc, detail := f.detail, refused := some f },
        reportFault f addr t (acc == .write) r.2)
    | .ok a =>
      match placeDenial r.2 th acc reserving size a with
      | some d => (.error d, r.2)
      | none =>
        match firewall r.2 t th.keeper acc a size with
        | some f =>
          (.error { code := accessCode acc, detail := f.detail, refused := some f },
            reportFault f a t (acc == .write) r.2)
        | none =>
          match placeBar r.2 (threadAcc r.2 t) (acc == .write) a with
          | some _ => (.error { code := 0x02, detail := 0 }, r.2)
          | none => (.ok a, r.2)

/-- The exception of a denied access. -/
def denyAccess (t addr : Nat) (d : Denial) (s : State) : State :=
  match d.refused with
  | some f => accessFault t d.code addr f s
  | none => fault t d.code d.detail addr s

/-- R318: the thread's bits after an access that issues. -/
def noteIo (t a : Nat) (s : State) : State :=
  let dev := deviceAddr s a
  updThread t (fun th => if dev then { th with ioUsed := true } else { th with ioOpen := false }) s

/-- R318: a device-register store of the thread has not completed. -/
def devicePending (s : State) (t : Nat) : Bool := (threadAt s t).stores.any fun q => deviceAddr s q.paddr

/-- R309: stores of the thread that no other initiator sees yet. -/
def unseen (s : State) (t : Nat) : List QueuedStore := (threadAt s t).stores.filter fun q => !q.visible

/-- The address lies in Crucible or DRAM, whose words carry SEC-DED. -/
def eccPlace (s : State) (a : Nat) : Bool := match placeOf s a with
  | .crucible => true
  | .dram => true
  | _ => false

/-- R516: a write of whole aligned words (Crucible) or lines (DRAM) reads nothing. -/
def wholeUnits (s : State) (a n : Nat) : Bool :=
  let unit := if placeOf s a == .dram then 64 else 16
  a % unit == 0 && n % unit == 0

/-! ### Loads (R309, R517) -/

/-- R309: the byte of the youngest unseen store that holds it. -/
def forwarded (qs : List QueuedStore) (a : Nat) : Option Byte :=
  (qs.reverse.find? fun q => decide (q.paddr ≤ a ∧ a < q.paddr + q.bytes)).map fun q =>
    BitVec.ofNat 8 (q.value.toNat / 256 ^ (a - q.paddr))

/-- R309: the bytes of a load, forwarded where the thread's own stores hold them. -/
def withForward (qs : List QueuedStore) (a : Nat) (bs : List Byte) : List Byte :=
  (bs.zipIdx).map fun b => (forwarded qs (a + b.2)).getD b.1

/-- A store of the thread that others do not see yet overlaps n bytes. -/
def overlapsUnseen (s : State) (t a n : Nat) : Bool :=
  (unseen s t).any fun q => decide (q.paddr < a + n ∧ a < q.paddr + q.bytes)

/-- The thread waits for its data. -/
def waitLoad (t : Nat) (gd : BitVec 5) (v addr : Nat) (peer reserving : Bool) (s : State) : State :=
  updThread t (fun th => { th with waiting := .load gd (BitVec.ofNat 64 v) peer reserving addr }) s

/-- R309, R518: a load whose checks have passed. -/
def loadFrom (t : Nat) (gd : BitVec 5) (a size addr : Nat) (ecc : Ecc) (s : State) : State :=
  match placeOf s a with
  | .peer n =>
    waitLoad t gd 0 addr true false (sendPeer n [10, t, flagNat (threadKeeper s t), a % peerSpan, size] (noteIo t a s))
  | _ =>
    if ecc = .uncorrectable ∧ eccPlace s a then fault t 0x04 1 addr (memoryError t s)
    else
      let r := placeRead (threadAcc s t) a size (noteIo t a (noteEcc ecc s))
      waitLoad t gd (leNat (withForward (unseen r.2 t) a r.1)) addr false false r.2

/-- R517: LOAD. -/
def loadBody (t : Nat) (gd : BitVec 5) (addr size : Nat) (ecc : Ecc) (s : State) : State :=
  let r := threadCheck t .read false addr size (ecc == .walkUncorrectable) s
  match r.1 with
  | .error d => denyAccess t addr d r.2
  | .ok a => loadFrom t gd a size addr ecc r.2

/-- R309: a load over a link waits until the stores of its thread that it overlaps are visible. -/
def loadHeld (s : State) (t addr size : Nat) : Bool :=
  match (translateIn (ctxOf s t) true (threadKeeper s t) .read addr false s).1 with
  | .ok a => decide (peerBase ≤ a) && overlapsUnseen s t a size
  | .error _ => false

/-- R517: an ordinary load. -/
def execLoad (t : Fin 256) (gd : BitVec 5) (addr : BitVec 48) (size : BitVec 2) (ecc : Ecc) (s : State) :
    Host.Outcome State Fault Refusal :=
  if devicePending s t.val || loadHeld s t.val addr.toNat (2 ^ size.toNat) then done (holdBack t.val s)
  else done (issue t.val (loadBody t.val gd addr.toNat (2 ^ size.toNat) ecc) s)

/-! ### Lost stores (R327) -/

/-- R327: a store is lost: the thread's task ends with FAULT, its later stores are discarded. -/
def storeLost (t : Nat) (s : State) : State :=
  let s := detectS1 0x0C40 (pourPairs s (taskPour s t)) (updThread t (fun th => { th with stores := [] }) s)
  match (nth s.sch.ports t {}).task with
  | some k => endTask k.1 k.2 2 s
  | none => s

/-- R312, R318: a SEAL or IOSEAL that waits completes once no store is left. -/
def settleSeal (t : Nat) (s : State) : State :=
  let th := threadAt s t
  if !th.stores.isEmpty then s
  else
    match th.waiting with
    | .seal => complete t (updThread t (fun th => { th with waiting := .none }) s)
    | .ioseal => complete t (updThread t (fun th => { th with waiting := .none, ioOpen := true, ioUsed := false }) s)
    | _ => s

/-- R285, R309, R432: a load's data returns. A load over a link brings the peer's data, or its error response: LOAD_FAULT with
the address; a CONDST's error response is a lost store. -/
def execLoadReturn (t : Fin 256) (peerData : Option Word64) (s : State) : Host.Outcome State Fault Refusal :=
  let t := t.val
  let ready := fun (s : State) => updThread t (fun th => { th with waiting := .none }) s
  match (threadAt s t).waiting with
  | .load gd v false _ _ => done (complete t (writeG t gd v (ready s)))
  | .load gd v true _ addr =>
    (match peerData with
      | some d => done (complete t (writeG t gd d (ready s)))
      | none =>
        if v = 1 then done (storeLost t (complete t (writeG t gd 0 (ready s))))
        else
          let f := drawFree (updThread t (fun th => { th with remote := none }) (ready s))
          done (fault t 0x04 (f.1.toNat % 256) addr f.2))
  | _ => done s

/-! ### The store queue (R310, R327) -/

/-- R310: a store whose checks have passed enters the queue. -/
def enqueueStore (t addr a size : Nat) (v : Word64) (s : State) : State :=
  let q : QueuedStore := { vaddr := addr, paddr := a, bytes := size, value := v, keeper := threadKeeper s t }
  updThread t (fun th => { th with stores := th.stores ++ [q] }) (noteIo t a s)

/-- R310, R517: STORE at issue. -/
def storeBody (t : Nat) (v : Word64) (addr size : Nat) (s : State) : State :=
  let r := threadCheck t .write false addr size false s
  match r.1 with
  | .error d => denyAccess t addr d r.2
  | .ok a => complete t (enqueueStore t addr a size v r.2)

/-- R310: an ordinary store. -/
def execStore (t : Fin 256) (gs : BitVec 5) (addr : BitVec 48) (size : BitVec 2) (s : State) :
    Host.Outcome State Fault Refusal :=
  if devicePending s t.val then done (holdBack t.val s)
  else done (issue t.val (storeBody t.val (readG s t.val gs) addr.toNat (2 ^ size.toNat)) s)

/-- R310: the interconnect target of a physical address. -/
def targetOf (s : State) (a : Nat) : Place := placeOf s a

/-- R310, R317, R323: the next store may become visible: earlier unconfirmed ones go to the same target, a flag set has none
before it, and no other initiator's hold keeps it waiting. -/
def mayRelease (s : State) (t : Nat) (q : QueuedStore) : Bool :=
  let before := (threadAt s t).stores.filter QueuedStore.visible
  (before.all fun e => targetOf s e.paddr == targetOf s q.paddr) && (before.isEmpty || !flagAddr s q.paddr) &&
    !heldByOther s (some { thread := t }) q.paddr q.bytes

/-- R310: what a store does at its target. -/
def performStore (t : Nat) (q : QueuedStore) (s : State) : State :=
  let bs := leBytes q.bytes q.value.toNat
  match placeOf s q.paddr with
  | .peer n => sendPeer n (14 :: t :: flagNat q.keeper :: q.paddr % peerSpan :: bs.map BitVec.toNat) s
  | _ => placeStore { who := .thread (Fin.ofNat 256 t), keeper := q.keeper } q.paddr bs s

/-- R310, R516: the store at the head of the unseen ones becomes visible; a failed read-modify-write leaves it out. -/
def releaseStore (t : Nat) (q : QueuedStore) (ecc : Ecc) (s : State) : State :=
  let bad := ecc == .uncorrectable && eccPlace s q.paddr
  let mark := updFirst (fun (e : QueuedStore) => !e.visible) fun e => { e with visible := true, failed := bad }
  let s := updThread t (fun th => { th with stores := mark th.stores }) (noteEcc ecc s)
  if bad then s else performStore t q s

/-- R310: the target accepts the next store. -/
def execStoreVisible (t : Fin 256) (ecc : Ecc) (s : State) : Host.Outcome State Fault Refusal :=
  match unseen s t.val with
  | q :: _ => if mayRelease s t.val q then done (releaseStore t.val q ecc s) else done s
  | [] => done s

/-- R310, R327: the response of the oldest visible store. -/
def execWriteResponse (t : Fin 256) (reply : WriteReply) (s : State) : Host.Outcome State Fault Refusal :=
  let t := t.val
  match (threadAt s t).stores with
  | q :: rest =>
    if !q.visible then done s
    else
      let far := decide (peerBase ≤ q.paddr)
      if q.failed || (far && reply != .ok) then done (settleSeal t (storeLost t s))
      else done (settleSeal t (updThread t (fun th => { th with stores := rest }) s))
  | [] => done s

/-! ### SEAL and IOSEAL (R312, R318) -/

/-- R312: SEAL. -/
def sealBody (t : Nat) (s : State) : State := settleSeal t (updThread t (fun th => { th with waiting := .seal }) s)

/-- R312: SEAL completes once every older store is confirmed. -/
def execSealStores (t : Fin 256) (s : State) : Host.Outcome State Fault Refusal := done (issue t.val (sealBody t.val) s)

/-- R318: IOSEAL. -/
def iosealBody (t : Nat) (s : State) : State := settleSeal t (updThread t (fun th => { th with waiting := .ioseal }) s)

/-- R318: IOSEAL completes once every older access has. -/
def execIoseal (t : Fin 256) (s : State) : Host.Outcome State Fault Refusal := done (issue t.val (iosealBody t.val) s)

/-! ### RESLD and CONDST (R315 to R317, R319, R417) -/

/-- R271: the address of a reservation instruction. -/
def resvAddr (s : State) (t : Nat) (ga : BitVec 5) (off : Int) : Nat :=
  (((readG s t ga).toNat : Int) + off).emod (2 ^ 48) |>.toNat

/-- R315, R417: RESLD whose checks have passed. -/
def resldFrom (t : Nat) (gd : BitVec 5) (a addr : Nat) (ecc : Ecc) (s : State) : State :=
  match placeOf s a with
  | .peer n =>
    let s := updThread t (fun th => { th with remote := some n }) (dropResv t (noteIo t a s))
    waitLoad t gd 0 addr true true (sendPeer n [11, t, flagNat (threadKeeper s t), a % peerSpan] s)
  | _ =>
    if ecc = .uncorrectable ∧ eccPlace s a then fault t 0x04 1 addr (memoryError t s)
    else
      let s := reserve { thread := t } a (dropResv t (noteIo t a (noteEcc ecc s)))
      waitLoad t gd (leNat (physRead s a 8)) addr false true s

/-- R315: RESLD. -/
def resldBody (t : Nat) (gd : BitVec 5) (addr : Nat) (ecc : Ecc) (s : State) : State :=
  let r := threadCheck t .read true addr 8 (ecc == .walkUncorrectable) s
  match r.1 with
  | .error d => denyAccess t addr d r.2
  | .ok a => resldFrom t gd a addr ecc r.2

/-- R309, R315: RESLD keeps its place after the thread's older stores. -/
def execResld (t : Fin 256) (gd ga : BitVec 5) (off : BitVec 16) (ecc : Ecc) (s : State) : Host.Outcome State Fault Refusal :=
  if devicePending s t.val || !(unseen s t.val).isEmpty then done (holdBack t.val s)
  else done (issue t.val (resldBody t.val gd (resvAddr s t.val ga off.toInt) ecc) s)

/-- R315, R327, R417: CONDST whose checks have passed. -/
def condstTo (t : Nat) (gd : BitVec 5) (v : Word64) (a addr : Nat) (ecc : Ecc) (s : State) : State :=
  let s := noteIo t a s
  match placeOf s a with
  | .peer n =>
    if (threadAt s t).remote = some n then
      let s := updThread t (fun th => { th with remote := none }) s
      waitLoad t gd 1 addr true false (sendPeer n [12, t, flagNat (threadKeeper s t), a % peerSpan, v.toNat] s)
    else complete t (writeG t gd 0 (dropResv t s))
  | _ =>
    if resvHolds s { thread := t } a && ecc == .uncorrectable && eccPlace s a then
      storeLost t (complete t (writeG t gd 0 (dropResv t s)))
    else
      let r := conditional { thread := t } a (leBytes 8 v.toNat) (noteEcc ecc s)
      complete t (writeG t gd (if r.1 then 1 else 0) (dropResv t r.2))

/-- R317: CONDST would store while another initiator's hold keeps it waiting. -/
def condstHeld (s : State) (t addr : Nat) : Bool :=
  match (translateIn (ctxOf s t) true (threadKeeper s t) .write addr false s).1 with
  | .ok a => resvHolds s { thread := t } a && heldByOther s (some { thread := t }) a 8
  | .error _ => false

/-- R315: CONDST. -/
def condstBody (t : Nat) (gd : BitVec 5) (v : Word64) (addr : Nat) (ecc : Ecc) (s : State) : State :=
  let r := threadCheck t .write true addr 8 (ecc == .walkUncorrectable) s
  match r.1 with
  | .error d => denyAccess t addr d r.2
  | .ok a => condstTo t gd v a addr ecc r.2

/-- R309, R315: CONDST keeps its place after the thread's older stores. -/
def execCondst (t : Fin 256) (gs ga gd : BitVec 5) (off : BitVec 11) (ecc : Ecc) (s : State) :
    Host.Outcome State Fault Refusal :=
  let addr := resvAddr s t.val ga off.toInt
  if devicePending s t.val || !(unseen s t.val).isEmpty || condstHeld s t.val addr then done (holdBack t.val s)
  else done (issue t.val (condstBody t.val gd (readG s t.val gs) addr ecc) s)

/-! ### Flag sets by threads (R321 to R324) -/

/-- R323: a flag store takes effect at once when every older store is confirmed; else it waits in the queue. -/
def flagBody (t addr : Nat) (v : Word64) (s : State) : State :=
  let first := (threadAt s t).stores.isEmpty
  let s := storeBody t v addr 4 s
  match (threadAt s t).stores, first with
  | [q], true =>
    let s := updThread t (fun th => { th with stores := [] }) s
    performStore t q s
  | _, _ => s

/-- R321: a write to a SET word. -/
def execFlagSet (t : Fin 256) (flag : Fin 4096) (s : State) : Host.Outcome State Fault Refusal :=
  if devicePending s t.val then done (holdBack t.val s)
  else done (issue t.val (flagBody t.val (flagBase + 64 * flag.val + 0x10) 1) s)

/-- R322: a write to an ADD word. -/
def execFlagAdd (t : Fin 256) (flag : Fin 4096) (value : Word32) (s : State) : Host.Outcome State Fault Refusal :=
  if devicePending s t.val then done (holdBack t.val s)
  else done (issue t.val (flagBody t.val (flagBase + 64 * flag.val + 0x14) (value.setWidth 64)) s)

/-! ### Accesses from peers (R330, R416, R417) -/

/-- R34: an access of a peer has met an uncorrectable error: S1, and an error response. The spec names no code here: the model
takes that of R518, and names no pair (assumption 62). -/
def peerUncorrectable (s : State) : Option (List Byte) × State := (none, detectS1 0x0C42 0 s)

/-- What a peer's access does once the firewall has admitted it: the answer's bytes, none for an error response. -/
def peerPerform (chip : Fin 4) (a : RegAcc) (op : PeerOp) (addr bytes : Nat) (data : List Byte) (ecc : Ecc) (s : State) :
    Option (List Byte) × State :=
  let bad := ecc == .uncorrectable && eccPlace s addr
  let own := fun (t : Fin 256) => ({ chip := some chip.val, thread := t.val } : Owner)
  if bad && !(op == .write && wholeUnits s addr data.length) then peerUncorrectable s
  else
    match op with
    | .write => (some [], placeStore a addr data s)
    | .reserve t =>
      if !eccPlace s addr || addr % 8 != 0 then (none, s) else (some (physRead s addr 8), reserve (own t) addr s)
    | .conditional t =>
      if !eccPlace s addr || addr % 8 != 0 then (none, s)
      else
        let r := conditional (own t) addr (sliceBytes data 0 8) s
        (some (leBytes 8 (flagNat r.1)), r.2)
    | _ =>
      let r := placeRead a addr bytes s
      (some r.1, r.2)

/-- The access kind that the firewall judges. -/
def peerKind : PeerOp → Access
  | .write => .write
  | .conditional _ => .write
  | .execute => .execute
  | _ => .read

/-- R317: a write of a peer that a hold keeps waiting. -/
def peerHeld (s : State) (chip : Fin 4) (op : PeerOp) (addr bytes : Nat) : Bool :=
  match op with
  | .write => heldByOther s none addr bytes
  | .conditional t =>
    resvHolds s { chip := some chip.val, thread := t.val } addr &&
      heldByOther s (some { chip := some chip.val, thread := t.val }) addr 8
  | _ => false

/-- The answer that goes back over the link: [15, 1, bytes] or [15, 0]. -/
def answerPeer (chip : Nat) (r : Option (List Byte)) (s : State) : State :=
  sendPeer chip (match r with
    | some bs => 15 :: 1 :: bs.map BitVec.toNat
    | none => [15, 0]) s

/-- R416: an access that arrives from a peer. -/
def execPeerAccess (chip : Fin 4) (k : Fin 5) (op : PeerOp) (addr : BitVec 48) (bytes : Nat) (data : List Byte) (ecc : Ecc)
    (s : State) : Host.Outcome State Fault Refusal :=
  let a := addr.toNat
  if !peerUp s chip.val || !clocksRun s then done s
  else
    match op with
    | .release t =>
      done { s with rsr := { s.rsr with
        resvs := s.rsr.resvs.filter fun r => r.owner != { chip := some chip.val, thread := t.val } } }
    | _ =>
      let n := match op with
        | .write => data.length
        | .read => bytes
        | .execute => bytes
        | _ => 8
      let acc : RegAcc := { who := .peer chip k, keeper := false }
      if peerHeld s chip op a n then done s
      else
        let r := checkAccess (agentId (.peer chip k)) (decide (k.val = 1)) (peerKind op) a n false s
        match r.1 with
        | .error _ => done (if r.2.sys.inReset then r.2 else answerPeer chip.val none r.2)
        | .ok p =>
          if (placeBar r.2 acc (peerKind op == .write) p).isSome then done (answerPeer chip.val none r.2)
          else
            let q := peerPerform chip acc op p n data ecc (noteEcc ecc r.2)
            done (answerPeer chip.val q.1 q.2)

end Sys2Proof.Machine
end

