-- ==== Sys2Proof/Machine/HostBus.lean ====
section
/-! DEFINITION. Host accesses through the BARs (R457, R458, R12, R516, R518). -/

namespace Sys2Proof.Machine

/-- R330: the host's access. -/
def hostAcc : RegAcc := { who := .host, keeper := false }

/-- The bytes of a host access. -/
def hostLen : HostOp → Nat
  | .read n => n
  | .write d => d.length

/-- R458: the size and alignment that BAR0 and BAR4 ask for. -/
def hostShapeOk (bar : Bar) (offset n : Nat) : Bool :=
  bar == .bar2 || (n == 4 && offset % 4 == 0) || (n == 8 && offset % 8 == 0)

/-- R457: the size of a BAR. -/
def barSize : Bar → Nat
  | .bar0 => 0x200000
  | .bar2 => 0x10000000
  | .bar4 => 0x100000

/-- R457: the device address of an offset. -/
def barAddr (s : State) (bar : Bar) (offset : Nat) : Nat :=
  match bar with
  | .bar0 => regBase + offset
  | .bar2 => s.hif.bar2Base.toNat + offset
  | .bar4 => asyBase + offset

/-- The completion of a host access; a posted write has none. -/
def reply (op : HostOp) (r : HostReply) (s : State) : State :=
  { s with hif := { s.hif with reply := match op with
      | .read _ => r
      | .write _ => match r with
        | .completerAbort => .completerAbort
        | _ => .none } }

/-- R458: the answer to a denied access; a denied posted write is dropped. -/
def denyHost (op : HostOp) (f : AccessFault) (s : State) : State :=
  { s with hif := { s.hif with reply := match op with
      | .read _ => if f = .notMapped then .unsupportedRequest else .completerAbort
      | .write _ => .none } }

/-- R516, R518: an uncorrectable error: the access is not performed. -/
def hostUncorrectable (op : HostOp) (s : State) : State :=
  let s := detectS1 0x0C42 0 s
  { s with hif := { s.hif with reply := match op with
      | .read _ => .completerAbort
      | .write _ => .none } }

/-- R516: the access reads no word that it does not write whole. -/
def readsNothing (s : State) (op : HostOp) (a : Nat) : Bool :=
  match op with
  | .write d => wholeUnits s a d.length
  | .read _ => false

/-- R458: an admitted host access. -/
def hostPerform (op : HostOp) (a : Nat) (s : State) : State :=
  match op with
  | .read n =>
    let r := placeRead hostAcc a n s
    { r.2 with hif := { r.2.hif with reply := .data r.1 } }
  | .write d =>
    let s := placeStore hostAcc a d s
    { s with hif := { s.hif with reply := .none } }

/-- R457, R458: a host access whose shape is in order. -/
def hostTry (op : HostOp) (addr : Nat) (ecc : Ecc) (s : State) : State :=
  let n := hostLen op
  let acc := match op with
    | .read _ => Access.read
    | .write _ => Access.write
  let r := checkAccess 0x1A0 false acc addr n (ecc == .walkUncorrectable) s
  match r.1 with
  | .error f => denyHost op f r.2
  | .ok a =>
    if (placeBar r.2 hostAcc (acc == .write) a).isSome then denyHost op .region r.2
    else if ecc = .uncorrectable ∧ eccPlace r.2 a ∧ ¬ readsNothing r.2 op a then hostUncorrectable op r.2
    else if acc = .write ∧ heldByOther r.2 none a n then s
    else hostPerform op a (noteEcc ecc r.2)

/-- R458: a host access. The host reaches the device while the link is up. -/
def execHostAccess (bar : Bar) (offset : Nat) (op : HostOp) (ecc : Ecc) (s : State) : Host.Outcome State Fault Refusal :=
  if !s.hif.linkUp || !hifPowered s || decide (barSize bar < offset + hostLen op) then done s
  else if !hostShapeOk bar offset (hostLen op) then
    done (raise 0x1202 { s with hif := { s.hif with reply := .completerAbort } })
  else done (hostTry op (barAddr s bar offset) ecc s)

end Sys2Proof.Machine
end

