-- ==== Sys2Proof/Machine/TapRing.lean ====
section
/-! DEFINITION. Tap's writes to its ring in memory (R441 to R444, R454): lines of two records, the pad record's line, and the
errors that stop tracing. -/

namespace Sys2Proof.Machine

/-- TAP_CTRL has been written in this ECLK. -/
def ctlWritten (s : State) : Bool := match s.tap.oldCtl with
  | some (t, _) => t == now s
  | none => false

/-- R454: a write that ends in an error stops tracing. R13: a write of TAP_CTRL in the same ECLK wins over the clear of en. -/
def tapError (s : State) : State :=
  raise 0x1102 { s with tap := { s.tap with
    en := ctlWritten s && s.tap.en, oldCtl := if ctlWritten s then s.tap.oldCtl else none,
    error := true, fifo := [], run := none } }

/-- R442: where the next line goes. -/
def linePlace (s : State) : Nat := s.tap.base.toNat + 32 * s.tap.wr.toNat

/-- R443: the initiator ID of Tap. -/
def tapId : Nat := 0x173

/-- R441: a line can go to the ring in this ECLK: one at most, with room; a reservation hold makes it wait (R317). -/
def lineMayGo (s : State) : Bool :=
  ringRoom s && s.tap.lineAt != some (now s) && !heldByOther s none (linePlace s) 64

/-- R442, R443: two records go to the ring as one line, which the firewall checks under Tap's ID; a denied one is an error
response (R454). -/
def writeLine (a b : TraceRec) (rest : List (TraceRec × Nat)) (s : State) : State :=
  let chip := chipIndex s
  let place := linePlace s
  let s := { s with tap := { s.tap with lineAt := some (now s) } }
  if unitDenied s tapId .write place 64 then tapError (reportDenied tapId .write place 64 s)
  else
    let s := { s with tap := { s.tap with
      fifo := rest, wr := BitVec.ofNat 26 ((s.tap.wr.toNat + 2) % ringRecords s) } }
    physWrite s place (a.bytes chip ++ b.bytes chip)

/-- R454: records that an uncorrectable error of the FIFO takes count as a drop run. -/
def fifoError (rest : List (TraceRec × Nat)) (s : State) : State :=
  raise 0x1103 (dropTrace (dropTrace { s with tap := { s.tap with fifo := rest } }))

/-- R441: two records leave the FIFO as one line. They do so also when tracing has been turned off. -/
def execTapLineWrite (ecc : Ecc) (s : State) : Host.Outcome State Fault Refusal :=
  match s.tap.fifo with
  | a :: b :: rest =>
    if !lineMayGo s then done s
    else if ecc = .uncorrectable then done (fifoError rest s)
    else done (writeLine a.1 b.1 rest (noteEcc ecc s))
  | _ => done s

/-- R441: a record that has waited 64 ECLK without a partner goes out with a pad record. -/
def execTapPad (s : State) : Host.Outcome State Fault Refusal :=
  match s.tap.fifo with
  | [a] => if decide (a.2 + 64 ≤ now s) && lineMayGo s then done (writeLine a.1 (padRecord s) [] s) else done s
  | _ => done s

/-- R454: an error response to a Tap write, while Tap is on or after a line that it wrote. -/
def execTapWriteError (s : State) : Host.Outcome State Fault Refusal :=
  if (tapCtl s).1 || s.tap.lineAt.isSome then done (tapError s) else done s

end Sys2Proof.Machine
end

