-- ==== Sys2Proof/Machine/Dispatch.lean ====
section
/-! DEFINITION. One arm per command: a direct call of its meaning. -/

namespace Sys2Proof.Machine

def exec (i : Instr) (s : State) : Host.Outcome State Fault Refusal :=
  match i with
  | .vddAsyPowerOn => Sys2Proof.Machine.execVddAsyPowerOn s
  | .vddAsyLoss vddIoPresent => Sys2Proof.Machine.execVddAsyLoss vddIoPresent s
  | .vddCorePowerOn => Sys2Proof.Machine.execVddCorePowerOn s
  | .rstNPulse lowEclk => Sys2Proof.Machine.execRstNPulse lowEclk s
  | .pmicEnAssert => Sys2Proof.Machine.execPmicEnAssert s
  | .powerUpTimeout => Sys2Proof.Machine.execPowerUpTimeout s
  | .startSequence inp => Sys2Proof.Machine.execStartSequence inp s
  | .bootDoorbell who => Sys2Proof.Machine.execBootDoorbell who s
  | .fetchTimeout => Sys2Proof.Machine.execFetchTimeout s
  | .sysReady => Sys2Proof.Machine.execSysReady s
  | .softReset who => Sys2Proof.Machine.execSoftReset who s
  | .pllUnlock => Sys2Proof.Machine.execPllUnlock s
  | .refclkLost => Sys2Proof.Machine.execRefclkLost s
  | .clockMonitorWindow counts => Sys2Proof.Machine.execClockMonitorWindow counts s
  | .supplyExcursion rail millivolts eclk => Sys2Proof.Machine.execSupplyExcursion rail millivolts eclk s
  | .vddIoLow => Sys2Proof.Machine.execVddIoLow s
  | .tempSample celsius => Sys2Proof.Machine.execTempSample celsius s
  | .tempTrip => Sys2Proof.Machine.execTempTrip s
  | .pwrModeRequest keeper host => Sys2Proof.Machine.execPwrModeRequest keeper host s
  | .modeTransitionStart => Sys2Proof.Machine.execModeTransitionStart s
  | .modeTransitionComplete => Sys2Proof.Machine.execModeTransitionComplete s
  | .holdWakeTimer => Sys2Proof.Machine.execHoldWakeTimer s
  | .vddCoreMonRearm => Sys2Proof.Machine.execVddCoreMonRearm s
  | .holdCoreTimeout => Sys2Proof.Machine.execHoldCoreTimeout s
  | .ladleGrant => Sys2Proof.Machine.execLadleGrant s
  | .ladleRampEnd id => Sys2Proof.Machine.execLadleRampEnd id s
  | .ladleCeilingWrite who ceiling => Sys2Proof.Machine.execLadleCeilingWrite who ceiling s
  | .tloadGo who n tickets hold => Sys2Proof.Machine.execTloadGo who n tickets hold s
  | .tloadStop who n => Sys2Proof.Machine.execTloadStop who n s
  | .tloadHoldEnd n => Sys2Proof.Machine.execTloadHoldEnd n s
  | .currentMonitorWindow measured32 => Sys2Proof.Machine.execCurrentMonitorWindow measured32 s
  | .ldlOverrun => Sys2Proof.Machine.execLdlOverrun s
  | .ldlUnfreeze => Sys2Proof.Machine.execLdlUnfreeze s
  | .ldlUnderrun => Sys2Proof.Machine.execLdlUnderrun s
  | .fuseUnlock who => Sys2Proof.Machine.execFuseUnlock who s
  | .fuseWriteKey who slot usage => Sys2Proof.Machine.execFuseWriteKey who slot usage s
  | .fuseRevokeSlot who slot => Sys2Proof.Machine.execFuseRevokeSlot who slot s
  | .fuseAdvanceAsySvn who => Sys2Proof.Machine.execFuseAdvanceAsySvn who s
  | .fuseAdvanceKprSvn who => Sys2Proof.Machine.execFuseAdvanceKprSvn who s
  | .fuseDecommission who => Sys2Proof.Machine.execFuseDecommission who s
  | .fuseProgDone readBackOk => Sys2Proof.Machine.execFuseProgDone readBackOk s
  | .attGo keeper host => Sys2Proof.Machine.execAttGo keeper host s
  | .attDone => Sys2Proof.Machine.execAttDone s
  | .patternLoad keeper host reads => Sys2Proof.Machine.execPatternLoad keeper host reads s
  | .patternLoaded => Sys2Proof.Machine.execPatternLoaded s
  | .swapCommit who => Sys2Proof.Machine.execSwapCommit who s
  | .swapPoint => Sys2Proof.Machine.execSwapPoint s
  | .triggersAccepted => Sys2Proof.Machine.execTriggersAccepted s
  | .swapDrainTimeout => Sys2Proof.Machine.execSwapDrainTimeout s
  | .csiLaneSync p => Sys2Proof.Machine.execCsiLaneSync p s
  | .csiFrameStart p vc hdr => Sys2Proof.Machine.execCsiFrameStart p vc hdr s
  | .csiFrameEnd p vc hdr => Sys2Proof.Machine.execCsiFrameEnd p vc hdr s
  | .csiLineStart p vc hdr => Sys2Proof.Machine.execCsiLineStart p vc hdr s
  | .csiLineEnd p vc hdr => Sys2Proof.Machine.execCsiLineEnd p vc hdr s
  | .csiPixelRow p vc dt hdr crcOk payload => Sys2Proof.Machine.execCsiPixelRow p vc dt hdr crcOk payload s
  | .csiEmbeddedData p vc pkt => Sys2Proof.Machine.execCsiEmbeddedData p vc pkt s
  | .csiUserData p vc kind pkt => Sys2Proof.Machine.execCsiUserData p vc kind pkt s
  | .csiGenericShort pkt => Sys2Proof.Machine.execCsiGenericShort pkt s
  | .csiUnsupportedPacket pkt dt => Sys2Proof.Machine.execCsiUnsupportedPacket pkt dt s
  | .csiLineTimeout p => Sys2Proof.Machine.execCsiLineTimeout p s
  | .csiFrameLate p => Sys2Proof.Machine.execCsiFrameLate p s
  | .csiPhySyncLost p => Sys2Proof.Machine.execCsiPhySyncLost p s
  | .ispBandFlag p => Sys2Proof.Machine.execIspBandFlag p s
  | .csiPairLost pair => Sys2Proof.Machine.execCsiPairLost pair s
  | .ispTestResult p sig => Sys2Proof.Machine.execIspTestResult p sig s
  | .ispTestStale p => Sys2Proof.Machine.execIspTestStale p s
  | .venCommandEnd k how view => Sys2Proof.Machine.execVenCommandEnd k how view s
  | .fgsTimerTrigger slot => Sys2Proof.Machine.execFgsTimerTrigger slot s
  | .ageOriginReturn slot seq => Sys2Proof.Machine.execAgeOriginReturn slot seq s
  | .fgsNodeSelect ecc => Sys2Proof.Machine.execFgsNodeSelect ecc s
  | .engineFlagSet node flag seq => Sys2Proof.Machine.execEngineFlagSet node flag seq s
  | .fgsDeadline slot seq node => Sys2Proof.Machine.execFgsDeadline slot seq node s
  | .pourRetire slot seq => Sys2Proof.Machine.execPourRetire slot seq s
  | .fgsAbortWrite who mask => Sys2Proof.Machine.execFgsAbortWrite who mask s
  | .fgsDrain who on => Sys2Proof.Machine.execFgsDrain who on s
  | .fgsGraphLost slot => Sys2Proof.Machine.execFgsGraphLost slot s
  | .neuTileEnd a how => Sys2Proof.Machine.execNeuTileEnd a how s
  | .neuLayerBarrier node seq view => Sys2Proof.Machine.execNeuLayerBarrier node seq view s
  | .bcc t cond ga gb off => Sys2Proof.Machine.execBcc t cond ga gb off s
  | .bal t off => Sys2Proof.Machine.execBal t off s
  | .jr t gs => Sys2Proof.Machine.execJr t gs s
  | .jalr t gs => Sys2Proof.Machine.execJalr t gs s
  | .loopn t lvl gs len => Sys2Proof.Machine.execLoopn t lvl gs len s
  | .mode t m => Sys2Proof.Machine.execMode t m s
  | .resld t gd ga off ecc => Sys2Proof.Machine.execResld t gd ga off ecc s
  | .condst t gs ga gd off ecc => Sys2Proof.Machine.execCondst t gs ga gd off ecc s
  | .sealStores t => Sys2Proof.Machine.execSealStores t s
  | .ioseal t => Sys2Proof.Machine.execIoseal t s
  | .trap t code => Sys2Proof.Machine.execTrap t code s
  | .xret t => Sys2Proof.Machine.execXret t s
  | .mfs t gd sr => Sys2Proof.Machine.execMfs t gd sr s
  | .mts t sr gs => Sys2Proof.Machine.execMts t sr gs s
  | .load t gd addr size ecc => Sys2Proof.Machine.execLoad t gd addr size ecc s
  | .store t gs addr size => Sys2Proof.Machine.execStore t gs addr size s
  | .ordinaryInstruction t op => Sys2Proof.Machine.execOrdinaryInstruction t op s
  | .asyncDeliveryTaken t => Sys2Proof.Machine.execAsyncDeliveryTaken t s
  | .threadRelease who word mask => Sys2Proof.Machine.execThreadRelease who word mask s
  | .threadReset who t => Sys2Proof.Machine.execThreadReset who t s
  | .spawn t => Sys2Proof.Machine.execSpawn t s
  | .taskEnd t status ecc => Sys2Proof.Machine.execTaskEnd t status ecc s
  | .successorLink ecc => Sys2Proof.Machine.execSuccessorLink ecc s
  | .operandSend t slot index gen value ecc => Sys2Proof.Machine.execOperandSend t slot index gen value ecc s
  | .schCancel who slot gen => Sys2Proof.Machine.execSchCancel who slot gen s
  | .schDelivery ecc => Sys2Proof.Machine.execSchDelivery ecc s
  | .loadReturn t peerData => Sys2Proof.Machine.execLoadReturn t peerData s
  | .storeVisible t ecc => Sys2Proof.Machine.execStoreVisible t ecc s
  | .writeResponse t reply => Sys2Proof.Machine.execWriteResponse t reply s
  | .reservationLapse t => Sys2Proof.Machine.execReservationLapse t s
  | .reservationHoldEnd granule => Sys2Proof.Machine.execReservationHoldEnd granule s
  | .flagSet t flag => Sys2Proof.Machine.execFlagSet t flag s
  | .flagAdd t flag value => Sys2Proof.Machine.execFlagAdd t flag value s
  | .peerAccess chip k op addr bytes data ecc => Sys2Proof.Machine.execPeerAccess chip k op addr bytes data ecc s
  | .xltInv who ctx everything => Sys2Proof.Machine.execXltInv who ctx everything s
  | .xltInvDone => Sys2Proof.Machine.execXltInvDone s
  | .fwlLock who r => Sys2Proof.Machine.execFwlLock who r s
  | .dmaStart who ch => Sys2Proof.Machine.execDmaStart who ch s
  | .dmaDoorbell who ch => Sys2Proof.Machine.execDmaDoorbell who ch s
  | .dmaStop who ch => Sys2Proof.Machine.execDmaStop who ch s
  | .dmaClearErr who ch => Sys2Proof.Machine.execDmaClearErr who ch s
  | .dmaResume who => Sys2Proof.Machine.execDmaResume who s
  | .dmaBurstEnd dp => Sys2Proof.Machine.execDmaBurstEnd dp s
  | .dmaDescComplete ch => Sys2Proof.Machine.execDmaDescComplete ch s
  | .dmaPacePoll ch => Sys2Proof.Machine.execDmaPacePoll ch s
  | .dmaBusError ch kind isWrite addr onPosted => Sys2Proof.Machine.execDmaBusError ch kind isWrite addr onPosted s
  | .asyLockstep => Sys2Proof.Machine.execAsyLockstep s
  | .s2Repeat => Sys2Proof.Machine.execS2Repeat s
  | .s2CountExpire => Sys2Proof.Machine.execS2CountExpire s
  | .heartbeatBurst report => Sys2Proof.Machine.execHeartbeatBurst report s
  | .heartbeatMissed => Sys2Proof.Machine.execHeartbeatMissed s
  | .witnessResult slot seq ecc => Sys2Proof.Machine.execWitnessResult slot seq ecc s
  | .asyJudgePour slot seq ecc => Sys2Proof.Machine.execAsyJudgePour slot seq ecc s
  | .batchRelease => Sys2Proof.Machine.execBatchRelease s
  | .queueStall => Sys2Proof.Machine.execQueueStall s
  | .ageTick => Sys2Proof.Machine.execAgeTick s
  | .s1Exit => Sys2Proof.Machine.execS1Exit s
  | .testStart cls => Sys2Proof.Machine.execTestStart cls s
  | .testScore cls res => Sys2Proof.Machine.execTestScore cls res s
  | .handoverForced cls => Sys2Proof.Machine.execHandoverForced cls s
  | .testStale u => Sys2Proof.Machine.execTestStale u s
  | .tokenTimeout u => Sys2Proof.Machine.execTokenTimeout u s
  | .tstInjectSignature who u => Sys2Proof.Machine.execTstInjectSignature who u s
  | .tstInjectParity who u => Sys2Proof.Machine.execTstInjectParity who u s
  | .tstInjectView who u => Sys2Proof.Machine.execTstInjectView who u s
  | .linkTrainAttempt l inp => Sys2Proof.Machine.execLinkTrainAttempt l inp s
  | .linkTrainRetry l => Sys2Proof.Machine.execLinkTrainRetry l s
  | .residualMeasure offsetSum => Sys2Proof.Machine.execResidualMeasure offsetSum s
  | .lnkTimeLost => Sys2Proof.Machine.execLnkTimeLost s
  | .peerStatusSend => Sys2Proof.Machine.execPeerStatusSend s
  | .peerStatusReceive chip state pendingTag swapped => Sys2Proof.Machine.execPeerStatusReceive chip state pendingTag swapped s
  | .flitReplay l => Sys2Proof.Machine.execFlitReplay l s
  | .linkDown l => Sys2Proof.Machine.execLinkDown l s
  | .laneGroup1Lost l => Sys2Proof.Machine.execLaneGroup1Lost l s
  | .remoteFlagSet chip flag slot seq origin => Sys2Proof.Machine.execRemoteFlagSet chip flag slot seq origin s
  | .xchgLine line => Sys2Proof.Machine.execXchgLine line s
  | .peerAbort chip slot seq => Sys2Proof.Machine.execPeerAbort chip slot seq s
  | .flaskSwapAnnounce => Sys2Proof.Machine.execFlaskSwapAnnounce s
  | .flaskSwapTake => Sys2Proof.Machine.execFlaskSwapTake s
  | .remoteUnitFailed chip u => Sys2Proof.Machine.execRemoteUnitFailed chip u s
  | .tapCtrlWrite keeper host => Sys2Proof.Machine.execTapCtrlWrite keeper host s
  | .tapLineWrite ecc => Sys2Proof.Machine.execTapLineWrite ecc s
  | .tapPad => Sys2Proof.Machine.execTapPad s
  | .tapWriteError => Sys2Proof.Machine.execTapWriteError s
  | .ctrOverflow g => Sys2Proof.Machine.execCtrOverflow g s
  | .ctrReadLow who ctr => Sys2Proof.Machine.execCtrReadLow who ctr s
  | .ctrReadHigh who ctr => Sys2Proof.Machine.execCtrReadHigh who ctr s
  | .hostAccess bar offset op ecc => Sys2Proof.Machine.execHostAccess bar offset op ecc s
  | .hostReset kind => Sys2Proof.Machine.execHostReset kind s
  | .evtPop who => Sys2Proof.Machine.execEvtPop who s
  | .msixPendingSend v => Sys2Proof.Machine.execMsixPendingSend v s
  | .msixUnmask v => Sys2Proof.Machine.execMsixUnmask v s
  | .spiCsFall ch => Sys2Proof.Machine.execSpiCsFall ch s
  | .spiCsRise ch bytes => Sys2Proof.Machine.execSpiCsRise ch bytes s
  | .sfpPollLate ch => Sys2Proof.Machine.execSfpPollLate ch s
  | .sfpLineStuck line => Sys2Proof.Machine.execSfpLineStuck line s
  | .registerWrite who addr size value => Sys2Proof.Machine.execRegisterWrite who addr size value s
  | .crucibleScrub addr => Sys2Proof.Machine.execCrucibleScrub addr s
  | .healthSidebandFault u => Sys2Proof.Machine.execHealthSidebandFault u s
  | .neuArrayStopped node seq => Sys2Proof.Machine.execNeuArrayStopped node seq s
  | .laneGroupIdle l => Sys2Proof.Machine.execLaneGroupIdle l s
  | .laneGroup1Join l => Sys2Proof.Machine.execLaneGroup1Join l s
  | .pcieLinkTrained speed width => Sys2Proof.Machine.execPcieLinkTrained speed width s

end Sys2Proof.Machine
end

