-- ==== Sys2Proof/Machine/Tick.lean ====
section
/-! DEFINITION. What one ECLK does by itself, with no command waiting (assumption 1): the writes that wait for the end of a PCLK
act (R515), the global counters count their ECLK selectors (R446), both Runner datapaths move a beat (R351), local buffers fill
(R238), the time-stamp counter and the watch oscillator's time advance (R511, R514), and what has become due takes place:
messages (R462), output stages (R259), changes of role (R231). -/

namespace Sys2Proof.Machine

/-- R446: the selectors that count the ECLK itself: every one, and every one in which a grant request waits. -/
def countEclk (s : State) : State :=
  countSel 5 (if s.ldl.queue.isEmpty then 0 else 1) (countSel 1 1 s)

/-- R514: the ECLK ends. -/
def advanceTsc (s : State) : State := { s with clock := { s.clock with tsc := s.clock.tsc + 1 } }

/-- R511: the watch oscillator's time, while VDD_ASY stands. -/
def advanceWatch (s : State) : State :=
  if s.rails.asy then { s with clock := { s.clock with watch := s.clock.watch + 1 } } else s

/-- R515: at the end of a PCLK the writes that wait for it act. -/
def endPclk (s : State) : State := if (s.clock.watch + 1) % 6 = 0 then settleWrites s else s

/-- R14, R98: SYS_BOOT_DOORBELL.staged clears in the ECLK after the end of a fetch, unless it is written 1 in that ECLK. -/
def clearDoorbell (s : State) : State :=
  match s.sys.fetchEnded with
  | some t => if t < now s then { s with sys := { s.sys with fetchEnded := none, doorbell := s.cyc.bell } } else s
  | none => s

/-- R11, R12, R14, R48: a new ECLK begins, and with every third a new ACLK. -/
def openCycle (s : State) : State :=
  let keep : Cycle := if s.clock.watch % 3 = 0 then {} else { detected := s.cyc.detected, pushed := s.cyc.pushed }
  { s with cyc := keep, rcOld := rcValues s }

/-- R462: the messages of both channels that are due are formed. -/
def formMessages (s : State) : State := formDue .b (formDue .a s)

/-- What an ECLK does to the units while the root clocks run. -/
def runUnits (s : State) : State := clearDoorbell (fillBuffers (runDma (countEclk (endPclk s))))

/-- One ECLK of the block. -/
def tick (s : State) : State :=
  let s := if clocksRun s then settleRoles (flushStages (advanceTsc (advanceWatch (runUnits s)))) else advanceWatch s
  openCycle (formMessages s)

end Sys2Proof.Machine
end

