-- ==== Sys2Proof/WellFormed.lean ====
section
/-! DEFINITION. What the outside world can supply with a command: the operands whose Lean type is wider than the
spec's field. A command is well formed when each lies in its range. -/

namespace Sys2Proof

/-- Node ids of R121. -/
def nodeOk (n : Nat) : Bool := decide (n < 1024)

/-- Flags a pattern may name (R125). -/
def flagOk (f : Nat) : Bool := decide (f < 4032)

/-- R145: the data types that the table of the rule accepts. -/
def dataTypeOk (dt : Nat) : Bool :=
  decide (dt ≤ 3 ∨ 0x08 ≤ dt ∧ dt ≤ 0x0F ∨ dt = 0x12 ∨ dt = 0x1E ∨ 0x2A ≤ dt ∧ dt ≤ 0x2E ∨ 0x30 ≤ dt ∧ dt ≤ 0x37)

/-- A CSI-2 long packet carries at most 65,535 bytes (its word count has 16 bits). -/
def payloadOk (bs : List Byte) : Bool := decide (bs.length ≤ 65535)

/-- R456, R458: a host access moves 1 to 256 bytes. -/
def hostOpOk : HostOp → Bool
  | .read n => decide (0 < n ∧ n ≤ 256)
  | .write d => decide (0 < d.length ∧ d.length ≤ 256)

/-- R419: a 64-bit time-stamp. -/
def stampOk (n : Nat) : Bool := decide (n < 2 ^ 64)

/-- The check of the operands that are wider than the spec's fields. -/
def Instr.wellFormed : Instr → Bool
  | .supplyExcursion _ mv _ => decide (mv ≤ 3000)
  | .csiPixelRow _ _ _ _ _ p => payloadOk p
  | .csiEmbeddedData _ _ k => payloadOk k.payload
  | .csiUserData _ _ _ k => payloadOk k.payload
  | .csiUnsupportedPacket _ dt => !dataTypeOk dt.toNat
  | .engineFlagSet n f _ => nodeOk n && flagOk f
  | .fgsDeadline _ _ n => nodeOk n
  | .neuLayerBarrier n _ _ => nodeOk n
  | .neuArrayStopped n _ => nodeOk n
  | .peerAccess _ _ _ _ n d _ => decide (0 < n ∧ n ≤ 64 ∧ d.length ≤ 64)
  | .remoteFlagSet _ f _ _ o => flagOk f && stampOk o
  | .xchgLine l => decide (l.data.length = 64 ∧ l.offset % 64 = 0)
  | .hostAccess _ _ op _ => hostOpOk op
  | .reservationHoldEnd g => decide (g % 64 = 0)
  | .startSequence i => decide (i.flash.length ≤ 8388608)
  | _ => true

/-- A command whose operands all lie in the spec's ranges. -/
def Instr.WF (i : Instr) : Prop := i.wellFormed = true

end Sys2Proof
end

