-- ==== Sys2Proof/Safety.lean ====
section
/-! DEFINITION. Runs of the block and what counts as a safe one, in the terms the statements use. A run is a sequence of
steps between which the outside world may queue commands. -/

namespace Sys2Proof.Machine

/-- The state with a command queued behind those that wait. -/
def State.enqueue (c : Instr) (s : State) : State := { s with pending := s.pending ++ [c] }

/-- What a run can reach: each step answers a next state, and a command may join the queue before any step. -/
inductive Reaches : State → State → Prop
  | refl (s : State) : Reaches s s
  | queue (c : Instr) {s t : State} : Reaches s t → Reaches s (t.enqueue c)
  | step {s t u : State} : Reaches s t → step t = .next u → Reaches s u

/-- A safe run never meets a fault or a refusal: whatever it reaches can step on. -/
def SafeFrom (s : State) : Prop := ∀ t, Reaches s t → ∃ u, step t = .next u

/-- An invariant: it holds at reset, queueing keeps it and every step keeps it. -/
structure Invariant (P : State → Prop) : Prop where
  atReset : P State.reset
  queued : ∀ c s, P s → P (s.enqueue c)
  stepped : ∀ s t, P s → step s = .next t → P t

/-- R472: no SAFE line is driven active unless the conditions of its channel hold. -/
def LinesJustified (s : State) : Prop :=
  (s.sfp.chA.safe = true → lineActive s s.sfp.chA = true) ∧ (s.sfp.chB.safe = true → lineActive s s.sfp.chB = true)

/-- R32, R494: the machine controller reads no permission: neither SAFE line is driven active. -/
def linesDropped (s : State) : Prop := (chanOf s .a).safe = false ∧ (chanOf s .b).safe = false

/-- R96: memory after a warm reset: Crucible banks 0 to 55 read 0, every other byte is as it was. -/
def MemoryAfterWarm (s t : State) : Prop :=
  ∀ a, t.mem.readByte a = if crucibleBase ≤ a ∧ a < stagingBase then 0 else s.mem.readByte a

/-- R96, R97, R464: what a warm reset leaves behind, whatever its cause. -/
structure WarmReset (cause : BitVec 6) (s t : State) : Prop where
  queue : t.pending = s.pending
  inReset : t.sys.inReset = true
  step : t.sys.step = 1
  cause : t.sys.rstCause = causeAfterWarm s cause
  tsc : t.clock.tsc = 0
  watch : t.clock.watch = s.clock.watch
  fuses : s.idn.fuseOps = [] → t.fuses = s.fuses
  retained : t.ret.events = s.ret.events ∧ t.ret.s2Times = s.ret.s2Times ∧ t.ret.faultCode = s.ret.faultCode ∧
    t.ret.faultCount = s.ret.faultCount ∧ t.ret.starts = s.ret.starts
  memory : MemoryAfterWarm s t
  lines : linesDropped t
  faultN : t.sfp.faultN = true
  pairs : t.sfp.faultPairs = 0

/-- R33, R36, R384, R464: an entry to S2 on a detection: the entry is logged and counted, both channels hold a fault
message, FAULT_N is asserted, both SAFE lines are deasserted and the device is in reset. -/
structure S2Entered (code : EventCode) (s t : State) : Prop where
  queue : t.pending = s.pending
  state : t.asy.state = .s2
  inReset : t.sys.inReset = true
  cause : t.sys.rstCause = causeAfterWarm s 0x08
  /-- R48: of the detections of one ACLK the one of the highest block code is logged last. -/
  faultCode : s.cyc.detected = [] → t.ret.faultCode = code
  faultCount : t.ret.faultCount = s.ret.faultCount + 1
  logged : s.cyc.detected = [] → t.ret.events = code :: s.ret.events
  counted : t.ret.s2Times = s.ret.s2Times ++ [s.clock.watch]
  lines : linesDropped t
  faultN : t.sfp.faultN = true
  /-- R97: another reset of this very cycle adds its own effects. -/
  frozen : s.sys.causeAt ≠ some s.clock.watch → t.sfp.chA.frozen.isSome = true ∧ t.sfp.chB.frozen.isSome = true
  emptied : t.sfp.chA.queue = [] ∧ t.sfp.chB.queue = []
  /-- R460: the event is in the event FIFO, behind every other event of the same command, when the FIFO has room. -/
  raised : s.cyc.detected = [] → s.sys.causeAt ≠ some s.clock.watch → s.hif.fifo.length < 254 → t.hif.fifo.getLast? = some code
  memory : MemoryAfterWarm s t

/-- R33, R384, R464: an entry to S1 from normal operation, on a detection of a code that affects pairs. -/
structure S1Entered (code : EventCode) (pairs : BitVec 4) (s t : State) : Prop where
  state : t.asy.state = .s1
  detected : t.asy.lastDetection = now s
  /-- R48: of the detections of one ACLK the one of the highest block code is logged last. -/
  faultCode : s.cyc.detected = [] → t.ret.faultCode = code
  faultCount : t.ret.faultCount = s.ret.faultCount + 1
  faultPairs : t.sfp.faultPairs = s.sfp.faultPairs ||| pairs
  lines : linesDropped t
  running : t.sys = s.sys
  /-- R384, R460: the event and that of the entry are in the event FIFO when it has room for both. -/
  raised : s.cyc.detected = [] → s.hif.fifo.length < 255 → t.hif.fifo = s.hif.fifo ++ [code, 0x0E31]
  memory : t.mem = s.mem

/-- R265, R332, R339: an instruction of a thread issues: the thread may issue and the fetch at its pc is admitted. u is the
state that the fetch leaves, in which the instruction acts. -/
def Fetched (t : Nat) (s u : State) : Prop :=
  mayIssue s t = true ∧ ∃ a, checkAccess t (threadAt s t).keeper .execute (threadAt s t).pc 4 false
    (noteIssue t (updThread t (fun th => { th with lastPc := th.pc }) (countSel 7 1 s))) = (.ok a, u)

/-- R277, R280: a thread has taken the exception of a code, detail and address with a return address: what entry saves, the
mode and where execution goes on. -/
structure TookException (t code detail addr epc : Nat) (ds : Bool) (s u : State) : Prop where
  thread : threadAt u t = { threadAt s t with
    epc := BitVec.ofNat 64 (epc % 2 ^ 48), ecause := causeOf code detail addr, emode := entryMode (threadAt s t) ds,
    keeper := true, pc := s.rsr.vec.toNat, branch := none, shadow := 0, newMode := false, ioOpen := false, ioUsed := false,
    waiting := .none, remote := none, nextAt := now s + 6 }
  others : ∀ q, q ≠ t → threadAt u q = threadAt s q
  reservation : ∀ r ∈ u.rsr.resvs, r.owner ≠ { thread := t }
  counted : u.rsr.excCnt = satAdd 32 s.rsr.excCnt 1
  memory : u.mem = s.mem
  queue : u.pending = s.pending

end Sys2Proof.Machine
end

