-- ==== Sys2Proof/Certificates/Slice0/Obligations.lean ====
section
/-! DEFINITION. The statements for the provers. -/

open Sys2Proof Sys2Proof.Machine

/-! ### The queue, reset and the Riser words -/

/-- The block's own form of "a step runs the command": the front of the queue runs with the queue's rest. -/
def Obligations.StepRunsFrontCommand : Prop :=
  ∀ (c : Instr) (rest : List Instr) (s : State), s.pending = c :: rest → step s = exec c { s with pending := rest }

/-- The model's choice (assumption 1), not a rule: on an empty queue one ECLK passes. Where the root clocks do not run,
only the watch oscillator's time advances and the safety messages that are due are formed; where they run, the writes that
wait for the end of their PCLK act, the ECLK counters count, the Runner datapaths move a beat, local buffers fill, a doorbell
that a fetch has used clears, both times advance, output stages that are due are written, roles change hands and due messages
are formed, in that order. A new ECLK begins with nothing noted as set in it, and the RC fields as it finds them. -/
def Obligations.EmptyQueueIsOneEclk : Prop :=
  ∀ s : State, s.pending = [] →
    (clocksRun s = false → step s = .next (openCycle (formMessages (advanceWatch s)))) ∧
    (clocksRun s = true → step s = .next (openCycle (formMessages (settleRoles (flushStages (advanceTsc (advanceWatch
      (clearDoorbell (fillBuffers (runDma (countEclk (endPclk s)))))))))))) ∧
    (s.rails.asy = true → (advanceWatch s).clock.watch = s.clock.watch + 1) ∧ (s.rails.asy = false → advanceWatch s = s) ∧
    (openCycle s).cyc.sets = [] ∧ (openCycle s).cyc.bits = [] ∧ (openCycle s).rcOld = rcValues s ∧ (openCycle s).mem = s.mem

/-- What the spec gives for reset: the block is in reset with FAULT_N asserted and both SAFE lines deasserted (R33, R104),
the start sequence stands before its first step's end (R103), no pour is in flight, the firewall has its default regions
(R338), the power mode is RUN (R61) and the channels, the event FIFO and the queue are empty. After a cold reset and after
every warm reset, every task slot is free, every credit is 0 and the groups have their weights, limits and pre-emption (R308);
every link is down, the device exchange flags, LNK_STEP and the residuals are 0 and every peer reads S2 (R436). -/
def Obligations.ResetState : Prop :=
  State.reset.pending = [] ∧ State.reset.sys.inReset = true ∧ State.reset.sys.rstCause = 1 ∧
  State.reset.sys.step = 1 ∧ State.reset.sfp.faultN = true ∧ linesDropped State.reset ∧ State.reset.pwr.cur = .run ∧
  State.reset.fwl.regions = defaultRegions ∧ State.reset.fgs.pours = [] ∧ State.reset.hif.fifo = [] ∧
  State.reset.clock.tsc = 0 ∧ State.reset.ret.faultCode = 0 ∧ State.reset.ret.faultCount = 0 ∧
  ∀ s : State, (s = State.reset ∨ (∃ r, s = coldReset r) ∨ ∃ cause r, s = warmReset cause r) →
    s.sch.tasks = [] ∧ s.sch.groups = ({ weight := 255, limit := 256, preempt := true, credit := 0 } : Machine.Group) ::
      List.replicate 15 { weight := 16, limit := 256, preempt := false, credit := 0 } ∧
    (∀ k ∈ s.lnk.links, k.trained = false) ∧ (∀ v ∈ s.fgs.devFlags, v = 0) ∧ s.lnk.step = 0 ∧ s.lnk.resid = 0 ∧
    s.lnk.residMax = 0 ∧ s.lnk.peerState = 0b10101010

/-- R271, in the direction of the words: a word that reads as an instruction is the one word that the encoding gives that
instruction, so no bit of a word is dropped, and no two words read alike. -/
def Obligations.RiserWordOfInstruction : Prop :=
  ∀ (t : Fin 256) (w : Word32) (i : Instr), decodeRiser t w = .listed i → encodeRiser i = some w

/-- R271: every listed Riser instruction, with every operand at every value its fields admit (LOOPN of no instruction and
condition 7 are reserved), has a word that reads back as it. The memory forms carry no error report in their words. -/
def Obligations.RiserInstructionOfWord : Prop :=
  ∀ t : Fin 256,
    (∀ (cond : BitVec 3) (ga gb : BitVec 5) (off : BitVec 13), cond ≠ 7 →
      (encodeRiser (.bcc t cond ga gb off)).map (decodeRiser t) = some (.listed (.bcc t cond ga gb off))) ∧
    (∀ off : BitVec 26, (encodeRiser (.bal t off)).map (decodeRiser t) = some (.listed (.bal t off))) ∧
    (∀ gs : BitVec 5, (encodeRiser (.jr t gs)).map (decodeRiser t) = some (.listed (.jr t gs))) ∧
    (∀ gs : BitVec 5, (encodeRiser (.jalr t gs)).map (decodeRiser t) = some (.listed (.jalr t gs))) ∧
    (∀ (lvl : BitVec 1) (gs : BitVec 5) (len : BitVec 16), len ≠ 0 →
      (encodeRiser (.loopn t lvl gs len)).map (decodeRiser t) = some (.listed (.loopn t lvl gs len))) ∧
    (∀ m : BitVec 1, (encodeRiser (.mode t m)).map (decodeRiser t) = some (.listed (.mode t m))) ∧
    (∀ (gd ga : BitVec 5) (off : BitVec 16),
      (encodeRiser (.resld t gd ga off .clean)).map (decodeRiser t) = some (.listed (.resld t gd ga off .clean))) ∧
    (∀ (gs ga gd : BitVec 5) (off : BitVec 11),
      (encodeRiser (.condst t gs ga gd off .clean)).map (decodeRiser t) = some (.listed (.condst t gs ga gd off .clean))) ∧
    (encodeRiser (.sealStores t)).map (decodeRiser t) = some (.listed (.sealStores t)) ∧
    (encodeRiser (.ioseal t)).map (decodeRiser t) = some (.listed (.ioseal t)) ∧
    (∀ code : BitVec 16, (encodeRiser (.trap t code)).map (decodeRiser t) = some (.listed (.trap t code))) ∧
    (encodeRiser (.xret t)).map (decodeRiser t) = some (.listed (.xret t)) ∧
    (∀ gd sr : BitVec 5, (encodeRiser (.mfs t gd sr)).map (decodeRiser t) = some (.listed (.mfs t gd sr))) ∧
    (∀ sr gs : BitVec 5, (encodeRiser (.mts t sr gs)).map (decodeRiser t) = some (.listed (.mts t sr gs)))

/-! ### The invariants -/

/-- Every step keeps the memory in its canonical form, from every state that has it, so equal memories are equal data. -/
def Obligations.StepKeepsMemoryCanonical : Prop :=
  ∀ s t : State, s.mem.wf = true → step s = .next t → t.mem.wf = true

/-- R472: every step keeps the safety lines justified: whatever command runs, no SAFE line is driven active unless the
device is in normal operation, in RUN or TRIM, past step 6 of the start, with no stalled batch and with a record released
on that channel since it last lost its line. -/
def Obligations.StepKeepsLinesJustified : Prop :=
  ∀ s t : State, LinesJustified s → step s = .next t → LinesJustified t

/-- Both invariants hold at reset, and putting a command into the queue keeps them. -/
def Obligations.InvariantsStart : Prop :=
  State.reset.mem.wf = true ∧ LinesJustified State.reset ∧
  ∀ (c : Instr) (s : State), (s.mem.wf = true → (s.enqueue c).mem.wf = true) ∧
    (LinesJustified s → LinesJustified (s.enqueue c))

/-- No run ever stops: from every state, whatever commands join the queue, each step answers a next state. The spec gives
every one of its happenings an outcome, so no command faults and none is refused. -/
def Obligations.EveryRunIsSafe : Prop := ∀ s : State, SafeFrom s

/-! ### Events and detections -/

/-- R460: an event enters the event FIFO behind those that wait; a full FIFO drops it, counts it and stands in a drop run.
Raising it leaves memory, the safety state, the retained store, the lines and the queue of commands as they are. -/
def Obligations.RaisedEventEntersFifo : Prop :=
  ∀ (code : EventCode) (s : State),
    (s.hif.fifo.length < 256 → (raise code s).hif.fifo = s.hif.fifo ++ [code] ∧
      (raise code s).hif.evtLost = s.hif.evtLost ∧ (raise code s).hif.dropRun = s.hif.dropRun) ∧
    (256 ≤ s.hif.fifo.length → (raise code s).hif.fifo = s.hif.fifo ∧
      (raise code s).hif.evtLost = satAdd 32 s.hif.evtLost 1 ∧ (raise code s).hif.dropRun = true) ∧
    (raise code s).mem = s.mem ∧ (raise code s).asy = s.asy ∧ (raise code s).ret = s.ret ∧
    (raise code s).sfp = s.sfp ∧ (raise code s).sys = s.sys ∧ (raise code s).pwr = s.pwr ∧
    (raise code s).fuses = s.fuses ∧ (raise code s).tst = s.tst ∧ (raise code s).cams = s.cams ∧
    (raise code s).idn = s.idn ∧ (raise code s).pending = s.pending ∧ (raise code s).clock = s.clock

/-- R34, R384, R464: the detections that call for S2 (a clock lost, a supply or VDD_IO out of limits, over-temperature,
VDD_CORE that does not return, an Assayer lockstep or heartbeat failure, the reference time lost, a stuck safety line):
each enters S2 with its event code, unless R36 already holds the device in reset or this ACLK has already brought an entry
(R48). The clock detections hold while the clocks run, and in a HOLD exit from the moment R74 gives. -/
def Obligations.DetectionsEnterS2 : Prop :=
  ∀ s : State, s.ret.s2Held = false → s2Now s = false →
    (pllUp s = true → ∃ t, exec .pllUnlock s = .next t ∧ S2Entered 0x0220 s t) ∧
    (pllUp s = true ∨ s.rails.asy = true ∧ holdExiting s = true →
      ∃ t, exec .refclkLost s = .next t ∧ S2Entered 0x0221 s t) ∧
    (∀ mv eclk : Nat, s.rails.asy = true → mv < 760 ∨ 840 < mv → 2400 < eclk →
      ∃ t, exec (.supplyExcursion .asy mv eclk) s = .next t ∧ S2Entered 0x0231 s t) ∧
    (∀ mv eclk : Nat, s.rails.asy = true → s.rails.core = true → s.rails.coreMasked = false →
      s.sys.powerUpFailed = false → mv < 700 ∨ 800 < mv → 2400 < eclk →
      ∃ t, exec (.supplyExcursion .core mv eclk) s = .next t ∧ S2Entered 0x0230 s t) ∧
    (s.rails.asy = true → ∃ t, exec .vddIoLow s = .next t ∧ S2Entered 0x1215 s t) ∧
    (s.rails.asy = true → 2 ≤ s.pwr.hotRun → ∃ t, exec .tempTrip s = .next t ∧ S2Entered 0x0233 s t) ∧
    (s.rails.asy = true → holdExiting s = true → s.rails.core = false →
      s.rails.holdFellAt + Config.watchSpan 12000000 s.rails.holdFellAt ≤ s.clock.watch → ∃ t, exec .holdCoreTimeout s = .next t ∧ S2Entered 0x0230 s t) ∧
    (assayerRuns s = true → ∃ t, exec .asyLockstep s = .next t ∧ S2Entered 0x0E01 s t) ∧
    (assayerRuns s = true → s.asy.lastBurst + Config.watchSpan 1440000 s.asy.lastBurst ≤ s.clock.watch →
      ∃ t, exec .heartbeatMissed s = .next t ∧ S2Entered 0x0E02 s t) ∧
    (assayerRuns s = true → s.asy.beats = 0 ∨ s.asy.lastBurst + Config.oneMs ≤ s.clock.watch →
      ∃ t, exec (.heartbeatBurst .wrong) s = .next t ∧ S2Entered 0x0E02 s t) ∧
    (8 ≤ s.lnk.driftRun → ∃ t, exec .lnkTimeLost s = .next t ∧ S2Entered 0x1007 s t) ∧
    (∀ line : SafetyLine, s.rails.asy = true → s.rails.io = true →
      ∃ t, exec (.sfpLineStuck line) s = .next t ∧ S2Entered 0x1215 s t)

/-- R56, R57, R58: a clock monitor window, once per 1 ms of the watch oscillator. Counts within their limits update the clock
status and nothing else; counts that are not enter S2, once, with every code that they raise logged. R504, R505: a temperature
reading: PWR_TEMP takes it, the peak follows it, two readings above 115 °C in a row count toward the trip, and a reading above
105 °C is an event. The reading is signed. Nothing else changes. -/
def Obligations.MonitorsRead : Prop :=
  ∀ s : State,
    (∀ counts : ClockCounts, pllUp s = true → windowDue s = true →
      (monitorCodes counts = [] → exec (.clockMonitorWindow counts) s = .next { s with pwr := { s.pwr with
        windowAt := some s.clock.watch, pclkCount := BitVec.ofNat 18 counts.pclk, refOk := true, monOk := true } }) ∧
      (∀ c, monitorCodes counts = [c] → s.ret.s2Held = false → s2Now s = false →
        ∃ t, exec (.clockMonitorWindow counts) s = .next t ∧ S2Entered c s t) ∧
      (∀ c cs, monitorCodes counts = c :: cs → s.ret.s2Held = false → s2Now s = false →
        ∃ t, exec (.clockMonitorWindow counts) s = .next t ∧ t.asy.state = .s2 ∧ t.sys.inReset = true ∧
          t.ret.s2Times = s.ret.s2Times ++ [s.clock.watch] ∧
          t.ret.faultCount = s.ret.faultCount + BitVec.ofNat 8 (monitorCodes counts).length)) ∧
    (∀ counts : ClockCounts, windowDue s = false → exec (.clockMonitorWindow counts) s = .next s) ∧
    (∀ c : BitVec 9, s.rails.asy = true → tempDue s = true →
      (c.toInt ≤ 105 → exec (.tempSample c) s = .next { s with pwr := { s.pwr with
        tempAt := some s.clock.watch, temp := c, tempPeak := if s.pwr.tempPeak.toInt < c.toInt then c else s.pwr.tempPeak, hotRun := 0 } }) ∧
      (105 < c.toInt → exec (.tempSample c) s = .next (raise 0x0232 { s with pwr := { s.pwr with
        tempAt := some s.clock.watch, temp := c, tempPeak := if s.pwr.tempPeak.toInt < c.toInt then c else s.pwr.tempPeak,
        hotRun := if 115 < c.toInt then s.pwr.hotRun + 1 else 0, tempHigh := true } }))) ∧
    (∀ c, s.rails.asy = false ∨ tempDue s = false → exec (.tempSample c) s = .next s)

/-! ### Rails, resets and power-up -/

/-- R96, R494, R498: VDD_ASY comes and goes: a cold reset clears all state but the fuses. With VDD_ASY absent both SAFE
lines are undriven and FAULT_N is held low while VDD_IO stands. -/
def Obligations.ColdResetsByVddAsy : Prop :=
  ∀ s : State, s.idn.fuseOps = [] →
    (∃ t, exec .vddAsyPowerOn s = .next t ∧ t.fuses = s.fuses ∧ t.ret = {} ∧ t.mem.cells = [] ∧ t.sys.rstCause = 1 ∧
      t.sys.inReset = true ∧ t.rails.asy = true ∧ t.rails.io = true ∧ t.rails.asyGoodAt = 0 ∧ linesDropped t ∧
      t.sfp.faultN = true ∧ t.clock.tsc = 0 ∧ t.pending = s.pending) ∧
    (∀ io : Bool, ∃ t, exec (.vddAsyLoss io) s = .next t ∧ t.fuses = s.fuses ∧ t.ret = {} ∧ t.mem.cells = [] ∧
      t.rails.asy = false ∧ t.rails.io = io ∧ t.sfp.faultN = io ∧ t.rails.faultFloats = !io ∧ linesDropped t ∧
      t.pending = s.pending)

/-- R96, R97, R505: the warm resets: a low pulse of 1,200 ECLK or more on RST_N outside HOLD and OFF, a full reset written
by a keeper-mode thread, and VDD_CORE that has gone and come back. A write by any other agent has no effect. In OFF the pulse
raises PMIC_EN as well (R67). A keeper's write in the very cycle of another reset is one more source of it (R97). -/
def Obligations.WarmResetsByTheirSources : Prop :=
  ∀ s : State,
    (∀ low : Nat, 1200 ≤ low → s.rails.asy = true → s.pwr.cur ≠ .hold → s.pwr.cur ≠ .off →
      ∃ t, exec (.rstNPulse low) s = .next t ∧ WarmReset 0x04 s t) ∧
    (∀ low : Nat, low < 1200 → exec (.rstNPulse low) s = .next s) ∧
    (∀ who : Agent, agentKeeper s who = true → clocksRun s = true →
      ∃ t, exec (.softReset who) s = .next t ∧ WarmReset 0x10 s t) ∧
    (∀ who : Agent, keptMode s who = true → resetNow s = true →
      ∃ t, exec (.softReset who) s = .next t ∧ WarmReset 0x10 s t) ∧
    (∀ who : Agent, agentKeeper s who = false → keptMode s who = false → exec (.softReset who) s = .next s) ∧
    (∀ low : Nat, 1200 ≤ low → s.rails.asy = true → s.pwr.cur = .off →
      ∃ t, exec (.rstNPulse low) s = .next t ∧ WarmReset 0x04 s t ∧ t.rails.pmicEn = true ∧
        t.rails.pmicEnAt = s.clock.watch) ∧
    (s.rails.asy = true → s.rails.core = true →
      ∃ t, exec .vddCorePowerOn s = .next t ∧ WarmReset 0x02 s t ∧ t.rails.core = true)

/-- R74, R498, R500: the steps of power-up, each under its own conditions; nothing else changes. A time that the watch
oscillator measures lies in its tolerance (R511). -/
def Obligations.PowerUpSteps : Prop :=
  ∀ s : State,
    (s.rails.asy = true → s.rails.core = false → s.rails.pmicEn = true → s.rails.pmicHold = false →
      exec .vddCorePowerOn s = .next { s with rails := { s.rails with
        core := true, cru := .run, coreAt := some s.clock.watch } }) ∧
    (s.rails.asy = true → s.sys.inReset = true → s.rails.pmicEn = false →
      s.rails.asyGoodAt + 240000 ≤ s.clock.watch →
      exec .pmicEnAssert s = .next { s with rails := { s.rails with pmicEn := true, pmicEnAt := s.clock.watch } }) ∧
    (s.rails.asy = true → s.sys.inReset = true → s.rails.pmicEn = true → s.sys.powerUpFailed = false →
      (s.rails.core = false ∨ s.rails.phy = false ∨ s.rails.ddr = false) → s.rails.pmicEnAt + 24000000 ≤ s.clock.watch →
      ∃ t, exec .powerUpTimeout s = .next t ∧ t.sys = { s.sys with powerUpFailed := true } ∧ t.sfp.faultN = true ∧
        t.ret = { s.ret with events := 0x0230 :: s.ret.events } ∧ t.rails = s.rails ∧ t.mem = s.mem) ∧
    (∀ since : Nat, since = max (s.rails.coreAt.getD 0) s.rails.holdFellAt → s.rails.coreMasked = true →
      s.rails.pmicHold = false → s.rails.core = true → since + Config.watchSpan 120000 since ≤ s.clock.watch →
      exec .vddCoreMonRearm s = .next { s with rails := { s.rails with coreMasked := false } })

/-- R64, R66: in HOLD, with no exit in progress, RST_N low for 1,200 ECLK or the wake timer ends HOLD: PMIC_HOLD falls and
the exit begins, to the mode that PWR_HOLD_CFG named at the entry. No reset takes place. -/
def Obligations.HoldEnds : Prop :=
  ∀ (s : State) (m : PowerMode), s.pwr.cur = .hold → s.pwr.trans = none →
    (s.pwr.holdExit = 0 ∧ m = .run ∨ s.pwr.holdExit = 1 ∧ m = .trim ∨ s.pwr.holdExit = 2 ∧ m = .watch) →
    (∀ low : Nat, 1200 ≤ low → s.rails.asy = true → exec (.rstNPulse low) s = .next { s with
      rails := { s.rails with pmicHold := false, holdFellAt := s.clock.watch }
      pwr := { s.pwr with trans := some { target := m, source := .hold, requestedAt := s.clock.watch,
                                          startedAt := some s.clock.watch } } }) ∧
    (s.pwr.holdWake ≠ 0 →
      s.pwr.holdAt + Config.watchSpan (s.pwr.holdWake.toNat * 1200000) s.pwr.holdAt ≤ s.clock.watch →
      exec .holdWakeTimer s = .next { s with
        rails := { s.rails with pmicHold := false, holdFellAt := s.clock.watch }
        pwr := { s.pwr with trans := some { target := m, source := .hold, requestedAt := s.clock.watch,
                                            startedAt := some s.clock.watch } } })

/-! ### Power modes -/

/-- R65, R71, R515: writes of PWR_MODE_REQ at the end of their PCLK. A code that names a mode requests it; one that names none
is an event; the keeper's write is taken where both write in one PCLK, with an event; without the clocks no write arrives. A
register write that waits for the end of the PCLK counts as its writer's request. -/
def Obligations.ModeRequested : Prop :=
  ∀ (s : State) (k : BitVec 3) (m : PowerMode), clocksRun s = true → (∀ b, heldAt s modeReqAt b = []) →
    (powerModeOf k.toNat = some m → s.pwr.trans = none → (m ≠ s.pwr.cur ∨ m = .trim) →
      exec (.pwrModeRequest (some k) none) s = .next { s with pwr := { s.pwr with
        modeReq := k, trans := some { target := m, source := s.pwr.cur, requestedAt := s.clock.watch } } }) ∧
    (powerModeOf k.toNat = some m → s.pwr.trans = none → m = s.pwr.cur → m ≠ .trim →
      exec (.pwrModeRequest (some k) none) s = .next { s with pwr := { s.pwr with modeReq := k } }) ∧
    (powerModeOf k.toNat = some m → s.pwr.trans.isSome = true → s.pwr.pend = none →
      exec (.pwrModeRequest (some k) none) s = .next { s with pwr := { s.pwr with modeReq := k, pend := some m } }) ∧
    (5 ≤ k.toNat → exec (.pwrModeRequest (some k) none) s =
      .next (raise 0x0202 { s with pwr := { s.pwr with modeReq := k } })) ∧
    exec (.pwrModeRequest none (some k)) s = exec (.pwrModeRequest (some k) none) s ∧
    (∀ h : BitVec 3, ∃ u, exec (.pwrModeRequest (some k) none) s = .next u ∧
      exec (.pwrModeRequest (some k) (some h)) s = .next (raise 0x0203 u)) ∧
    (∀ (r : State) (a b : Option (BitVec 3)), clocksRun r = false → exec (.pwrModeRequest a b) r = .next r) ∧
    (∀ (r : State) (a b : Option (BitVec 3)), clocksRun r = true → exec (.pwrModeRequest a b) r =
      exec (.pwrModeRequest (a.orElse fun _ => heldMode r true) (b.orElse fun _ => heldMode r false))
        (dropHeld modeReqAt r))

/-- R62, R64, R65, R68, R77, R91: a requested transition starts once its pours have retired and no earlier swap waits: out of
WATCH into RUN at once, the ramp of the larger standing grant ending before any further grant; into WATCH, HOLD or OFF with
both SAFE lines deasserted, the mode itself staying until it completes (said here for a change out of WATCH; a change out of
RUN also drains the Runners); into TRIM only with a configuration that R62 accepts, else the request ends with its event. -/
def Obligations.ModeTransitionStarts : Prop :=
  ∀ (s : State) (t : Transition), clocksRun s = true → s.pwr.trans = some t → t.startedAt = none → swapBefore s t = false →
    (t.source = .watch → t.target = .run → exec .modeTransitionStart s = .next { s with
      pwr := { s.pwr with trans := some { t with startedAt := some s.clock.watch, trim := none } },
      ldl := { s.ldl with lastRampEnd := max s.ldl.lastRampEnd (now s + 30 * (standingWith 0x1F s - s.ldl.standing)) } }) ∧
    (s.fgs.pours = [] → quiet t.target = true → ∃ u, exec .modeTransitionStart s = .next u ∧ linesDropped u ∧
      u.sfp.chA.released = false ∧ u.sfp.chB.released = false ∧
      (t.source = .watch → u.pwr.cur = s.pwr.cur ∧ u.mem = s.mem ∧ u.fuses = s.fuses ∧ u.ret = s.ret)) ∧
    (s.fgs.pours = [] → t.target = .trim → trimAccepted s = none → s.pwr.pend = none → exec .modeTransitionStart s =
      .next (raise 0x0204 { s with pwr := { s.pwr with trans := none } })) ∧
    (∀ c, s.fgs.pours = [] → t.target = .trim → trimAccepted s = some c → ∃ u, exec .modeTransitionStart s = .next u ∧
      u.pwr.trans = some { t with startedAt := some s.clock.watch, trim := some c } ∧ u.pwr.cur = s.pwr.cur ∧
      u.mem = s.mem ∧ u.ret = s.ret) ∧
    (s.fgs.pours ≠ [] → t.source ≠ .watch → exec .modeTransitionStart s = .next s)

/-- R61, R64, R66 to R68, R79, R500, R501: a transition completes after its latency, which counts from the request in a change
out of WATCH: the mode is the target, with the ceiling and the standing grant that R61 and R79 give it; HOLD raises PMIC_HOLD
and masks the VDD_CORE monitor, OFF drops PMIC_EN and what Crucible and DRAM hold. A return to RUN awaits a full rotation. -/
def Obligations.ModeTransitionCompletes : Prop :=
  ∀ (s : State) (t : Transition) (a : Nat), s.pwr.trans = some t → t.startedAt = some a → s.pwr.pend = none →
    (t.target = .watch → t.source = .run → a + 180000 ≤ s.clock.watch →
      ∃ u, exec .modeTransitionComplete s = .next u ∧ u.pwr.cur = .watch ∧ u.pwr.trans = none ∧ u.ldl.standing = 28 ∧
        u.ldl.activeCeil = 40 ∧ linesDropped u ∧ u.mem = s.mem ∧ u.asy = s.asy) ∧
    (t.target = .run → t.source = .trim → a + 24000 ≤ s.clock.watch →
      ∃ u, exec .modeTransitionComplete s = .next u ∧ u.pwr.cur = .run ∧ u.pwr.trans = none ∧
        u.ldl.activeCeil = s.ldl.ceil ∧ u.mem = s.mem ∧ u.asy = s.asy) ∧
    (t.target = .hold → t.source = .run → a + 240000 ≤ s.clock.watch →
      ∃ u, exec .modeTransitionComplete s = .next u ∧ u.pwr.cur = .hold ∧ u.pwr.trans = none ∧ u.rails.pmicHold = true ∧
        u.rails.coreMasked = true ∧ u.ldl.activeCeil = 0 ∧ linesDropped u ∧ u.mem = s.mem) ∧
    (t.target = .off → t.source = .run → a + 240000 ≤ s.clock.watch →
      ∃ u, exec .modeTransitionComplete s = .next u ∧ u.pwr.cur = .off ∧ u.pwr.trans = none ∧ u.rails.pmicEn = false ∧
        u.mem.cells = [] ∧ linesDropped u ∧ u.fuses = s.fuses) ∧
    (t.target = .run → t.source = .watch → t.requestedAt + 180000 ≤ s.clock.watch →
      ∃ u, exec .modeTransitionComplete s = .next u ∧ u.pwr.cur = .run ∧ u.sys.ready = false ∧
        u.tst.rotationAt = some (now s) ∧ u.ldl.activeCeil = s.ldl.ceil ∧ u.mem = s.mem) ∧
    (t.target = .run → t.source = .hold → s.rails.core = true → a + 3000000 ≤ s.clock.watch →
      ∃ u, exec .modeTransitionComplete s = .next u ∧ u.pwr.cur = .run ∧ u.pwr.trans = none ∧ u.pwr.pllLock = true ∧
        u.rails.phy = true ∧ u.sys.ready = false ∧ u.ldl.activeCeil = s.ldl.ceil ∧ u.mem = s.mem) ∧
    (s.clock.watch < latencyFrom t a + latency t.source t.target → exec .modeTransitionComplete s = .next s)

/-! ### Ladle -/

/-- R76, R77, R84, R85: the head of the grant queue is granted when it fits and the last ramp has ended: it leaves the
queue, its grant stands with a ramp of 30 ECLK a ticket, and the next grant waits for that ramp. A frozen Ladle grants
nothing. -/
def Obligations.LadleGrants : Prop :=
  ∀ (s : State) (r : Request), queueHead s.ldl.queue = some r → canFit s r.tickets = true →
    (grantDue s r = true → ∃ t g, exec .ladleGrant s = .next t ∧ g ∈ t.ldl.grants ∧ g.id = r.id ∧
      g.tickets = r.tickets ∧ g.rampEnd = now s + 30 * r.tickets ∧ g.begun = false ∧ g.serves = r.serves ∧
      (∀ q ∈ t.ldl.queue, q.id ≠ r.id) ∧ t.ldl.lastGrant = some (now s) ∧
      t.ldl.lastRampEnd = now s + 30 * r.tickets ∧ t.mem = s.mem ∧ t.fgs = s.fgs ∧ t.asy = s.asy ∧ t.rsr = s.rsr) ∧
    (s.ldl.frozen = true → exec .ladleGrant s = .next s)

/-- R87: the head of the queue that can fit at no time is refused, with an event. R77: a ramp that has not ended, or one of
no grant, begins nothing. -/
def Obligations.LadleRefusesAndWaits : Prop :=
  ∀ s : State,
    (∀ r, queueHead s.ldl.queue = some r → canFit s r.tickets = false →
      exec .ladleGrant s = .next (refuseHolder r.id (raise 0x0303 { s with ldl := { s.ldl with
        queue := s.ldl.queue.filter (fun q => q.id != r.id) } }))) ∧
    (s.ldl.queue = [] → exec .ladleGrant s = .next s) ∧
    (∀ id g, (s.ldl.grants.find? fun g => g.id == id.toNat && !g.begun && g.relAt.isNone) = some g →
      now s < g.rampEnd → exec (.ladleRampEnd id) s = .next s)

/-- R77, R86: at the end of its ramp a test load begins to draw, for the hold time of its go; its grant has begun. -/
def Obligations.LadleRampEnds : Prop :=
  ∀ (s : State) (n : Fin 2) (g : Grant),
    (s.ldl.grants.find? fun g => g.id == (0x175 + n.val) && !g.begun && g.relAt.isNone) = some g → g.rampEnd ≤ now s →
    exec (.ladleRampEnd (BitVec.ofNat 10 (0x175 + n.val))) s = .next { s with ldl := { s.ldl with
      grants := updFirst (fun h => h.id == (0x175 + n.val) && !h.begun) (fun h => { h with begun := true }) s.ldl.grants,
      loads := upd s.ldl.loads n.val (fun l => { l with phase := .drawing (now s + l.runHold) }) } }

/-- R88: a write of the ceiling: outside 320 to 960 tickets it is ignored with an event; below the peak declared draw of a
loaded pattern, active or pending, it is ignored with an event; else it is taken, grants stay as they are, and in RUN it rules
from the next ECLK: in the ECLK of the write the old ceiling does. While the granted sum and the head's tickets exceed the
ceiling that rules, no grant is made. -/
def Obligations.LadleCeilingWritten : Prop :=
  ∀ (s : State) (who : Agent) (v : BitVec 10),
    (v.toNat < 320 ∨ 960 < v.toNat → exec (.ladleCeilingWrite who v) s = .next (raise 0x0301 s)) ∧
    (∀ p, s.pat.active = some p ∨ s.pat.pending = some p → 320 ≤ v.toNat → v.toNat ≤ 960 → v.toNat < peakDraw p s.ldl.standing →
      exec (.ladleCeilingWrite who v) s = .next (raise 0x0302 s)) ∧
    (320 ≤ v.toNat → v.toNat ≤ 960 →
      (∀ p, s.pat.active = some p ∨ s.pat.pending = some p → peakDraw p s.ldl.standing ≤ v.toNat) →
      (s.pwr.cur = .run → ∃ t, exec (.ladleCeilingWrite who v) s = .next t ∧ t = { s with ldl := { s.ldl with
          ceil := v.toNat, oldCeil := some (now s, ceilingNow s), activeCeil := v.toNat } } ∧
        ceilingNow t = ceilingNow s ∧ ∀ n, n ≠ now s → ceilingNow { t with clock := { t.clock with tsc := n } } = v.toNat) ∧
      (s.pwr.cur ≠ .run → exec (.ladleCeilingWrite who v) s = .next { s with ldl := { s.ldl with ceil := v.toNat } })) ∧
    (∀ r, queueHead s.ldl.queue = some r → canFit s r.tickets = true → ceilingNow s < grantedSum s + r.tickets →
      exec .ladleGrant s = .next s)

/-- R86, R87, R91: the test loads. A go of an idle load by a keeper-mode thread, outside a mode change, makes its request, of at
least one ticket, or has it refused where it can fit at no time; a busy load only takes the registers; a stop withdraws a
queued request at once, and ends a ramp or a draw in the next ECLK; the end of the hold time releases the grant. No other
agent's go or stop has an effect. -/
def Obligations.TestLoadsRun : Prop :=
  ∀ (s : State) (n : Fin 2) (who : Agent) (tickets : BitVec 8) (hold : BitVec 16),
    (agentKeeper s who = false → exec (.tloadGo who n tickets hold) s = .next s ∧ exec (.tloadStop who n) s = .next s) ∧
    (agentKeeper s who = true → loadPhase s n.val = .idle → changing s = false → canFit s (max 1 tickets.toNat) = true →
      ∃ t, exec (.tloadGo who n tickets hold) s = .next t ∧ t.ldl.queue = s.ldl.queue ++
        [{ id := 0x175 + n.val, cls := 2, deadline := none, madeAt := now s, tickets := max 1 tickets.toNat,
           serves := none }] ∧ t.ldl.grants = s.ldl.grants ∧ t.mem = s.mem ∧ t.hif = s.hif ∧ t.asy = s.asy) ∧
    (agentKeeper s who = true → loadPhase s n.val = .idle → changing s = false → canFit s (max 1 tickets.toNat) = false →
      exec (.tloadGo who n tickets hold) s = .next (raise 0x0303 { s with ldl := { s.ldl with
        loads := upd s.ldl.loads n.val (fun l => { l with tickets := tickets, hold := hold }) } })) ∧
    (agentKeeper s who = true → loadPhase s n.val ≠ .idle ∨ changing s = true →
      exec (.tloadGo who n tickets hold) s = .next { s with ldl := { s.ldl with
        loads := upd s.ldl.loads n.val (fun l => { l with tickets := tickets, hold := hold }) } }) ∧
    (agentKeeper s who = true → (nth s.ldl.loads n.val {}).phase = .queued → s.ldl.grants = [] →
      ∃ t, exec (.tloadStop who n) s = .next t ∧ t.ldl.queue = s.ldl.queue.filter (fun r => r.id != 0x175 + n.val) ∧
        loadPhase t n.val = .idle ∧ t.ldl.grants = [] ∧ t.mem = s.mem ∧ t.hif = s.hif ∧ t.asy = s.asy) ∧
    (∀ e, agentKeeper s who = true →
      (nth s.ldl.loads n.val {}).phase = .ramping ∨ (nth s.ldl.loads n.val {}).phase = .drawing e →
      ∃ t, exec (.tloadStop who n) s = .next t ∧ (nth t.ldl.loads n.val {}).phase = .stopping (now s + 1) ∧
        (∀ g ∈ t.ldl.grants, g.id = 0x175 + n.val → g.relAt.isSome = true) ∧ t.mem = s.mem ∧ t.hif = s.hif ∧
        t.asy = s.asy) ∧
    (agentKeeper s who = true → loadPhase s n.val = .idle → exec (.tloadStop who n) s = .next s) ∧
    (∀ e, (nth s.ldl.loads n.val {}).phase = .drawing e → e ≤ now s →
      exec (.tloadHoldEnd n) s = .next { s with ldl := { s.ldl with
        queue := s.ldl.queue.filter (fun r => r.id != 0x175 + n.val),
        grants := s.ldl.grants.filter (fun g => g.id != 0x175 + n.val),
        loads := upd s.ldl.loads n.val (fun l => { l with phase := .idle }) } }) ∧
    (∀ e, (nth s.ldl.loads n.val {}).phase = .drawing e → now s < e → exec (.tloadHoldEnd n) s = .next s)

/-- R92, R94: a measurement window ends, once per 1,200 ECLK: a window above the allowance (the margins over the largest granted
sum) joins the overrun run, one within it ends that run, and one below half the granted sum joins the underrun run. That the
register shows the current rounded to the nearest ticket, and that R94's granted sum is the window's largest, is the model's
choice (assumption 20). Nothing is granted or refused by it, and at any other time nothing happens. -/
def Obligations.CurrentWindowMeasured : Prop :=
  (∀ (s : State) (m : Nat), now s % 1200 = 0 → s.ldl.windowAt ≠ some (now s) →
    ∃ t, exec (.currentMonitorWindow m) s = .next t ∧
      t.ldl.measured = BitVec.ofNat 11 (min 2047 ((m + 16) / 32)) ∧
      t.ldl.peak = (if s.ldl.peak.toNat < t.ldl.measured.toNat then t.ldl.measured else s.ldl.peak) ∧
      t.ldl.windowAt = some (now s) ∧ t.ldl.maxGranted = grantedSum s ∧
      (32 * s.ldl.maxGranted + 32 * s.ldl.marginAbs.toNat + s.ldl.marginRel.toNat * s.ldl.maxGranted < m →
        t.ldl.overRun = s.ldl.overRun + 1) ∧
      (m ≤ 32 * s.ldl.maxGranted + 32 * s.ldl.marginAbs.toNat + s.ldl.marginRel.toNat * s.ldl.maxGranted →
        t.ldl.overRun = 0) ∧
      (2 * m < 32 * s.ldl.maxGranted → s.ldl.standing < s.ldl.maxGranted → t.ldl.underRun = s.ldl.underRun + 1) ∧
      (32 * s.ldl.maxGranted ≤ 2 * m ∨ s.ldl.maxGranted ≤ s.ldl.standing → t.ldl.underRun = 0) ∧
      t.ldl.frozen = s.ldl.frozen ∧ t.ldl.queue = s.ldl.queue ∧ t.ldl.grants = s.ldl.grants ∧
      t.mem = s.mem ∧ t.hif = s.hif ∧ t.asy = s.asy) ∧
  (∀ (s : State) (m : Nat), now s % 1200 ≠ 0 ∨ s.ldl.windowAt = some (now s) → exec (.currentMonitorWindow m) s = .next s)

/-- R92, R93, R94: what the windows lead to: an overrun freezes granting and enters S1, once for its run of windows, also while
Ladle is frozen; the exposed pours lose their records; a run within the allowance resumes granting; an underrun is an event,
once. -/
def Obligations.CurrentRunsAct : Prop :=
  ∀ s : State,
    (s.ldl.overRaised = false → monWindows s ≤ s.ldl.overRun → s.ldl.exposed = [] → s.asy.state = .normal →
      6 ≤ s.sys.step.toNat →
      ∃ t, exec .ldlOverrun s = .next t ∧ S1Entered 0x0320 0 s t ∧ t.ldl.frozen = true ∧ t.ldl.queue = s.ldl.queue) ∧
    (s.ldl.overRaised = false → monWindows s ≤ s.ldl.overRun →
      exec .ldlOverrun s = .next (s.ldl.exposed.foldl (fun u r => invalidatePour r u)
        (detectS1 0x0320 (pairBits (pairsOf s s.ldl.exposed))
          { s with ldl := { s.ldl with frozen := true, overRaised := true, withinRun := 0 } }))) ∧
    (s.ldl.overRaised = true ∨ s.ldl.overRun < monWindows s → exec .ldlOverrun s = .next s) ∧
    (s.ldl.frozen = true → monWindows s ≤ s.ldl.withinRun → exec .ldlUnfreeze s = .next { s with ldl := { s.ldl with
      frozen := false, withinRun := 0, overRun := 0, exposed := [] } }) ∧
    (8 ≤ s.ldl.underRun → s.ldl.underRaised = false →
      exec .ldlUnderrun s = .next (raise 0x0321 { s with ldl := { s.ldl with underRaised := true } })) ∧
    (s.ldl.underRun < 8 → exec .ldlUnderrun s = .next s)

/-! ### Start, fuses and attestation -/

/-- R98, R100, R103, R106, R499: the start sequence. From the host source, with the self-test passed and a staged image that
cannot be read whole, it releases reset, samples the pins, restarts the time-stamp counter and waits in step 5 for the
doorbell, FAULT_N still asserted. A failed self-test enters S2; an uncorrectable fuse error, or a boot source that no rule
names, stops the start. -/
def Obligations.StartSequenceRuns : Prop :=
  ∀ (s : State) (inp : StartInputs), mayStart s = true →
    (inp.mismatchReported = true → inp.romCrcOk = true → inp.fuseEccOk = true → inp.bootSel = 0 →
      inp.badReads ≠ [] → s.sys.doorbell = false →
      ∃ t, exec (.startSequence inp) s = .next t ∧ t.sys.inReset = false ∧ t.sys.step = 5 ∧ t.clock.tsc = 0 ∧
        t.sys.fetchWait = some 0 ∧ t.sys.source = 0 ∧ t.sys.flaskId = inp.flaskId ∧ t.ret.starts = s.ret.starts + 1 ∧
        t.sfp.faultN = true ∧ linesDropped t ∧ t.mem = s.mem ∧ t.fuses = s.fuses ∧ t.pending = s.pending) ∧
    (inp.mismatchReported = false ∨ inp.romCrcOk = false →
      ∃ t, exec (.startSequence inp) s = .next t ∧ t.asy.state = .s2 ∧ t.sys.inReset = true ∧
        t.ret.s2Times = s.ret.s2Times ++ [s.clock.watch] ∧ t.sfp.faultN = true ∧ linesDropped t ∧
        (s.cyc.detected = [] → t.ret.faultCode = 0x0406 ∧
          (s.sys.causeAt ≠ some s.clock.watch → s.hif.fifo.length < 254 → t.hif.fifo.getLast? = some 0x0406))) ∧
    (inp.mismatchReported = true → inp.romCrcOk = true → inp.fuseEccOk = false →
      ∃ t, exec (.startSequence inp) s = .next t ∧ t.sys.failed = true ∧ t.sys.failCode = 0x0407 ∧ t.sys.step = 3 ∧
        t.sys.inReset = false ∧ t.sfp.faultN = true ∧ linesDropped t ∧ t.mem = s.mem) ∧
    (inp.mismatchReported = true → inp.romCrcOk = true → inp.fuseEccOk = true → 2 ≤ inp.bootSel.toNat →
      ∃ t, exec (.startSequence inp) s = .next t ∧ t.sys.failed = true ∧ t.sys.failCode = 0x0103 ∧
        t.sys.inReset = false ∧ t.sfp.faultN = true ∧ linesDropped t ∧ t.mem = s.mem) ∧
    (∀ r : State, mayStart r = false → exec (.startSequence inp) r = .next r)

/-- R14, R98, R99, R100, R103, R105: what follows a start. The doorbell is noted; a start that waits for it goes on: it stops
with 0x0105 where the images exceed the region; with an Assayer image that passes its checks it is past step 6, with that
image's svn; an image that fails is fetched once more, from the host after another doorbell, before the start stops with the
code of its first failing check; a start that waited for a second keeper image is past step 6 too; and the bit clears in the
ECLK after the end of the fetch (EmptyQueueIsOneEclk). A fetch that has waited more than 1 s is an event, once. After the
first rotation, with a pattern loaded, the device is ready: from step 9 with SYS_READY and step 10, else after a return to RUN
or TRIM silently. -/
def Obligations.StartGoesOn : Prop :=
  ∀ (s : State) (who : Agent),
    (clocksRun s = true → s.sys.fetchWait = none → exec (.bootDoorbell who) s = .next { s with
      sys := { s.sys with doorbell := true }, cyc := { s.cyc with bell := true } }) ∧
    (clocksRun s = false → exec (.bootDoorbell who) s = .next s) ∧
    (∀ inp w, clocksRun s = true → s.sys.fetchWait = some w → s.sys.startInputs = some inp →
      (s.sys.step.toNat ≤ 6 → stagingSize < layoutEnd (stagedLayout s) →
        ∃ t, exec (.bootDoorbell who) s = .next t ∧ t.sys.failed = true ∧ t.sys.failCode = 0x0105 ∧
          t.sys.fetchWait = none ∧ t.sys.doorbell = true ∧ t.sys.fetchEnded = some (now s) ∧ t.sfp.faultN = true ∧
          t.mem = s.mem) ∧
      (s.sys.step.toNat ≤ 6 → layoutEnd (stagedLayout s) ≤ stagingSize →
        ∃ t, exec (.bootDoorbell who) s = .next t ∧ t.sys.doorbell = true ∧ t.sys.fetchEnded = some (now s) ∧
          t.fuses = s.fuses ∧
          (imageCheck 0 (imagePlace 0 s) s = none →
            7 ≤ t.sys.step.toNat ∧ t.sys.asyFwSvn = (imageId (imagePlace 0 s) s).1) ∧
          (∀ c, imageCheck 0 (imagePlace 0 s) s = some c → s.sys.source = 0 → t.sys.step = 6 ∧ t.mem = s.mem ∧
            t.sys.refetched.1 = true ∧
            (s.sys.refetched.1 = false → t.sys.fetchWait = some (now s) ∧ t.sys.failed = s.sys.failed) ∧
            (s.sys.refetched.1 = true → t.sys.fetchWait = none ∧ t.sys.failed = true ∧ t.sys.failCode = c))) ∧
      (s.sys.step = 7 →
        ∃ t, exec (.bootDoorbell who) s = .next t ∧ 7 ≤ t.sys.step.toNat ∧ t.sys.doorbell = true ∧
          t.sys.fetchEnded = some (now s) ∧ t.sys.asyFwSvn = s.sys.asyFwSvn ∧ t.fuses = s.fuses)) ∧
    (∀ w, s.sys.fetchWait = some w → w + 1200000000 < now s → s.sys.fetchTimedOut = false →
      exec .fetchTimeout s = .next (raise 0x0106 { s with sys := { s.sys with fetchTimedOut := true } })) ∧
    (s.sys.fetchTimedOut = true ∨ s.sys.fetchWait = none → exec .fetchTimeout s = .next s) ∧
    (∀ w, s.sys.fetchWait = some w → now s ≤ w + 1200000000 → exec .fetchTimeout s = .next s) ∧
    (∀ r, s.tst.rotationAt = some r → r + 9600000 ≤ now s → rotationPassed s r = true →
      (s.pat.active.isSome = true ∨ s.pat.pending.isSome = true) →
      s.sys.ready = false → s.sys.inReset = false → s.sys.failed = false → (s.pwr.cur = .run ∨ s.pwr.cur = .trim) →
      (s.sys.step = 9 → s.sys.phase = 0 →
        exec .sysReady s = .next (raise 0x0107 { s with sys := { s.sys with ready := true, step := 10, phase := 1 } })) ∧
      (s.sys.step ≠ 9 ∨ s.sys.phase ≠ 0 → exec .sysReady s = .next { s with sys := { s.sys with ready := true } })) ∧
    (∀ r, s.tst.rotationAt = some r → now s < r + 9600000 → exec .sysReady s = .next s) ∧
    (s.pat.active = none → s.pat.pending = none → exec .sysReady s = .next s)

/-- R108, R109: the fuse operations. Armed by both unlock words, with no pour in flight and no report busy, an operation of an
agent that may write IDN starts, behind those in progress; otherwise it is refused with an event; either way the unlock is
used up. Other agents' writes do nothing. -/
def Obligations.FuseOperationsStart : Prop :=
  ∀ (s : State) (who : Agent) (slot : Fin 4) (usage : BitVec 2), agentKeeperOrHost s who = true → clocksRun s = true →
    exec (.fuseUnlock who) s = .next { s with idn := { s.idn with unlock := 2 } } ∧
    (s.idn.unlock = 2 → s.fgs.pours = [] → s.idn.att = none →
      ((nth s.fuses.slots slot.val {}).written = false → (nth s.fuses.slots slot.val {}).hash.all (fun b => b == 0) = true →
        exec (.fuseWriteKey who slot usage) s = .next { s with idn := { s.idn with
          unlock := 0, fuseOps := s.idn.fuseOps ++ [(.writeKey slot usage s.idn.fuseData, now s)] } }) ∧
      (fuseSlotOk s (.revoke slot) = true → exec (.fuseRevokeSlot who slot) s = .next { s with idn := { s.idn with
          unlock := 0, fuseOps := s.idn.fuseOps ++ [(.revoke slot, now s)] } }) ∧
      (fuseSlotOk s (.revoke slot) = false → exec (.fuseRevokeSlot who slot) s =
        .next (raise 0x0411 (setHw .fuseError { s with idn := { s.idn with unlock := 0 } }))) ∧
      exec (.fuseAdvanceAsySvn who) s = .next { s with idn := { s.idn with
          unlock := 0, fuseOps := s.idn.fuseOps ++ [(.advanceAsy, now s)] } } ∧
      exec (.fuseAdvanceKprSvn who) s = .next { s with idn := { s.idn with
          unlock := 0, fuseOps := s.idn.fuseOps ++ [(.advanceKpr, now s)] } } ∧
      exec (.fuseDecommission who) s = .next { s with idn := { s.idn with
          unlock := 0, fuseOps := s.idn.fuseOps ++ [(.decommission, now s)] } }) ∧
    (s.idn.unlock ≠ 2 ∨ s.fgs.pours ≠ [] ∨ s.idn.att ≠ none → ∀ c : Instr, c ∈ [.fuseWriteKey who slot usage,
        .fuseRevokeSlot who slot, .fuseAdvanceAsySvn who, .fuseAdvanceKprSvn who, .fuseDecommission who] →
      exec c s = .next (raise 0x0411 (setHw .fuseError { s with idn := { s.idn with unlock := 0 } }))) ∧
    (∀ (t : Fin 256), threadKeeper s t.val = false → exec (.fuseUnlock (.thread t)) s = .next s ∧
      exec (.fuseDecommission (.thread t)) s = .next s)

/-- R106, R108, R109: programming takes 2 ms; with the read-back good its operation is in the fuses, and nothing that was
programmed is undone: a revoked slot stays revoked, and the version fuses only rise. Of two operations in progress the one
that began first ends first. -/
def Obligations.FuseProgrammingEnds : Prop :=
  ∀ (s : State) (op : FuseOp) (at_ : Nat) (rest : List (FuseOp × Nat)) (ok : Bool), s.idn.fuseOps = (op, at_) :: rest →
    (at_ + 2400000 ≤ now s → ∃ t, exec (.fuseProgDone ok) s = .next t ∧ t.fuses = programFuses op ok s ∧
      t.idn = { s.idn with fuseOps := rest, fuseDone := true, fuseError := s.idn.fuseError || !ok } ∧
      t.fuses.seed = s.fuses.seed ∧ t.fuses.serial = s.fuses.serial ∧ s.fuses.asySvn ≤ t.fuses.asySvn ∧
      s.fuses.kprSvn ≤ t.fuses.kprSvn ∧
      (∀ slot : Fin 4, op = .revoke slot → ok = true → slot.val < s.fuses.slots.length →
        (nth t.fuses.slots slot.val {}).revoked = true) ∧
      (op = .decommission → ok = true → t.fuses.lifecycle = .decommissioned) ∧
      (ok = false → (∀ slot u h, op ≠ .writeKey slot u h) → t.fuses = s.fuses) ∧
      t.mem = s.mem ∧ t.sys = s.sys ∧ t.asy = s.asy) ∧
    (now s < at_ + 2400000 → exec (.fuseProgDone ok) s = .next s)

/-- R107, R110, R111, R112, R515: the write of go breaks an unlock sequence; a report is taken up with the hashes current now
and ends with its bytes in the buffer, its signature a value that the spec leaves open (assumption 6's free value); while one
is busy a further go is an event; a DECOMMISSIONED device, or one whose identity does not match its certificate, reports an
error. A host's go in the PCLK of keeper firmware's finds the report busy. Before step 6 nothing happens. -/
def Obligations.AttestationRuns : Prop :=
  ∀ s : State, assayerRuns s = true → (∀ b, heldAt s attUnit b = []) →
    (s.fuses.lifecycle ≠ .decommissioned → s.sys.identityOk = true → s.idn.att = none →
      exec (.attGo true false) s = .next { s with idn := { s.idn with
        unlock := 0
        att := some (AttJob.mk (now s) s.idn.nonce ((s.pat.active.map Pattern.hash).getD (List.replicate 48 0))
          ((s.pat.active.map Pattern.slotHash).getD (List.replicate 48 0))) } }) ∧
    (s.fuses.lifecycle ≠ .decommissioned → s.sys.identityOk = true → s.idn.att.isSome = true →
      exec (.attGo true false) s = .next (raise 0x0413 { s with idn := { s.idn with unlock := 0 } })) ∧
    (s.fuses.lifecycle ≠ .decommissioned → s.sys.identityOk = false →
      exec (.attGo true false) s = .next (setHw .attError { s with idn := { s.idn with unlock := 0 } })) ∧
    (s.fuses.lifecycle = .decommissioned →
      exec (.attGo true false) s = .next (raise 0x0405 (setHw .attError { s with idn := { s.idn with unlock := 0 } }))) ∧
    exec (.attGo false true) s = exec (.attGo true false) s ∧
    (∃ u, exec (.attGo true false) s = .next u ∧ exec (.attGo true true) s = .next (raise 0x0413 u)) ∧
    (∀ (r : State) (k h : Bool), assayerRuns r = false → exec (.attGo k h) r = .next r) ∧
    (∀ j, s.idn.att = some j → ∃ t, exec .attDone s = .next t ∧ t.idn.att = none ∧ t.idn.attDone = true ∧
      t.idn.attBuf = reportBody j s ++
        sliceBytes (Config.attestationSignature s.fuses.seed (sha384 (reportBody j s)) s.draws) 0 96 ∧
      t.draws = s.draws + 1 ∧ t.fuses = s.fuses ∧ t.mem = s.mem ∧ t.sys = s.sys)

/-! ### Pattern loading and the swap -/

/-- R132, R133, R134, R138, R515: a load request by keeper firmware or the host, past step 8, with no load in progress and no
pattern pending: the pattern's bytes are read and judged, and it waits for its buffers or is rejected with the code of its
first failing check; a source that cannot be read, or not without an uncorrectable error, rejects it. It is refused, leaving
what is in progress, while a load or a pending pattern is there, in HOLD, in TRIM for a pattern that needs what the mode
gates, and where the host's write meets keeper firmware's in one PCLK. -/
def Obligations.PatternLoadJudged : Prop :=
  ∀ (s : State) (keeper host : Bool) (reads : LoadReads) (n : Nat), clocksRun s = true →
    8 ≤ s.sys.step.toNat → (keeper != host) = true → (∀ b, heldAt s patUnit b = []) → n = s.pat.len.toNat →
    (patBusy s = false → ∀ bs u v, v = noteEcc reads.source u →
      readPages patId (reads.source == .walkUncorrectable) (n / 0x10000 + 2) s.pat.src.toNat n s = (some bs, u) →
      (reads.source ≠ .uncorrectable → loadGated bs u = false →
        ∃ t, exec (.patternLoad keeper host reads) s = .next t ∧
          match checkPattern (physWrite v v.sys.patternArea (bs.take (areaRoom v))) bs (some n) (reads.area.bind checkFault) with
          | .ok p => t.pat.checked = some p ∧ t.pat.st = .parsing ∧ t.pat.initBad = (reads.area == some .copy)
          | .error c => t.pat.checked = none ∧ t.pat.st = .idle ∧ t.pat.failCode = c) ∧
      (reads.source ≠ .uncorrectable → loadGated bs u = true →
        exec (.patternLoad keeper host reads) s = .next (refuseLoad 0x0503 v)) ∧
      (reads.source = .uncorrectable → exec (.patternLoad keeper host reads) s = .next (rejectEcc u))) ∧
    (patBusy s = false → ∀ u,
      readPages patId (reads.source == .walkUncorrectable) (n / 0x10000 + 2) s.pat.src.toNat n s = (none, u) →
      exec (.patternLoad keeper host reads) s = .next (rejectLoad 0x0504 u)) ∧
    (patBusy s = true → exec (.patternLoad keeper host reads) s = .next (raise 0x0502
      (setHw .rejected { s with pat := { s.pat with failCode := 0x0502 } }))) ∧
    (∃ u, exec (.patternLoad keeper host reads) s = .next u ∧
      exec (.patternLoad true true reads) s = .next (refuseLoad 0x0502 u)) ∧
    (∀ r : State, r.pwr.cur = .hold → r.sys.inReset = false → 8 ≤ r.sys.step.toNat → (∀ b, heldAt r patUnit b = []) →
      patBusy r = false → exec (.patternLoad keeper host reads) r = .next (refuseLoad 0x0503 r)) ∧
    (∀ r : State, r.sys.step.toNat < 8 → exec (.patternLoad keeper host reads) r = .next r)

/-- R132, R134, R135, R143, R429: the end of a load: the pattern is pending, with its event. Without hold_swap, or for the
start pattern, its swap is requested at once, in a flask after the announcement; with hold_swap a commit of keeper firmware
or the host requests it. An uncorrectable error in the pattern area rejects it, as do links of its flask that have not trained
when a start pattern's load ends, where the start then completes at step 8 without a pattern. -/
def Obligations.PatternPends : Prop :=
  ∀ (s : State) (p : Pattern),
    (s.pat.checked = some p → s.pat.initBad = false → initContent p = [] → startLoad s = false ∨ linksUp s p = true →
      ∃ t, exec .patternLoaded s = .next t ∧ t.pat.pending = some p ∧ t.pat.checked = none ∧
        t.pat.active = s.pat.active ∧ t.mem = s.mem ∧ t.fgs.pours = s.fgs.pours ∧
        (s.hif.fifo.length < 256 → t.hif.fifo = s.hif.fifo ++ [0x0530]) ∧
        (s.pat.holdSwap = true → s.pat.active.isSome = true → t.pat.st = .pending ∧ t.pat.committed = false ∧
          t.pat.swapAt = s.pat.swapAt) ∧
        (s.pat.holdSwap = false → p.hdr.flaskSize < 2 → t.pat.st = .draining ∧ t.pat.swapAt = some (now s)) ∧
        (s.pat.holdSwap = true → s.pat.active = none → s.sys.phase = 0 → p.hdr.flaskSize < 2 → t.pat.st = .draining ∧
          t.pat.swapAt = some (now s)) ∧
        (s.pat.holdSwap = false → 2 ≤ p.hdr.flaskSize → t.pat.st = .pending ∧ t.pat.committed = true ∧
          t.pat.swapAt = s.pat.swapAt)) ∧
    (s.pat.checked = some p → s.pat.initBad = true → exec .patternLoaded s = .next (rejectEcc s)) ∧
    (s.pat.checked = some p → s.pat.initBad = false → startLoad s = true → linksUp s p = false →
      ∃ t, exec .patternLoaded s = .next t ∧ t.sys.step = 8 ∧ t.sys.phase = 2 ∧ t.pat.checked = none ∧
        t.pat.failCode = 0x100C ∧ t.mem = s.mem) ∧
    (s.pat.checked = none → exec .patternLoaded s = .next s) ∧
    (∀ who, agentKeeperOrHost s who = true → s.pat.pending = some p → s.pat.committed = false → s.pat.swapAt = none →
      (p.hdr.flaskSize < 2 → exec (.swapCommit who) s = .next { s with pat := { s.pat with
        committed := false, swapAt := some (now s), st := .draining } }) ∧
      (2 ≤ p.hdr.flaskSize → exec (.swapCommit who) s = .next { s with pat := { s.pat with committed := true } })) ∧
    (∀ who, s.pat.pending = none ∨ s.pat.committed = true ∨ s.pat.swapAt.isSome = true →
      exec (.swapCommit who) s = .next s) ∧
    (∀ who : Agent, agentKeeperOrHost s who = false → exec (.swapCommit who) s = .next s)

/-- R117, R135, R136, R137, R316, R483: the swap point comes once no pour is in flight and no mode change was requested
before it: the pattern is active, the swap ends, the Assayer's age ceiling is the pattern's, every reservation is cleared and
no pattern pends. Until the pours have drained it waits. Then, once every chip of the flask has swapped, triggers are accepted
again, unless a further swap is requested already. When the pours in flight have not retired within the swap's time, each that
is not aborted already is aborted, with one event. -/
def Obligations.SwapPointComes : Prop :=
  ∀ (s : State) (p : Pattern) (a : Nat),
    (s.pat.swapAt = some a → s.pat.pending = some p → s.fgs.pours = [] → swapFirst s = true → initContent p = [] →
      (p.nodes.filter fun n => n.cls == 7) = [] →
      ∃ t, exec .swapPoint s = .next t ∧ t.pat.active = some p ∧ t.pat.previous = s.pat.active ∧ t.pat.pending = none ∧
        t.pat.swapAt = none ∧ t.pat.acceptAt = some (now s + 2400) ∧ t.asy.ceiling = p.hdr.ageCeilUs * 1200 ∧
        t.rsr.resvs = [] ∧ t.rsr.holds = [] ∧ t.fgs.flags = [] ∧ t.mem = s.mem) ∧
    (s.pat.swapAt = some a → s.pat.pending = some p → s.fgs.pours = [] → swapFirst s = true →
      exec .swapPoint s = .next (swapIn p s)) ∧
    (s.fgs.pours ≠ [] ∨ swapFirst s = false → exec .swapPoint s = .next s) ∧
    (s.pat.acceptAt = some a → a ≤ now s → peersSwapped s = true →
      (s.pat.swapAt = none → s.pat.deferred = [] → exec .triggersAccepted s = .next { s with pat := { s.pat with
        acceptAt := none, deferred := [], previous := none,
        st := if s.pat.st = .swapping then .idle else s.pat.st } }) ∧
      (s.pat.swapAt.isSome = true → exec .triggersAccepted s = .next { s with pat := { s.pat with
        acceptAt := none, previous := none, st := if s.pat.st = .swapping then .idle else s.pat.st } })) ∧
    (s.pat.acceptAt = some a → now s < a ∨ peersSwapped s = false → exec .triggersAccepted s = .next s) ∧
    (∀ q : Pour, s.pat.swapAt = some a → s.fgs.pours = [q] → q.aborted = none →
      (s.pat.swapTmo ≠ 0 → a + s.pat.swapTmo.toNat ≤ now s →
        exec .swapDrainTimeout s = .next (abortPour 0x0532 q.ref (raise 0x0532 s))) ∧
      (s.pat.swapTmo = 0 → a + s.asy.ceiling ≤ now s →
        exec .swapDrainTimeout s = .next (abortPour 0x0532 q.ref (raise 0x0532 s))) ∧
      (s.pat.swapTmo ≠ 0 → now s < a + s.pat.swapTmo.toNat → exec .swapDrainTimeout s = .next s))

/-! ### Cameras and ISP pipes -/

/-- R145, R147, R154, R157, R160, R162: packets and line events that change one receiver only. Synchronisation waits for the
next frame start; its loss ends at a frame start too, with an event; generic short packets are counted; a type that the
receiver does not take is counted, with an event once frames have begun; a frame start with its header good opens the frame at
this ECLK in the half of its count; a line start opens a row, and the line end of a row with pixels takes them as that row. A
packet of another virtual channel does nothing but what its header's ECC says, and neither does one whose header failed. A
receiver that does not run hears none. -/
def Obligations.ReceiverHearsPackets : Prop :=
  ∀ (s : State) (p : Fin 8),
    (camOn s p.val = true → exec (.csiLaneSync p) s = .next (updCam p.val (fun c => { c with
      sync := true, awaitFs := true }) s)) ∧
    (camOn s p.val = false → exec (.csiLaneSync p) s = .next s) ∧
    (camRuns s p.val = true →
      ((camAt s p.val).frame = none →
        exec (.csiPhySyncLost p) s = .next (updCam p.val (fun c => { c with
          sync := false, awaitFs := true, discarding := false, testAt := none }) (raiseCamOnce p.val 0x0601 s))) ∧
      (∀ f, (camAt s p.val).frame = some f → f.openRow = none →
        exec (.csiPhySyncLost p) s = .next (updCam p.val (fun c => { c with
          sync := false, awaitFs := true, discarding := false, testAt := none }) (closeFrame p.val (some 0x0601) s))) ∧
      (∀ vc : BitVec 4, vcOf s p.val = some vc.toNat →
        exec (.csiGenericShort ⟨p, vc, .ok⟩) s = .next (updCam p.val (fun c => { c with
          shortCount := c.shortCount + 1, lastPacket := now s }) s) ∧
        (∀ dt : BitVec 6, acceptedType dt.toNat = false → (camAt s p.val).awaitFs = false →
          exec (.csiUnsupportedPacket ⟨p, vc, .ok⟩ dt) s = .next (raiseCamOnce p.val 0x060A (updCam p.val (fun c => { c with
            lastPacket := now s, cntDt := bump16 c.cntDt 1 }) s))) ∧
        (∀ dt : BitVec 6, acceptedType dt.toNat = false → (camAt s p.val).awaitFs = true →
          exec (.csiUnsupportedPacket ⟨p, vc, .ok⟩ dt) s = .next (updCam p.val (fun c => { c with
            lastPacket := now s, cntDt := bump16 c.cntDt 1 }) s)) ∧
        (∀ dt : BitVec 6, acceptedType dt.toNat = true →
          exec (.csiUnsupportedPacket ⟨p, vc, .ok⟩ dt) s = .next (heard p.val s))) ∧
      (∀ (vc : BitVec 4) (hdr : HeaderEcc), vcOf s p.val ≠ some vc.toNat ∨ hdr = .failed →
        exec (.csiGenericShort ⟨p, vc, hdr⟩) s = .next (headerCheck p.val hdr (heard p.val s)).2 ∧
        (∀ dt, exec (.csiUnsupportedPacket ⟨p, vc, hdr⟩ dt) s = .next (headerCheck p.val hdr (heard p.val s)).2) ∧
        exec (.csiLineStart p vc hdr) s = .next (headerCheck p.val hdr (heard p.val s)).2 ∧
        exec (.csiLineEnd p vc hdr) s = .next (headerCheck p.val hdr (heard p.val s)).2 ∧
        exec (.csiFrameEnd p vc hdr) s = .next (headerCheck p.val hdr (heard p.val s)).2) ∧
      (∀ vc k, (camAt s p.val).cfg = some k → k.vc = vc.toNat → (camAt s p.val).frame = none →
        (camAt s p.val).testAt = none → halfRead? s p.val (camAt s p.val).frameCount = false →
        ∃ t f, exec (.csiFrameStart p vc .ok) s = .next t ∧ (camAt t p.val).frame = some f ∧ f.cfg = k ∧
          f.index = (camAt s p.val).frameCount ∧ f.fsStamp = now s ∧ f.raw = [] ∧ f.damage = none ∧
          (camAt t p.val).frameCount = ((camAt s p.val).frameCount + 1) % 2 ^ 32 ∧
          (camAt t p.val).half = f.index % 2 ∧ (camAt t p.val).awaitFs = false ∧
          (camAt t p.val).lastFs = some (now s) ∧ t.mem = s.mem ∧ t.fgs = s.fgs ∧ t.asy = s.asy ∧
          (∀ q, q ≠ p.val → camAt t q = camAt s q)) ∧
      (∀ vc f, (camAt s p.val).frame = some f → f.cfg.vc = vc.toNat → f.openRow = none →
        exec (.csiLineStart p vc .ok) s = .next (updCam p.val (fun c => { c with
          lastPacket := now s, frame := some { f with openRow := some ([], 0) } }) s)) ∧
      (∀ vc f px, (camAt s p.val).frame = some f → f.cfg.vc = vc.toNat → f.openRow = some (px, 0) → px ≠ [] →
        exec (.csiLineEnd p vc .ok) s = .next (takeRow p.val px 0 (updCam p.val (fun c => { c with
          lastPacket := now s, frame := some { f with openRow := none } }) s)))) ∧
    (camRuns s p.val = false → exec (.csiPhySyncLost p) s = .next s ∧ ∀ vc hdr, exec (.csiFrameStart p vc hdr) s = .next s ∧
      exec (.csiFrameEnd p vc hdr) s = .next s ∧ exec (.csiGenericShort ⟨p, vc, hdr⟩) s = .next s)

/-- R145, R147, R149, R154, R157: data of the open frame. A pixel row of the frame's data type joins its rows, fitted to the
sensor's width, with the marks and counts of its length, its CRC and its corrected header, and stamped; or it joins the row
that a line start opened. Embedded and user data go to their buffers' half at their offset, as the firewall admits, and every
byte outside that place reads as before. Data of another virtual channel, or behind a header that failed, reaches none. -/
def Obligations.FrameDataTaken : Prop :=
  ∀ (s : State) (p : Fin 8) (vc : BitVec 4) (f : Frame) (payload : List Byte) (crcOk : Bool), camRuns s p.val = true →
    (camAt s p.val).frame = some f → f.cfg.vc = vc.toNat →
    (∀ dt hdr, pixelType dt.toNat = true → f.cfg.dt = dt.toNat → f.openRow = none → hdr ≠ .failed →
      exec (.csiPixelRow p vc dt hdr crcOk payload) s = .next (takeRow p.val (unpackRow dt.toNat payload)
        ((if hdr = .fixed then 2 ^ 22 else 0) + (if crcOk then 0 else 2 ^ 21))
        (crcCheck p.val crcOk (headerCheck p.val hdr (heard p.val s)).2))) ∧
    (∀ dt, pixelType dt.toNat = true → f.cfg.dt = dt.toNat → f.openRow = none → f.raw.length < f.cfg.h →
      (unpackRow dt.toNat payload).length = f.cfg.w → f.cfg.w ≤ lineBuffer →
      exec (.csiPixelRow p vc dt .ok true payload) s = .next (writeRows (s.pwr.cur == .watch) { f with
          raw := f.raw ++ [unpackRow dt.toNat payload], marks := f.marks ++ [rowMark f.raw.length f.index 0],
          rowAt := f.rowAt ++ [now s], rows := f.rows + 1, written := max f.written (f.raw.length - 1) }
        f.written (f.raw.length - 1) (updCam p.val (fun c => { c with
          lastPacket := now s, cntLine := bump16 c.cntLine 0,
          frame := some { f with
            raw := f.raw ++ [unpackRow dt.toNat payload], marks := f.marks ++ [rowMark f.raw.length f.index 0],
            rowAt := f.rowAt ++ [now s], rows := f.rows + 1, written := max f.written (f.raw.length - 1) } }) s))) ∧
    (∀ dt got, pixelType dt.toNat = true → f.cfg.dt = dt.toNat → f.openRow = some (got, 0) →
      exec (.csiPixelRow p vc dt .ok true payload) s = .next (updCam p.val (fun c => { c with
        lastPacket := now s, frame := some { f with openRow := some (got ++ unpackRow dt.toNat payload, 0) } }) s)) ∧
    (∀ dt, acceptedType dt.toNat = false →
      exec (.csiPixelRow p vc dt .ok crcOk payload) s = .next (discardType p.val (heard p.val s))) ∧
    (∀ b, f.cfg.emb = some b → s.pwr.cur ≠ .watch →
      ∃ t, exec (.csiEmbeddedData p vc ⟨.ok, true, payload⟩) s = .next t ∧
        (camAt t p.val).frame = some { f with embOff := f.embOff + payload.length } ∧
        t.mem = (auxWrite p.val b f.index f.embOff payload s).mem ∧
        (∀ a, a < b.1 + f.index % 2 * (b.2 / 2 / 64 * 64) + f.embOff ∨
          b.1 + f.index % 2 * (b.2 / 2 / 64 * 64) + f.embOff + payload.length ≤ a →
          t.mem.readByte a = s.mem.readByte a) ∧ t.fgs = s.fgs) ∧
    (∀ b kind, f.cfg.user = some b → s.pwr.cur ≠ .watch → bitAt f.cfg.userMask (Fin.val kind) = true →
      ∃ t, exec (.csiUserData p vc kind ⟨.ok, true, payload⟩) s = .next t ∧
        (camAt t p.val).frame = some { f with userOff := f.userOff + payload.length } ∧
        t.mem = (auxWrite p.val b f.index f.userOff payload s).mem ∧
        (∀ a, a < b.1 + f.index % 2 * (b.2 / 2 / 64 * 64) + f.userOff ∨
          b.1 + f.index % 2 * (b.2 / 2 / 64 * 64) + f.userOff + payload.length ≤ a →
          t.mem.readByte a = s.mem.readByte a) ∧ t.fgs = s.fgs) ∧
    (∀ hdr, hdr ≠ .failed → s.pwr.cur = .watch ∨ f.cfg.emb = none → exec (.csiEmbeddedData p vc ⟨hdr, crcOk, payload⟩) s =
      .next (crcCheck p.val crcOk (headerCheck p.val hdr (heard p.val s)).2)) ∧
    (∀ hdr kind, hdr ≠ .failed → s.pwr.cur = .watch ∨ f.cfg.user = none ∨ bitAt f.cfg.userMask (Fin.val kind) = false →
      exec (.csiUserData p vc kind ⟨hdr, crcOk, payload⟩) s =
        .next (crcCheck p.val crcOk (headerCheck p.val hdr (heard p.val s)).2)) ∧
    (∀ (v : BitVec 4) (kind : Fin 8) (hdr : HeaderEcc), f.cfg.vc ≠ v.toNat ∨ hdr = .failed →
      exec (.csiEmbeddedData p v ⟨hdr, crcOk, payload⟩) s = .next (headerCheck p.val hdr (heard p.val s)).2 ∧
      exec (.csiUserData p v kind ⟨hdr, crcOk, payload⟩) s = .next (headerCheck p.val hdr (heard p.val s)).2)

/-- R154, R156, R157, R161: how frames end and what follows: a frame end closes the open frame and begins the blanking test;
a line that stays away for line_tmo closes it by force; a frame start that does not come is an event, once; the next band
flag falls 400 ECLK after its input; a test result equal to the pattern's signature is a pass, another is an S1 detection of
the pair; so are a pipe without a pass for the limit, and the loss of a pair whose frames were damaged too often. -/
def Obligations.FramesEndAndPipesAreTested : Prop :=
  ∀ (s : State) (p : Fin 8) (k : IspCfg),
    (∀ vc f, camRuns s p.val = true → (camAt s p.val).frame = some f → f.cfg.vc = vc.toNat → f.openRow = none →
      exec (.csiFrameEnd p vc .ok) s = .next (updCam p.val (fun c => { c with testAt := some (now s) })
        (closeFrame p.val none (updCam p.val (fun c => { c with lastPacket := now s }) s)))) ∧
    (∀ f, (camAt s p.val).frame = some f → f.openRow = none →
      ((camAt s p.val).lastPacket + f.cfg.lineTmo ≤ now s →
        exec (.csiLineTimeout p) s = .next (closeFrame p.val (some 0x0609) s)) ∧
      (now s < (camAt s p.val).lastPacket + f.cfg.lineTmo → exec (.csiLineTimeout p) s = .next s)) ∧
    (∀ t0, (camAt s p.val).lastFs = some t0 → (camAt s p.val).cfg = some k → camRuns s p.val = true →
      (camAt s p.val).nextLate = false → t0 + k.framePeriod + k.lateTol < now s →
      exec (.csiFrameLate p) s = .next (raiseCam p.val 0x0612 (updCam p.val (fun c => { c with nextLate := true }) s))) ∧
    (∀ f d, (camAt s p.val).tail = [] → (camAt s p.val).frame = some f → bandDue f = some d →
      (d ≤ now s → exec (.ispBandFlag p) s = .next (setBand p.val f s)) ∧
      (now s < d → exec (.ispBandFlag p) s = .next s)) ∧
    (∀ t0 sig, (camAt s p.val).testAt = some t0 → (camAt s p.val).cfg = some k → t0 + 2448 ≤ now s →
      (BitVec.toNat sig = k.testSig → exec (.ispTestResult p sig) s = .next (updCam p.val (fun c => { c with
        testAt := none, testSig := sig, lastPass := now s, staleRaised := false }) s)) ∧
      (BitVec.toNat sig ≠ k.testSig → exec (.ispTestResult p sig) s = .next (pipeFailed p.val k.pair (camAt s p.val).lastPass
        (detectS1 0x0618 (pairBits [k.pair]) (noteCam p.val 0x0618 (markCam p.val 0x0618 (updCam p.val (fun c => { c with
          testAt := none, testSig := sig }) s))))))) ∧
    ((camAt s p.val).cfg = some k → camOn s p.val = true → (camAt s p.val).staleRaised = false →
      (camAt s p.val).lastPass + Config.dfdt ≤ now s → s.asy.state = .normal → 6 ≤ s.sys.step.toNat →
      ∃ t, exec (.ispTestStale p) s = .next t ∧ t.asy.state = .s1 ∧ (camAt t p.val).staleRaised = true ∧
        linesDropped t ∧ (s.cyc.detected = [] → t.ret.faultCode = 0x061A)) ∧
    (∀ (pair : Fin 4) (g : GraphRec), graphOfSource (active s) (0, pair.val) = some g →
      portsOf (active s) g.slot = [p.val] → (camAt s p.val).cfg = some k → k.dmgLimit ≤ (camAt s p.val).damageRun →
      (camAt s p.val).lostRaised = false →
      exec (.csiPairLost pair) s = .next (detectS1 0x0614 (pairBits [g.pairId])
        (noteCam p.val 0x0614 (markCam p.val 0x0614 (updCam p.val (fun c => { c with lostRaised := true }) s)))))

/-! ### Engines -/

/-- R165, R166, R179, R237, R246, R249, R257, R259: how engine commands end. The token of a vision engine's instance ends its
command: with status OK where nothing stopped it, nothing was denied and its cycles have passed, and not before; a memory
fault, a parity fault and a stop give the status their table gives. A tile that may read what it reads goes to its array's
output stage without a byte written yet, no earlier than its compute time; the layer barrier passes at its ECLK; the last
array of a stopped node ends it with the status of what stopped it. Without a command the token is that of an idle unit. -/
def Obligations.EnginesEndTheirCommands : Prop :=
  ∀ (s : State) (n : NodeRec) (u : Nat) (view : TokenView),
    (∀ (k : Fin 13) (c : VenCmd) (q : Pour) (p : Pattern), (nth s.ven.insts k.val {}).cmd = some c → venPour s c.pour = some (q, p) →
      nodeOf p.nodes c.node = some n → boundUnit s (n.cls - 1) k.val = some u →
      (∀ how, exec (.venCommandEnd k how view) s = .next (venEnd k.val u c p q n how view s)) ∧
      (s.tst.inject = [] → c.stop = none → venDenied s (unitId u) p q n = none →
        (venFinished s p c q (venWhole s p q n) = true → view.namesOther = none → exec (.venCommandEnd k .ok view) s = .next
          (roleMoves (unitClass u) (leavePours (venTokenOut k.val u c n .ok (venWhole s p q n) true 0 view false s)))) ∧
        (venFinished s p c q (venWhole s p q n) = false → exec (.venCommandEnd k .ok view) s = .next s) ∧
        (now s < c.startedAt + 512 → exec (.venCommandEnd k .ok view) s = .next s)) ∧
      (∀ stop, venStatus .ok stop = match stop with
        | none => 0
        | some .abort => 2
        | some .deadline => 3
        | some .refused => 1) ∧
      (∀ unc stop, venStatus (.memFault unc) stop = 4 ∧ venStatus .parity stop = 5)) ∧
    (∀ (k : Fin 13) how, (nth s.ven.insts k.val {}).cmd = none →
      exec (.venCommandEnd k how view) s = .next (idleToken k.val s)) ∧
    (∀ (a : Fin 16) (c : NeuCmd) (x : ArrayRun) (l : Layer), s.neu.cmds = [c] → c.arrays = [x] → x.array = a.val →
      nodeOf (active s).nodes c.node = some n → arrayUnit s a.val = some u → layerNow (active s) n c = some l →
      (∀ e, c.stop = none → s.tst.inject = [] →
        (tileReady s (active s) n l c a.val x = true →
          readDenied s (active s) l c.pour.seq (arrayPlace c a.val + x.tiles * c.arrays.length) (unitId u) = none →
          ∃ t d y, exec (.neuTileEnd a (.ok e)) s = .next t ∧ t.neu.cmds = [d] ∧ d.arrays = [y] ∧ y.tiles = x.tiles + 1 ∧
            y.stages.length = x.stages.length + 1 ∧ d.physMask = setBit c.physMask (u - 18) ∧ d.layer = c.layer ∧
            t.mem = s.mem ∧ t.fgs.pours = s.fgs.pours ∧ t.ldl.grants = s.ldl.grants ∧
            t.neu.eccFix = satAdd 32 s.neu.eccFix e) ∧
        (now s < x.nextAt + nclk (tileTime (active s) n l) → exec (.neuTileEnd a (.ok e)) s = .next s)) ∧
      (∀ how, (∀ e, how ≠ .ok e) → x.begun = true → exec (.neuTileEnd a how) s = .next (endTile c n l a.val u x how s))) ∧
    (∀ (seq : Word32) (c : NeuCmd) (l : Layer) (d : Nat), nodeOf (active s).nodes n.nodeId = some n →
      neuAt s (PourRef.mk n.slot seq.toNat) n.nodeId = some c → layerNow (active s) n c = some l →
      layerEnd (active s) l c = some d → c.stop = none →
      (d ≤ now s → exec (.neuLayerBarrier n.nodeId seq view) s = .next (passBarrier c n l view s)) ∧
      (now s < d → exec (.neuLayerBarrier n.nodeId seq view) s = .next s) ∧
      (d ≤ now s → l.split ≠ 2 → c.layer + 1 < (layersOf (active s) n).length → s.neu.cmds = [c] →
        ∃ t e, exec (.neuLayerBarrier n.nodeId seq view) s = .next t ∧ t.neu.cmds = [e] ∧ e.layer = c.layer + 1 ∧
          e.arrays.all (fun x => decide (x.tiles = 0)) = true ∧ t.mem = s.mem ∧ t.ven = s.ven)) ∧
    (∀ (seq : Word32) (c : NeuCmd) (h : StopKind), nodeOf (active s).nodes n.nodeId = some n →
      neuAt s (PourRef.mk n.slot seq.toNat) n.nodeId = some c → c.stop = some h →
      exec (.neuArrayStopped n.nodeId seq) s = .next
        (let e := neuEnd { c with arrays := c.arrays.map fun x => { x with stages := [] } } h.status
            (if h = .refused then 3 else c.detail) (TokenView.mk none false) (discardStages c none s)
         if h = .refused then abortPour 0x0303 c.pour e else e))

/-! ### The Frame Graph Sequencer -/

/-- R211, R213, R214, R216, R217, R226, R374: triggers open pours. When a timer graph's period has passed its trigger opens
a pour with the slot's next pour_seq, unless two are in flight (it is dropped, its pour_seq passes), a swap defers it or the
FGS refuses triggers; the age monitor's origin is the frame start less the longest exposure; the node selected is the first
of those that can start; FGS_CTRL.drain is written as given, and a drain is done when no pour is in flight. -/
def Obligations.TriggersOpenPours : Prop :=
  ∀ (s : State) (slot : Fin 8) (g : GraphRec),
    (graphOf (active s) slot.val = some g → g.triggerKind = 2 → slot.val < s.fgs.slots.length →
      ((nth s.fgs.slots slot.val {}).timerAt + g.triggerArg ≤ now s →
        exec (.fgsTimerTrigger slot) s = .next (plainTrigger slot.val (now s) none (updSlot slot.val (fun x => { x with
          timerAt := (nth s.fgs.slots slot.val {}).timerAt + g.triggerArg }) s)) ∧
        (refusing s = true → defersNow s = false → exec (.fgsTimerTrigger slot) s = .next (raise 0x0807 (updSlot slot.val
          (fun x => { x with timerAt := (nth s.fgs.slots slot.val {}).timerAt + g.triggerArg }) s))) ∧
        (defersNow s = true → s.pat.deferred = [] → ∃ t d, exec (.fgsTimerTrigger slot) s = .next t ∧ t.pat.deferred = [d] ∧
          d.source = sourceOf g ∧ d.stamp = now s ∧ t.fgs.pours = s.fgs.pours ∧ t.mem = s.mem) ∧
        (refusing s = false → defersNow s = false → 2 ≤ (slotPours s slot.val).length →
          ∃ t, exec (.fgsTimerTrigger slot) s = .next t ∧ t.fgs.pours = s.fgs.pours ∧
            (nth t.fgs.slots slot.val {}).nextSeq = ((nth s.fgs.slots slot.val {}).nextSeq + 1) % 2 ^ 32 ∧
            t.mem = s.mem ∧ t.sch.tasks = s.sch.tasks) ∧
        (refusing s = false → defersNow s = false → (slotPours s slot.val).length < 2 →
          flaskGraph (active s) slot.val = false → slot.val ∉ s.cyc.aborted →
          ∃ t q, exec (.fgsTimerTrigger slot) s = .next t ∧ t.fgs.pours = s.fgs.pours ++ [q] ∧
            q.ref = PourRef.mk slot.val (nth s.fgs.slots slot.val {}).nextSeq ∧ q.openAt = now s ∧ q.fsOpen = now s ∧
            q.origin = none ∧ q.aborted = none ∧ q.nodes.all (fun m => m.st == NodeSt.waiting) = true ∧
            (nth t.fgs.slots slot.val {}).nextSeq = ((nth s.fgs.slots slot.val {}).nextSeq + 1) % 2 ^ 32 ∧
            t.mem = s.mem ∧ t.hif = s.hif)) ∧
      (now s < (nth s.fgs.slots slot.val {}).timerAt + g.triggerArg → exec (.fgsTimerTrigger slot) s = .next s)) ∧
    (∀ (seq : Word32) (q : Pour), pourAt s (PourRef.mk slot.val seq.toNat) = some q →
      (q.origin = none → exec (.ageOriginReturn slot seq) s = .next (updPour (PourRef.mk slot.val seq.toNat)
        (fun x => { x with origin := some (x.fsOpen - expMaxOf (active s) slot.val) }) s)) ∧
      (q.origin.isSome = true → exec (.ageOriginReturn slot seq) s = .next s)) ∧
    (∀ (ecc : Ecc) c, ecc ≠ .uncorrectable → pickNode (active s) (startables s (active s)) = some c →
      exec (.fgsNodeSelect ecc) s = .next (selectNode c (noteEcc ecc s))) ∧
    (∀ ecc : Ecc, ecc ≠ .uncorrectable → pickNode (active s) (startables s (active s)) = none →
      exec (.fgsNodeSelect ecc) s = .next s) ∧
    exec (.fgsNodeSelect .uncorrectable) s = .next (fgsTableError s) ∧
    (s.fgs.pours = [] → s.asy.state = .normal → 6 ≤ s.sys.step.toNat →
      ∃ t, exec (.fgsNodeSelect .uncorrectable) s = .next t ∧ S1Entered 0x0809 0 s t) ∧
    (∀ who on, exec (.fgsDrain who on) s = .next { s with fgs := { s.fgs with drain := on } }) ∧
    (∀ who, ∃ t, exec (.fgsDrain who true) s = .next t ∧ (drained t = true ↔ s.fgs.pours = []))

/-- R215, R219 to R225: within a pour: a set of a flag by its running producer counts once its writes are made, one beyond the
flag's sets aborts the pour, one by another node is foreign, and one whose writes were lost does not happen; a node at its
deadline is cut in its refine pass, and otherwise its pour is aborted, a class 6 command stopping with DEADLINE; a pour with
a node running does not retire; keeper firmware aborts the pours of the slots it names, and those that open there in that
ECLK. -/
def Obligations.PoursRunAndEnd : Prop :=
  ∀ (s : State) (slot : Fin 8) (seq : Word32) (q : Pour) (n : NodeRec) (m : NodeRun),
    pourAt s (PourRef.mk slot.val seq.toNat) = some q → nodeOf (active s).nodes n.nodeId = some n → n.slot = slot.val →
    (q.nodes.find? fun m => m.node == n.nodeId) = some m → m.st = .running → q.aborted = none →
    (∀ (flag : Nat) (rec : FlagRec), flagOf (active s) flag = some rec →
      (setsLost s (some n) = true → exec (.engineFlagSet n.nodeId flag seq) s = .next s) ∧
      (setsLost s (some n) = false → writesMade s (active s) q n flag = none →
        exec (.engineFlagSet n.nodeId flag seq) s = .next s) ∧
      (∀ u w, setsLost s (some n) = false → writesMade s (active s) q n flag = some u →
        w = remoteSets (active s) n.nodeId flag q u →
        (rec.producer = n.nodeId → flagValue s flag seq.toNat + 1 ≤ rec.sets → triggeredBy (active s) flag = none →
          exec (.engineFlagSet n.nodeId flag seq) s = .next (wakeWaits (putFlag flag seq.toNat (flagValue s flag seq.toNat + 1) w))) ∧
        (rec.producer = n.nodeId → rec.sets < flagValue s flag seq.toNat + 1 →
          exec (.engineFlagSet n.nodeId flag seq) s = .next (abortPour 0x0804 (PourRef.mk slot.val seq.toNat) (raise 0x0804 w))) ∧
        (rec.producer ≠ n.nodeId → exec (.engineFlagSet n.nodeId flag seq) s = .next (raise 0x0805 w)))) ∧
    (∀ o, q.origin = some o →
      (o + deadlineOf (active s).deadlines n.nodeId ≤ now s →
        (inRefine s (active s) q n = true →
          exec (.fgsDeadline slot seq n.nodeId) s = .next (cutNode (PourRef.mk slot.val seq.toNat) n.nodeId s)) ∧
        (inRefine s (active s) q n = false → ∀ v, v = stopNeuBy .deadline (active s) (PourRef.mk slot.val seq.toNat) m s →
          exec (.fgsDeadline slot seq n.nodeId) s = .next (abortPour 0x0802 (PourRef.mk slot.val seq.toNat) (raise 0x0802
            { v with fgs := { v.fgs with dlMiss := satAdd 16 v.fgs.dlMiss 1 } })))) ∧
      (now s < o + deadlineOf (active s).deadlines n.nodeId → exec (.fgsDeadline slot seq n.nodeId) s = .next s)) ∧
    exec (.pourRetire slot seq) s = .next s ∧
    (∀ (who : Agent) (mask : Byte),
      (agentKeeper s who = true → exec (.fgsAbortWrite who mask) s = .next (abortSlots mask.toNat s)) ∧
      (agentKeeper s who = true → s.fgs.pours = [q] → ∀ slots, slots = (List.range 8).filter (bitAt mask.toNat) →
        (mask.getLsbD slot.val = true → exec (.fgsAbortWrite who mask) s = .next (abortPour 0x0806 (PourRef.mk slot.val seq.toNat)
          { s with cyc := { s.cyc with aborted := slots ++ s.cyc.aborted } })) ∧
        (mask.getLsbD slot.val = false → exec (.fgsAbortWrite who mask) s = .next
          { s with cyc := { s.cyc with aborted := slots ++ s.cyc.aborted } })) ∧
      (agentKeeper s who = false → exec (.fgsAbortWrite who mask) s = .next s))

/-- R156, R215, R225: a pour whose nodes and tasks have all ended retires: it leaves, it counts as the slot's last good pour and
ends the run of aborts and the runs of damaged frames of its ports; one that was aborted leaves the slot's counts; and a run of
aborts as long as the limit is an S1 detection of the graph's pair, once. -/
def Obligations.PoursRetireAndGraphsAreLost : Prop :=
  ∀ (s : State) (slot : Fin 8), slot.val < s.fgs.slots.length →
    (∀ (seq : Word32) (q : Pour), pourAt s (PourRef.mk slot.val seq.toNat) = some q →
      (canRetire s q = false → exec (.pourRetire slot seq) s = .next s) ∧
      (canRetire s q = true → ∃ t, exec (.pourRetire slot seq) s = .next t ∧
        t.fgs.pours = (s.fgs.pours.filter fun o => o.ref != PourRef.mk slot.val seq.toNat) ∧
        t.fgs.leaving = s.fgs.leaving ++ (if (q.nodes.any fun m => m.st == NodeSt.cut) = true then [q] else []) ∧
        (q.aborted = none → (nth t.fgs.slots slot.val {}).abortRun = 0 ∧
          (nth t.fgs.slots slot.val {}).lostRaised = false ∧
          (nth t.fgs.slots slot.val {}).lastGood = some seq.toNat ∧
          t.asy.retired = (PourRef.mk slot.val seq.toNat :: s.asy.retired).take 64 ∧
          ∀ c ∈ portsOf (active s) slot.val, (nth t.cams c {}).damageRun = 0) ∧
        (q.aborted.isSome = true → t.fgs.slots = s.fgs.slots ∧ t.asy = s.asy) ∧
        t.mem = s.mem ∧ t.sys = s.sys ∧ t.hif = s.hif ∧ t.sfp = s.sfp ∧ t.sch = s.sch ∧ t.ven = s.ven ∧ t.neu = s.neu)) ∧
    (max 1 s.fgs.abortLimit.toNat ≤ (nth s.fgs.slots slot.val {}).abortRun →
      (nth s.fgs.slots slot.val {}).lostRaised = false → s.asy.state = .normal → 6 ≤ s.sys.step.toNat →
      ∃ t, exec (.fgsGraphLost slot) s = .next t ∧ S1Entered 0x0808
        (pairBits [((graphOf (active s) slot.val).map GraphRec.pairId).getD 0xFF])
        (updSlot slot.val (fun g => { g with lostRaised := true }) s) t) ∧
    ((nth s.fgs.slots slot.val {}).lostRaised = true → exec (.fgsGraphLost slot) s = .next s) ∧
    ((nth s.fgs.slots slot.val {}).abortRun < max 1 s.fgs.abortLimit.toNat → exec (.fgsGraphLost slot) s = .next s)

/-! ### Riser threads -/

/-- R265, R277, R279, R280, R332, R340: how instructions issue. A thread that may not issue runs none. The fetch of one that
issues leaves every thread as it is but for the address of the last instruction, and memory as it is. A fetch that is
refused is a fault. A fault outside a handler is taken, with its return address in epc; in a delay slot that is the branch;
within a handler the thread halts. -/
def Obligations.InstructionsIssueOrFault : Prop :=
  ∀ (s : State) (t : Fin 256) (c : Instr),
    (∃ x gs off sr gd lvl len m cond, c ∈ [Instr.bcc t cond gs gd x, .bal t off, .jr t gs, .jalr t gs, .loopn t lvl gs len,
      .mode t m, .trap t len, .xret t, .mfs t gd sr, .mts t sr gs, .sealStores t, .ioseal t]) →
    (mayIssue s t.val = false → exec c s = .next s) ∧
    (∀ u, Fetched t.val s u → threadAt u t.val = { threadAt s t.val with lastPc := (threadAt s t.val).pc } ∧
      (∀ q, q ≠ t.val → threadAt u q = threadAt s q) ∧ u.mem = s.mem ∧ u.sch = s.sch ∧ u.fgs = s.fgs ∧
      u.pending = s.pending) ∧
    (∀ f u, mayIssue s t.val = true → checkAccess t.val (threadAt s t.val).keeper .execute (threadAt s t.val).pc 4 false
        (noteIssue t.val (updThread t.val (fun th => { th with lastPc := th.pc }) (countSel 7 1 s))) = (.error f, u) →
      exec c s = .next (accessFault t.val 0x03 (threadAt s t.val).pc f u)) ∧
    (∀ u code detail addr, mayIssue u t.val = true → inHandler (threadAt u t.val) = false →
      ((threadAt u t.val).branch = none →
        TookException t.val code detail addr (threadAt u t.val).pc false u (fault t.val code detail addr u)) ∧
      (∀ b target, (threadAt u t.val).branch = some (b, target) →
        TookException t.val code detail addr b true u (fault t.val code detail addr u))) ∧
    (∀ u code detail addr, inHandler (threadAt u t.val) = true →
      fault t.val code detail addr u = haltThread t.val (raise 0x0A01 u))

/-- R271, R273, R274, R276: branches, loops and modes. A branch outside a delay slot, a shadow and a loop's end makes the next
instruction its delay slot and goes to its target after it; the links write g31 with the address behind the delay slot. A
loop begins with its count, or its body is skipped when the count is 0. A change of mode takes effect after two shadow
instructions, and one to keeper mode needs keeper mode. Misplaced or reserved forms are ILLEGAL, a jump to an address that is
no multiple of 4 raises ALIGN. Every form of the six is here: the others of a clause's premises have a clause of their own. -/
def Obligations.BranchesLoopsAndModes : Prop :=
  ∀ (s u : State) (t : Fin 256) (th : Thread), Fetched t.val s u → threadAt u t.val = th →
    (branchBarred th = false →
      (∀ cond ga gb off c, branchCond cond (readG u t.val ga) (readG u t.val gb) = some c →
        exec (.bcc t cond ga gb off) s = .next (updThread t.val (fun x => { x with
          branch := some (x.pc, if c then offsetTarget x off.toInt else addr48 (x.pc + 8)), pc := addr48 (x.pc + 4) }) u)) ∧
      (∀ off, exec (.bal t off) s = .next (updThread t.val (fun x => { x with
          branch := some (x.pc, offsetTarget x off.toInt), pc := addr48 (x.pc + 4),
          g := upd x.g 31 fun _ => BitVec.ofNat 64 (addr48 (x.pc + 8)) }) u)) ∧
      (∀ gs, (readG u t.val gs).toNat % 4 = 0 →
        exec (.jr t gs) s = .next (updThread t.val (fun x => { x with
          branch := some (x.pc, addr48 (readG u t.val gs).toNat), pc := addr48 (x.pc + 4) }) u) ∧
        (gs ≠ 31 → exec (.jalr t gs) s = .next (updThread t.val (fun x => { x with
          branch := some (x.pc, addr48 (readG u t.val gs).toNat), pc := addr48 (x.pc + 4),
          g := upd x.g 31 fun _ => BitVec.ofNat 64 (addr48 (x.pc + 8)) }) u))) ∧
      (∀ gs, (readG u t.val gs).toNat % 4 ≠ 0 →
        exec (.jr t gs) s = .next (fault t.val 0x06 0 (readG u t.val gs).toNat u) ∧
        (gs ≠ 31 → exec (.jalr t gs) s = .next (fault t.val 0x06 0 (readG u t.val gs).toNat u))) ∧
      exec (.jalr t 31) s = .next (illegal t.val u) ∧
      (∀ ga gb off, exec (.bcc t 7 ga gb off) s = .next (illegal t.val u))) ∧
    (branchBarred th = true → ∀ cond ga gb off off' gs,
      exec (.bcc t cond ga gb off) s = .next (illegal t.val u) ∧ exec (.bal t off') s = .next (illegal t.val u) ∧
      exec (.jr t gs) s = .next (illegal t.val u) ∧ exec (.jalr t gs) s = .next (illegal t.val u)) ∧
    (∀ lvl gs len, loopBarred th lvl (BitVec.toNat len) (addr48 (th.pc + 4 * len.toNat)) = false →
      ∃ v, exec (.loopn t lvl gs len) s = .next v ∧
        (threadAt v t.val).pc = (if readG u t.val gs = 0 then addr48 (addr48 (th.pc + 4 * len.toNat) + 4)
          else addr48 (th.pc + 4)) ∧
        (lvl = 0 → (threadAt v t.val).lc0 = readG u t.val gs ∧ loopEnd (threadAt v t.val).le0 = addr48 (th.pc + 4 * len.toNat) ∧
          loopLen (threadAt v t.val).le0 = len.toNat ∧ (threadAt v t.val).lc1 = th.lc1) ∧
        (lvl = 1 → (threadAt v t.val).lc1 = readG u t.val gs ∧ loopEnd (threadAt v t.val).le1 = addr48 (th.pc + 4 * len.toNat) ∧
          loopLen (threadAt v t.val).le1 = len.toNat ∧ (threadAt v t.val).lc0 = th.lc0) ∧
        (threadAt v t.val).g = th.g ∧ v.mem = u.mem) ∧
    (∀ lvl gs len, loopBarred th lvl (BitVec.toNat len) (addr48 (th.pc + 4 * len.toNat)) = true →
      exec (.loopn t lvl gs len) s = .next (illegal t.val u)) ∧
    (∀ lvl gs, exec (.loopn t lvl gs 0) s = .next (illegal t.val u)) ∧
    (∀ m : BitVec 1, misplaced th = true ∨ activeEnd th [th.pc, addr48 (th.pc + 4), addr48 (th.pc + 8)] = true →
      exec (.mode t m) s = .next (illegal t.val u)) ∧
    (∀ m : BitVec 1, misplaced th = false → activeEnd th [th.pc, addr48 (th.pc + 4), addr48 (th.pc + 8)] = false →
      (m = 0 ∨ th.keeper = true → exec (.mode t m) s = .next (updThread t.val (fun x => { x with
        shadow := 2, newMode := m == 1, pc := addr48 (x.pc + 4) }) u)) ∧
      (m = 1 → th.keeper = false → exec (.mode t m) s = .next (fault t.val 0x02 0 0 u)))

/-- R270, R278, R280: a trap outside a handler is an exception whose return address follows the trap; XRET restores the
mode, the shadow and the bits that entry saved and goes to epc; in keeper mode MFS and MTS move the seven special registers,
of which MTS keeps emode's handler bit and epc's low bits clear; in task mode XRET, MFS and MTS raise PRIV, and a number
that names no special register is ILLEGAL. A trap within a handler is a fault there, and TRAP and XRET in a delay slot or a
shadow are ILLEGAL. -/
def Obligations.TrapsReturnsAndSpecialRegisters : Prop :=
  ∀ (s u : State) (t : Fin 256) (th : Thread), Fetched t.val s u → threadAt u t.val = th →
    (misplaced th = false → inHandler th = false → ∀ code,
      ∃ v, exec (.trap t code) s = .next v ∧ (threadAt v t.val).epc = BitVec.ofNat 64 ((loopEval th th.pc).2 % 2 ^ 48) ∧
        (threadAt v t.val).ecause = causeOf 0x07 (code.toNat % 256) 0 ∧ (threadAt v t.val).keeper = true ∧
        (threadAt v t.val).pc = u.rsr.vec.toNat ∧ inHandler (threadAt v t.val) = true ∧
        (threadAt v t.val).emode.getLsbD 0 = th.keeper ∧ (threadAt v t.val).g = th.g ∧ v.mem = u.mem ∧
        (∀ q, q ≠ t.val → threadAt v q = threadAt u q)) ∧
    (misplaced th = false → inHandler th = true → ∀ code, exec (.trap t code) s = .next (fault t.val 0x07 0 0 u)) ∧
    (misplaced th = true → (∀ code, exec (.trap t code) s = .next (illegal t.val u)) ∧
      exec (.xret t) s = .next (illegal t.val u)) ∧
    (misplaced th = false → th.keeper = true →
      ∃ v, exec (.xret t) s = .next v ∧ (threadAt v t.val).pc = th.epc.toNat ∧
        (threadAt v t.val).keeper = th.emode.getLsbD 0 ∧ inHandler (threadAt v t.val) = false ∧
        (threadAt v t.val).ioOpen = th.emode.getLsbD 6 ∧ (threadAt v t.val).ioUsed = th.emode.getLsbD 7 ∧
        (threadAt v t.val).g = th.g ∧ (threadAt v t.val).epc = th.epc ∧ v.mem = u.mem) ∧
    (∀ sr gd gs : BitVec 5,
      (sr.toNat < 7 → th.keeper = true →
        exec (.mfs t gd sr) s = .next (updThread t.val advance (writeG t.val gd (readSpecial th sr) u)) ∧
        exec (.mts t sr gs) s = .next (updThread t.val (fun x => advance (writeSpecial sr (readG u t.val gs) x)) u)) ∧
      (sr.toNat < 7 → th.keeper = false → exec (.mfs t gd sr) s = .next (fault t.val 0x02 0 0 u) ∧
        exec (.mts t sr gs) s = .next (fault t.val 0x02 0 0 u)) ∧
      (7 ≤ sr.toNat → exec (.mfs t gd sr) s = .next (illegal t.val u) ∧ exec (.mts t sr gs) s = .next (illegal t.val u))) ∧
    (misplaced th = false → th.keeper = false → exec (.xret t) s = .next (fault t.val 0x02 0 0 u)) ∧
    (∀ v x, inHandler (writeSpecial 2 v x) = inHandler x ∧ (writeSpecial 0 v x).epc.toNat % 4 = 0)

/-- R14, R269, R271, R281, R283, R285, R287, R305: what else moves a thread. An ordinary instruction writes its register, g0
excepted, and execution goes on; a word that is no instruction is ILLEGAL; a fetch that meets an uncorrectable error is an
exception and S1, and a parity error halts the thread. A delivery is taken at a boundary that allows it, after the ECLK of its
selection, as an exception with its code, and else waits. A keeper write releases the held threads of its mask into task mode,
idle; a task-mode thread's is PRIV, and others' nothing. A keeper reset holds the thread again with its exception state
cleared; a release written in the same ECLK stands. -/
def Obligations.ThreadsMove : Prop :=
  ∀ (s : State) (t : Fin 256),
    (∀ u, Fetched t.val s u → (threadAt u t.val).g.length = 32 →
      (∀ gd v, ∃ w, exec (.ordinaryInstruction t (.result gd v)) s = .next w ∧
        (gd ≠ 0 → readG w t.val gd = v) ∧ (∀ r, r ≠ gd → readG w t.val r = readG u t.val r) ∧ readG w t.val 0 = 0 ∧
        threadAt w t.val = advance { threadAt u t.val with
          g := if gd = 0 then (threadAt u t.val).g else upd (threadAt u t.val).g gd.toNat fun _ => v } ∧
        (∀ q, q ≠ t.val → threadAt w q = threadAt u q) ∧ w.mem = u.mem) ∧
      (∀ w, (∀ i, decodeRiser t w ≠ .listed i) → exec (.ordinaryInstruction t (.word w)) s = .next (illegal t.val u)) ∧
      (∀ w i, decodeRiser t w = .listed i → exec (.ordinaryInstruction t (.word w)) s = .next u) ∧
      exec (.ordinaryInstruction t .fetchUncorrectable) s =
        .next (fault t.val 0x03 1 (threadAt u t.val).pc (memoryError t.val u)) ∧
      exec (.ordinaryInstruction t .registerParity) s =
        .next (haltThread t.val (detectS1 0x0A02 (pourPairs u (taskPour u t.val)) u))) ∧
    (mayIssue s t.val = false → ∀ op, exec (.ordinaryInstruction t op) s = .next s) ∧
    (∀ d ds, (threadAt s t.val).async = d :: ds → coresRun s = true →
      (deliverable (threadAt s t.val) = true →
        (deliveryStands s d = true → exec (.asyncDeliveryTaken t) s = .next (takeDelivery t.val d s)) ∧
        (d.task = none → ∃ v, exec (.asyncDeliveryTaken t) s = .next v ∧ (threadAt v t.val).async = ds ∧
          (threadAt v t.val).st = .running ∧ (threadAt v t.val).keeper = true ∧ (threadAt v t.val).pc = s.rsr.vec.toNat ∧
          (threadAt v t.val).ecause = causeOf d.code.toNat d.detail.toNat 0 ∧
          (threadAt v t.val).epc = BitVec.ofNat 64 (addr48 (threadAt s t.val).pc) ∧
          (∀ q, q ≠ t.val → threadAt v q = threadAt s q) ∧ v.mem = s.mem)) ∧
      (deliverable (threadAt s t.val) = false ∨ deliveryStands s d = false → exec (.asyncDeliveryTaken t) s = .next s) ∧
      (∀ k, d.task.bind (fun k => taskAt s k.1 k.2) = some k → k.deliveredAt = now s → deliveryStands s d = false)) ∧
    ((threadAt s t.val).async = [] ∨ coresRun s = false → exec (.asyncDeliveryTaken t) s = .next s) ∧
    (∀ who (word : Fin 8) mask, agentKeeper s who = true → s.rsr.threads.length = 256 → s.rsr.rel.length = 8 →
      ∃ v, exec (.threadRelease who word mask) s = .next v ∧ nth v.rsr.rel word.val 0 = nth s.rsr.rel word.val 0 ||| mask ∧
        (∀ b, b < 32 → (threadAt s (32 * word.val + b)).st = .held →
          (threadAt v (32 * word.val + b)).st = (if BitVec.getLsbD mask b then .idle else .held)) ∧
        (∀ q, q / 32 ≠ word.val → threadAt v q = threadAt s q) ∧ v.mem = s.mem ∧ v.sch = s.sch) ∧
    (∀ (q : Fin 256) (word : Fin 8) mask, threadKeeper s q.val = false → (threadAt s q.val).st = .running →
      exec (.threadRelease (.thread q) word mask) s = .next (fault q.val 0x02 0 0 s) ∧
      exec (.threadReset (.thread q) t) s = .next (fault q.val 0x02 0 0 s)) ∧
    (∀ who (word : Fin 8) mask, agentKeeper s who = false → (∀ q, who ≠ .thread q) →
      exec (.threadRelease who word mask) s = .next s ∧ exec (.threadReset who t) s = .next s) ∧
    (∀ who, agentKeeper s who = true → exec (.threadReset who t) s = .next (resetThread t.val s)) ∧
    (∀ who, agentKeeper s who = true → s.rsr.threads.length = 256 → (threadAt s t.val).async = [] →
      (nth s.sch.ports t.val {}).task = none →
      ∃ v, exec (.threadReset who t) s = .next v ∧
        (threadAt v t.val).st = (if t.val ∈ s.cyc.released then .idle else .held) ∧ (threadAt v t.val).keeper = false ∧
        (threadAt v t.val).epc = 0 ∧ (threadAt v t.val).ecause = 0 ∧ (threadAt v t.val).emode = 0 ∧
        (threadAt v t.val).g = (threadAt s t.val).g ∧ (∀ q, q ≠ t.val → threadAt v q = threadAt s q) ∧
        (∀ r ∈ v.rsr.resvs, r.owner ≠ Owner.mk none t.val) ∧ v.mem = s.mem ∧ v.sch = s.sch)

/-! ### Memory accesses -/

/-- R309, R310, R312, R315, R317, R327, R518: accesses of threads to memory. A load takes its bytes, its own unseen stores
included, and its register is written when they return; one that its check denies is an exception; one that meets an
uncorrectable word is LOAD_FAULT and S1. A store enters the queue and leaves memory as it is; made visible it writes exactly
its bytes; its response takes it off the queue, or reports it lost. RESLD sets a reservation; CONDST stores and answers 1
exactly when the reservation holds, and clears it. SEAL and IOSEAL complete at once when no store is queued, and otherwise
wait. While an older access keeps one of them back, the thread issues nothing in that ECLK. -/
def Obligations.LoadsStoresAndReservations : Prop :=
  ∀ (s u v : State) (t : Fin 256) (a : Nat), devicePending s t.val = false →
    (∀ gd addr size, loadHeld s t.val (BitVec.toNat addr) (2 ^ BitVec.toNat size) = false → Fetched t.val s u →
      threadCheck t.val .read false (BitVec.toNat addr) (2 ^ BitVec.toNat size) false u = (.ok a, v) →
      placeOf v a = .crucible ∨ placeOf v a = .dram →
      (∀ ecc : Ecc, ecc = .clean ∨ ecc = .corrected → ∃ w, exec (.load t gd addr size ecc) s = .next w ∧
        (threadAt w t.val).waiting = .load gd (BitVec.ofNat 64 (leNat (withForward (unseen v t.val) a
          (physRead v a (2 ^ size.toNat))))) false false addr.toNat ∧ w.mem = v.mem ∧
        (threadAt w t.val).g = (threadAt v t.val).g) ∧
      exec (.load t gd addr size .uncorrectable) s = .next (fault t.val 0x04 1 addr.toNat (memoryError t.val v))) ∧
    (∀ gd addr size ecc d, loadHeld s t.val (BitVec.toNat addr) (2 ^ BitVec.toNat size) = false → Fetched t.val s u →
      threadCheck t.val .read false (BitVec.toNat addr) (2 ^ BitVec.toNat size) (ecc == .walkUncorrectable) u = (.error d, v) →
      exec (.load t gd addr size ecc) s = .next (denyAccess t.val addr.toNat d v)) ∧
    (∀ gd addr size ecc, loadHeld s t.val (BitVec.toNat addr) (2 ^ BitVec.toNat size) = true →
      exec (.load t gd addr size ecc) s = .next (holdBack t.val s)) ∧
    (∀ gs addr size, Fetched t.val s u → threadCheck t.val .write false (BitVec.toNat addr) (2 ^ BitVec.toNat size) false u = (.ok a, v) →
      ∃ w, exec (.store t gs addr size) s = .next w ∧ w.mem = v.mem ∧
        (threadAt w t.val).stores = (threadAt v t.val).stores ++
          [QueuedStore.mk addr.toNat a (2 ^ size.toNat) (readG s t.val gs) (threadKeeper v t.val) false false]) ∧
    (∀ gs addr size d, Fetched t.val s u →
      threadCheck t.val .write false (BitVec.toNat addr) (2 ^ BitVec.toNat size) false u = (.error d, v) →
      exec (.store t gs addr size) s = .next (denyAccess t.val addr.toNat d v)) ∧
    (∀ gd ga off, Fetched t.val s u → unseen s t.val = [] →
      threadCheck t.val .read true (resvAddr s t.val ga (BitVec.toInt off)) 8 false u = (.ok a, v) →
      placeOf v a = .crucible ∨ placeOf v a = .dram →
      ∃ w, exec (.resld t gd ga off .clean) s = .next w ∧
        (threadAt w t.val).waiting = .load gd (BitVec.ofNat 64 (leNat (physRead v a 8))) false true
          (resvAddr s t.val ga (BitVec.toInt off)) ∧
        (∃ r ∈ w.rsr.resvs, r.owner = Owner.mk none t.val ∧ r.base = granuleOf v a ∧ r.madeAt = now v) ∧ w.mem = v.mem) ∧
    (∀ gd ga off, Fetched t.val s u → unseen s t.val = [] →
      threadCheck t.val .read true (resvAddr s t.val ga (BitVec.toInt off)) 8 false u = (.ok a, v) →
      placeOf v a = .crucible ∨ placeOf v a = .dram → exec (.resld t gd ga off .uncorrectable) s =
        .next (fault t.val 0x04 1 (resvAddr s t.val ga off.toInt) (memoryError t.val v))) ∧
    (∀ gd ga off ecc d, Fetched t.val s u → unseen s t.val = [] →
      threadCheck t.val .read true (resvAddr s t.val ga (BitVec.toInt off)) 8 (ecc == .walkUncorrectable) u = (.error d, v) →
      exec (.resld t gd ga off ecc) s = .next (denyAccess t.val (resvAddr s t.val ga off.toInt) d v)) ∧
    (∀ gs ga gd off ecc d, Fetched t.val s u → unseen s t.val = [] →
      condstHeld s t.val (resvAddr s t.val ga (BitVec.toInt off)) = false →
      threadCheck t.val .write true (resvAddr s t.val ga (BitVec.toInt off)) 8 (ecc == .walkUncorrectable) u = (.error d, v) →
      exec (.condst t gs ga gd off ecc) s = .next (denyAccess t.val (resvAddr s t.val ga off.toInt) d v)) ∧
    (∀ gd ga off gs off', unseen s t.val ≠ [] → ∀ ecc, exec (.resld t gd ga off ecc) s = .next (holdBack t.val s) ∧
      exec (.condst t gs ga gd off' ecc) s = .next (holdBack t.val s)) ∧
    (∀ gd addr size n, loadHeld s t.val (BitVec.toNat addr) (2 ^ BitVec.toNat size) = false → Fetched t.val s u →
      threadCheck t.val .read false (BitVec.toNat addr) (2 ^ BitVec.toNat size) false u = (.ok a, v) → placeOf v a = .peer n →
      ∃ w, exec (.load t gd addr size .clean) s = .next w ∧ (threadAt w t.val).waiting = .load gd 0 true false addr.toNat ∧
        w.lnk.sent = v.lnk.sent ++ [(n, [10, t.val, flagNat (threadKeeper v t.val), a % peerSpan, 2 ^ size.toNat])] ∧
        w.mem = v.mem) ∧
    (∀ gs ga gd off, Fetched t.val s u → unseen s t.val = [] → condstHeld s t.val (resvAddr s t.val ga (BitVec.toInt off)) = false →
      threadCheck t.val .write true (resvAddr s t.val ga (BitVec.toInt off)) 8 false u = (.ok a, v) →
      placeOf v a = .crucible ∨ placeOf v a = .dram →
      ∃ w, exec (.condst t gs ga gd off .clean) s = .next w ∧ (∀ r ∈ w.rsr.resvs, r.owner ≠ Owner.mk none t.val) ∧
        (resvHolds v (Owner.mk none t.val) a = true → w.mem = v.mem.write a (leBytes 8 (readG s t.val gs).toNat)) ∧
        (resvHolds v (Owner.mk none t.val) a = false → w.mem = v.mem) ∧
        (gd ≠ 0 → (threadAt v t.val).g.length = 32 →
          readG w t.val gd = if resvHolds v (Owner.mk none t.val) a then 1 else 0)) ∧
    (∀ q l, unseen s t.val = q :: l → mayRelease s t.val q = true → placeOf s q.paddr = .crucible ∨ placeOf s q.paddr = .dram →
      ∃ w, exec (.storeVisible t .clean) s = .next w ∧
        w.mem = s.mem.write q.paddr (leBytes q.bytes (BitVec.toNat q.value)) ∧
        (∀ x, x < q.paddr ∨ q.paddr + q.bytes ≤ x → w.mem.readByte x = s.mem.readByte x) ∧ unseen w t.val = l) ∧
    (∀ q l, (threadAt s t.val).stores = q :: l → q.visible = true → q.failed = false → (threadAt s t.val).waiting = .none →
      exec (.writeResponse t .ok) s = .next (updThread t.val (fun x => { x with stores := l }) s)) ∧
    (∀ q l reply, (threadAt s t.val).stores = q :: l → q.visible = true →
      (q.failed = true ∨ peerBase ≤ q.paddr ∧ reply ≠ .ok →
        exec (.writeResponse t reply) s = .next (settleSeal t.val (storeLost t.val s))) ∧
      (q.failed = false → q.paddr < peerBase ∨ reply = .ok → exec (.writeResponse t reply) s =
        .next (settleSeal t.val (updThread t.val (fun x => { x with stores := l }) s)))) ∧
    (∀ gd x r addr answer, (threadAt s t.val).waiting = .load gd x false r addr →
      exec (.loadReturn t answer) s = .next (updThread t.val advance (writeG t.val gd x (updThread t.val (fun y => { y with
        waiting := .none }) s)))) ∧
    (∀ gd x r addr d, (threadAt s t.val).waiting = .load gd x true r addr →
      exec (.loadReturn t (some d)) s = .next (updThread t.val advance (writeG t.val gd d (updThread t.val (fun y => { y with
        waiting := .none }) s)))) ∧
    (Fetched t.val s u → ((threadAt u t.val).stores = [] →
        exec (.sealStores t) s = .next (updThread t.val (fun x => advance { x with waiting := .none }) u) ∧
        exec (.ioseal t) s = .next (updThread t.val (fun x => advance { x with
          waiting := .none, ioOpen := true, ioUsed := false }) u)) ∧
      ((threadAt u t.val).stores ≠ [] →
        exec (.sealStores t) s = .next (updThread t.val (fun x => { x with waiting := .seal }) u) ∧
        exec (.ioseal t) s = .next (updThread t.val (fun x => { x with waiting := .ioseal }) u)))

/-- R316 to R318, R321 to R323, R416: flag sets by threads, the ends of reservations and holds, and accesses from peers. A
flag set behind confirmed stores takes effect at once, and one behind others joins the queue. A reservation lapses 4,096 ECLK
after its RESLD; a hold ends with its granule; a scrub clears the reservations on its granule. An admitted write of a peer
writes exactly its bytes, an admitted read or execute answers its bytes, RESLD and CONDST of a peer's thread act on the
monitor here, and a denied access is answered as an error. While a device-register store of the thread has not completed, no
further access of it issues (R318). -/
def Obligations.FlagSetsHoldsAndPeerAccesses : Prop :=
  ∀ (s u v : State) (t : Fin 256) (flag : Fin 4096) (a : Nat),
    (devicePending s t.val = false → Fetched t.val s u →
      (threadCheck t.val .write false (flagBase + 64 * flag.val + 0x10) 4 false u = (.ok a, v) → (threadAt u t.val).stores = [] →
        (threadAt v t.val).stores = [] → t.val < v.rsr.threads.length →
        ∃ q w, exec (.flagSet t flag) s = .next (performStore t.val q w) ∧ q.paddr = a ∧ q.bytes = 4 ∧ q.value = 1 ∧
          (threadAt w t.val).stores = [] ∧ w.mem = v.mem ∧ w.fgs = v.fgs) ∧
      (∀ value, threadCheck t.val .write false (flagBase + 64 * flag.val + 0x14) 4 false u = (.ok a, v) →
        (threadAt u t.val).stores = [] → (threadAt v t.val).stores = [] → t.val < v.rsr.threads.length →
        ∃ q w, exec (.flagAdd t flag value) s = .next (performStore t.val q w) ∧ q.paddr = a ∧ q.bytes = 4 ∧
          q.value = BitVec.setWidth 64 value ∧ (threadAt w t.val).stores = [] ∧ w.mem = v.mem ∧ w.fgs = v.fgs) ∧
      (∀ l, threadCheck t.val .write false (flagBase + 64 * flag.val + 0x10) 4 false u = (.ok a, v) →
        (threadAt u t.val).stores = l → (threadAt v t.val).stores = l → l ≠ [] → t.val < v.rsr.threads.length →
        ∃ w q, exec (.flagSet t flag) s = .next w ∧ (threadAt w t.val).stores = l ++ [q] ∧ q.paddr = a ∧ q.bytes = 4 ∧
          q.value = 1 ∧ q.visible = false ∧ w.mem = v.mem ∧ w.fgs = v.fgs)) ∧
    (devicePending s t.val = true → ∀ gd gs ga addr size off off' ecc value,
      exec (.load t gd addr size ecc) s = .next (holdBack t.val s) ∧ exec (.store t gs addr size) s = .next (holdBack t.val s) ∧
      exec (.resld t gd ga off ecc) s = .next (holdBack t.val s) ∧ exec (.condst t gs ga gd off' ecc) s = .next (holdBack t.val s) ∧
      exec (.flagSet t flag) s = .next (holdBack t.val s) ∧ exec (.flagAdd t flag value) s = .next (holdBack t.val s)) ∧
    (∃ w, exec (.reservationLapse t) s = .next w ∧ (∀ r, r ∈ w.rsr.resvs ↔ r ∈ s.rsr.resvs ∧
        (r.owner ≠ Owner.mk none t.val ∨ now s < r.madeAt + 4096)) ∧ w.rsr.threads = s.rsr.threads ∧ w.mem = s.mem) ∧
    (∀ granule, ∃ w, exec (.reservationHoldEnd granule) s = .next w ∧
      (∀ h, h ∈ w.rsr.holds ↔ h ∈ s.rsr.holds ∧ h.base ≠ granule) ∧ w.rsr.resvs = s.rsr.resvs ∧
        w.rsr.threads = s.rsr.threads ∧ w.mem = s.mem) ∧
    (∀ addr, placeOf s (BitVec.toNat addr) = .crucible → ∃ w, exec (.crucibleScrub addr) s = .next w ∧
      (∀ r, r ∈ w.rsr.resvs ↔ r ∈ s.rsr.resvs ∧ (addr.toNat < r.base ∨ r.base + r.size ≤ addr.toNat)) ∧ w.mem = s.mem) ∧
    (∀ addr, placeOf s (BitVec.toNat addr) ≠ .crucible → exec (.crucibleScrub addr) s = .next s) ∧
    (∀ (chip : Fin 4) (k : Fin 5) addr data ecc, peerUp s chip.val = true → clocksRun s = true →
      exec (.peerAccess chip k (.release t) addr 0 data ecc) s = .next { s with rsr := { s.rsr with
        resvs := s.rsr.resvs.filter fun r => r.owner != Owner.mk (some chip.val) t.val } } ∧
      (heldByOther s none (BitVec.toNat addr) data.length = false →
        checkAccess (agentId (.peer chip k)) (decide (k.val = 1)) .write addr.toNat data.length false s = (.ok a, v) →
        placeOf v a = .crucible ∨ placeOf v a = .dram →
        ∃ w, exec (.peerAccess chip k .write addr 0 data .clean) s = .next w ∧ w.mem = v.mem.write a data ∧
          w.lnk.sent = v.lnk.sent ++ [(chip.val, [15, 1])]) ∧
      (∀ op n, op = .read ∨ op = .execute →
        checkAccess (agentId (.peer chip k)) (decide (k.val = 1)) (peerKind op) addr.toNat n false s = (.ok a, v) →
        placeOf v a = .crucible ∨ placeOf v a = .dram →
        ∃ w, exec (.peerAccess chip k op addr n data .clean) s = .next w ∧ w.mem = v.mem ∧ w.rsr.resvs = v.rsr.resvs ∧
          w.lnk.sent = v.lnk.sent ++ [(chip.val, 15 :: 1 :: (physRead v a n).map BitVec.toNat)]) ∧
      (a % 8 = 0 → checkAccess (agentId (.peer chip k)) (decide (k.val = 1)) .read addr.toNat 8 false s = (.ok a, v) →
        placeOf v a = .crucible ∨ placeOf v a = .dram →
        ∃ w, exec (.peerAccess chip k (.reserve t) addr 0 data .clean) s = .next w ∧ w.mem = v.mem ∧
          (∃ r ∈ w.rsr.resvs, r.owner = Owner.mk (some chip.val) t.val ∧ r.base = granuleOf v a ∧ r.madeAt = now v) ∧
          w.lnk.sent = v.lnk.sent ++ [(chip.val, 15 :: 1 :: (physRead v a 8).map BitVec.toNat)]) ∧
      (a % 8 = 0 → heldByOther s (some (Owner.mk (some chip.val) t.val)) (BitVec.toNat addr) 8 = false →
        checkAccess (agentId (.peer chip k)) (decide (k.val = 1)) .write addr.toNat 8 false s = (.ok a, v) →
        placeOf v a = .crucible ∨ placeOf v a = .dram →
        ∃ w, exec (.peerAccess chip k (.conditional t) addr 0 data .clean) s = .next w ∧
          (∀ r ∈ w.rsr.resvs, r.owner ≠ Owner.mk (some chip.val) t.val) ∧
          w.mem = (if resvHolds v (Owner.mk (some chip.val) t.val) a then v.mem.write a (sliceBytes data 0 8) else v.mem)) ∧
      (∀ f n, checkAccess (agentId (.peer chip k)) (decide (k.val = 1)) .read addr.toNat n false s = (.error f, v) →
        v.sys.inReset = false → exec (.peerAccess chip k .read addr n data ecc) s =
          .next { v with lnk := { v.lnk with sent := v.lnk.sent ++ [(chip.val, [15, 0])] } })) ∧
    (∀ (chip : Fin 4) (k : Fin 5) op addr n data ecc, peerUp s chip.val = false →
      exec (.peerAccess chip k op addr n data ecc) s = .next s)

/-! ### The Task Scheduler -/

/-- R291 to R295, R301, R302, R304, R305, R307: spawns, ends, operands, links and cancels. A spawn whose descriptor is in
order takes the lowest free slot, and the port shows slot and generation; without a slot, with a field out of range or with
256 flag waits in place it is refused with an event. An end makes the thread idle and, without a link, frees the slot. An
operand enters the matching store, and the last one makes the task ready; one that names no waiting place is an event. Links
are handled one per ECLK, those of a cancellation from the next ECLK on. Keeper firmware cancels. -/
def Obligations.TasksSpawnMatchAndEnd : Prop :=
  ∀ (s : State) (t : Fin 256) (slot : BitVec 13) (gen : Byte),
    (∀ n k, freeSlot s = some n → spawnFieldsOk (nth s.sch.ports t.val {}).desc = true →
      spawnedTask (nth s.sch.ports t.val {}).desc n (nextGen s n) (portTask s t.val) = k →
      (k.flagWait.isSome = true → 256 ≤ (s.sch.tasks.filter fun q => q.flagWait.isSome).length →
        exec (.spawn t) s = .next (updPort t.val (fun p => { p with result := 0 }) (raise 0x0B07 s))) ∧
      (k.flagWait = none ∨ (s.sch.tasks.filter fun q => q.flagWait.isSome).length < 256 →
      exec (.spawn t) s = .next (allocTask k (updPort t.val (fun p => { p with
        result := BitVec.ofNat 32 (n + nextGen s n * 65536 + 0x80000000) }) s)))) ∧
    (freeSlot s = none → exec (.spawn t) s = .next (updPort t.val (fun p => { p with result := 0 }) (raise 0x0B01 s))) ∧
    (freeSlot s ≠ none → spawnFieldsOk (nth s.sch.ports t.val {}).desc = false →
      exec (.spawn t) s = .next (updPort t.val (fun p => { p with result := 0 }) (raise 0x0B02 s))) ∧
    (∀ k status, (nth s.sch.ports t.val {}).task = some (slot.toNat, gen.toNat) → taskAt s slot.toNat gen.toNat = some k →
      (BitVec.toNat status < 3 → k.pour = none → k.links = [] → k.st = .running → k.thread = some t.val →
        exec (.taskEnd t status .clean) s = .next (dropTask slot.toNat gen.toNat (updPort t.val (fun p => { p with task := none })
          (updThread t.val (idleThread (slot.toNat, gen.toNat)) s)))) ∧
      (∀ ecc : Ecc, ecc ≠ .uncorrectable →
        (BitVec.toNat status < 3 → exec (.taskEnd t status ecc) s =
          .next (endTask slot.toNat gen.toNat status.toNat (noteEcc ecc s))) ∧
        (status = 3 → exec (.taskEnd t status ecc) s = .next (noteEcc ecc s))) ∧
      exec (.taskEnd t status .uncorrectable) s = .next (tableError slot.toNat gen.toNat s)) ∧
    (∀ status ecc, (nth s.sch.ports t.val {}).task = none → exec (.taskEnd t status ecc) s = .next s) ∧
    (∀ k index value, taskAt s slot.toNat gen.toNat = some k → k.matching = true → BitVec.toNat index < k.nOperands →
      k.st = .waiting → k.operands.any (fun o => o.1 == index.toNat) = false → matchUsed s < 2048 →
      (k.operands.length + 1 ≠ k.nOperands →
        exec (.operandSend t slot index gen value .clean) s = .next (settleTasks (updTask slot.toNat gen.toNat (fun x => { x with
          operands := x.operands ++ [(index.toNat, value)] }) s))) ∧
      (k.operands.length + 1 = k.nOperands → k.started = true → k.poisoned = false →
        exec (.operandSend t slot index gen value .clean) s = .next (settleTasks (updTask slot.toNat gen.toNat (fun x => { x with
          operands := x.operands ++ [(index.toNat, value)], st := .ready, readyAt := now s, waitFrom := now s }) s)))) ∧
    (∀ k index value, taskAt s slot.toNat gen.toNat = some k →
      exec (.operandSend t slot index gen value .uncorrectable) s = .next (tableError slot.toNat gen.toNat s) ∧
      (k.matching = true → BitVec.toNat index < k.nOperands → k.st ≠ .waiting →
        exec (.operandSend t slot index gen value .clean) s = .next (settleTasks (raise 0x0B04 s)))) ∧
    (taskAt s slot.toNat gen.toNat = none → ∀ index value who ecc,
      exec (.operandSend t slot index gen value ecc) s = .next (settleTasks (raise 0x0B05 (noteEcc ecc s))) ∧
      (agentKeeper s who = true → exec (.schCancel who slot gen) s = .next (raise 0x0B05 s))) ∧
    (∀ k who, taskAt s slot.toNat gen.toNat = some k → agentKeeper s who = true →
      exec (.schCancel who slot gen) s = .next (cancelAndSettle slot.toNat gen.toNat s) ∧
      (k.st = .ready → k.pour = none → k.links = [] → k.thread = none →
        exec (.schCancel who slot gen) s = .next (dropTask slot.toNat gen.toNat s)) ∧
      (∀ th, k.st = .running → k.pour = none → k.thread = some th → (threadAt s th).async = [] →
        exec (.schCancel who slot gen) s = .next (updThread th (fun r => { r with
          async := r.async ++ [AsyncDelivery.mk 0x11 1 none none] }) s))) ∧
    (∀ who, agentKeeper s who = false → exec (.schCancel who slot gen) s = .next s) ∧
    (∀ l ls, s.sch.links = l :: ls →
      (s.sch.linkAt ≠ some (now s) → l.dueAt ≤ now s → taskAt s l.slot l.gen = none → (ls.any fun q => q.source == l.source) = false →
        exec (.successorLink .clean) s = .next (dropTask l.source.1 l.source.2 (raise 0x0B05
          { s with sch := { s.sch with links := ls, linkAt := some (now s) } }))) ∧
      (s.sch.linkAt ≠ some (now s) → l.dueAt ≤ now s → (ls.any fun q => q.source == l.source) = true → taskAt s l.slot l.gen = none →
        exec (.successorLink .clean) s = .next (raise 0x0B05
          { s with sch := { s.sch with links := ls, linkAt := some (now s) } })) ∧
      (∀ (ecc : Ecc) k u, ecc ≠ .uncorrectable → s.sch.linkAt ≠ some (now s) → l.dueAt ≤ now s → taskAt s l.slot l.gen = some k →
        u = noteEcc ecc { s with sch := { s.sch with links := ls, linkAt := some (now s) } } →
        ∃ v, v = (if k.matching then settleTasks (deliverOperand l.slot l.gen l.index l.value l.status u)
            else settleTasks (deliverToken l.slot l.gen l.index l.status u)) ∧
          exec (.successorLink ecc) s = .next (if (v.sch.links.any fun q => q.source == l.source) = true then v
            else dropTask l.source.1 l.source.2 v)) ∧
      (∀ ecc, s.sch.linkAt = some (now s) ∨ now s < l.dueAt → exec (.successorLink ecc) s = .next s)) ∧
    (s.sch.links = [] → ∀ ecc, exec (.successorLink ecc) s = .next s)

/-- R296 to R300, R335, R338, R342, R513: delivery, invalidation and locks. In an ECLK without a delivery yet the task of the
chosen group goes to the idle thread chosen, whose exception waits at its boundary; with no idle thread it goes to the running
task that may be pre-empted. The scheduler selects in RUN and TRIM only. Keeper firmware clears cached translations of a
context and locks a region, which then keeps its values; the ECLK's old regions rule until it ends. A task-mode thread that
tries either takes PRIV. -/
def Obligations.TasksDeliveredAndRegionsLocked : Prop :=
  ∀ s : State,
    (s.sch.deliveredAt = some (now s) ∨ coresRun s = false → ∀ ecc, exec (.schDelivery ecc) s = .next s) ∧
    (∀ cands gs g k, s.sch.deliveredAt ≠ some (now s) → coresRun s = true →
      ((List.range 16).filter fun g => (firstTask s g).isSome && decide (groupRunning s g < groupLimit s g)) = cands →
      (∀ th, pickIdle s = some th → chooseGroup s cands = (some g, gs) → firstTask s g = some k →
        exec (.schDelivery .clean) s = .next (bindTask k th (AsyncDelivery.mk 0x10 (BitVec.ofNat 8 (flagNat k.resumed))
          (some (k.slot, k.gen)) none) gs s) ∧
        exec (.schDelivery .uncorrectable) s = .next (tableError k.slot k.gen s)) ∧
      (∀ v th, pickIdle s = none → pickVictim s = some v → v.thread = some th →
        chooseGroup s (cands.filter fun g => (groupAt s g).preempt && decide (groupWeight s v.group < groupWeight s g)) =
          (some g, gs) → firstTask s g = some k →
        exec (.schDelivery .clean) s = .next (bindTask k th (AsyncDelivery.mk 0x11 0
          (some (k.slot, k.gen)) (some (v.slot, v.gen))) gs s)) ∧
      (pickIdle s = none → pickVictim s = none → exec (.schDelivery .clean) s = .next s)) ∧
    (∀ k th d gs, taskAt s k.slot k.gen = some k → th < s.rsr.threads.length →
      threadAt (bindTask k th d gs s) th = { threadAt s th with async := (threadAt s th).async ++ [d] } ∧
      taskAt (bindTask k th d gs s) k.slot k.gen = some { k with
        st := .running, thread := some th, deliveredAt := now s } ∧
      (bindTask k th d gs s).sch.deliveredAt = some (now s) ∧ (bindTask k th d gs s).mem = s.mem ∧
      (bindTask k th d gs s).tap = (countSel 8 1 s).tap) ∧
    (∀ who ctx, agentKeeper s who = true →
      (∃ v, exec (.xltInv who ctx false) s = .next v ∧
        (∀ c, c ∈ v.xlt.cache ↔ c ∈ s.xlt.cache ∧ c.ctx ≠ BitVec.toNat ctx) ∧
        (∀ c, c ∈ v.xlt.dying ↔ c ∈ s.xlt.dying ∨ c ∈ s.xlt.cache ∧ c.ctx = BitVec.toNat ctx) ∧ ctx.toNat ∈ v.xlt.invBusy ∧
        v.xlt.roots = s.xlt.roots ∧ v.xlt.bind = s.xlt.bind ∧ v.mem = s.mem ∧ v.rsr = s.rsr) ∧
      (∃ v, exec (.xltInv who ctx true) s = .next v ∧ (∀ c ∈ v.xlt.cache, 64 ≤ c.ctx) ∧ (∀ c < 64, c ∈ v.xlt.invBusy) ∧
        v.xlt.roots = s.xlt.roots ∧ v.mem = s.mem ∧ v.rsr = s.rsr)) ∧
    exec .xltInvDone s = .next { s with xlt := { s.xlt with invBusy := [], dying := [] } } ∧
    (∀ who (r : Fin 64), agentKeeper s who = true → s.fwl.regions.length = 64 →
      ((nth s.fwl.regions r.val {}).lock = false → (∀ o, s.fwl.old = some o → o.1 ≠ now s) →
        exec (.fwlLock who r) s = .next { s with fwl := { s.fwl with
          old := some (now s, s.fwl.regions), regions := upd s.fwl.regions r.val fun q => { q with lock := true } } }) ∧
      ((nth s.fwl.regions r.val {}).lock = true → exec (.fwlLock who r) s = .next (raise 0x0C13 s))) ∧
    (∀ who ctx everything (r : Fin 64), agentKeeper s who = false → (∀ q : Fin 256, who ≠ .thread q) →
      exec (.xltInv who ctx everything) s = .next s ∧ exec (.fwlLock who r) s = .next s) ∧
    (∀ (q : Fin 256) ctx everything (r : Fin 64), threadKeeper s q.val = false → (threadAt s q.val).st = .running →
      exec (.xltInv (.thread q) ctx everything) s = .next (fault q.val 0x02 0 0 s) ∧
      exec (.fwlLock (.thread q) r) s = .next (fault q.val 0x02 0 0 s))

/-! ### Runner DMA -/

/-- R84, R91, R346, R347, R350, R356, R366, R483: the commands of a channel by keeper firmware or the host. A start of an idle
software channel takes its form, completion and count from its registers, begins its chain and asks for its tickets; a start
or stop of an owned channel is an event and leaves it; a doorbell makes a ring fetch its head again; clear_err returns a
channel in ERROR to IDLE; resume, by keeper firmware with every error cleared, lets Runner go on, every halted channel asking
again for its tickets, and is refused with an event before. Nothing starts or resumes while a transition changes the mode. -/
def Obligations.RunnerCommands : Prop :=
  ∀ (s : State) (who : Agent) (ch : Fin 32),
    (agentKeeperOrHost s who = true →
      ((chAt s ch.val).owned = true → exec (.dmaStart who ch) s = .next (raise 0x0D06 s) ∧
        exec (.dmaStop who ch) s = .next (raise 0x0D06 s)) ∧
      ((chAt s ch.val).owned = false →
        ((chAt s ch.val).st = .idle → s.dma.stopped = false → changing s = false →
          exec (.dmaStart who ch) s = .next (requestChannel ch.val (updCh ch.val (fun c => { c with
            cur := none, buffer := [], needDoorbell := false, readPos := 0, bytes := 0, completed := 0, chainBytes := 0,
            postedOpen := [], postedLost := false, fetchAddr := c.desc.toNat, level := 0, units := 0,
            ring := c.regRing, posted := c.regPosted, count := c.regCount }) s)) ∧
          (s.dma.chs.length = 32 → (chAt s ch.val).serves = none → canFit s (classCost (cfgClass (chAt s ch.val))) = true →
            ∃ t r, exec (.dmaStart who ch) s = .next t ∧ (chAt t ch.val).st = .waitGrant ∧ t.ldl.queue = s.ldl.queue ++ [r] ∧
              r.id = dmaId ch.val ∧ r.cls = (if (chAt s ch.val).hipri = true then 0 else 2) ∧
              r.tickets = classCost (cfgClass (chAt s ch.val)) ∧ r.serves = none ∧ t.mem = s.mem)) ∧
        ((chAt s ch.val).st ≠ .idle ∨ s.dma.stopped = true ∨ changing s = true → exec (.dmaStart who ch) s = .next s) ∧
        ((chAt s ch.val).st = .idle ∨ (chAt s ch.val).st = .error → exec (.dmaStop who ch) s = .next s) ∧
        ((chAt s ch.val).st ≠ .idle → (chAt s ch.val).st ≠ .error →
          exec (.dmaStop who ch) s = .next (assignPaths (stopChannel ch.val 4 s))) ∧
        ((chAt s ch.val).ring = true → exec (.dmaDoorbell who ch) s = .next (assignPaths (updCh ch.val (fun c => { c with
          needDoorbell := false }) s)))) ∧
      ((chAt s ch.val).owned = true → (chAt s ch.val).ring = true →
        ((chAt s ch.val).st = .idle → exec (.dmaDoorbell who ch) s = .next s) ∧
        ((chAt s ch.val).st ≠ .idle → exec (.dmaDoorbell who ch) s = .next (assignPaths (updCh ch.val (fun c => { c with
          needDoorbell := false }) s)))) ∧
      ((chAt s ch.val).ring = false → exec (.dmaDoorbell who ch) s = .next s) ∧
      ((chAt s ch.val).st = .error → exec (.dmaClearErr who ch) s = .next (updCh ch.val (fun c => { c with
        st := .idle, cur := none }) s)) ∧
      ((chAt s ch.val).st ≠ .error → exec (.dmaClearErr who ch) s = .next s)) ∧
    (agentKeeper s who = true →
      (s.dma.errValid = true → exec (.dmaResume who) s = .next (raise 0x0D07 s)) ∧
      ((s.dma.chs.any fun c => c.st == .error) = true → exec (.dmaResume who) s = .next (raise 0x0D07 s)) ∧
      (s.dma.errValid = false → (s.dma.chs.any fun c => c.st == .error) = false →
        (s.dma.stopped = false ∨ changing s = true → exec (.dmaResume who) s = .next s) ∧
        (s.dma.stopped = true → changing s = false → exec (.dmaResume who) s = .next ((List.range 32).foldl (fun u k =>
          if (chAt u k).st == .halted then requestChannel k u else u) { s with dma := { s.dma with stopped := false } })) ∧
        ((∀ k, (chAt s k).st ≠ .halted) → changing s = false →
          exec (.dmaResume who) s = .next { s with dma := { s.dma with stopped := false } }))) ∧
    (agentKeeper s who = false → exec (.dmaResume who) s = .next s) ∧
    (agentKeeperOrHost s who = false → exec (.dmaStart who ch) s = .next s ∧ exec (.dmaStop who ch) s = .next s ∧
      exec (.dmaDoorbell who ch) s = .next s ∧ exec (.dmaClearErr who ch) s = .next s)

/-- R34, R351, R353 to R355, R361, R364, R365: Runner at work. A datapath whose burst is over takes its next turn; a descriptor
whose bytes have moved completes; a paused channel reads the producer word, and runs again once its level has reached the
upper mark; the first bus error stops Runner and is recorded, a further one only counts, though an uncorrectable word is still
an S1 detection; an error on a posted write loses the node's sets. -/
def Obligations.RunnerWorks : Prop :=
  ∀ (s : State) (ch : Fin 32),
    (∀ (dp : Fin 2), (nth s.dma.paths dp.val {}).ch = some ch.val →
      (burstOver s (nth s.dma.paths dp.val {}) ch.val = true → s.dma.stopped = false →
        exec (.dmaBurstEnd dp) s = .next (turnPaths { s with dma := { s.dma with
          paths := upd s.dma.paths dp.val fun d => { d with ch := none, lastCh := ch.val } } })) ∧
      (burstOver s (nth s.dma.paths dp.val {}) ch.val = false ∨ s.dma.stopped = true → exec (.dmaBurstEnd dp) s = .next s)) ∧
    (∀ (dp : Fin 2), (nth s.dma.paths dp.val {}).ch = none → exec (.dmaBurstEnd dp) s = .next s) ∧
    (∀ d, (chAt s ch.val).cur = some d →
      ((chAt s ch.val).bytes = d.len → (chAt s ch.val).buffer = [] →
        (chAt s ch.val).st = .running ∨ (chAt s ch.val).st = .paused ∨ (chAt s ch.val).st = .preempted → s.dma.stopped = false →
        (chAt s ch.val).ring = false ∨ dmaHeld ch.val (d.addr + 0x14) 12 s = false →
        exec (.dmaDescComplete ch) s = .next (completeDesc ch.val d s)) ∧
      ((chAt s ch.val).bytes < d.len → exec (.dmaDescComplete ch) s = .next s)) ∧
    ((chAt s ch.val).cur = none → exec (.dmaDescComplete ch) s = .next s) ∧
    (∀ l u, (chAt s ch.val).st = .paused → (chAt s ch.val).pollAt ≤ now s → s.dma.stopped = false →
      readLevel ch.val s = (.ok l, u) →
      ((chAt s ch.val).hi.toNat ≤ l → l < 2 ^ 31 → exec (.dmaPacePoll ch) s = .next (turnPaths (updCh ch.val (fun c => { c with
        st := .running, level := l }) u))) ∧
      (l < (chAt s ch.val).hi.toNat → l < 2 ^ 31 → exec (.dmaPacePoll ch) s = .next (updCh ch.val (fun c => { c with
        level := l, pollAt := now s + pollEvery c }) u)) ∧
      (2 ^ 31 ≤ l → exec (.dmaPacePoll ch) s = .next (assignPaths (failChannel ch.val 1 0x0D05 (raise 0x0D05 u))))) ∧
    (∀ k u, (chAt s ch.val).st = .paused → (chAt s ch.val).pollAt ≤ now s → s.dma.stopped = false →
      readLevel ch.val s = (.error k, u) →
      exec (.dmaPacePoll ch) s = .next (dmaFault ch.val k false (chAt s ch.val).prod.toNat u)) ∧
    (now s < (chAt s ch.val).pollAt ∨ (chAt s ch.val).st ≠ .paused → exec (.dmaPacePoll ch) s = .next s) ∧
    (∀ kind isWrite addr, (chAt s ch.val).st ≠ .idle → (chAt s ch.val).st ≠ .error → (chAt s ch.val).st ≠ .halted →
      exec (.dmaBusError ch kind isWrite addr false) s =
        .next (dmaFault ch.val (errorKind kind) isWrite (BitVec.toNat addr) s)) ∧
    (∀ kind isWrite addr, s.sys.inReset = false → (chAt s ch.val).st = .running →
      (s.dma.stopped = false → (∀ k, k ≠ ch.val → onPath s k = false) →
        exec (.dmaBusError ch kind isWrite addr false) s = .next (busError ch.val (errorKind kind) isWrite (BitVec.toNat addr) s)) ∧
      (s.dma.stopped = true → kind ≠ .uncorrectable → exec (.dmaBusError ch kind isWrite addr false) s =
        .next { s with dma := { s.dma with errMore := BitVec.ofNat 8 (satAdd 8 s.dma.errMore.toNat 1) } }) ∧
      (s.dma.stopped = true → kind = .uncorrectable → s.asy.state = .normal → 6 ≤ s.sys.step.toNat →
        ∃ t, exec (.dmaBusError ch kind isWrite addr false) s = .next t ∧
          S1Entered 0x0D01 (pourPairs s ((chAt s ch.val).serves.map Prod.fst)) s t ∧
          t.dma.errMore = BitVec.ofNat 8 (satAdd 8 s.dma.errMore.toNat 1))) ∧
    (∀ kind isWrite addr e es, (chAt s ch.val).postedOpen = e :: es →
      exec (.dmaBusError ch kind isWrite addr true) s = .next (postedError ch.val (BitVec.toNat addr) e s)) ∧
    (∀ kind isWrite addr, (chAt s ch.val).postedOpen = [] → exec (.dmaBusError ch kind isWrite addr true) s = .next s) ∧
    (∀ kind isWrite addr, (chAt s ch.val).st = .idle ∨ (chAt s ch.val).st = .error ∨ (chAt s ch.val).st = .halted → exec (.dmaBusError ch kind isWrite addr false) s = .next s)

/-! ### The Assayer and the age monitor -/

/-- R369, R375 to R379, R389: the Assayer's heartbeat, Witness and judgement. A burst that passes its checks counts, and a wrong
one enters S2; the
Witness result of a pour joins the last 64; a judged pour whose candidates pass becomes a batch that waits for its release,
and its announcement is settled. An uncorrectable error in what they read enters S2. -/
def Obligations.AssayerJudges : Prop :=
  ∀ (s : State) (slot : Fin 8) (seq : Word32) (q : Pour) (a : Announce) (v : WitnessView), assayerRuns s = true →
    (s.asy.beats = 0 ∨ s.asy.lastBurst + Config.oneMs ≤ s.clock.watch →
      exec (.heartbeatBurst .exact) s = .next { s with asy := { s.asy with
        beat := BitVec.ofNat 3 s.asy.beats.toNat, beats := s.asy.beats + 1, lastBurst := s.clock.watch } }) ∧
    (s.asy.beats = 0 ∨ s.asy.lastBurst + Config.oneMs ≤ s.clock.watch → s.ret.s2Held = false → s2Now s = false →
      ∃ t, exec (.heartbeatBurst .wrong) s = .next t ∧ S2Entered 0x0E02 s t) ∧
    (s.asy.beats ≠ 0 → s.clock.watch < s.asy.lastBurst + Config.oneMs → ∀ how, exec (.heartbeatBurst how) s = .next s) ∧
    (∀ g, anyPour s (PourRef.mk slot.val seq.toNat) = some q → graphOf (patternOf s q) slot.val = some g → g.pairId ≠ 0xFF →
      (g.triggerKind = 0 → q.pairDone = true) → (s.asy.witness.any fun v => v.ref == PourRef.mk slot.val seq.toNat) = false →
      (∀ (ecc : Ecc) u, ecc ≠ .uncorrectable → u = noteEcc ecc s → exec (.witnessResult slot seq ecc) s = .next { u with
        asy := { u.asy with witness := (witnessView u (patternOf s q) q g.pairId :: u.asy.witness).take 64 } }) ∧
      (s.ret.s2Held = false → s2Now s = false → ∃ t, exec (.witnessResult slot seq .uncorrectable) s = .next t ∧ S2Entered 0x0E03 s t)) ∧
    ((s.asy.handed.find? fun x => x.ref == PourRef.mk slot.val seq.toNat) = some q →
      (s.asy.announced.find? fun x => x.ref == PourRef.mk slot.val seq.toNat) = some a →
      (s.asy.witness.find? fun x => x.ref == PourRef.mk slot.val seq.toNat) = some v → a.settled = false →
      (∀ ecc : Ecc, ecc ≠ .uncorrectable → exec (.asyJudgePour slot seq ecc) s = .next (judgePour q a v (noteEcc ecc s))) ∧
      ((judgeAll s (patternOf s q) q.ref a.pair (originOf (patternOf s q) q) (zonesOf (patternOf s q) a.pair) v).1 = none →
        ∃ t b, exec (.asyJudgePour slot seq .clean) s = .next t ∧ t.asy.batches = s.asy.batches ++ [b] ∧ b.ref = q.ref ∧
          b.pair = a.pair ∧ b.ceiling = a.ceiling ∧ b.waitSince = now s ∧
          b.records.length = (zonesOf (patternOf s q) a.pair).length ∧
          (∀ x ∈ t.asy.handed, x.ref ≠ q.ref) ∧ t.asy.state = s.asy.state ∧ t.mem = s.mem ∧ t.sfp = s.sfp) ∧
      (s.ret.s2Held = false → s2Now s = false → ∃ t, exec (.asyJudgePour slot seq .uncorrectable) s = .next t ∧ S2Entered 0x0E03 s t))

/-- R61, R63, R68, R379 to R381, R469: releases, in RUN and TRIM. The first batch enters both queues once they have room, its
records VALID with the release stamp now, in S1 DEGRADED too unless S1 may end with it; a release in normal operation lets the
lines become active, unless a transition leaves RUN; it waits without room; beyond its age ceiling it becomes notices instead.
A batch that has waited 1 ms for room is an S1 detection of its pair. At the tick of each millisecond the announcements whose
age has passed are declared missing. -/
def Obligations.BatchesReleased : Prop :=
  ∀ s : State,
    (∀ b bs, releasesRecords s = true → s.asy.batches = b :: bs →
      (s.asy.state = .normal → roomFor s b.records.length = true → now s ≤ b.origin + b.ceiling →
        ∃ t, exec .batchRelease s = .next t ∧ t.asy.batches = bs ∧
          t.sfp.chA.queue = s.sfp.chA.queue ++ b.records.map (fun r => { r with
            status := r.status ||| stValid, release := now s }) ∧
          t.sfp.chB.queue = s.sfp.chB.queue ++ b.records.map (fun r => { r with
            status := r.status ||| stValid, release := now s }) ∧
          (releaseCounts s = true → t.sfp.chA.released = true ∧ t.sfp.chB.released = true) ∧
          (releaseCounts s = false → t.sfp.chA.released = s.sfp.chA.released ∧ t.sfp.chB.released = s.sfp.chB.released) ∧
          t.asy.state = .normal ∧ t.mem = s.mem) ∧
      (∀ st : Byte, s.asy.state = .s1 → roomFor s b.records.length = true → now s ≤ b.origin + b.ceiling →
        st = (if (s1MayEnd s && releaseCounts s) = true then stValid else stValid ||| stDegraded) →
        ∃ t, exec .batchRelease s = .next t ∧ t.asy.batches = bs ∧
          t.sfp.chA.queue = s.sfp.chA.queue ++ b.records.map (fun r => { r with status := r.status ||| st, release := now s }) ∧
          t.sfp.chB.queue = s.sfp.chB.queue ++ b.records.map (fun r => { r with status := r.status ||| st, release := now s }) ∧
          t.asy.exitReady = (s.asy.exitReady || s1MayEnd s && releaseCounts s) ∧
          t.sfp.chA.released = s.sfp.chA.released ∧ t.asy.state = .s1 ∧ t.mem = s.mem) ∧
      (roomFor s b.records.length = true → b.origin + b.ceiling < now s →
        exec .batchRelease s = .next (driveLines (lateBatch b { s with asy := { s.asy with batches := bs } }))) ∧
      (roomFor s b.records.length = false → exec .batchRelease s = .next s)) ∧
    (releasesRecords s = false → exec .batchRelease s = .next s) ∧
    (s.asy.batches = [] → exec .batchRelease s = .next s ∧ exec .queueStall s = .next s) ∧
    (∀ due, (s.asy.batches.find? fun b => !b.stalled && !roomFor s b.records.length &&
        decide (b.waitSince + Config.oneMs ≤ now s)) = due →
      (∀ b, due = some b → s.asy.state = .normal → 6 ≤ s.sys.step.toNat →
        ∃ t, exec .queueStall s = .next t ∧ S1Entered 0x1213 (pairBits [b.pair]) s t ∧ stallInForce t = true) ∧
      (due = none → exec .queueStall s = .next s)) ∧
    (assayerRuns s = true → now s % Config.oneMs = 0 → ∀ due,
      due = s.asy.announced.filter (fun a => !a.settled && !a.zoneIds.isEmpty && decide (a.origin + a.ceiling ≤ now s)) →
      exec .ageTick s = .next (pruneAnnounced (due.foldl (fun u a => declareMissing a u) s)) ∧
      (due = [] → exec .ageTick s = .next (pruneAnnounced s))) ∧
    (now s % Config.oneMs ≠ 0 ∨ assayerRuns s = false → exec .ageTick s = .next s)

/-- R35, R36, R73, R472, R511: how safe states end and are counted. S1 ends with the release without DEGRADED, in RUN or TRIM
and in no transition, which clears the fault pairs; an S2 entry that finds two others counting holds the device, which starts
no more, and logs it once; an older entry no longer counts, and a held device stays held. -/
def Obligations.SafeStatesEndAndCount : Prop :=
  ∀ s : State,
    (s.asy.state = .s1 → s.asy.exitReady = true → releaseCounts s = true →
      ∃ t, exec .s1Exit s = .next t ∧ t.asy.state = .normal ∧ t.asy.exitReady = false ∧ t.sfp.faultPairs = 0 ∧
        t.sfp.chA.released = true ∧ t.sfp.chB.released = true ∧ t.sfp.chA.queue = s.sfp.chA.queue ∧
        t.asy.batches = s.asy.batches ∧ t.ret = s.ret ∧ t.sys = s.sys ∧ t.mem = s.mem) ∧
    (s.asy.exitReady = false ∨ s.asy.state ≠ .s1 ∨ releaseCounts s = false → exec .s1Exit s = .next s) ∧
    (∀ code, s.ret.s2Held = false → s2Now s = false →
      ((detectS2 code s).ret.s2Held = true ↔ 2 ≤ (s2Counting s).length)) ∧
    (s.ret.s2Held = true → mayStart s = false ∧ faultAsserted s = true) ∧
    (s.ret.s2Held = true → s.ret.s2Logged = false →
      ∃ t, exec .s2Repeat s = .next t ∧ t.ret.s2Held = true ∧ t.ret.s2Logged = true ∧ t.ret.events = 0x0E30 :: s.ret.events ∧
        t.sys = s.sys ∧ t.sfp.faultN = true ∧ t.ret.s2Times = s.ret.s2Times ∧ t.mem = s.mem) ∧
    (s.ret.s2Held = false ∨ s.ret.s2Logged = true → exec .s2Repeat s = .next s) ∧
    (s.ret.s2Held = false → exec .s2CountExpire s = .next { s with ret := { s.ret with
      s2Times := s.ret.s2Times.filter fun t => decide (s.clock.watch < t + Config.watchSpan Config.sixtyMinutes t) } }) ∧
    (s.ret.s2Held = true → exec .s2CountExpire s = .next s)

/-! ### Periodic tests -/

/-- R391 to R396, R407, R408: the rotation. The next test of a class begins when its pacing has passed, on the unit that has
the test role; its score is a pass, stamped now, exactly when signature, status and cycles are right and nothing corrupted
them, and else declares the unit failed. A target that still holds its command at the forcing point loses its pour; a unit
without a pass for 8 ms is stale, an S1 detection; a busy unit without a token by its deadline, and one whose sideband
disagrees, fail on a view conflict. Keeper firmware injects. -/
def Obligations.UnitsTestedInRotation : Prop :=
  ∀ (s : State) (cls : TestClass) (u : Fin 35),
    ((classAt s (classIndex cls)).unit = some u.val → s.tst.failed.contains u.val = false →
      (rotating s = true → classEnabled s (classIndex cls) = true → (classAt s (classIndex cls)).running = false →
        (classAt s (classIndex cls)).target = none → paced s (classIndex cls) = true →
        classIndex cls < s.tst.classes.length →
        ∃ t, exec (.testStart cls) s = .next t ∧ classAt t (classIndex cls) = { classAt s (classIndex cls) with
            running := true, testAt := some (now s), target := none } ∧
          (∀ d, d ≠ classIndex cls → classAt t d = classAt s d) ∧ t.tst.lastPass = s.tst.lastPass ∧ t.mem = s.mem ∧
          t.ven = s.ven) ∧
      (rotating s = false ∨ classEnabled s (classIndex cls) = false ∨ (classAt s (classIndex cls)).running = true ∨
        (classAt s (classIndex cls)).target.isSome = true ∨ paced s (classIndex cls) = false →
        exec (.testStart cls) s = .next s) ∧
      (∀ t0 res, (classAt s (classIndex cls)).running = true → (classAt s (classIndex cls)).testAt = some t0 →
        (t0 + testLength (classIndex cls) ≤ now s →
          exec (.testScore cls res) s = .next (scoreTest cls u.val res s) ∧
          (testPassed cls res false = true → s.tst.inject = [] →
            ∃ t, exec (.testScore cls res) s = .next t ∧
              t.tst.lastPass = upd s.tst.lastPass u.val (fun _ => some (now s)) ∧ t.tst.failed = s.tst.failed ∧
              u.val ∉ t.tst.stale ∧ t.mem = s.mem ∧ t.asy = s.asy ∧ t.fgs = s.fgs)) ∧
        (now s < t0 + testLength (classIndex cls) → exec (.testScore cls res) s = .next s)) ∧
      (∀ res, (classAt s (classIndex cls)).running = false → exec (.testScore cls res) s = .next s)) ∧
    (rotating s = true → classEnabled s (classIndex cls) = true → (classAt s (classIndex cls)).running = false →
      (classAt s (classIndex cls)).target = none → paced s (classIndex cls) = true →
      exec (.testStart cls) s = .next (startTest (classIndex cls) s)) ∧
    ((classAt s (classIndex cls)).target = none ∨ cls = .neural → exec (.handoverForced cls) s = .next s) ∧
    (∀ v t0 k q, (classAt s (classIndex cls)).target = some (v, t0) → logicalOf s v = some k →
      (nth s.ven.insts k {}).cmd = some q → cls ≠ .neural → q.stop = none →
      (forcePoint s (classIndex cls) ≤ now s → exec (.handoverForced cls) s = .next (abortPour 0x0F04 q.pour (raise 0x0F04 s))) ∧
      (now s < forcePoint s (classIndex cls) → exec (.handoverForced cls) s = .next s)) ∧
    (rotating s = true → unitEnabled s u.val = true → s.tst.failed.contains u.val = false → s.tst.stale.contains u.val = false →
      (staleFrom s u.val + rotationSpan ≤ now s → s.asy.state = .normal → 6 ≤ s.sys.step.toNat → commandPour s u.val = none →
        ∃ t, exec (.testStale u) s = .next t ∧ S1Entered 0x0F05 (unitPairs u.val s) s t ∧
          t.tst.stale = u.val :: s.tst.stale) ∧
      (staleFrom s u.val + rotationSpan ≤ now s → ∀ r, commandPour s u.val = some r → exec (.testStale u) s =
        .next (invalidatePour r (detectS1 0x0F05 (unitPairs u.val s) { s with tst := { s.tst with
          stale := u.val :: s.tst.stale } }))) ∧
      (now s < staleFrom s u.val + rotationSpan → exec (.testStale u) s = .next s)) ∧
    (∀ r n q, commandOf s u.val = some (r, n) → pourAt s r = some q →
      (absDeadline (active s) q n + 256 ≤ now s → exec (.tokenTimeout u) s = .next (roleMoves (unitClass u.val)
        (clearBusy u.val (unitFailed u.val 0x0F07 false 5 (viewConflict u.val s))))) ∧
      (now s < absDeadline (active s) q n + 256 → exec (.tokenTimeout u) s = .next s)) ∧
    (s.tst.failed.contains u.val = false → s.sys.inReset = false →
      exec (.healthSidebandFault u) s = .next (unitFailed u.val 0x0F07 false 2 (viewConflict u.val s))) ∧
    (commandOf s u.val = none → exec (.tokenTimeout u) s = .next s) ∧
    (s.tst.failed.contains u.val = true ∨ s.sys.inReset = true → exec (.healthSidebandFault u) s = .next s) ∧
    (∀ who, agentKeeper s who = true →
      exec (.tstInjectSignature who u) s = .next (raise 0x0F08 { s with tst := { s.tst with
        inject := (u.val, .signature) :: s.tst.inject.filter fun q => q != (u.val, .signature) } }) ∧
      exec (.tstInjectParity who u) s = .next (raise 0x0F08 { s with tst := { s.tst with
        inject := (u.val, .parity) :: s.tst.inject.filter fun q => q != (u.val, .parity) } }) ∧
      exec (.tstInjectView who u) s = .next (raise 0x0F08 { s with tst := { s.tst with
        inject := (u.val, .view) :: s.tst.inject.filter fun q => q != (u.val, .view) } })) ∧
    (∀ who, agentKeeper s who = false → exec (.tstInjectSignature who u) s = .next s ∧
      exec (.tstInjectParity who u) s = .next s ∧ exec (.tstInjectView who u) s = .next s)

/-! ### The flask -/

/-- R412, R414, R416, R424 to R427: links train, align and report. An attempt takes 1.2 ms; one whose lanes lock and whose
peer is that of the wiring brings the link up, and its standing tickets are granted with a ramp of 180 ECLK; another fails,
with an event for a wrong peer. A failed attempt is retried after 1 ms; the fourth failure is an event, and retries then come
every 100 ms. A residual within 19 WCLK ends a drift, a larger one counts, and is an S1 detection where the chip holds a flask
graph. The status goes to each trained peer and a peer's status is kept; residuals and statuses lie 1 ms apart. -/
def Obligations.LinksTrainAndReport : Prop :=
  ∀ (s : State) (l : Fin 3),
    (∀ inp : TrainInputs, mayTrain s l.val = true → cabled s l.val = true → l.val < s.lnk.links.length →
      (linkAt s l.val).trainFrom + 1440000 ≤ now s →
      (inp.lanes.toNat % 16 = 15 → inp.peerIndex.toNat = farChip s l.val →
        exec (.linkTrainAttempt l inp) s = .next (passTraining l.val inp s)) ∧
      (inp.lanes.toNat % 16 = 15 → inp.peerIndex.toNat = farChip s l.val → s.lnk.aligned = true →
        ∃ t, exec (.linkTrainAttempt l inp) s = .next t ∧ (linkAt t l.val).trained = true ∧ (linkAt t l.val).lanes = inp.lanes ∧
          (linkAt t l.val).attempts = 0 ∧ (linkAt t l.val).peer = inp.peerIndex ∧ t.ldl.standing = s.ldl.standing + 6 ∧
          t.ldl.lastRampEnd = max s.ldl.lastRampEnd (now s + 180) ∧
          (∀ k, k ≠ l.val → linkAt t k = linkAt s k) ∧ t.mem = s.mem ∧ t.clock = s.clock) ∧
      (inp.lanes.toNat % 16 ≠ 15 → exec (.linkTrainAttempt l inp) s = .next (updLink l.val (fun k => { k with
        attempts := min 15 (k.attempts + 1), failedAt := now s, waiting := true, lanes := inp.lanes }) s)) ∧
      (inp.lanes.toNat % 16 = 15 → inp.peerIndex.toNat ≠ farChip s l.val →
        exec (.linkTrainAttempt l inp) s = .next (raise 0x1002 (updLink l.val (fun k => { k with
          attempts := min 15 (k.attempts + 1), failedAt := now s, waiting := true, lanes := inp.lanes }) s)))) ∧
    (∀ inp, mayTrain s l.val = false ∨ cabled s l.val = false ∨ now s < (linkAt s l.val).trainFrom + 1440000 →
      exec (.linkTrainAttempt l inp) s = .next s) ∧
    ((linkAt s l.val).waiting = true →
      (4 ≤ (linkAt s l.val).attempts → (linkAt s l.val).slowRetry = false →
        exec (.linkTrainRetry l) s = .next (raise 0x1001 (updLink l.val (fun k => { k with slowRetry := true }) s))) ∧
      ((linkAt s l.val).attempts < 4 → (linkAt s l.val).slowRetry = false →
        (linkAt s l.val).failedAt + 1200000 ≤ now s →
        exec (.linkTrainRetry l) s = .next (updLink l.val (fun k => { k with waiting := false, trainFrom := now s }) s)) ∧
      ((linkAt s l.val).slowRetry = true → (linkAt s l.val).failedAt + 120000000 ≤ now s →
        exec (.linkTrainRetry l) s = .next (updLink l.val (fun k => { k with waiting := false, trainFrom := now s }) s)) ∧
      ((linkAt s l.val).slowRetry = true → now s < (linkAt s l.val).failedAt + 120000000 →
        exec (.linkTrainRetry l) s = .next s) ∧
      ((linkAt s l.val).attempts < 4 → (linkAt s l.val).slowRetry = false → now s < (linkAt s l.val).failedAt + 1200000 →
        exec (.linkTrainRetry l) s = .next s)) ∧
    ((linkAt s l.val).waiting = false → exec (.linkTrainRetry l) s = .next s) ∧
    (∀ sum : Int, s.lnk.aligned = true → referenceChip s ≠ chipIndex s → everyMs s.lnk.residAt s = true →
      (sum.natAbs ≤ 608 → ∃ t, exec (.residualMeasure sum) s = .next t ∧ t.lnk.driftRun = 0 ∧
        t.lnk.resid = BitVec.ofInt 16 (roundEven sum 32) ∧ t.asy = s.asy ∧ t.mem = s.mem) ∧
      (608 < sum.natAbs → holdsFlaskGraph s = false → ∃ t, exec (.residualMeasure sum) s = .next t ∧
        t.lnk.driftRun = s.lnk.driftRun + 1 ∧ t.lnk.resid = BitVec.ofInt 16 (roundEven sum 32) ∧ t.asy = s.asy ∧ t.mem = s.mem) ∧
      (608 < sum.natAbs → holdsFlaskGraph s = true → s.asy.state = .normal → 6 ≤ s.sys.step.toNat →
        ∃ t, exec (.residualMeasure sum) s = .next t ∧ t.lnk.driftRun = s.lnk.driftRun + 1 ∧
          t.lnk.resid = BitVec.ofInt 16 (roundEven sum 32) ∧ t.asy.state = .s1 ∧
          t.sfp.faultPairs = s.sfp.faultPairs ||| flaskPairs s ∧ linesDropped t ∧ t.mem = s.mem)) ∧
    (∀ sum, s.lnk.aligned = false ∨ referenceChip s = chipIndex s ∨ everyMs s.lnk.residAt s = false → exec (.residualMeasure sum) s = .next s) ∧
    (∀ u, everyMs s.lnk.statusAt s = true → u = { s with lnk := { s.lnk with statusAt := some (now s) } } →
      exec .peerStatusSend s = .next ((trainedLinks s).foldl (fun u k => sendPeer (farChip u k) (statusWords u) u) u) ∧
      (trainedLinks s = [l.val] → exec .peerStatusSend s = .next (sendPeer (farChip s l.val) (statusWords s) u)) ∧
      (trainedLinks s = [] → exec .peerStatusSend s = .next u)) ∧
    (everyMs s.lnk.statusAt s = false → exec .peerStatusSend s = .next s) ∧
    (∀ chip st tag (swapped : Bool) u, Fin.val chip ≠ chipIndex s → (linkAt s (linkTo (chipIndex s) chip.val)).trained = true →
      u = { s with lnk := { s.lnk with
        peerState := putPeerState s.lnk.peerState chip.val st, peerTags := s.lnk.peerTags.set chip.val tag,
        peerSwapped := s.lnk.peerSwapped.set chip.val swapped } } →
      exec (.peerStatusReceive chip st tag swapped) s = .next (if swapped = true then notePeerUp chip.val u else u)) ∧
    (∀ chip st tag swapped, Fin.val chip = chipIndex s ∨ (linkAt s (linkTo (chipIndex s) chip.val)).trained = false →
      exec (.peerStatusReceive chip st tag swapped) s = .next s) ∧
    ((linkAt s l.val).trained = true → exec (.flitReplay l) s = .next (updLink l.val (fun k => { k with
      replayCnt := satAdd 32 k.replayCnt 1 }) s)) ∧
    ((linkAt s l.val).trained = false → exec (.flitReplay l) s = .next s ∧ exec (.linkDown l) s = .next s)

/-- R78, R82, R419 to R421, R429, R430, R432, R433, R435: losses, lane groups and what peers send. A link's loss is an event, or
an S1 detection where a record needs the link; a lost or idle lane group gives back its tickets; a peer's grant joins it.
A remote set counts on its flag; an exchange line goes to its pour; a peer's abort aborts the pour once; the swap is
announced when every tag agrees and taken 2.0 µs later; a peer's failed unit recalls what it served. What comes from a chip
whose link is not trained changes nothing. -/
def Obligations.FlaskEventsActOnPours : Prop :=
  ∀ (s : State) (l : Fin 3) (chip : Fin 4) (slot : Fin 8) (seq : Word32),
    ((linkAt s l.val).trained = true → ∀ u, u = (if recordUses (active s) (farChip s l.val) = true then
        detectS1 0x1004 (flaskPairs (dropLink l.val s)) (dropLink l.val s) else raise 0x1004 (dropLink l.val s)) →
      ((active s).hdr.flaskSize ≤ farChip s l.val → exec (.linkDown l) s = .next u) ∧
      (farChip s l.val < (active s).hdr.flaskSize → exec (.linkDown l) s = .next (abortExchanges u))) ∧
    ((linkAt s l.val).trained = true → 16 ≤ (linkAt s l.val).lanes.toNat →
      exec (.laneGroup1Lost l) s = .next (raise 0x1003 (updLink l.val (fun k => { k with
        lanes := k.lanes &&& 0x0F, grp1 := false, grantHere := false, grantPeer := false })
          (ladleStop (laneGroupId l.val) true s)))) ∧
    ((linkAt s l.val).trained = false ∨ (linkAt s l.val).lanes.toNat < 16 → exec (.laneGroup1Lost l) s = .next s) ∧
    ((linkAt s l.val).grantHere = false → exec (.laneGroupIdle l) s = .next s) ∧
    ((linkAt s l.val).trained = false ∨ (linkAt s l.val).lanes.toNat / 16 ≠ 15 → exec (.laneGroup1Join l) s = .next s) ∧
    ((linkAt s l.val).grantHere = true → exec (.laneGroupIdle l) s = .next (ladleRelease (laneGroupId l.val)
      (updLink l.val (fun k => { k with grp1 := false, grantHere := false, grantPeer := false }) s))) ∧
    ((linkAt s l.val).trained = true → (linkAt s l.val).lanes.toNat / 16 = 15 →
      exec (.laneGroup1Join l) s = .next (joinGroup l.val (updLink l.val (fun k => { k with grantPeer := true }) s))) ∧
    (fromPeer s chip.val = true →
      (∀ flag origin, flagOf (active s) flag = none →
        exec (.remoteFlagSet chip flag slot seq origin) s = .next (raise 0x0805 s)) ∧
      (∀ flag origin rec, flagOf (active s) flag = some rec → rec.producer = 0xFFFF → persistent (active s) flag = true →
        (flagValue s flag 0 + 1 ≤ rec.sets → exec (.remoteFlagSet chip flag slot seq origin) s =
          .next (fireFlag flag origin (some (chip.val, PourRef.mk slot.val seq.toNat))
            (wakeWaits (putFlag flag 0 (flagValue s flag 0 + 1) s)))) ∧
        (rec.sets < flagValue s flag 0 + 1 →
          exec (.remoteFlagSet chip flag slot seq origin) s = .next (raise 0x0804 s))) ∧
      (∀ flag origin rec, flagOf (active s) flag = some rec →
        (rec.producer ≠ 0xFFFF ∨ persistent (active s) flag = false ∧ pourOfOwner s (PourRef.mk slot.val seq.toNat) = none →
          exec (.remoteFlagSet chip flag slot seq origin) s = .next (raise 0x0805 s)) ∧
        (rec.producer = 0xFFFF → persistent (active s) flag = false → ∀ q,
          pourOfOwner s (PourRef.mk slot.val seq.toNat) = some q →
          (flagValue s flag q.ref.seq + 1 ≤ rec.sets → exec (.remoteFlagSet chip flag slot seq origin) s =
            .next (wakeWaits (putFlag flag q.ref.seq (flagValue s flag q.ref.seq + 1) s))) ∧
          (rec.sets < flagValue s flag q.ref.seq + 1 → exec (.remoteFlagSet chip flag slot seq origin) s =
            .next (abortPour 0x0804 q.ref (raise 0x0804 s))))) ∧
      (pourOfOwner s (PourRef.mk slot.val seq.toNat) = none → exec (.peerAbort chip slot seq) s = .next s) ∧
      (∀ q, pourOfOwner s (PourRef.mk slot.val seq.toNat) = some q → q.aborted = none →
        exec (.peerAbort chip slot seq) s = .next (abortPour 0x100A q.ref (raise 0x100A s))) ∧
      (∀ u : Fin 35, (s.fgs.pours.any fun q => q.remoteUnits.contains (chip.val, u.val)) = false →
        (s.asy.handed.any fun q => q.remoteUnits.contains (chip.val, u.val)) = false →
        (s.asy.batches.any fun b => b.remoteUnits.contains (chip.val, u.val)) = false →
        exec (.remoteUnitFailed chip u) s = .next (recallPours (fun e => e.remoteUnits.contains (chip.val, u.val)) s))) ∧
    (∀ (line : ExchangeLine) n q, (splitNodes (active s))[line.q.val]?.bind (nodeOf (active s).nodes) = some n →
      s.fgs.pours = [q] → q.ref.slot = n.slot → ownerSeq s q.ref = line.seq.toNat →
      (fromPeer s line.chip.val = true → exec (.xchgLine line) s = .next (takeLine line n q s)) ∧
      (fromPeer s line.chip.val = false → exec (.xchgLine line) s = .next s)) ∧
    (∀ p, s.pat.pending = some p → 2 ≤ p.hdr.flaskSize → s.pat.swapAt = none → s.lnk.announcedAt = none →
      (s.pat.committed = true → exec .flaskSwapAnnounce s = .next (announceSwap p s)) ∧
      (s.pat.committed = true → s.pat.active.isSome = true →
        (∀ c ∈ peersOf p s, nth s.lnk.peerTags c none = some (BitVec.ofNat 32 p.hdr.flaskTag)) →
        exec .flaskSwapAnnounce s = .next { s with lnk := { s.lnk with announcedAt := some (now s) } }) ∧
      (s.pat.committed = false → exec .flaskSwapAnnounce s = .next s)) ∧
    (s.pat.pending = none → exec .flaskSwapAnnounce s = .next s) ∧ (s.lnk.announcedAt = none → exec .flaskSwapTake s = .next s) ∧
    (∀ a p, s.lnk.announcedAt = some a → s.pat.pending = some p → s.pat.swapAt = none →
      (a + 2400 ≤ now s → exec .flaskSwapTake s = .next { s with
        pat := { s.pat with swapAt := some (now s), st := .draining, committed := false },
        lnk := { s.lnk with announcedAt := none, tagMismatch := false, peerSwapped := [false, false, false, false] } }) ∧
      (now s < a + 2400 → exec .flaskSwapTake s = .next s)) ∧
    (fromPeer s chip.val = false → ∀ flag origin u, exec (.remoteFlagSet chip flag slot seq origin) s = .next s ∧
      exec (.peerAbort chip slot seq) s = .next s ∧ exec (.remoteUnitFailed chip u) s = .next s)

/-! ### Trace and counters -/

/-- R437, R439, R441 to R443, R448, R449, R452, R454: trace lines and counters. Two records leave the FIFO as one line of
64 bytes in the ring, one in an ECLK, and no other byte changes, or join the drop run where the FIFO gives them uncorrectable; a
line that the firewall denies is a write error; one record alone goes out with a pad after 64 ECLK; a write error stops
Tap, unless TAP_CTRL is written in that ECLK. A write of TAP_CTRL with no other in its PCLK stands, whoever's it is; with others
those of the PCLK are taken together, keeper firmware's fields first; Tap is not enabled on a ring that does not fit. A counter
that wrapped is an event, with an interrupt where it is enabled; a read of the low word latches the whole value, and the high
word comes from the reader's latch. -/
def Obligations.TraceAndCounters : Prop :=
  ∀ s : State,
    (∀ a b rest, s.tap.fifo = a :: b :: rest →
      (lineMayGo s = true →
        (unitDenied s tapId .write (linePlace s) 64 = false →
          placeOf s (s.tap.base.toNat + 32 * s.tap.wr.toNat) = .crucible ∨
          placeOf s (s.tap.base.toNat + 32 * s.tap.wr.toNat) = .dram →
          ∃ t, exec (.tapLineWrite .clean) s = .next t ∧ t.tap.fifo = rest ∧
            t.tap.wr = BitVec.ofNat 26 ((s.tap.wr.toNat + 2) % ringRecords s) ∧
            t.mem = s.mem.write (s.tap.base.toNat + 32 * s.tap.wr.toNat)
              (TraceRec.bytes (chipIndex s) a.1 ++ TraceRec.bytes (chipIndex s) b.1) ∧
            (∀ x, x < s.tap.base.toNat + 32 * s.tap.wr.toNat ∨ s.tap.base.toNat + 32 * s.tap.wr.toNat + 64 ≤ x →
              t.mem.readByte x = s.mem.readByte x)) ∧
        (∀ u, unitDenied s tapId .write (linePlace s) 64 = true → u = { s with tap := { s.tap with lineAt := some (now s) } } →
          exec (.tapLineWrite .clean) s = .next (tapError (reportDenied tapId .write (linePlace s) 64 u))) ∧
        exec (.tapLineWrite .uncorrectable) s = .next (raise 0x1103 { s with tap := { s.tap with
          fifo := rest, run := some ((s.tap.run.map fun r => (r.1 + 2, r.2)).getD (2, now s)) } })) ∧
      (∀ ecc, lineMayGo s = false → exec (.tapLineWrite ecc) s = .next s)) ∧
    (ringRoom s = false ∨ s.tap.lineAt = some (now s) → lineMayGo s = false) ∧
    (∀ ecc, s.tap.fifo.length < 2 → exec (.tapLineWrite ecc) s = .next s) ∧
    (s.tap.fifo.length ≠ 1 ∨ lineMayGo s = false → exec .tapPad s = .next s) ∧
    (∀ a, s.tap.fifo = [a] → lineMayGo s = true →
      (a.2 + 64 ≤ now s → exec .tapPad s = .next (writeLine a.1 (padRecord s) [] s)) ∧
      (now s < a.2 + 64 → exec .tapPad s = .next s)) ∧
    ((tapCtl s).1 = true ∨ s.tap.lineAt.isSome = true →
      (ctlWritten s = false → exec .tapWriteError s = .next (raise 0x1102 { s with tap := { s.tap with
        en := false, oldCtl := none, error := true, fifo := [], run := none } })) ∧
      (ctlWritten s = true → exec .tapWriteError s = .next (raise 0x1102 { s with tap := { s.tap with
        error := true, fifo := [], run := none } }))) ∧
    ((tapCtl s).1 = false → s.tap.lineAt = none → exec .tapWriteError s = .next s) ∧
    (∀ k h l, s.held.filter (fun w => w.off == tapUnit) = l →
      (l = [] → k = none → h = none → exec (.tapCtrlWrite k h) s = .next s) ∧
      (l ≠ [] → exec (.tapCtrlWrite k h) s = .next (writeTapCtl (heldValue (flagNat s.tap.en + put 8 6 s.tap.src.toNat)
        (keeperFirst ctlFields (l ++ (k.map fun v => HeldWrite.mk tapUnit (BitVec.toNat v) (2 ^ 32 - 1) true).toList ++
          (h.map fun v => HeldWrite.mk tapUnit (BitVec.toNat v) (2 ^ 32 - 1) false).toList))) (dropHeld tapUnit s)))) ∧
    (∀ (v : Word32) (h : Option Word32), s.held.filter (fun w => w.off == tapUnit) = [] →
      exec (.tapCtrlWrite (some v) h) s = exec (.tapCtrlWrite none (some v)) s ∧
      ((bitAt v.toNat 0 = false ∨ s.tap.en = true ∨ ringOk s = true) →
        exec (.tapCtrlWrite (some v) h) s = .next { s with tap := { s.tap with
          en := bitAt v.toNat 0, src := BitVec.ofNat 6 (bits v.toNat 8 6),
          oldCtl := some (now s, (tapCtl s).1, (tapCtl s).2) } }) ∧
      (bitAt v.toNat 0 = true → s.tap.en = false → ringOk s = false →
        ∃ t, exec (.tapCtrlWrite (some v) h) s = .next t ∧ t.tap.en = false ∧ t.mem = s.mem)) ∧
    (∀ g : Fin 16, g.val < s.tap.glbs.length → (nth s.tap.glbs g.val {}).wrapped = true →
      ∃ t u, exec (.ctrOverflow g) s = .next t ∧ t = (if (nth s.tap.glbs g.val {}).irqEn = true then signalMsix u 17 else u) ∧
        nth u.tap.glbs g.val {} = { nth s.tap.glbs g.val {} with wrapped := false, ovf := true } ∧
        u.hif.posted = s.hif.posted ∧ u.mem = s.mem) ∧
    (∀ g : Fin 16, (nth s.tap.glbs g.val {}).wrapped = false → selOpen (selNow s (nth s.tap.glbs g.val {})) = false →
      exec (.ctrOverflow g) s = .next s) ∧
    (∀ (who : Agent) (c : CounterName) v u, mayReadCounter s who c = true → counterValue s c = (v, u) →
      (∃ t, exec (.ctrReadLow who c) s = .next t ∧ t.tap.readValue = v &&& 0xFFFFFFFF ∧
        t.tap.latches.head? = some (Latch.mk (BitVec.ofNat 10 (agentId who)) c v) ∧
        t.tap.srcs = s.tap.srcs ∧ t.tap.glbs = s.tap.glbs ∧ t.mem = s.mem) ∧
      (∀ e, (s.tap.latches.find? fun e => e.id == BitVec.ofNat 10 (agentId who) && e.ctr == c) = some e →
        exec (.ctrReadHigh who c) s = .next { s with tap := { s.tap with
          readValue := e.value >>> 32, latches := s.tap.latches.filter fun q => q.id != BitVec.ofNat 10 (agentId who) } }) ∧
      ((s.tap.latches.find? fun e => e.id == BitVec.ofNat 10 (agentId who) && e.ctr == c) = none →
        ∃ t, exec (.ctrReadHigh who c) s = .next t ∧ t.tap.readValue = v >>> 32 ∧ t.mem = s.mem)) ∧
    (∀ who c, mayReadCounter s who c = false → (∀ q : Fin 256, who ≠ .thread q) →
      exec (.ctrReadLow who c) s = .next s ∧ exec (.ctrReadHigh who c) s = .next s) ∧
    (∀ (q : Fin 256) c, mayReadCounter s (.thread q) c = false → (threadAt s q.val).st = .running →
      exec (.ctrReadLow (.thread q) c) s = .next (fault q.val 0x02 0 0 s) ∧
      exec (.ctrReadHigh (.thread q) c) s = .next (fault q.val 0x02 0 0 s))

/-! ### The host interface and the safety port -/

/-- R457 to R460, R475, R519, R8: the host's accesses, resets and interrupts, and register writes. An access that its BAR's
shape, translation and firewall admit is performed and answered; another is answered with an abort; nothing reaches the
device while the link is down. A pop takes the oldest event of those that the FIFO held as the ECLK began, and shows 0 without
one; a drop run's entry takes the place that becomes free. A masked vector sends on its unmasking, a merged message goes
1.0 µs after the last. A reset of the host interface clears it but for its posted writes and its two loss counts. -/
def Obligations.HostReachesTheDevice : Prop :=
  ∀ s : State,
    (∀ bar offset op, s.hif.linkUp = true → hifPowered s = true → offset + hostLen op ≤ barSize bar →
      (∀ ecc, hostShapeOk bar offset (hostLen op) = false →
        exec (.hostAccess bar offset op ecc) s = .next (raise 0x1202 { s with hif := { s.hif with reply := .completerAbort } })) ∧
      (∀ n f u, op = .read n → hostShapeOk bar offset n = true →
        checkAccess 0x1A0 false .read (barAddr s bar offset) n false s = (.error f, u) →
        exec (.hostAccess bar offset op .clean) s = .next { u with hif := { u.hif with reply :=
          if f = .notMapped then .unsupportedRequest else .completerAbort } }) ∧
      (∀ n a u, op = .read n → hostShapeOk bar offset n = true →
        checkAccess 0x1A0 false .read (barAddr s bar offset) n false s = (.ok a, u) → placeOf u a = .crucible ∨ placeOf u a = .dram →
        exec (.hostAccess bar offset op .uncorrectable) s = .next (hostUncorrectable op u)) ∧
      (∀ n a u, op = .read n → hostShapeOk bar offset n = true →
        checkAccess 0x1A0 false .read (barAddr s bar offset) n false s = (.ok a, u) → placeOf u a = .crucible ∨ placeOf u a = .dram →
        exec (.hostAccess bar offset op .clean) s = .next { u with hif := { u.hif with reply := .data (physRead u a n) } }) ∧
      (∀ d a u, op = .write d → hostShapeOk bar offset d.length = true →
        checkAccess 0x1A0 false .write (barAddr s bar offset) d.length false s = (.ok a, u) → heldByOther u none a d.length = false →
        placeOf u a = .crucible ∨ placeOf u a = .dram →
        ∃ t, exec (.hostAccess bar offset op .clean) s = .next t ∧ t.mem = u.mem.write a d ∧
          (∀ x, x < a ∨ a + d.length ≤ x → t.mem.readByte x = u.mem.readByte x) ∧ t.hif.reply = .none)) ∧
    (∀ bar offset op ecc, s.hif.linkUp = false ∨ hifPowered s = false ∨ barSize bar < offset + hostLen op → exec (.hostAccess bar offset op ecc) s = .next s) ∧
    (∀ who c rest k, agentKeeperOrHost s who = true → s.hif.fifo = c :: rest → nth s.rcOld rcPopAt 0 = k + 1 →
      (s.hif.dropRun = false → exec (.evtPop who) s = .next { s with
        hif := { s.hif with
          fifo := rest, reply := .data (leBytes 4 (BitVec.ofNat 32 (put 0 16 (BitVec.toNat c) + put 31 1 1)).toNat) },
        rcOld := s.rcOld.set rcPopAt k }) ∧
      (s.hif.dropRun = true → ∃ t, exec (.evtPop who) s = .next t ∧ t.hif.fifo = rest ++ [0x1203] ∧ t.hif.dropRun = false ∧
        t.hif.reply = .data (leBytes 4 (BitVec.ofNat 32 (put 0 16 (BitVec.toNat c) + put 31 1 1)).toNat) ∧ t.mem = s.mem)) ∧
    (∀ who, agentKeeperOrHost s who = true → s.hif.fifo = [] ∨ nth s.rcOld rcPopAt 0 = 0 →
      exec (.evtPop who) s = .next { s with hif := { s.hif with reply := .data (leBytes 4 0) } }) ∧
    (∀ who, agentKeeperOrHost s who = false → exec (.evtPop who) s = .next s) ∧
    (∀ v : Fin 64, v.val < s.hif.vectors.length →
      ((nth s.hif.vectors v.val {}).masked = true → (nth s.hif.vectors v.val {}).pba = false →
        exec (.msixUnmask v) s = .next { s with hif := { s.hif with
          vectors := upd s.hif.vectors v.val fun e => { e with masked := false, pba := false } } }) ∧
      ((nth s.hif.vectors v.val {}).masked = true → (nth s.hif.vectors v.val {}).pba = true →
        (nth s.hif.vectors v.val {}).lastSent = none →
        ∃ t, exec (.msixUnmask v) s = .next t ∧ t.hif.posted = s.hif.posted ++ [HostWrite.mk
          (nth s.hif.vectors v.val {}).addr (leBytes 4 (nth s.hif.vectors v.val {}).data.toNat)] ∧
          (nth t.hif.vectors v.val {}).masked = false ∧ (nth t.hif.vectors v.val {}).pba = false) ∧
      ((nth s.hif.vectors v.val {}).waiting = true → (nth s.hif.vectors v.val {}).masked = false →
        (nth s.hif.vectors v.val {}).lastSent.getD 0 + 1200 ≤ s.clock.watch →
        exec (.msixPendingSend v) s = .next (sendMsix s v.val)) ∧
      ((nth s.hif.vectors v.val {}).masked = false → exec (.msixUnmask v) s = .next s) ∧
      ((nth s.hif.vectors v.val {}).waiting = false ∨ (nth s.hif.vectors v.val {}).masked = true ∨
        s.clock.watch < (nth s.hif.vectors v.val {}).lastSent.getD 0 + 1200 → exec (.msixPendingSend v) s = .next s)) ∧
    (∀ kind, hifPowered s = true →
      ∃ t, exec (.hostReset kind) s = .next t ∧ t.hif.linkUp = false ∧ t.hif.posted <+: s.hif.posted ∧
        (s.hif.copyEn = false → t.hif.posted = s.hif.posted ∧ t.hif.copyDrop = satAdd 32 s.hif.copyDrop 0) ∧
        t.hif.copyDrop = satAdd 32 s.hif.copyDrop (s.hif.posted.length - t.hif.posted.length) ∧
        t.hif.evtLost = s.hif.evtLost ∧ t.sys.rstCause = s.sys.rstCause ||| 0x20 ∧ t.sys.inReset = s.sys.inReset ∧
        t.mem = s.mem ∧ t.asy = s.asy) ∧
    (∀ kind, hifPowered s = false → exec (.hostReset kind) s = .next s) ∧
    (∀ speed width, hifPowered s = false ∨ s.hif.linkUp = true → exec (.pcieLinkTrained speed width) s = .next s) ∧
    (∀ speed width, hifPowered s = true → s.hif.linkUp = false → exec (.pcieLinkTrained speed width) s = .next { s with
      hif := { s.hif with linkUp := true, speed := speed, width := width } }) ∧
    (∀ who addr size value, clocksRun s = true → within (BitVec.toNat addr) regBase regSize = true →
      addr.toNat % 2 ^ BitVec.toNat size = 0 →
      (regBar (accOf s who) true (addr.toNat - regBase) = none →
        exec (.registerWrite who addr size value) s = .next (regWrite (accOf s who) (addr.toNat - regBase)
          (leBytes (2 ^ size.toNat) (BitVec.toNat value)) s)) ∧
      (regBar (accOf s who) true (addr.toNat - regBase) = some .refused → exec (.registerWrite who addr size value) s = .next s) ∧
      (regBar (accOf s who) true (addr.toNat - regBase) = some .priv →
        exec (.registerWrite who addr size value) s = .next (refuseRsr who s))) ∧
    (∀ who addr size value, clocksRun s = false ∨ within (BitVec.toNat addr) regBase regSize = false ∨
      addr.toNat % 2 ^ BitVec.toNat size ≠ 0 → exec (.registerWrite who addr size value) s = .next s)

/-- R462, R463, R468, R471, R473, R474, R476: transfers on a safety channel. The message of a transfer is formed two PCLK after
that of CS_N's fall, of the channel's queue heads from before it; without the Assayer firmware it is the frozen fault message,
and in HOLD and OFF none. A transfer of the whole message consumes it: the number moves on
and its records leave the queue, and no other channel's. A shorter one is an event and leaves the queue. 2 ms without a
consumed message is an event, once. -/
def Obligations.SafetyMessagesTransferred : Prop :=
  ∀ (s : State) (ch : Channel),
    ((chanOf s ch).selected = false → exec (.spiCsFall ch) s = .next (updChan s ch fun c => { c with
        selected := true, forming := some (6 * (s.clock.watch / 6 + 2), queuedBefore s (chanOf s ch)) })) ∧
    ((chanOf s ch).selected = true → exec (.spiCsFall ch) s = .next s) ∧
    (∀ at_ n, (chanOf s ch).forming = some (at_, n) →
      (s.clock.watch < at_ → formDue ch s = s) ∧
      (at_ ≤ s.clock.watch → (channelsAnswer s = false → (chanOf (formDue ch s) ch).cur = none) ∧
        (channelsAnswer s = true → assayerStarted s = false → (chanOf (formDue ch s) ch).cur = (chanOf s ch).frozen) ∧
        (channelsAnswer s = true → assayerStarted s = true →
          (chanOf (formDue ch s) ch).cur = some (formMessage s ch n) ∧ (chanOf (formDue ch s) ch).noticeLost = false) ∧
        (chanOf (formDue ch s) ch).forming = none ∧ (chanOf (formDue ch s) ch).queue = (chanOf s ch).queue)) ∧
    ((chanOf s ch).selected = true → (chanOf s ch).cur = none → ∀ bytes, exec (.spiCsRise ch bytes) s =
      .next (updChan s ch fun c => { c with selected := false, forming := none, cur := none })) ∧
    (∀ m bytes, (chanOf s ch).selected = true → (chanOf s ch).cur = some m →
      (m.bytes.length ≤ bytes → m.hdr.safe ≠ 2 → m.hdr.seq = (chanOf s ch).msgSeq →
        exec (.spiCsRise ch bytes) s = .next (updChan s ch fun c => { c with
          selected := false, forming := none, cur := none, lastConsumed := now s, lateRaised := false, lastSeq := m.hdr.seq,
          msgSeq := c.msgSeq + 1, queue := c.queue.drop m.records.length })) ∧
      (m.bytes.length ≤ bytes → m.hdr.safe = 2 ∨ m.hdr.seq ≠ (chanOf s ch).msgSeq →
        exec (.spiCsRise ch bytes) s = .next (updChan s ch fun c => { c with
          selected := false, forming := none, cur := none, lastConsumed := now s, lateRaised := false, lastSeq := m.hdr.seq })) ∧
      (bytes < m.bytes.length → exec (.spiCsRise ch bytes) s = .next (raise 0x1211 (updChan s ch fun c => { c with
          selected := false, forming := none, cur := none, trunc := satAdd 32 c.trunc 1, noticeLost := c.noticeLost || m.hdr.noticeLost })))) ∧
    ((chanOf s ch).selected = false → ∀ bytes, exec (.spiCsRise ch bytes) s = .next s) ∧
    (channelsAnswer s = true → assayerStarted s = true → (chanOf s ch).lateRaised = false →
      ((chanOf s ch).lastConsumed + 2400000 ≤ now s → exec (.sfpPollLate ch) s = .next (raise 0x1212 (updChan s ch fun c => { c with
        lateRaised := true }))) ∧
      (now s < (chanOf s ch).lastConsumed + 2400000 → exec (.sfpPollLate ch) s = .next s)) ∧
    ((chanOf s ch).lateRaised = true ∨ channelsAnswer s = false ∨ assayerStarted s = false → exec (.sfpPollLate ch) s = .next s) ∧
    (∀ c : Channel, c ≠ ch → ∀ f, chanOf (updChan s ch f) c = chanOf s c)
end

