-- ==== Sys2Proof/Laws/Mem.lean ====
section
/-! SUPPORT. The laws of the memory: every operation keeps the canonical form, a read after a write gives what was
written, and a write leaves every other address alone. -/

namespace Sys2Proof.Machine

/-! ### The canonical form, one cell at a time -/

theorem wfCells_tail {c : Host.Cell} {l : List Host.Cell} (h : Mem.wfCells (c :: l) = true) : Mem.wfCells l = true := by
  cases l with
  | nil => rfl
  | cons d l => simp only [Mem.wfCells, Bool.and_eq_true] at h; exact h.2

theorem wfCells_head {c : Host.Cell} {l : List Host.Cell} (h : Mem.wfCells (c :: l) = true) : c.2 ≠ 0 := by
  cases l with
  | nil => simpa [Mem.wfCells] using h
  | cons d l => simp only [Mem.wfCells, Bool.and_eq_true, decide_eq_true_eq] at h; exact h.1.1

theorem wfCells_lt {c : Host.Cell} {l : List Host.Cell} (h : Mem.wfCells (c :: l) = true) :
    ∀ d ∈ l, c.1 < d.1 := by
  induction l generalizing c with
  | nil => intro d hd; cases hd
  | cons e l ih =>
    intro d hd
    have he : c.1 < e.1 := by
      simp only [Mem.wfCells, Bool.and_eq_true, decide_eq_true_eq] at h; exact h.1.2
    cases hd with
    | head => exact he
    | tail _ hd => exact Nat.lt_trans he (ih (wfCells_tail h) d hd)

theorem wfCells_cons {c : Host.Cell} {l : List Host.Cell} (hc : c.2 ≠ 0) (hl : Mem.wfCells l = true)
    (hlt : ∀ d ∈ l, c.1 < d.1) : Mem.wfCells (c :: l) = true := by
  cases l with
  | nil => simpa [Mem.wfCells] using hc
  | cons d l =>
    simp only [Mem.wfCells, Bool.and_eq_true, decide_eq_true_eq]
    exact ⟨⟨hc, hlt d (List.mem_cons_self ..)⟩, hl⟩

theorem putCell_mem {l : List Host.Cell} {a : Nat} {b : Byte} {d : Host.Cell} (h : d ∈ putCell l a b) :
    d ∈ l ∨ d.1 = a := by
  induction l with
  | nil =>
    unfold putCell at h
    split at h
    · cases h
    · exact .inr (by simp_all)
  | cons c l ih =>
    unfold putCell at h
    repeat' split at h
    · exact .inl h
    · rcases List.mem_cons.1 h with rfl | h
      · exact .inr rfl
      · exact .inl h
    · exact .inl (List.mem_cons_of_mem _ h)
    · rcases List.mem_cons.1 h with rfl | h
      · exact .inr rfl
      · exact .inl (List.mem_cons_of_mem _ h)
    · rcases List.mem_cons.1 h with rfl | h
      · exact .inl (List.mem_cons_self ..)
      · exact (ih h).imp_left (List.mem_cons_of_mem _)

theorem putCell_wf {l : List Host.Cell} (a : Nat) (b : Byte) (h : Mem.wfCells l = true) :
    Mem.wfCells (putCell l a b) = true := by
  induction l with
  | nil =>
    unfold putCell
    split
    · rfl
    · exact wfCells_cons ‹_› rfl (by intro d hd; cases hd)
  | cons c l ih =>
    unfold putCell
    repeat' split
    · exact h
    · refine wfCells_cons ‹_› h ?_
      intro d hd
      rcases List.mem_cons.1 hd with rfl | hd
      · assumption
      · exact Nat.lt_trans ‹a < c.1› (wfCells_lt h d hd)
    · exact wfCells_tail h
    · exact wfCells_cons ‹_› (wfCells_tail h) (by subst_vars; exact fun d hd => wfCells_lt (c := c) h d hd)
    · refine wfCells_cons (wfCells_head h) (ih (wfCells_tail h)) ?_
      intro d hd
      rcases putCell_mem hd with hd | hd
      · exact wfCells_lt h d hd
      · omega

theorem filter_wf {l : List Host.Cell} (p : Host.Cell → Bool) (h : Mem.wfCells l = true) :
    Mem.wfCells (l.filter p) = true := by
  induction l with
  | nil => rfl
  | cons c l ih =>
    rw [List.filter_cons]
    split
    · exact wfCells_cons (wfCells_head h) (ih (wfCells_tail h))
        (fun d hd => wfCells_lt h d (List.mem_filter.1 hd).1)
    · exact ih (wfCells_tail h)

/-! ### What a byte reads as -/

theorem cellAt_of_lt {l : List Host.Cell} {a : Nat} (h : ∀ d ∈ l, a < d.1) : cellAt l a = 0 := by
  induction l with
  | nil => rfl
  | cons c l ih =>
    have := h c (List.mem_cons_self ..)
    unfold cellAt
    rw [if_neg (by omega)]
    exact ih fun d hd => h d (List.mem_cons_of_mem _ hd)

theorem cellAt_putCell_same {l : List Host.Cell} (a : Nat) (b : Byte) (h : Mem.wfCells l = true) :
    cellAt (putCell l a b) a = b := by
  induction l with
  | nil => unfold putCell; split <;> simp_all [cellAt]
  | cons c l ih =>
    have hlt := wfCells_lt h
    unfold putCell
    repeat' split
    · subst_vars
      refine cellAt_of_lt fun d hd => ?_
      rcases List.mem_cons.1 hd with rfl | hd
      · assumption
      · exact Nat.lt_trans ‹a < c.1› (hlt d hd)
    · simp [cellAt]
    · subst_vars; exact cellAt_of_lt hlt
    · simp [cellAt]
    · unfold cellAt
      rw [if_neg ‹_›]
      exact ih (wfCells_tail h)

theorem cellAt_putCell_other (l : List Host.Cell) {a a' : Nat} (b : Byte) (ha : a' ≠ a) :
    cellAt (putCell l a b) a' = cellAt l a' := by
  induction l with
  | nil => unfold putCell; split <;> simp [cellAt]; intro h; exact absurd h.symm ha
  | cons c l ih =>
    unfold putCell
    repeat' split
    · rfl
    · simp [cellAt, ha.symm]
    · subst_vars; simp [cellAt, ha.symm]
    · subst_vars; simp [cellAt, ha.symm]
    · unfold cellAt; split <;> simp_all

theorem cellAt_filter {l : List Host.Cell} (p : Nat → Bool) (a : Nat) :
    cellAt (l.filter fun c => p c.1) a = if p a then cellAt l a else 0 := by
  induction l with
  | nil => simp [cellAt]
  | cons c l ih =>
    rw [List.filter_cons]
    by_cases hc : c.1 = a
    · subst hc
      by_cases hp : p c.1 <;> simp_all [cellAt]
    · by_cases hp : p c.1 <;> simp_all [cellAt]

/-! ### The operations of Mem -/

theorem Mem.writeByte_wf {m : Mem} (a : Nat) (b : Byte) (h : m.wf = true) : (m.writeByte a b).wf = true :=
  putCell_wf a b h

theorem Mem.write_wf {m : Mem} (a : Nat) (bs : List Byte) (h : m.wf = true) : (m.write a bs).wf = true := by
  induction bs generalizing m a with
  | nil => exact h
  | cons b bs ih => exact ih _ (Mem.writeByte_wf a b h)

theorem Mem.clear_wf {m : Mem} (lo hi : Nat) (h : m.wf = true) : (m.clear lo hi).wf = true := filter_wf _ h

theorem Mem.empty_wf : ({} : Mem).wf = true := rfl

theorem Mem.readByte_writeByte_same {m : Mem} (a : Nat) (b : Byte) (h : m.wf = true) :
    (m.writeByte a b).readByte a = b := cellAt_putCell_same a b h

theorem Mem.readByte_writeByte_other (m : Mem) {a a' : Nat} (b : Byte) (ha : a' ≠ a) :
    (m.writeByte a b).readByte a' = m.readByte a' := cellAt_putCell_other m.cells b ha

/-- A write leaves every byte outside its range alone. -/
theorem Mem.readByte_write_other (m : Mem) (a : Nat) (bs : List Byte) {x : Nat} (hx : x < a ∨ a + bs.length ≤ x) :
    (m.write a bs).readByte x = m.readByte x := by
  induction bs generalizing m a with
  | nil => rfl
  | cons b bs ih =>
    simp only [List.length_cons] at hx
    rw [Mem.write, ih _ _ (by omega), Mem.readByte_writeByte_other _ _ (by omega)]

/-- A byte of a write reads back. -/
theorem Mem.readByte_write_same {m : Mem} (a : Nat) (bs : List Byte) (i : Nat) (h : m.wf = true) (hi : i < bs.length) :
    (m.write a bs).readByte (a + i) = bs[i] := by
  induction bs generalizing m a i with
  | nil => simp at hi
  | cons b bs ih =>
    cases i with
    | zero =>
      rw [Mem.write, Mem.readByte_write_other _ _ _ (by omega)]
      exact Mem.readByte_writeByte_same a b h
    | succ i =>
      have := ih (a + 1) i (Mem.writeByte_wf a b h) (by simpa using hi)
      rw [Mem.write]
      rw [show a + (i + 1) = a + 1 + i by omega]
      simpa using this

theorem Mem.readByte_clear (m : Mem) (lo hi a : Nat) :
    (m.clear lo hi).readByte a = if a < lo ∨ hi ≤ a then m.readByte a else 0 := by
  have := cellAt_filter (l := m.cells) (fun x => decide (x < lo ∨ hi ≤ x)) a
  simpa [Mem.clear, Mem.readByte] using this

/-- Equal bytes everywhere are equal memories: the form is canonical. -/
theorem wfCells_ext {l k : List Host.Cell} (hl : Mem.wfCells l = true) (hk : Mem.wfCells k = true)
    (h : ∀ a, cellAt l a = cellAt k a) : l = k := by
  induction l generalizing k with
  | nil =>
    cases k with
    | nil => rfl
    | cons d k => have := h d.1; simp [cellAt] at this; exact absurd this.symm (wfCells_head hk)
  | cons c l ih =>
    cases k with
    | nil => have := h c.1; simp [cellAt] at this; exact absurd this (wfCells_head hl)
    | cons d k =>
      have hcd : c.1 = d.1 := by
        rcases Nat.lt_trichotomy c.1 d.1 with hlt | heq | hgt
        · have h1 := h c.1
          rw [cellAt_of_lt (l := d :: k) (a := c.1) (by
            intro e he
            rcases List.mem_cons.1 he with rfl | he
            · exact hlt
            · exact Nat.lt_trans hlt (wfCells_lt hk e he))] at h1
          simp [cellAt] at h1; exact absurd h1 (wfCells_head hl)
        · exact heq
        · have h1 := h d.1
          rw [cellAt_of_lt (l := c :: l) (a := d.1) (by
            intro e he
            rcases List.mem_cons.1 he with rfl | he
            · exact hgt
            · exact Nat.lt_trans hgt (wfCells_lt hl e he))] at h1
          simp [cellAt] at h1; exact absurd h1.symm (wfCells_head hk)
      have hb : c.2 = d.2 := by have := h c.1; simpa [cellAt, hcd] using this
      have hlk : l = k := by
        refine ih (wfCells_tail hl) (wfCells_tail hk) fun a => ?_
        by_cases ha : a = c.1
        · subst ha
          rw [cellAt_of_lt (wfCells_lt hl), cellAt_of_lt (by rw [hcd]; exact wfCells_lt hk)]
        · have := h a
          simpa [cellAt, Ne.symm ha, hcd ▸ Ne.symm ha] using this
      rw [hlk]; exact congrArg (· :: k) (Prod.ext hcd hb)

theorem Mem.ext_of_wf {m n : Mem} (hm : m.wf = true) (hn : n.wf = true) (h : ∀ a, m.readByte a = n.readByte a) :
    m = n := by
  cases m; cases n; exact congrArg Mem.mk (wfCells_ext hm hn h)

end Sys2Proof.Machine
end

