-- ==== Sys2Proof/Laws/FrameBase.lean ====
section
/-! SUPPORT. What the laws about memory share: an outcome whose next state keeps its memory in canonical form, and the
rules for a choice and for a fold. -/

namespace Sys2Proof.Machine

/-- The next state of an outcome, if it is one, has its memory in canonical form. -/
def outWf : Host.Outcome State Fault Refusal → Prop
  | .next s => s.mem.wf = true
  | _ => True

theorem outWf_next {o : Host.Outcome State Fault Refusal} {t : State} (h : outWf o) (ho : o = .next t) :
    t.mem.wf = true := by
  subst ho; exact h

theorem outWf_done {s : State} (h : s.mem.wf = true) : outWf (done s) := h

theorem outWf_ite {c : Prop} [Decidable c] {x y : Host.Outcome State Fault Refusal} (hx : outWf x) (hy : outWf y) :
    outWf (if c then x else y) := by
  split <;> assumption

theorem wf_ite {c : Prop} [Decidable c] {x y : State} (hx : x.mem.wf = true) (hy : y.mem.wf = true) :
    (if c then x else y).mem.wf = true := by
  split <;> assumption

theorem foldl_wf {α : Type} {f : State → α → State} {l : List α} {s : State}
    (hf : ∀ (s : State) (a : α), s.mem.wf = true → (f s a).mem.wf = true) (h : s.mem.wf = true) :
    (l.foldl f s).mem.wf = true := by
  induction l generalizing s with
  | nil => exact h
  | cons a l ih => exact ih (hf s a h)

theorem foldl_mem {α : Type} {f : State → α → State} {l : List α} {s : State}
    (hf : ∀ (s : State) (a : α), (f s a).mem = s.mem) : (l.foldl f s).mem = s.mem := by
  induction l generalizing s with
  | nil => rfl
  | cons a l ih => exact (ih).trans (hf s a)

theorem foldl_snd_mem {α β : Type} {f : β × State → α → β × State} {l : List α} {r : β × State}
    (hf : ∀ (r : β × State) (a : α), (f r a).2.mem = r.2.mem) : (l.foldl f r).2.mem = r.2.mem := by
  induction l generalizing r with
  | nil => rfl
  | cons a l ih => exact (ih).trans (hf r a)

theorem foldl_snd_wf {α β : Type} {f : β × State → α → β × State} {l : List α} {r : β × State}
    (hf : ∀ (r : β × State) (a : α), r.2.mem.wf = true → (f r a).2.mem.wf = true) (h : r.2.mem.wf = true) :
    (l.foldl f r).2.mem.wf = true := by
  induction l generalizing r with
  | nil => exact h
  | cons a l ih => exact ih (hf r a h)

end Sys2Proof.Machine
end

