-- ==== Sys2Proof/Laws/LineBase.lean ====
section
/-! SUPPORT. What the laws about the safety lines share: what the lines depend on, and the rules for a choice and for a
fold. -/

namespace Sys2Proof.Machine

/-- All that the safety lines and their conditions read. -/
abbrev lineView (s : State) : Bool × Bool × Bool × Bool × SafeState × PowerMode × BitVec 4 × List Batch :=
  (s.sfp.chA.safe, s.sfp.chA.released, s.sfp.chB.safe, s.sfp.chB.released, s.asy.state, s.pwr.cur, s.sys.step,
    s.asy.batches)

/-- LinesJustified over what it reads. -/
def viewOk : Bool × Bool × Bool × Bool × SafeState × PowerMode × BitVec 4 × List Batch → Prop
  | (safeA, relA, safeB, relB, st, cur, step, bs) =>
    (safeA = true ∨ safeB = true → st = .normal ∧ (cur = .run ∨ cur = .trim) ∧ bs.any Batch.stalled = false ∧
      6 ≤ step.toNat) ∧
    (safeA = true → relA = true) ∧ (safeB = true → relB = true)

/-- LinesJustified in the form that the laws about single functions use. -/
abbrev LineInv (s : State) : Prop := viewOk (lineView s)

theorem lines_of_view {s t : State} (hv : lineView t = lineView s) (h : LineInv s) : LineInv t := by
  rw [LineInv, hv]; exact h

theorem lines_of_dropped {s : State} (ha : s.sfp.chA.safe = false) (hb : s.sfp.chB.safe = false) : LineInv s := by
  simp [LineInv, viewOk, ha, hb]

theorem lineInv_iff (s : State) : LineInv s ↔ LinesJustified s := by
  simp only [LineInv, viewOk, LinesJustified, lineActive, stallInForce, Bool.and_eq_true, Bool.or_eq_true, beq_iff_eq,
    Bool.not_eq_true', decide_eq_true_eq]
  constructor
  · rintro ⟨h1, h2, h3⟩
    exact ⟨fun h => ⟨⟨⟨⟨(h1 (.inl h)).1, (h1 (.inl h)).2.1⟩, h2 h⟩, (h1 (.inl h)).2.2.1⟩, (h1 (.inl h)).2.2.2⟩,
      fun h => ⟨⟨⟨⟨(h1 (.inr h)).1, (h1 (.inr h)).2.1⟩, h3 h⟩, (h1 (.inr h)).2.2.1⟩, (h1 (.inr h)).2.2.2⟩⟩
  · rintro ⟨ha, hb⟩
    refine ⟨?_, fun h => (ha h).1.1.2, fun h => (hb h).1.1.2⟩
    rintro (h | h)
    · exact ⟨(ha h).1.1.1.1, (ha h).1.1.1.2, (ha h).1.2, (ha h).2⟩
    · exact ⟨(hb h).1.1.1.1, (hb h).1.1.1.2, (hb h).1.2, (hb h).2⟩

/-- Driving the lines justifies them. -/
theorem driveLines_lines (s : State) : LineInv (driveLines s) := (lineInv_iff _).2 ⟨id, id⟩

/-- The next state of an outcome, if it is one, has its lines justified. -/
def outLines : Host.Outcome State Fault Refusal → Prop
  | .next s => LineInv s
  | _ => True

theorem outLines_next {o : Host.Outcome State Fault Refusal} {t : State} (h : outLines o) (ho : o = .next t) :
    LineInv t := by
  subst ho; exact h

theorem outLines_done {s : State} (h : LineInv s) : outLines (done s) := h

theorem outLines_ite {c : Prop} [Decidable c] {x y : Host.Outcome State Fault Refusal} (hx : outLines x)
    (hy : outLines y) : outLines (if c then x else y) := by
  split <;> assumption

theorem lines_ite {c : Prop} [Decidable c] {x y : State} (hx : LineInv x) (hy : LineInv y) :
    LineInv (if c then x else y) := by
  split <;> assumption

theorem ite_line {c : Prop} [Decidable c] {x y s : State} (hx : lineView x = lineView s) (hy : lineView y = lineView s) :
    lineView (if c then x else y) = lineView s := by
  split <;> assumption

theorem foldl_lines {α : Type} {f : State → α → State} {l : List α} {s : State}
    (hf : ∀ (s : State) (a : α), LineInv s → LineInv (f s a)) (h : LineInv s) :
    LineInv (l.foldl f s) := by
  induction l generalizing s with
  | nil => exact h
  | cons a l ih => exact ih (hf s a h)

theorem foldl_line {α : Type} {f : State → α → State} {l : List α} {s : State}
    (hf : ∀ (s : State) (a : α), lineView (f s a) = lineView s) : lineView (l.foldl f s) = lineView s := by
  induction l generalizing s with
  | nil => rfl
  | cons a l ih => exact (ih).trans (hf s a)

theorem foldl_snd_line {α β : Type} {f : β × State → α → β × State} {l : List α} {r : β × State}
    (hf : ∀ (r : β × State) (a : α), lineView (f r a).2 = lineView r.2) : lineView (l.foldl f r).2 = lineView r.2 := by
  induction l generalizing r with
  | nil => rfl
  | cons a l ih => exact (ih).trans (hf r a)

theorem foldl_snd_lines {α β : Type} {f : β × State → α → β × State} {l : List α} {r : β × State}
    (hf : ∀ (r : β × State) (a : α), LineInv r.2 → LineInv (f r a).2) (h : LineInv r.2) :
    LineInv (l.foldl f r).2 := by
  induction l generalizing r with
  | nil => exact h
  | cons a l ih => exact ih (hf r a h)

end Sys2Proof.Machine
end

