-- ==== Sys2Proof/Laws/LineShared.lean ====
section
/-! SUPPORT. The safety lines across the shared operations: events, safe states, Ladle, counters and translation: a function
that touches nothing they read leaves it as it is (_line); any other keeps them justified (_lines). -/

set_option linter.unusedTactic false
set_option linter.unusedVariables false
set_option linter.unreachableTactic false
set_option linter.unusedSimpArgs false

namespace Sys2Proof.Machine

theorem clearResv_line (a n : Nat) (s : State) : lineView (clearResv a n s) = lineView s := by
  unfold clearResv
  repeat' first | with_reducible rfl | dsimp only

theorem physWrite_line (s : State) (a : Nat) (bs : List Byte) : lineView (physWrite s a bs) = lineView s := by
  unfold physWrite
  repeat' first | with_reducible rfl | with_reducible refine (clearResv_line ..).trans ?_ | split | dsimp only

theorem updChan_line (s : State) (c : Channel) (f : SafetyCh → SafetyCh)
    (hf : ∀ c, (f c).safe = c.safe ∧ (f c).released = c.released) : lineView (updChan s c f) = lineView s := by
  cases c <;> simp [lineView, updChan, hf]

theorem sendMsix_line (s : State) (v : Nat) : lineView (sendMsix s v) = lineView s := by
  unfold sendMsix
  repeat' first | with_reducible rfl | dsimp only

theorem signalMsix_line (s : State) (v : Nat) : lineView (signalMsix s v) = lineView s := by
  unfold signalMsix
  repeat' first
    | with_reducible rfl | with_reducible refine (sendMsix_line ..).trans ?_ | with_reducible apply ite_line | split
    | dsimp only

theorem pushFifo_line (s : State) (code : EventCode) : lineView (pushFifo s code) = lineView s := by
  unfold pushFifo
  repeat' first | with_reducible rfl | with_reducible apply ite_line | split | dsimp only

theorem markEvt_line (s : State) (code : EventCode) : lineView (markEvt s code) = lineView s := by
  unfold markEvt
  repeat' first | with_reducible rfl | with_reducible apply ite_line | split | dsimp only

theorem signalEvent_line (s : State) (code : EventCode) : lineView (signalEvent s code) = lineView s := by
  unfold signalEvent
  repeat' first
    | with_reducible rfl | with_reducible refine (signalMsix_line ..).trans ?_ | with_reducible apply ite_line
    | split | dsimp only

theorem noteSet_line (code : EventCode) (s : State) : lineView (noteSet code s) = lineView s := by
  unfold noteSet
  repeat' first | with_reducible rfl | dsimp only

theorem raise_line (code : EventCode) (s : State) : lineView (raise code s) = lineView s := by
  unfold raise
  repeat' first
    | with_reducible rfl | with_reducible refine (signalEvent_line ..).trans ?_
    | with_reducible refine (pushFifo_line ..).trans ?_ | with_reducible refine (noteSet_line ..).trans ?_
    | with_reducible refine (markEvt_line ..).trans ?_ | dsimp only

theorem raiseAll_line (codes : List EventCode) (s : State) : lineView (raiseAll codes s) = lineView s := by
  unfold raiseAll
  repeat' first
    | with_reducible rfl | with_reducible refine (raise_line ..).trans ?_
    | (with_reducible refine (foldl_line ?_).trans ?_; intro _ _) | dsimp only

theorem markCam_line (p : Nat) (code : EventCode) (s : State) : lineView (markCam p code s) = lineView s := by
  unfold markCam
  repeat' first | with_reducible rfl | with_reducible apply ite_line | split | dsimp only

theorem noteCam_line (p : Nat) (code : EventCode) (s : State) : lineView (noteCam p code s) = lineView s := by
  unfold noteCam
  repeat' first | with_reducible rfl | dsimp only

theorem raiseCam_line (p : Nat) (code : EventCode) (s : State) : lineView (raiseCam p code s) = lineView s := by
  unfold raiseCam
  repeat' first
    | with_reducible rfl | with_reducible refine (raise_line ..).trans ?_
    | with_reducible refine (noteCam_line ..).trans ?_ | with_reducible refine (markCam_line ..).trans ?_
    | dsimp only

theorem dropHeld_line (off : Nat) (s : State) : lineView (dropHeld off s) = lineView s := by
  unfold dropHeld
  repeat' first | with_reducible rfl | dsimp only

theorem markHw_line (s : State) (b : HwBit) : lineView (markHw s b) = lineView s := by cases b <;> rfl

theorem setHw_line (b : HwBit) (s : State) : lineView (setHw b s) = lineView s := by
  unfold setHw
  repeat' first | with_reducible rfl | with_reducible refine (markHw_line ..).trans ?_ | dsimp only

theorem keepSets_line (s : State) : lineView (keepSets s) = lineView s := by
  unfold keepSets
  repeat' first
    | with_reducible rfl | with_reducible refine (markHw_line ..).trans ?_
    | with_reducible refine (markEvt_line ..).trans ?_ | with_reducible refine (markCam_line ..).trans ?_
    | with_reducible apply ite_line | (with_reducible refine (foldl_line ?_).trans ?_; intro _ _) | split
    | dsimp only

theorem raiseCamOnce_line (p : Nat) (code : EventCode) (s : State) : lineView (raiseCamOnce p code s) = lineView
    s := by
  unfold raiseCamOnce
  repeat' first
    | with_reducible rfl | with_reducible refine (raiseCam_line ..).trans ?_ | with_reducible apply ite_line | split
    | dsimp only

theorem dropSafe_lines (s : State) : LineInv (dropSafe s) := driveLines_lines _

theorem logFault_line (code : EventCode) (pairs : BitVec 4) (s : State) : lineView (logFault code pairs s) = lineView
    s := by
  unfold logFault
  repeat' first | with_reducible rfl | with_reducible apply ite_line | split | dsimp only

theorem enterS1_lines (code : EventCode) (s : State) (h : LineInv s) : LineInv (enterS1 code s) := by
  unfold enterS1
  repeat' first
    | with_reducible assumption | with_reducible apply lines_ite | with_reducible apply dropSafe_lines
    | with_reducible refine lines_of_view (raise_line ..) ?_ | split | dsimp only

theorem detectS1_lines (code : EventCode) (pairs : BitVec 4) (s : State) (h : LineInv s) : LineInv (detectS1 code
    pairs s) := by
  unfold detectS1
  repeat' first
    | with_reducible assumption | with_reducible apply enterS1_lines
    | with_reducible refine lines_of_view (logFault_line ..) ?_
    | with_reducible refine lines_of_view (raise_line ..) ?_ | dsimp only

theorem warmReset_lines (cause : BitVec 6) (s : State) : LineInv (warmReset cause s) := lines_of_dropped rfl rfl

theorem coldReset_lines (s : State) : LineInv (coldReset s) := lines_of_dropped rfl rfl

theorem countS2_line (s : State) : lineView (countS2 s) = lineView s := by
  unfold countS2
  repeat' first | with_reducible rfl | dsimp only

theorem freezeMessages_line (s : State) : lineView (freezeMessages s) = lineView s := by
  unfold freezeMessages
  repeat' first | with_reducible rfl | dsimp only

theorem detectS2_lines (code : EventCode) (s : State) (h : LineInv s) : LineInv (detectS2 code s) := by
  unfold detectS2
  repeat' first
    | with_reducible assumption | with_reducible apply lines_ite | with_reducible apply driveLines_lines
    | with_reducible apply warmReset_lines | with_reducible refine lines_of_view (logFault_line ..) ?_
    | with_reducible refine lines_of_view (raise_line ..) ?_
    | with_reducible refine lines_of_view (freezeMessages_line ..) ?_
    | with_reducible refine lines_of_view (countS2_line ..) ?_ | split | dsimp only

theorem hostCopy_line (r : SepRecord) (s : State) : lineView (hostCopy r s) = lineView s := by
  unfold hostCopy
  repeat' first
    | with_reducible rfl | with_reducible refine (raise_line ..).trans ?_
    | with_reducible refine (signalMsix_line ..).trans ?_ | with_reducible apply ite_line | split | dsimp only

theorem pushNotice1_line (c : SafetyCh) (r : SepRecord) :
    (pushNotice1 c r).1.safe = c.safe ∧ (pushNotice1 c r).1.released = c.released := by
  unfold pushNotice1; split <;> exact ⟨rfl, rfl⟩

theorem pushNotice_lines (r : SepRecord) (s : State) (h : LineInv s) : LineInv (pushNotice r s) := by
  have hs : LineInv { s with sfp := { s.sfp with
      chA := (pushNotice1 s.sfp.chA r).1, chB := (pushNotice1 s.sfp.chB r).1 } } :=
    lines_of_view (s := s) (by simp [lineView, pushNotice1_line]) h
  unfold pushNotice
  repeat' first
    | with_reducible assumption | with_reducible apply lines_ite | with_reducible apply detectS1_lines
    | with_reducible refine lines_of_view (hostCopy_line ..) ?_ | dsimp only

theorem pushRecords_line (rs : List SepRecord) (s : State) : lineView (pushRecords rs s) = lineView s := by
  unfold pushRecords
  repeat' first
    | with_reducible rfl | with_reducible refine (hostCopy_line ..).trans ?_
    | (with_reducible refine (foldl_line ?_).trans ?_; intro _ _) | dsimp only

theorem drawFree_line (s : State) : lineView ((drawFree s).2) = lineView s := by
  unfold drawFree
  repeat' first | with_reducible rfl | dsimp only

theorem noteWindow_line (s : State) : lineView (noteWindow s) = lineView s := by
  unfold noteWindow
  repeat' first | with_reducible rfl | dsimp only

theorem ladleRequest_line (id cls : Nat) (deadline : Option Nat) (t : Nat) (serves : Option PourRef) (s : State) :
    lineView ((ladleRequest id cls deadline t serves s).1) = lineView s := by
  unfold ladleRequest
  repeat' first
    | with_reducible rfl | with_reducible refine (raise_line ..).trans ?_ | with_reducible apply ite_line | split
    | dsimp only

theorem withdrawRequest_line (id : Nat) (s : State) : lineView (withdrawRequest id s) = lineView s := by
  unfold withdrawRequest
  repeat' first | with_reducible rfl | dsimp only

theorem ladleRelease_line (id : Nat) (s : State) : lineView (ladleRelease id s) = lineView s := by
  unfold ladleRelease
  repeat' first | with_reducible rfl | dsimp only

theorem ladleStop_line (id : Nat) (andBegun : Bool) (s : State) : lineView (ladleStop id andBegun s) = lineView
    s := by
  unfold ladleStop
  repeat' first
    | with_reducible rfl | with_reducible refine (withdrawRequest_line ..).trans ?_ | with_reducible apply ite_line
    | split | dsimp only

theorem stopLoad_line (n : Nat) (s : State) : lineView (stopLoad n s) = lineView s := by
  unfold stopLoad
  repeat' first | with_reducible rfl | with_reducible refine (ladleStop_line ..).trans ?_ | split | dsimp only

theorem takeGrant_line (r : Request) (s : State) : lineView (takeGrant r s) = lineView s := by
  unfold takeGrant
  repeat' first
    | with_reducible rfl | with_reducible refine (noteWindow_line ..).trans ?_ | with_reducible apply ite_line
    | split | dsimp only

theorem goLoad_line (n tickets hold : Nat) (s : State) : lineView (goLoad n tickets hold s) = lineView s := by
  unfold goLoad
  repeat' first
    | with_reducible rfl | with_reducible refine (ladleRequest_line ..).trans ?_ | with_reducible apply ite_line
    | split | dsimp only

theorem execTloadGo_lines (who : Agent) (n : Fin 2) (tickets : BitVec 8) (hold : BitVec 16) (s : State) (h : LineInv
    s) : outLines (execTloadGo who n tickets hold s) := by
  unfold execTloadGo
  repeat' first
    | with_reducible assumption | with_reducible apply outLines_done | with_reducible apply lines_ite
    | with_reducible apply outLines_ite | with_reducible refine lines_of_view (goLoad_line ..) ?_ | split
    | dsimp only

theorem execTloadStop_lines (who : Agent) (n : Fin 2) (s : State) (h : LineInv s) : outLines (execTloadStop who n
    s) := by
  unfold execTloadStop
  repeat' first
    | with_reducible assumption | with_reducible apply outLines_done | with_reducible apply lines_ite
    | with_reducible apply outLines_ite | with_reducible refine lines_of_view (stopLoad_line ..) ?_ | split
    | dsimp only

theorem execTloadHoldEnd_lines (n : Fin 2) (s : State) (h : LineInv s) : outLines (execTloadHoldEnd n s) := by
  unfold execTloadHoldEnd
  repeat' first
    | with_reducible assumption | with_reducible apply outLines_done | with_reducible apply lines_ite
    | with_reducible apply outLines_ite | with_reducible refine lines_of_view (ladleRelease_line ..) ?_ | split
    | dsimp only

theorem execCurrentMonitorWindow_lines (measured32 : Nat) (s : State) (h : LineInv s) : outLines
    (execCurrentMonitorWindow measured32 s) := by
  unfold execCurrentMonitorWindow
  repeat' first
    | with_reducible assumption | with_reducible apply outLines_done | with_reducible apply lines_ite
    | with_reducible apply outLines_ite | with_reducible refine lines_of_view (noteWindow_line ..) ?_ | split
    | dsimp only

theorem execLdlUnfreeze_lines (s : State) (h : LineInv s) : outLines (execLdlUnfreeze s) := by
  unfold execLdlUnfreeze
  repeat' first
    | with_reducible assumption | with_reducible apply outLines_done | with_reducible apply lines_ite
    | with_reducible apply outLines_ite | split | dsimp only

theorem execLdlUnderrun_lines (s : State) (h : LineInv s) : outLines (execLdlUnderrun s) := by
  unfold execLdlUnderrun
  repeat' first
    | with_reducible assumption | with_reducible apply outLines_done | with_reducible apply lines_ite
    | with_reducible apply outLines_ite | with_reducible refine lines_of_view (raise_line ..) ?_ | split | dsimp only

theorem countSel_line (sel k : Nat) (s : State) : lineView (countSel sel k s) = lineView s := by
  unfold countSel
  repeat' first | with_reducible rfl | dsimp only

theorem dropTrace_line (s : State) : lineView (dropTrace s) = lineView s := by
  unfold dropTrace
  repeat' first | with_reducible rfl | split | dsimp only

theorem endDropRun_line (s : State) : lineView (endDropRun s) = lineView s := by
  unfold endDropRun
  repeat' first | with_reducible rfl | with_reducible refine (raise_line ..).trans ?_ | split | dsimp only

theorem pushTrace_line (r : TraceRec) (s : State) : lineView (pushTrace r s) = lineView s := by
  unfold pushTrace
  repeat' first
    | with_reducible rfl | with_reducible refine (endDropRun_line ..).trans ?_
    | with_reducible refine (dropTrace_line ..).trans ?_ | with_reducible apply ite_line | split | dsimp only

theorem traceSource_line (i : Nat) (kind : BitVec 3) (node seq : Nat) (payload : List Byte) (s : State) : lineView
    (traceSource i kind node seq payload s) = lineView s := by
  unfold traceSource
  repeat' first
    | with_reducible rfl | with_reducible refine (pushTrace_line ..).trans ?_ | with_reducible apply ite_line | split
    | dsimp only

theorem beginSource_line (i node seq : Nat) (payload : List Byte) (s : State) : lineView (beginSource i node seq
    payload s) = lineView s := by
  unfold beginSource
  repeat' first | with_reducible rfl | with_reducible refine (traceSource_line ..).trans ?_ | dsimp only

theorem endSource_line (i node seq : Nat) (bad : Bool) (payload : List Byte) (s : State) : lineView (endSource i node
    seq bad payload s) = lineView s := by
  unfold endSource
  repeat' first
    | with_reducible rfl | with_reducible refine (traceSource_line ..).trans ?_ | with_reducible apply ite_line
    | split | dsimp only

theorem traceTest_line (u : Nat) (kind : BitVec 3) (payload : List Byte) (s : State) : lineView (traceTest u kind
    payload s) = lineView s := by
  unfold traceTest
  repeat' first
    | with_reducible rfl | with_reducible refine (pushTrace_line ..).trans ?_ | with_reducible apply ite_line | split
    | dsimp only

theorem traceSync_line (step resid : Int) (ref : Nat) (s : State) : lineView (traceSync step resid ref s) = lineView
    s := by
  unfold traceSync
  repeat' first
    | with_reducible rfl | with_reducible refine (pushTrace_line ..).trans ?_ | with_reducible apply ite_line | split
    | dsimp only

theorem writeTapCtl_line (v : Nat) (s : State) : lineView (writeTapCtl v s) = lineView s := by
  unfold writeTapCtl
  repeat' first
    | with_reducible rfl | with_reducible refine (raise_line ..).trans ?_ | with_reducible apply ite_line | split
    | dsimp only

theorem execTapCtrlWrite_lines (keeper host : Option Word32) (s : State) (h : LineInv s) : outLines (execTapCtrlWrite
    keeper host s) := by
  unfold execTapCtrlWrite
  repeat' first
    | with_reducible assumption | with_reducible apply outLines_done
    | with_reducible refine lines_of_view (writeTapCtl_line ..) ?_
    | with_reducible refine lines_of_view (dropHeld_line ..) ?_ | split | dsimp only

theorem execCtrOverflow_lines (g : Fin 16) (s : State) (h : LineInv s) : outLines (execCtrOverflow g s) := by
  unfold execCtrOverflow
  repeat' first
    | with_reducible assumption | with_reducible apply outLines_done | with_reducible apply lines_ite
    | with_reducible apply outLines_ite | with_reducible refine lines_of_view (raise_line ..) ?_
    | with_reducible refine lines_of_view (signalMsix_line ..) ?_ | split | dsimp only

theorem counterValue_line (s : State) (c : CounterName) : lineView (counterValue s c).2 = lineView s := by
  unfold counterValue
  repeat' first | with_reducible rfl | exact drawFree_line s | split | dsimp only

theorem ctrReadLow_line (id : Nat) (c : CounterName) (s : State) : lineView ((ctrReadLow id c s).2) = lineView s := by
  unfold ctrReadLow
  repeat' first | with_reducible rfl | with_reducible refine (counterValue_line ..).trans ?_ | dsimp only

theorem ctrReadHigh_line (id : Nat) (c : CounterName) (s : State) : lineView ((ctrReadHigh id c s).2) = lineView
    s := by
  unfold ctrReadHigh
  repeat' first
    | with_reducible rfl | with_reducible refine (counterValue_line ..).trans ?_
    | with_reducible refine (raise_line ..).trans ?_ | split | dsimp only

theorem denyWalk_line (f : AccessFault) (a : Nat) (s : State) : lineView (denyWalk f a s) = lineView s := by
  unfold denyWalk
  exact (raise_line ..).trans rfl

theorem walkRead_line (s : State) (a : Nat) : lineView ((walkRead s a).2) = lineView s := by
  unfold walkRead
  repeat' first
    | with_reducible rfl | with_reducible refine (drawFree_line ..).trans ?_
    | with_reducible refine (denyWalk_line ..).trans ?_ | split | dsimp only

theorem walkFrom_line (addr fuel lvl a : Nat) (s : State) : lineView (walkFrom addr fuel lvl a s).2 = lineView s := by
  induction fuel generalizing lvl a s with
  | zero => rfl
  | succ fuel ih =>
    unfold walkFrom
    have hw := walkRead_line s a
    repeat' first | exact hw | exact (ih ..).trans hw | split | dsimp only

theorem walk_line (root addr : Nat) (s : State) : lineView (walk root addr s).2 = lineView s := by
  unfold walk
  repeat' first
    | with_reducible rfl | with_reducible refine (countSel_line ..).trans ?_
    | with_reducible refine (walkFrom_line ..).trans ?_ | split | dsimp only

theorem cachedLeaf_line (ctx addr : Nat) (s : State) : lineView (cachedLeaf ctx addr s).2 = lineView s := by
  unfold cachedLeaf
  repeat' first | with_reducible rfl | with_reducible refine (drawFree_line ..).trans ?_ | split | dsimp only

theorem cacheLeaf_line (ctx addr : Nat) (l : Nat × Bool) (s : State) : lineView (cacheLeaf ctx addr l s) = lineView s := rfl

theorem findLeaf_line (ctx root addr : Nat) (walkBad : Bool) (s : State) :
    lineView (findLeaf ctx root addr walkBad s).2 = lineView s := by
  unfold findLeaf
  repeat' first
    | with_reducible rfl | with_reducible refine (cacheLeaf_line ..).trans ?_ | with_reducible refine (walk_line ..).trans ?_
    | with_reducible refine (countSel_line ..).trans ?_ | with_reducible refine (cachedLeaf_line ..).trans ?_ | split
    | dsimp only

theorem translateIn_line (ctx : Nat) (riser keeper : Bool) (acc : Access) (addr : Nat) (walkBad : Bool) (s : State) :
    lineView ((translateIn ctx riser keeper acc addr walkBad s).2) = lineView s := by
  unfold translateIn
  repeat' first | with_reducible rfl | with_reducible refine (findLeaf_line ..).trans ?_ | split | dsimp only

theorem reportFault_lines (f : AccessFault) (addr id : Nat) (write : Bool) (s : State) (h : LineInv s) : LineInv
    (reportFault f addr id write s) := by
  unfold reportFault
  repeat' first
    | with_reducible assumption | with_reducible apply detectS1_lines | with_reducible apply detectS2_lines
    | with_reducible refine lines_of_view (raise_line ..) ?_ | split | dsimp only

theorem checkAccess_lines (id : Nat) (keeper : Bool) (acc : Access) (addr n : Nat) (walkBad : Bool) (s : State) (h :
    LineInv s) : LineInv (checkAccess id keeper acc addr n walkBad s).2 := by
  unfold checkAccess
  repeat' first
    | with_reducible assumption | with_reducible apply reportFault_lines
    | with_reducible refine lines_of_view (translateIn_line ..) ?_ | split | dsimp only

theorem reportDenied_lines (id : Nat) (acc : Access) (a n : Nat) (s : State) (h : LineInv s) : LineInv (reportDenied
    id acc a n s) := by
  unfold reportDenied
  repeat' first | with_reducible assumption | with_reducible apply checkAccess_lines | split | dsimp only

theorem unitWrite_lines (id a : Nat) (bs : List Byte) (s : State) (h : LineInv s) : LineInv (unitWrite id a bs
    s) := by
  unfold unitWrite
  repeat' first
    | with_reducible assumption | with_reducible apply lines_ite | with_reducible apply reportDenied_lines
    | with_reducible refine lines_of_view (physWrite_line ..) ?_ | split | dsimp only

theorem startInv_line (ctx : Nat) (everything : Bool) (s : State) : lineView (startInv ctx everything s) = lineView
    s := by
  unfold startInv
  repeat' first | with_reducible rfl | with_reducible apply ite_line | split | dsimp only

theorem execXltInvDone_lines (s : State) (h : LineInv s) : outLines (execXltInvDone s) := by
  unfold execXltInvDone
  repeat' first | with_reducible assumption | with_reducible apply outLines_done | dsimp only

theorem keepXlt_line (s : State) : lineView (keepXlt s) = lineView s := by
  unfold keepXlt
  repeat' first | with_reducible rfl | with_reducible apply ite_line | split | dsimp only

theorem keepFwl_line (s : State) : lineView (keepFwl s) = lineView s := by
  unfold keepFwl
  repeat' first | with_reducible rfl | with_reducible apply ite_line | split | dsimp only

theorem writeRegion_line (r : Nat) (f : Region → Region) (s : State) : lineView (writeRegion r f s) = lineView s := by
  unfold writeRegion
  repeat' first
    | with_reducible rfl | with_reducible refine (raise_line ..).trans ?_
    | with_reducible refine (keepFwl_line ..).trans ?_ | with_reducible apply ite_line | split | dsimp only

theorem noteEcc_line (ecc : Ecc) (s : State) : lineView (noteEcc ecc s) = lineView s := by
  unfold noteEcc
  repeat' first
    | with_reducible rfl | with_reducible refine (countSel_line ..).trans ?_ | with_reducible apply ite_line | split
    | dsimp only

theorem tapError_line (s : State) : lineView (tapError s) = lineView s := by
  unfold tapError
  exact (raise_line ..).trans rfl

theorem writeLine_lines (a b : TraceRec) (rest : List (TraceRec × Nat)) (s : State) (h : LineInv s) :
    LineInv (writeLine a b rest s) := by
  unfold writeLine
  repeat' first
    | with_reducible assumption | with_reducible apply lines_ite | with_reducible apply reportDenied_lines
    | with_reducible refine lines_of_view (physWrite_line ..) ?_ | with_reducible refine lines_of_view (tapError_line ..) ?_
    | split | dsimp only

theorem fifoError_line (rest : List (TraceRec × Nat)) (s : State) : lineView (fifoError rest s) = lineView s := by
  unfold fifoError
  repeat' first
    | with_reducible rfl | with_reducible refine (raise_line ..).trans ?_
    | with_reducible refine (dropTrace_line ..).trans ?_ | dsimp only

theorem execTapLineWrite_lines (ecc : Ecc) (s : State) (h : LineInv s) : outLines (execTapLineWrite ecc s) := by
  unfold execTapLineWrite
  repeat' first
    | with_reducible assumption | with_reducible apply outLines_done | with_reducible apply lines_ite
    | with_reducible apply outLines_ite | with_reducible refine lines_of_view (fifoError_line ..) ?_
    | with_reducible apply writeLine_lines | with_reducible refine lines_of_view (noteEcc_line ..) ?_ | split | dsimp only

theorem execTapPad_lines (s : State) (h : LineInv s) : outLines (execTapPad s) := by
  unfold execTapPad
  repeat' first
    | with_reducible assumption | with_reducible apply outLines_done | with_reducible apply lines_ite
    | with_reducible apply outLines_ite | with_reducible apply writeLine_lines | split | dsimp only

theorem execTapWriteError_lines (s : State) (h : LineInv s) : outLines (execTapWriteError s) := by
  unfold execTapWriteError
  repeat' first
    | with_reducible assumption | with_reducible apply outLines_done | with_reducible apply lines_ite
    | with_reducible apply outLines_ite | with_reducible refine lines_of_view (tapError_line ..) ?_ | split | dsimp only

end Sys2Proof.Machine
end

