-- ==== Sys2Proof/Laws/LineEngines.lean ====
section
/-! SUPPORT. The safety lines across the engines, the Frame Graph Sequencer and the task scheduler operations: a function
that touches nothing they read leaves it as it is (_line); any other keeps them justified (_lines). -/

set_option linter.unusedTactic false
set_option linter.unusedVariables false
set_option linter.unreachableTactic false
set_option linter.unusedSimpArgs false

namespace Sys2Proof.Machine

theorem applyWrites_line (id : Nat) (s : State) (ws : Writes) : lineView (applyWrites id s ws) = lineView s := by
  unfold applyWrites
  repeat' first
    | with_reducible rfl | with_reducible refine (physWrite_line ..).trans ?_ | with_reducible apply ite_line
    | (with_reducible refine (foldl_line ?_).trans ?_; intro _ _) | split | dsimp only

theorem applyElem_line (s : State) (w : ElemWrite) : lineView (applyElem s w) = lineView s := by
  unfold applyElem
  repeat' first
    | with_reducible rfl | with_reducible refine (physWrite_line ..).trans ?_ | with_reducible apply ite_line | split
    | dsimp only

theorem applyElems_line (s : State) (ws : List ElemWrite) : lineView (applyElems s ws) = lineView s := by
  unfold applyElems
  repeat' first
    | with_reducible rfl | with_reducible refine (applyElem_line ..).trans ?_
    | (with_reducible refine (foldl_line ?_).trans ?_; intro _ _) | dsimp only

theorem putFlag_line (f seq v : Nat) (s : State) : lineView (putFlag f seq v s) = lineView s := by
  unfold putFlag
  repeat' first | with_reducible rfl | with_reducible apply ite_line | split | dsimp only

theorem updTask_line (slot gen : Nat) (f : Task → Task) (s : State) : lineView (updTask slot gen f s) = lineView
    s := by
  unfold updTask
  repeat' first | with_reducible rfl | dsimp only

theorem dropTask_line (slot gen : Nat) (s : State) : lineView (dropTask slot gen s) = lineView s := by
  unfold dropTask
  repeat' first | with_reducible rfl | dsimp only

theorem updThread_line (t : Nat) (f : Thread → Thread) (s : State) : lineView (updThread t f s) = lineView s := by
  unfold updThread
  repeat' first | with_reducible rfl | dsimp only

theorem updPort_line (t : Nat) (f : Port → Port) (s : State) : lineView (updPort t f s) = lineView s := by
  unfold updPort
  repeat' first | with_reducible rfl | dsimp only

theorem finishTask_line (slot gen status : Nat) (s : State) : lineView (finishTask slot gen status s) = lineView
    s := by
  unfold finishTask
  repeat' first
    | with_reducible rfl | with_reducible refine (updPort_line ..).trans ?_
    | with_reducible refine (updThread_line ..).trans ?_ | with_reducible refine (dropTask_line ..).trans ?_
    | with_reducible refine (updTask_line ..).trans ?_ | with_reducible apply ite_line | split | dsimp only

theorem makeReady_line (slot gen : Nat) (s : State) : lineView (makeReady slot gen s) = lineView s := by
  unfold makeReady
  repeat' first
    | with_reducible rfl | with_reducible refine (finishTask_line ..).trans ?_
    | with_reducible refine (updTask_line ..).trans ?_ | with_reducible apply ite_line | split | dsimp only

theorem cancelTask_line (slot gen : Nat) (s : State) : lineView (cancelTask slot gen s) = lineView s := by
  unfold cancelTask
  repeat' first
    | with_reducible rfl | with_reducible refine (finishTask_line ..).trans ?_
    | with_reducible refine (updThread_line ..).trans ?_ | with_reducible refine (updTask_line ..).trans ?_
    | with_reducible apply ite_line | split | dsimp only

theorem cancelPour_line (r : PourRef) (s : State) : lineView (cancelPour r s) = lineView s := by
  unfold cancelPour
  repeat' first
    | with_reducible rfl | with_reducible refine (cancelTask_line ..).trans ?_
    | (with_reducible refine (foldl_line ?_).trans ?_; intro _ _) | dsimp only

theorem deliverOperand_line (slot gen index : Nat) (value : Word32) (status : Nat) (s : State) : lineView
    (deliverOperand slot gen index value status s) = lineView s := by
  unfold deliverOperand
  repeat' first
    | with_reducible rfl | with_reducible refine (raise_line ..).trans ?_
    | with_reducible refine (cancelTask_line ..).trans ?_ | with_reducible refine (makeReady_line ..).trans ?_
    | with_reducible refine (updTask_line ..).trans ?_ | with_reducible apply ite_line | split | dsimp only

theorem deliverToken_line (slot gen index status : Nat) (s : State) : lineView (deliverToken slot gen index status s)
    = lineView s := by
  unfold deliverToken
  repeat' first
    | with_reducible rfl | with_reducible refine (raise_line ..).trans ?_
    | with_reducible refine (makeReady_line ..).trans ?_ | with_reducible refine (updTask_line ..).trans ?_
    | with_reducible apply ite_line | split | dsimp only

theorem flagWaits_line (s : State) : lineView (flagWaits s) = lineView s := by
  unfold flagWaits
  repeat' first
    | with_reducible rfl | with_reducible refine (makeReady_line ..).trans ?_
    | with_reducible refine (updTask_line ..).trans ?_ | (with_reducible refine (foldl_line ?_).trans ?_; intro _ _)
    | split | dsimp only

theorem placeTasks_line (p : Pattern) (r : PourRef) (s : State) : lineView (placeTasks p r s) = lineView s := by
  unfold placeTasks
  repeat' first | with_reducible rfl | with_reducible apply ite_line | split | dsimp only

theorem updPour_line (r : PourRef) (f : Pour → Pour) (s : State) : lineView (updPour r f s) = lineView s := by
  unfold updPour
  repeat' first | with_reducible rfl | dsimp only

theorem updNode_line (r : PourRef) (n : Nat) (f : NodeRun → NodeRun) (s : State) : lineView (updNode r n f s) =
    lineView s := by
  unfold updNode
  repeat' first | with_reducible rfl | with_reducible refine (updPour_line ..).trans ?_ | dsimp only

theorem updSlot_line (n : Nat) (f : GraphSlot → GraphSlot) (s : State) : lineView (updSlot n f s) = lineView s := by
  unfold updSlot
  repeat' first | with_reducible rfl | dsimp only

theorem announceIn_line (p : Pattern) (r : PourRef) (fs : Nat) (s : State) : lineView (announceIn p r fs s) = lineView
    s := by
  unfold announceIn
  repeat' first | with_reducible rfl | with_reducible apply ite_line | split | dsimp only

theorem announce_line (r : PourRef) (fs : Nat) (s : State) : lineView (announce r fs s) = lineView s := by
  unfold announce
  repeat' first | with_reducible rfl | with_reducible refine (announceIn_line ..).trans ?_ | dsimp only

theorem noticesOf_lines (a : Announce) (status : Byte) (s : State) (h : LineInv s) : LineInv (noticesOf a status
    s) := by
  unfold noticesOf
  repeat' first
    | with_reducible assumption | with_reducible apply pushNotice_lines
    | (with_reducible apply foldl_lines; intro _ _ _) | dsimp only

theorem lines_fewer_batches {s t : State} (p : Batch → Bool)
    (hv : lineView t = lineView { s with asy := { s.asy with batches := s.asy.batches.filter p } })
    (h : LineInv s) : LineInv t := by
  refine lines_of_view hv ⟨fun hs => ?_, h.2⟩
  obtain ⟨h1, h2, h3, h4⟩ := h.1 hs
  refine ⟨h1, h2, ?_, h4⟩
  rw [List.any_eq_false] at h3 ⊢
  exact fun b hb => h3 b (List.mem_filter.1 hb).1

theorem invalidatePour_lines (r : PourRef) (s : State) (h : LineInv s) : LineInv (invalidatePour r s) := by
  unfold invalidatePour
  split
  · exact h
  · dsimp only
    split
    · exact h
    · exact noticesOf_lines _ _ _ (lines_fewer_batches (fun b => b.ref != r) rfl h)

theorem updCh_line (ch : Nat) (f : DmaCh → DmaCh) (s : State) : lineView (updCh ch f s) = lineView s := by
  unfold updCh
  repeat' first | with_reducible rfl | dsimp only

theorem chWrite_lines (ch addr : Nat) (bs : List Byte) (s : State) (h : LineInv s) : LineInv (chWrite ch addr bs
    s).2 := by
  unfold chWrite
  repeat' first
    | with_reducible assumption | with_reducible apply checkAccess_lines
    | with_reducible refine lines_of_view (physWrite_line ..) ?_ | split | dsimp only

theorem ringResult_lines (ch result : Nat) (s : State) (h : LineInv s) : LineInv (ringResult ch result s) := by
  unfold ringResult
  repeat' first
    | with_reducible assumption | with_reducible apply lines_ite | with_reducible apply chWrite_lines | split
    | dsimp only

theorem endChannel_line (ch result : Nat) (s : State) : lineView (endChannel ch result s) = lineView s := by
  unfold endChannel
  repeat' first
    | with_reducible rfl | with_reducible refine (endSource_line ..).trans ?_ | with_reducible apply ite_line | split
    | dsimp only

theorem freePath_line (ch : Nat) (s : State) : lineView (freePath ch s) = lineView s := by
  unfold freePath
  repeat' first | with_reducible rfl | with_reducible apply ite_line | split | dsimp only

theorem stopChannel_lines (ch result : Nat) (s : State) (h : LineInv s) : LineInv (stopChannel ch result s) := by
  unfold stopChannel
  repeat' first
    | with_reducible assumption | with_reducible apply ringResult_lines
    | with_reducible refine lines_of_view (endChannel_line ..) ?_
    | with_reducible refine lines_of_view (freePath_line ..) ?_
    | with_reducible refine lines_of_view (ladleStop_line ..) ?_
    | with_reducible refine lines_of_view (updCh_line ..) ?_ | dsimp only

theorem endNode_line (r : PourRef) (n status : Nat) (s : State) : lineView (endNode r n status s) = lineView s := by
  unfold endNode
  repeat' first | with_reducible rfl | with_reducible refine (updNode_line ..).trans ?_ | dsimp only

theorem settleNode_line (r : PourRef) (n : Nat) (s : State) : lineView (settleNode r n s) = lineView s := by
  unfold settleNode
  repeat' first
    | with_reducible rfl | with_reducible refine (endNode_line ..).trans ?_ | with_reducible apply ite_line | split
    | dsimp only

theorem settleTasks_line (s : State) : lineView (settleTasks s) = lineView s := by
  unfold settleTasks
  repeat' first
    | with_reducible rfl | with_reducible refine (settleNode_line ..).trans ?_
    | (with_reducible refine (foldl_line ?_).trans ?_; intro _ _) | dsimp only

theorem unreserve_line (p : Pattern) (m : NodeRun) (s : State) : lineView (unreserve p m s) = lineView s := by
  unfold unreserve
  repeat' first
    | with_reducible rfl | with_reducible refine (ladleStop_line ..).trans ?_
    | with_reducible refine (updCh_line ..).trans ?_ | with_reducible apply ite_line
    | (with_reducible refine (foldl_line ?_).trans ?_; intro _ _) | split | dsimp only

theorem updNeu_line (r : PourRef) (n : Nat) (f : NeuCmd → NeuCmd) (s : State) : lineView (updNeu r n f s) = lineView
    s := by
  unfold updNeu
  repeat' first | with_reducible rfl | dsimp only

theorem stopNeuBy_line (why : StopKind) (p : Pattern) (r : PourRef) (m : NodeRun) (s : State) : lineView (stopNeuBy
    why p r m s) = lineView s := by
  unfold stopNeuBy
  repeat' first
    | with_reducible rfl | with_reducible refine (unreserve_line ..).trans ?_
    | with_reducible refine (updNeu_line ..).trans ?_ | split | dsimp only

theorem stopNeu_line (p : Pattern) (r : PourRef) (m : NodeRun) (s : State) : lineView (stopNeu p r m s) = lineView
    s := by
  unfold stopNeu
  repeat' first | with_reducible rfl | with_reducible refine (stopNeuBy_line ..).trans ?_ | dsimp only

theorem abortNode_lines (p : Pattern) (r : PourRef) (m : NodeRun) (s : State) (h : LineInv s) : LineInv (abortNode p r
    m s) := by
  unfold abortNode
  repeat' first
    | with_reducible assumption | with_reducible apply lines_ite | with_reducible apply stopChannel_lines
    | with_reducible refine lines_of_view (updNode_line ..) ?_
    | with_reducible refine lines_of_view (unreserve_line ..) ?_
    | with_reducible refine lines_of_view (endNode_line ..) ?_
    | with_reducible refine lines_of_view (ladleStop_line ..) ?_
    | with_reducible refine lines_of_view (stopNeu_line ..) ?_ | (with_reducible apply foldl_lines; intro _ _ _)
    | split | dsimp only

theorem countAbort_line (r : PourRef) (code : EventCode) (s : State) : lineView (countAbort r code s) = lineView
    s := by
  unfold countAbort
  repeat' first
    | with_reducible rfl | with_reducible refine (updSlot_line ..).trans ?_ | with_reducible apply ite_line
    | (with_reducible refine (foldl_line ?_).trans ?_; intro _ _) | split | dsimp only

theorem sendPeer_line (chip : Nat) (words : List Nat) (s : State) : lineView (sendPeer chip words s) = lineView
    s := by
  unfold sendPeer
  repeat' first | with_reducible rfl | dsimp only

theorem withdrawPour_line (r : PourRef) (s : State) : lineView (withdrawPour r s) = lineView s := by
  unfold withdrawPour
  repeat' first | with_reducible rfl | dsimp only

theorem abortPour_lines (code : EventCode) (r : PourRef) (s : State) (h : LineInv s) : LineInv (abortPour code r
    s) := by
  unfold abortPour
  repeat' first
    | with_reducible assumption | with_reducible apply lines_ite | with_reducible apply abortNode_lines
    | with_reducible apply invalidatePour_lines | with_reducible refine lines_of_view (updPour_line ..) ?_
    | with_reducible refine lines_of_view (updSlot_line ..) ?_
    | with_reducible refine lines_of_view (withdrawPour_line ..) ?_
    | with_reducible refine lines_of_view (settleTasks_line ..) ?_
    | with_reducible refine lines_of_view (cancelPour_line ..) ?_
    | with_reducible refine lines_of_view (countAbort_line ..) ?_
    | with_reducible refine lines_of_view (sendPeer_line ..) ?_
    | with_reducible refine lines_of_view (raise_line ..) ?_ | (with_reducible apply foldl_lines; intro _ _ _)
    | split | dsimp only

theorem handPour_line (r : PourRef) (s : State) : lineView (handPour r s) = lineView s := by
  unfold handPour
  repeat' first
    | with_reducible rfl | with_reducible refine (raise_line ..).trans ?_
    | with_reducible refine (updPour_line ..).trans ?_ | with_reducible apply ite_line | split | dsimp only

theorem endTask_lines (slot gen status : Nat) (s : State) (h : LineInv s) : LineInv (endTask slot gen status s) := by
  unfold endTask
  repeat' first
    | with_reducible assumption | with_reducible apply lines_ite | with_reducible apply abortPour_lines
    | with_reducible refine lines_of_view (finishTask_line ..) ?_
    | with_reducible refine lines_of_view (raise_line ..) ?_
    | with_reducible refine lines_of_view (handPour_line ..) ?_
    | with_reducible refine lines_of_view (settleNode_line ..) ?_ | split | dsimp only

theorem cancelAndSettle_line (slot gen : Nat) (s : State) : lineView (cancelAndSettle slot gen s) = lineView s := by
  unfold cancelAndSettle
  repeat' first
    | with_reducible rfl | with_reducible refine (cancelTask_line ..).trans ?_
    | with_reducible refine (settleNode_line ..).trans ?_ | split | dsimp only

theorem clearDevFlags_line (p : Pattern) (slot par : Nat) (s : State) : lineView (clearDevFlags p slot par s) =
    lineView s := by
  unfold clearDevFlags
  repeat' first | with_reducible rfl | with_reducible apply ite_line | split | dsimp only

theorem requestGroup_line (l cls : Nat) (deadline : Option Nat) (serves : Option PourRef) (s : State) : lineView
    (requestGroup l cls deadline serves s) = lineView s := by
  unfold requestGroup
  repeat' first
    | with_reducible rfl | with_reducible refine (ladleRequest_line ..).trans ?_ | with_reducible apply ite_line
    | split | dsimp only

theorem openFlask_lines (r : PourRef) (owner : Bool) (s : State) (h : LineInv s) : LineInv (openFlask r owner s) := by
  unfold openFlask
  repeat' first
    | with_reducible assumption | with_reducible apply lines_ite | with_reducible apply abortPour_lines
    | with_reducible refine lines_of_view (raise_line ..) ?_
    | with_reducible refine lines_of_view (requestGroup_line ..) ?_ | (with_reducible apply foldl_lines; intro _ _ _)
    | split | dsimp only

theorem openPour_lines (slot fs : Nat) (frames : List (Nat × Nat)) (owner : Option (Nat × PourRef)) (s : State) (h :
    LineInv s) : LineInv (openPour slot fs frames owner s) := by
  unfold openPour
  repeat' first
    | with_reducible assumption | with_reducible apply lines_ite | with_reducible apply openFlask_lines
    | with_reducible apply abortPour_lines | with_reducible refine lines_of_view (updSlot_line ..) ?_
    | with_reducible refine lines_of_view (putFlag_line ..) ?_
    | with_reducible refine lines_of_view (clearDevFlags_line ..) ?_
    | with_reducible refine lines_of_view (announce_line ..) ?_
    | with_reducible refine lines_of_view (placeTasks_line ..) ?_ | (with_reducible apply foldl_lines; intro _ _ _)
    | split | dsimp only

theorem skipIn_line (p : Pattern) (slot fs : Nat) (s : State) : lineView (skipIn p slot fs s) = lineView s := by
  unfold skipIn
  repeat' first
    | with_reducible rfl | with_reducible refine (updSlot_line ..).trans ?_
    | with_reducible refine (announceIn_line ..).trans ?_ | dsimp only

theorem skipTrigger_line (slot fs : Nat) (s : State) : lineView (skipTrigger slot fs s) = lineView s := by
  unfold skipTrigger
  repeat' first | with_reducible rfl | with_reducible refine (skipIn_line ..).trans ?_ | dsimp only

theorem dropTrigger_line (slot fs : Nat) (s : State) : lineView (dropTrigger slot fs s) = lineView s := by
  unfold dropTrigger
  repeat' first
    | with_reducible rfl | with_reducible refine (raise_line ..).trans ?_
    | with_reducible refine (skipTrigger_line ..).trans ?_ | dsimp only

theorem dropSource_line (src : Nat × Nat) (fs : Nat) (s : State) : lineView (dropSource src fs s) = lineView s := by
  unfold dropSource
  repeat' first
    | with_reducible rfl | with_reducible refine (raise_line ..).trans ?_
    | with_reducible refine (skipTrigger_line ..).trans ?_ | with_reducible refine (skipIn_line ..).trans ?_ | split
    | dsimp only

theorem deferTrigger_line (d : Deferred) (s : State) : lineView (deferTrigger d s) = lineView s := by
  unfold deferTrigger
  repeat' first
    | with_reducible rfl | with_reducible refine (dropSource_line ..).trans ?_ | with_reducible apply ite_line
    | split | dsimp only

theorem acceptTrigger_lines (slot fs : Nat) (frames : List (Nat × Nat)) (owner : Option (Nat × PourRef)) (s : State)
    (h : LineInv s) : LineInv (acceptTrigger slot fs frames owner s) := by
  unfold acceptTrigger
  repeat' first
    | with_reducible assumption | with_reducible apply lines_ite | with_reducible apply openPour_lines
    | with_reducible refine lines_of_view (dropTrigger_line ..) ?_ | split | dsimp only

theorem plainTrigger_lines (slot stamp : Nat) (owner : Option (Nat × PourRef)) (s : State) (h : LineInv s) : LineInv
    (plainTrigger slot stamp owner s) := by
  unfold plainTrigger
  repeat' first
    | with_reducible assumption | with_reducible apply lines_ite | with_reducible apply acceptTrigger_lines
    | with_reducible refine lines_of_view (deferTrigger_line ..) ?_
    | with_reducible refine lines_of_view (raise_line ..) ?_ | split | dsimp only

theorem fireFlag_lines (f stamp : Nat) (owner : Option (Nat × PourRef)) (s : State) (h : LineInv s) : LineInv
    (fireFlag f stamp owner s) := by
  unfold fireFlag
  repeat' first
    | with_reducible assumption | with_reducible apply lines_ite | with_reducible apply plainTrigger_lines
    | with_reducible refine lines_of_view (putFlag_line ..) ?_ | split | dsimp only

theorem wakeWaits_line (s : State) : lineView (wakeWaits s) = lineView s := by
  unfold wakeWaits
  repeat' first
    | with_reducible rfl | with_reducible refine (settleTasks_line ..).trans ?_
    | with_reducible refine (flagWaits_line ..).trans ?_ | dsimp only

theorem countSets_lines (rec : FlagRec) (ref : PourRef) (k : Nat) (s : State) (h : LineInv s) : LineInv (countSets rec
    ref k s) := by
  unfold countSets
  repeat' first
    | with_reducible assumption | with_reducible apply lines_ite | with_reducible apply abortPour_lines
    | with_reducible apply fireFlag_lines | with_reducible refine lines_of_view (raise_line ..) ?_
    | with_reducible refine lines_of_view (wakeWaits_line ..) ?_
    | with_reducible refine lines_of_view (putFlag_line ..) ?_ | split | dsimp only

theorem setFlag_lines (node f : Nat) (r : Option PourRef) (k : Nat) (s : State) (h : LineInv s) : LineInv (setFlag
    node f r k s) := by
  unfold setFlag
  repeat' first
    | with_reducible assumption | with_reducible apply lines_ite | with_reducible apply countSets_lines
    | with_reducible refine lines_of_view (raise_line ..) ?_ | split | dsimp only

theorem bindLogical_line (c k : Nat) (u : Option Nat) (s : State) : lineView (bindLogical c k u s) = lineView s := by
  unfold bindLogical
  repeat' first | with_reducible rfl | with_reducible apply ite_line | split | dsimp only

theorem withhold_line (c k : Nat) (b : Bool) (s : State) : lineView (withhold c k b s) = lineView s := by
  unfold withhold
  repeat' first | with_reducible rfl | with_reducible apply ite_line | split | dsimp only

theorem updClass_line (c : Nat) (f : ClassTest → ClassTest) (s : State) : lineView (updClass c f s) = lineView s := by
  unfold updClass
  repeat' first | with_reducible rfl | dsimp only

theorem noteTestPhys_line (s : State) : lineView (noteTestPhys s) = lineView s := by
  unfold noteTestPhys
  repeat' first | with_reducible rfl | dsimp only

theorem rebindOne_line (c : Nat) (s : State) (k : Nat) : lineView (rebindOne c s k) = lineView s := by
  unfold rebindOne
  repeat' first
    | with_reducible rfl | with_reducible refine (withhold_line ..).trans ?_
    | with_reducible refine (bindLogical_line ..).trans ?_ | with_reducible apply ite_line | split | dsimp only

theorem settleBindings_line (c : Nat) (s : State) : lineView (settleBindings c s) = lineView s := by
  unfold settleBindings
  repeat' first
    | with_reducible rfl | with_reducible refine (withhold_line ..).trans ?_
    | with_reducible refine (rebindOne_line ..).trans ?_ | with_reducible refine (bindLogical_line ..).trans ?_
    | with_reducible apply ite_line | (with_reducible refine (foldl_line ?_).trans ?_; intro _ _) | split
    | dsimp only

theorem pruneLedger_line (s : State) : lineView (pruneLedger s) = lineView s := by
  unfold pruneLedger
  repeat' first | with_reducible rfl | dsimp only

theorem recallEntry_lines (e : LedgerEntry) (s : State) (h : LineInv s) : LineInv (recallEntry e s) := by
  unfold recallEntry
  repeat' first
    | with_reducible assumption | with_reducible apply pushNotice_lines
    | (with_reducible apply foldl_lines; intro _ _ _) | dsimp only

theorem recallPours_lines (p : LedgerEntry → Bool) (s : State) (h : LineInv s) : LineInv (recallPours p s) := by
  unfold recallPours
  repeat' first
    | with_reducible assumption | with_reducible apply lines_ite | with_reducible apply recallEntry_lines
    | with_reducible apply detectS1_lines | with_reducible refine lines_of_view (pruneLedger_line ..) ?_
    | (with_reducible apply foldl_lines; intro _ _ _) | split | dsimp only

theorem failureEffects_lines (u : Nat) (s : State) (h : LineInv s) : LineInv (failureEffects u s) := by
  unfold failureEffects
  repeat' first
    | with_reducible assumption | with_reducible apply lines_ite | with_reducible apply invalidatePour_lines
    | with_reducible apply recallPours_lines | (with_reducible apply foldl_lines; intro _ _ _) | split | dsimp only

theorem updRun_line (a : Nat) (f : ArrayRun → ArrayRun) (s : State) : lineView (updRun a f s) = lineView s := by
  unfold updRun
  repeat' first | with_reducible rfl | dsimp only

theorem resumeArray_line (a delay : Nat) (s : State) : lineView (resumeArray a delay s) = lineView s := by
  unfold resumeArray
  repeat' first | with_reducible rfl | with_reducible refine (updRun_line ..).trans ?_ | dsimp only

theorem withdrawTarget_line (c : Nat) (s : State) : lineView (withdrawTarget c s) = lineView s := by
  unfold withdrawTarget
  repeat' first
    | with_reducible rfl | with_reducible refine (updClass_line ..).trans ?_
    | with_reducible refine (withhold_line ..).trans ?_ | with_reducible refine (resumeArray_line ..).trans ?_
    | with_reducible apply ite_line | split | dsimp only

theorem realFailure_line (u : Nat) (injected : Bool) (s : State) : lineView (realFailure u injected s) = lineView
    s := by
  unfold realFailure
  repeat' first | with_reducible rfl | with_reducible apply ite_line | split | dsimp only

theorem reportUnit_line (u : Nat) (s : State) : lineView (reportUnit u s) = lineView s := by
  unfold reportUnit
  repeat' first
    | with_reducible rfl | with_reducible refine (sendPeer_line ..).trans ?_ | with_reducible apply ite_line
    | (with_reducible refine (foldl_line ?_).trans ?_; intro _ _) | split | dsimp only

theorem unitFailed_lines (u : Nat) (cause : EventCode) (injected : Bool) (row : Nat) (s : State) (h : LineInv s) :
    LineInv (unitFailed u cause injected row s) := by
  unfold unitFailed
  repeat' first
    | with_reducible assumption | with_reducible apply lines_ite | with_reducible apply detectS1_lines
    | with_reducible apply abortPour_lines | with_reducible apply failureEffects_lines
    | with_reducible apply detectS2_lines | with_reducible refine lines_of_view (realFailure_line ..) ?_
    | with_reducible refine lines_of_view (withdrawTarget_line ..) ?_
    | with_reducible refine lines_of_view (updClass_line ..) ?_
    | with_reducible refine lines_of_view (withhold_line ..) ?_
    | with_reducible refine lines_of_view (settleBindings_line ..) ?_
    | with_reducible refine lines_of_view (reportUnit_line ..) ?_
    | with_reducible refine lines_of_view (noteTestPhys_line ..) ?_ | split | dsimp only

theorem beginTest_line (c u : Nat) (s : State) : lineView (beginTest c u s) = lineView s := by
  unfold beginTest
  repeat' first
    | with_reducible rfl | with_reducible refine (updClass_line ..).trans ?_
    | with_reducible refine (noteTestPhys_line ..).trans ?_ | with_reducible refine (traceTest_line ..).trans ?_
    | dsimp only

theorem rekeyTickets_line (u v : Nat) (s : State) : lineView (rekeyTickets u v s) = lineView s := by
  unfold rekeyTickets
  repeat' first | with_reducible rfl | with_reducible apply ite_line | split | dsimp only

theorem handOver_line (c k t : Nat) (s : State) : lineView (handOver c k t s) = lineView s := by
  unfold handOver
  repeat' first
    | with_reducible rfl | with_reducible refine (withhold_line ..).trans ?_
    | with_reducible refine (bindLogical_line ..).trans ?_ | with_reducible refine (resumeArray_line ..).trans ?_
    | with_reducible refine (rekeyTickets_line ..).trans ?_ | with_reducible refine (noteTestPhys_line ..).trans ?_
    | with_reducible refine (updClass_line ..).trans ?_ | with_reducible apply ite_line | split | dsimp only

theorem roleMoves_line (c : Nat) (s : State) : lineView (roleMoves c s) = lineView s := by
  unfold roleMoves
  repeat' first
    | with_reducible rfl | with_reducible refine (settleBindings_line ..).trans ?_
    | with_reducible refine (handOver_line ..).trans ?_ | with_reducible refine (beginTest_line ..).trans ?_
    | with_reducible apply ite_line | split | dsimp only

theorem settleRoles_line (s : State) : lineView (settleRoles s) = lineView s := by
  unfold settleRoles
  repeat' first
    | with_reducible rfl | with_reducible refine (roleMoves_line ..).trans ?_ | with_reducible apply ite_line
    | (with_reducible refine (foldl_line ?_).trans ?_; intro _ _) | split | dsimp only

theorem viewConflict_lines (u : Nat) (s : State) (h : LineInv s) : LineInv (viewConflict u s) := by
  unfold viewConflict
  repeat' first | with_reducible assumption | with_reducible apply detectS1_lines | dsimp only

theorem takeInjection_line (u : Nat) (k : Injection) (s : State) : lineView ((takeInjection u k s).2) = lineView
    s := by
  unfold takeInjection
  repeat' first | with_reducible rfl | with_reducible apply ite_line | split | dsimp only

theorem updFirst_stalled (p : Batch → Bool) (f : Batch → Batch) (hf : ∀ b, (f b).stalled = b.stalled) (l : List Batch)
    :
    (updFirst p f l).any Batch.stalled = l.any Batch.stalled := by
  induction l with
  | nil => rfl
  | cons b l ih =>
    unfold updFirst
    split
    · rw [List.any_cons, List.any_cons, hf]
    · rw [List.any_cons, List.any_cons, ih]

theorem serveUnit_lines (r : PourRef) (u : Nat) (s : State) (h : LineInv s) : LineInv (serveUnit r u s) := by
  have hs (x : State) (hx : LineInv x) (hd : List Pour) : LineInv { x with asy := { x.asy with
      handed := hd,
      batches := updFirst (fun b => b.ref == r) (fun b => { b with units := b.units ++ [(u, now x)] })
        x.asy.batches } } := by
    refine ⟨fun hl => ?_, hx.2⟩
    obtain ⟨h1, h2, h3, h4⟩ := hx.1 hl
    refine ⟨h1, h2, ?_, h4⟩
    rw [updFirst_stalled]
    · exact h3
    · exact fun _ => rfl
  have hu := hs _ (lines_of_view (updPour_line r (fun q => { q with units := q.units ++ [(u, now s)] }) s) h)
  unfold serveUnit
  dsimp only
  split
  · exact invalidatePour_lines _ _ (hu _)
  · exact hu _

theorem requestMode_line (m : PowerMode) (s : State) : lineView (requestMode m s) = lineView s := by
  unfold requestMode
  repeat' first
    | with_reducible rfl | with_reducible refine (raise_line ..).trans ?_ | with_reducible apply ite_line | split
    | dsimp only

theorem joinWindow_line (ev : Bool) (s : State) : lineView (joinWindow ev s) = lineView s := by
  unfold joinWindow
  repeat' first
    | with_reducible rfl | with_reducible refine (raise_line ..).trans ?_
    | with_reducible refine (requestMode_line ..).trans ?_ | with_reducible apply ite_line | split | dsimp only

theorem presenceFrame_line (f : CellFrame) (s : State) : lineView (presenceFrame f s) = lineView s := by
  unfold presenceFrame
  repeat' first | with_reducible rfl | with_reducible refine (joinWindow_line ..).trans ?_ | split | dsimp only

theorem presenceNode_line (p : Pattern) (q : Pour) (n : NodeRec) (s : State) : lineView (presenceNode p q n s) =
    lineView s := by
  unfold presenceNode
  repeat' first | with_reducible rfl | with_reducible refine (presenceFrame_line ..).trans ?_ | split | dsimp only

theorem holdFrame_line (f : CellFrame) (s : State) : lineView (holdFrame f s) = lineView s := by
  unfold holdFrame
  repeat' first
    | with_reducible rfl | with_reducible refine (raise_line ..).trans ?_ | with_reducible apply ite_line | split
    | dsimp only

theorem watchFrame_line (f : CellFrame) (s : State) : lineView (watchFrame f s) = lineView s := by
  unfold watchFrame
  repeat' first
    | with_reducible rfl | with_reducible refine (holdFrame_line ..).trans ?_
    | with_reducible refine (presenceFrame_line ..).trans ?_ | with_reducible apply ite_line | split | dsimp only

theorem carryOver_line (s : State) : lineView (carryOver s) = lineView s := by
  unfold carryOver
  repeat' first
    | with_reducible rfl | with_reducible refine (presenceFrame_line ..).trans ?_
    | with_reducible refine (joinWindow_line ..).trans ?_ | with_reducible refine (raise_line ..).trans ?_
    | with_reducible apply ite_line | (with_reducible refine (foldl_line ?_).trans ?_; intro _ _) | split
    | dsimp only

theorem startNode_line (r : PourRef) (n : Nat) (s : State) : lineView (startNode r n s) = lineView s := by
  unfold startNode
  repeat' first
    | with_reducible rfl | with_reducible refine (updNode_line ..).trans ?_
    | with_reducible refine (putFlag_line ..).trans ?_ | (with_reducible refine (foldl_line ?_).trans ?_; intro _ _)
    | dsimp only

theorem refuseToken_line (r : PourRef) (n cls : Nat) (res : List Nat) (s : State) : lineView (refuseToken r n cls res
    s) = lineView s := by
  unfold refuseToken
  repeat' first
    | with_reducible rfl | with_reducible refine (endSource_line ..).trans ?_ | with_reducible apply ite_line | split
    | dsimp only

theorem refuseNode_lines (r : PourRef) (n : Nat) (s : State) (h : LineInv s) : LineInv (refuseNode r n s) := by
  unfold refuseNode
  repeat' first
    | with_reducible assumption | with_reducible apply lines_ite | with_reducible apply abortPour_lines
    | with_reducible refine lines_of_view (settleRoles_line ..) ?_
    | with_reducible refine lines_of_view (updNeu_line ..) ?_
    | with_reducible refine lines_of_view (unreserve_line ..) ?_
    | with_reducible refine lines_of_view (refuseToken_line ..) ?_
    | with_reducible refine lines_of_view (endNode_line ..) ?_ | split | dsimp only

theorem requestAll_line (cls : Nat) (deadline : Option Nat) (t : Nat) (r : PourRef) (ids : List Nat) (s : State) :
    lineView (requestAll cls deadline t r ids s).1 = lineView s := by
  induction ids generalizing s with
  | nil => rfl
  | cons id ids ih =>
    unfold requestAll
    dsimp only
    split
    · exact (ih _).trans (ladleRequest_line ..)
    · exact ladleRequest_line ..

theorem selectNode_lines (c : Candidate) (s : State) (h : LineInv s) : LineInv (selectNode c s) := by
  unfold selectNode
  repeat' first
    | with_reducible assumption | with_reducible apply lines_ite | with_reducible apply refuseNode_lines
    | with_reducible refine lines_of_view (startNode_line ..) ?_
    | with_reducible refine lines_of_view (presenceNode_line ..) ?_
    | with_reducible refine lines_of_view (settleTasks_line ..) ?_
    | with_reducible refine lines_of_view (makeReady_line ..) ?_
    | with_reducible refine lines_of_view (updTask_line ..) ?_
    | with_reducible refine lines_of_view (updNode_line ..) ?_
    | with_reducible refine lines_of_view (requestAll_line ..) ?_
    | with_reducible refine lines_of_view (updCh_line ..) ?_ | (with_reducible apply foldl_lines; intro _ _ _)
    | split | dsimp only

theorem fgsTableError_lines (s : State) (h : LineInv s) : LineInv (fgsTableError s) := by
  unfold fgsTableError
  repeat' first
    | with_reducible assumption | with_reducible apply abortPour_lines | with_reducible apply detectS1_lines
    | (with_reducible apply foldl_lines; intro _ _ _) | dsimp only

theorem execFgsNodeSelect_lines (ecc : Ecc) (s : State) (h : LineInv s) : outLines (execFgsNodeSelect ecc s) := by
  unfold execFgsNodeSelect
  repeat' first
    | with_reducible assumption
    | with_reducible refine lines_of_view (noteEcc_line ..) ?_ | with_reducible apply outLines_done | with_reducible apply lines_ite
    | with_reducible apply outLines_ite | with_reducible apply fgsTableError_lines
    | with_reducible apply selectNode_lines | split | dsimp only

theorem execFgsTimerTrigger_lines (slot : Fin 8) (s : State) (h : LineInv s) : outLines (execFgsTimerTrigger slot
    s) := by
  unfold execFgsTimerTrigger
  repeat' first
    | with_reducible assumption | with_reducible apply outLines_done | with_reducible apply lines_ite
    | with_reducible apply outLines_ite | with_reducible apply plainTrigger_lines
    | with_reducible refine lines_of_view (updSlot_line ..) ?_ | split | dsimp only

theorem execAgeOriginReturn_lines (slot : Fin 8) (seq : Word32) (s : State) (h : LineInv s) : outLines
    (execAgeOriginReturn slot seq s) := by
  unfold execAgeOriginReturn
  repeat' first
    | with_reducible assumption | with_reducible apply outLines_done | with_reducible apply lines_ite
    | with_reducible apply outLines_ite | with_reducible refine lines_of_view (updPour_line ..) ?_ | split
    | dsimp only

theorem remoteSets_line (p : Pattern) (node f : Nat) (q : Pour) (s : State) : lineView (remoteSets p node f q s) =
    lineView s := by
  unfold remoteSets
  repeat' first
    | with_reducible rfl | with_reducible refine (sendPeer_line ..).trans ?_ | with_reducible apply ite_line
    | (with_reducible refine (foldl_line ?_).trans ?_; intro _ _) | split | dsimp only

theorem confirmPosted_line (n : Option NodeRec) (s : State) : lineView (confirmPosted n s) = lineView s := by
  unfold confirmPosted
  repeat' first
    | with_reducible rfl | with_reducible refine (updCh_line ..).trans ?_ | with_reducible apply ite_line | split
    | dsimp only

theorem venFlush_line (k u : Nat) (c : VenCmd) (units : List Writes) (upto : Nat) (s : State) : lineView (venFlush k u
    c units upto s) = lineView s := by
  unfold venFlush
  repeat' first | with_reducible rfl | with_reducible refine (applyWrites_line ..).trans ?_ | dsimp only

theorem visionSet_lines (s : State) (p : Pattern) (q : Pour) (n : NodeRec) (flag : Nat) (h : LineInv s) (t : State)
    (ht : visionSet s p q n flag = some t) : LineInv t := by
  unfold visionSet at ht
  dsimp only at ht
  repeat' split at ht
  all_goals first
    | (injection ht with ht; subst ht; first | exact h | exact lines_of_view (venFlush_line ..) h)
    | cases ht

theorem arraySet_lines (s : State) (p : Pattern) (q : Pour) (n : NodeRec) (flag : Nat) (h : LineInv s) (t : State)
    (ht : arraySet s p q n flag = some t) : LineInv t := by
  unfold arraySet at ht
  dsimp only at ht
  repeat' split at ht
  all_goals first | (injection ht with ht; subst ht; exact h) | cases ht

theorem writesMade_lines (s : State) (p : Pattern) (q : Pour) (n : NodeRec) (flag : Nat) (h : LineInv s) (t : State)
    (ht : writesMade s p q n flag = some t) : LineInv t := by
  unfold writesMade at ht
  split at ht
  · exact visionSet_lines s p q n flag h t ht
  · split at ht
    · exact arraySet_lines s p q n flag h t ht
    · injection ht with ht
      subst ht
      exact lines_of_view (confirmPosted_line ..) h

theorem execEngineFlagSet_lines (node flag : Nat) (seq : Word32) (s : State) (h : LineInv s) :
    outLines (execEngineFlagSet node flag seq s) := by
  unfold execEngineFlagSet
  dsimp only
  split
  · exact setFlag_lines _ _ _ _ _ h
  · split
    · exact h
    · split
      · exact setFlag_lines _ _ _ _ _ h
      · split
        · exact setFlag_lines _ _ _ _ _ h
        · cases hw : writesMade s (active s) ‹_› ‹_› flag with
          | none => exact h
          | some t =>
            exact setFlag_lines _ _ _ _ _ (lines_of_view (remoteSets_line ..) (writesMade_lines s _ _ _ flag h t hw))

theorem cutNode_line (r : PourRef) (n : Nat) (s : State) : lineView (cutNode r n s) = lineView s := by
  unfold cutNode
  repeat' first
    | with_reducible rfl | with_reducible refine (updNode_line ..).trans ?_
    | with_reducible refine (raise_line ..).trans ?_ | with_reducible apply ite_line | split | dsimp only

theorem execFgsDeadline_lines (slot : Fin 8) (seq : Word32) (node : Nat) (s : State) (h : LineInv s) : outLines
    (execFgsDeadline slot seq node s) := by
  unfold execFgsDeadline
  repeat' first
    | with_reducible assumption | with_reducible apply outLines_done | with_reducible apply lines_ite
    | with_reducible apply outLines_ite | with_reducible apply abortPour_lines
    | with_reducible refine lines_of_view (cutNode_line ..) ?_
    | with_reducible refine lines_of_view (stopNeuBy_line ..) ?_
    | with_reducible refine lines_of_view (raise_line ..) ?_ | split | dsimp only

theorem retirePour_line (q : Pour) (s : State) : lineView (retirePour q s) = lineView s := by
  unfold retirePour
  repeat' first
    | with_reducible rfl | with_reducible refine (updSlot_line ..).trans ?_ | with_reducible apply ite_line
    | (with_reducible refine (foldl_line ?_).trans ?_; intro _ _) | split | dsimp only

theorem execPourRetire_lines (slot : Fin 8) (seq : Word32) (s : State) (h : LineInv s) : outLines (execPourRetire slot
    seq s) := by
  unfold execPourRetire
  repeat' first
    | with_reducible assumption | with_reducible apply outLines_done | with_reducible apply lines_ite
    | with_reducible apply outLines_ite | with_reducible refine lines_of_view (retirePour_line ..) ?_ | split
    | dsimp only

theorem abortSlots_lines (mask : Nat) (s : State) (h : LineInv s) : LineInv (abortSlots mask s) := by
  unfold abortSlots
  repeat' first
    | with_reducible assumption | with_reducible apply abortPour_lines
    | (with_reducible apply foldl_lines; intro _ _ _) | dsimp only

theorem execFgsAbortWrite_lines (who : Agent) (mask : Byte) (s : State) (h : LineInv s) : outLines (execFgsAbortWrite
    who mask s) := by
  unfold execFgsAbortWrite
  repeat' first
    | with_reducible assumption | with_reducible apply outLines_done | with_reducible apply lines_ite
    | with_reducible apply outLines_ite | with_reducible apply abortSlots_lines | split | dsimp only

theorem writeDrain_line (on : Bool) (s : State) : lineView (writeDrain on s) = lineView s := by
  unfold writeDrain
  repeat' first | with_reducible rfl | dsimp only

theorem execFgsDrain_lines (_who : Agent) (on : Bool) (s : State) (h : LineInv s) : outLines (execFgsDrain _who on
    s) := by
  unfold execFgsDrain
  repeat' first
    | with_reducible assumption | with_reducible apply outLines_done
    | with_reducible refine lines_of_view (writeDrain_line ..) ?_ | dsimp only

theorem execFgsGraphLost_lines (slot : Fin 8) (s : State) (h : LineInv s) : outLines (execFgsGraphLost slot s) := by
  unfold execFgsGraphLost
  repeat' first
    | with_reducible assumption | with_reducible apply outLines_done | with_reducible apply lines_ite
    | with_reducible apply outLines_ite | with_reducible apply detectS1_lines
    | with_reducible refine lines_of_view (updSlot_line ..) ?_ | split | dsimp only

theorem venCut_line (p : Pattern) (q : Pour) (n : NodeRec) (c : VenCmd) (s : State) : lineView ((venCut p q n c s).2)
    = lineView s := by
  unfold venCut
  repeat' first | with_reducible rfl | with_reducible refine (drawFree_line ..).trans ?_ | dsimp only

theorem venBroken_line (p : Pattern) (q : Pour) (n : NodeRec) (c : VenCmd) (s : State) : lineView ((venBroken p q n c
    s).2) = lineView s := by
  unfold venBroken
  repeat' first
    | with_reducible rfl | with_reducible refine (drawFree_line ..).trans ?_ | with_reducible apply ite_line | split
    | dsimp only

theorem venCycles_line (n : NodeRec) (o : VenOutcome) (whole ok : Bool) (elapsed : Nat) (s : State) : lineView
    ((venCycles n o whole ok elapsed s).2) = lineView s := by
  unfold venCycles
  repeat' first
    | with_reducible rfl | with_reducible refine (drawFree_line ..).trans ?_ | with_reducible apply ite_line | split
    | dsimp only

theorem closeInst_line (k status : Nat) (w : VenPart) (whole : Bool) (cyc : Nat × Nat) (s : State) : lineView
    (closeInst k status w whole cyc s) = lineView s := by
  unfold closeInst
  repeat' first
    | with_reducible rfl | with_reducible refine (setHw_line ..).trans ?_ | with_reducible apply ite_line | split
    | dsimp only

theorem otherUnit_lines (r : PourRef) (u y : Nat) (injected : Bool) (s : State) (h : LineInv s) : LineInv (otherUnit r
    u y injected s) := by
  unfold otherUnit
  repeat' first
    | with_reducible assumption | with_reducible apply lines_ite | with_reducible apply viewConflict_lines
    | with_reducible apply serveUnit_lines | with_reducible apply abortPour_lines
    | with_reducible apply unitFailed_lines | with_reducible refine lines_of_view (bindLogical_line ..) ?_ | split
    | dsimp only

theorem idleToken_lines (k : Nat) (s : State) (h : LineInv s) : LineInv (idleToken k s) := by
  unfold idleToken
  repeat' first
    | with_reducible assumption | with_reducible apply unitFailed_lines | with_reducible apply viewConflict_lines
    | split | dsimp only

theorem venFault_lines (how : EngineEnd) (r : PourRef) (u : Nat) (side inj : Bool) (s : State) (h : LineInv s) :
    LineInv (venFault how r u side inj s) := by
  unfold venFault
  repeat' first
    | with_reducible assumption | with_reducible apply lines_ite | with_reducible apply detectS1_lines
    | with_reducible apply viewConflict_lines | with_reducible apply unitFailed_lines
    | with_reducible refine lines_of_view (raise_line ..) ?_ | split | dsimp only

theorem venTokenOut_lines (k u : Nat) (c : VenCmd) (n : NodeRec) (how : EngineEnd) (w : VenPart) (whole : Bool)
    (status : Nat) (view : TokenView) (inj : Bool) (s : State) (h : LineInv s) : LineInv (venTokenOut k u c n how w
    whole status view inj s) := by
  unfold venTokenOut
  repeat' first
    | with_reducible assumption | with_reducible apply lines_ite | with_reducible apply serveUnit_lines
    | with_reducible apply venFault_lines | with_reducible apply abortPour_lines
    | with_reducible refine lines_of_view (applyWrites_line ..) ?_
    | with_reducible refine lines_of_view (raiseAll_line ..) ?_
    | with_reducible refine lines_of_view (venCycles_line ..) ?_
    | with_reducible refine lines_of_view (closeInst_line ..) ?_
    | with_reducible refine lines_of_view (endSource_line ..) ?_
    | with_reducible refine lines_of_view (ladleRelease_line ..) ?_
    | with_reducible refine lines_of_view (updPour_line ..) ?_
    | with_reducible refine lines_of_view (endNode_line ..) ?_ | split | dsimp only

theorem injectedEnd_line (u : Nat) (how : EngineEnd) (s : State) : lineView ((injectedEnd u how s).2.2) = lineView
    s := by
  unfold injectedEnd
  repeat' first
    | with_reducible rfl | with_reducible refine (takeInjection_line ..).trans ?_ | with_reducible apply ite_line
    | split | dsimp only

theorem injectedView_line (u : Nat) (s : State) : lineView ((injectedView u s).2) = lineView s := by
  unfold injectedView
  repeat' first
    | with_reducible rfl | with_reducible refine (takeInjection_line ..).trans ?_
    | with_reducible refine (drawFree_line ..).trans ?_ | with_reducible apply ite_line | split | dsimp only

theorem deniedEnd_lines (u : Nat) (c : VenCmd) (p : Pattern) (q : Pour) (n : NodeRec) (how : EngineEnd) (s : State) (h
    : LineInv s) : LineInv (deniedEnd u c p q n how s).2 := by
  unfold deniedEnd
  repeat' first | with_reducible assumption | with_reducible apply reportDenied_lines | split | dsimp only

theorem leavePours_line (s : State) : lineView (leavePours s) = lineView s := rfl

theorem venEnd_lines (k u : Nat) (c : VenCmd) (p : Pattern) (q : Pour) (n : NodeRec) (how : EngineEnd) (view :
    TokenView) (s : State) (h : LineInv s) : LineInv (venEnd k u c p q n how view s) := by
  unfold venEnd
  repeat' first
    | with_reducible assumption | with_reducible apply lines_ite | with_reducible apply deniedEnd_lines
    | with_reducible apply venTokenOut_lines | with_reducible apply otherUnit_lines
    | with_reducible refine lines_of_view (injectedEnd_line ..) ?_
    | with_reducible refine lines_of_view (venCut_line ..) ?_
    | with_reducible refine lines_of_view (venBroken_line ..) ?_
    | with_reducible refine lines_of_view (injectedView_line ..) ?_
    | with_reducible refine lines_of_view (leavePours_line ..) ?_
    | with_reducible refine lines_of_view (roleMoves_line ..) ?_ | split | dsimp only

theorem execVenCommandEnd_lines (k : Fin 13) (how : EngineEnd) (view : TokenView) (s : State) (h : LineInv s) :
    outLines (execVenCommandEnd k how view s) := by
  unfold execVenCommandEnd
  repeat' first
    | with_reducible assumption | with_reducible apply outLines_done | with_reducible apply idleToken_lines
    | with_reducible apply venEnd_lines | split | dsimp only

theorem sendLines_line (p : Pattern) (n : NodeRec) (r : PourRef) (l : Layer) (ws : List (Nat × Nat × List Byte)) (s :
    State) : lineView (sendLines p n r l ws s) = lineView s := by
  unfold sendLines
  repeat' first
    | with_reducible rfl | with_reducible refine (sendPeer_line ..).trans ?_ | with_reducible apply ite_line
    | (with_reducible refine (foldl_line ?_).trans ?_; intro _ _) | split | dsimp only

theorem sendLayer_line (p : Pattern) (n : NodeRec) (c : NeuCmd) (l : Layer) (s : State) : lineView (sendLayer p n c l
    s) = lineView s := by
  unfold sendLayer
  repeat' first
    | with_reducible rfl | with_reducible refine (sendPeer_line ..).trans ?_ | with_reducible apply ite_line
    | (with_reducible refine (foldl_line ?_).trans ?_; intro _ _) | split | dsimp only

theorem openExchange_line (p : Pattern) (n : NodeRec) (c : NeuCmd) (s : State) : lineView (openExchange p n c s) =
    lineView s := by
  unfold openExchange
  repeat' first
    | with_reducible rfl | with_reducible refine (requestGroup_line ..).trans ?_ | with_reducible apply ite_line
    | (with_reducible refine (foldl_line ?_).trans ?_; intro _ _) | split | dsimp only

theorem armBarrier_line (r : PourRef) (node : Nat) (s : State) : lineView (armBarrier r node s) = lineView s := by
  unfold armBarrier
  repeat' first
    | with_reducible rfl | with_reducible refine (sendLayer_line ..).trans ?_
    | with_reducible refine (updNeu_line ..).trans ?_ | with_reducible apply ite_line | split | dsimp only

theorem beginArray_line (r : PourRef) (node a : Nat) (s : State) : lineView (beginArray r node a s) = lineView s := by
  unfold beginArray
  repeat' first
    | with_reducible rfl | with_reducible refine (startNode_line ..).trans ?_
    | with_reducible refine (updNeu_line ..).trans ?_ | with_reducible refine (beginSource_line ..).trans ?_
    | with_reducible refine (openExchange_line ..).trans ?_ | with_reducible refine (armBarrier_line ..).trans ?_
    | with_reducible apply ite_line | split | dsimp only

theorem stopArray_line (c : NeuCmd) (status layers detail : Nat) (x : ArrayRun) (s : State) : lineView (stopArray c
    status layers detail x s) = lineView s := by
  unfold stopArray
  repeat' first
    | with_reducible rfl | with_reducible refine (ladleRelease_line ..).trans ?_
    | with_reducible refine (endSource_line ..).trans ?_ | with_reducible refine (ladleStop_line ..).trans ?_
    | with_reducible apply ite_line | split | dsimp only

theorem neuEnd_lines (c : NeuCmd) (status detail : Nat) (view : TokenView) (s : State) (h : LineInv s) : LineInv
    (neuEnd c status detail view s) := by
  unfold neuEnd
  repeat' first
    | with_reducible assumption | with_reducible apply lines_ite | with_reducible apply serveUnit_lines
    | with_reducible apply otherUnit_lines | with_reducible refine lines_of_view (stopArray_line ..) ?_
    | with_reducible refine lines_of_view (endNode_line ..) ?_
    | with_reducible refine lines_of_view (injectedView_line ..) ?_
    | with_reducible refine lines_of_view (roleMoves_line ..) ?_ | (with_reducible apply foldl_lines; intro _ _ _)
    | split | dsimp only

theorem countResult_line (c : NeuCmd) (t : TileResult) (s : State) : lineView (countResult c t s) = lineView s := by
  unfold countResult
  repeat' first
    | with_reducible rfl | with_reducible refine (updNeu_line ..).trans ?_
    | with_reducible refine (raise_line ..).trans ?_ | with_reducible apply ite_line | split | dsimp only

theorem passTile_line (c : NeuCmd) (n : NodeRec) (l : Layer) (a u : Nat) (x : ArrayRun) (s : State) : lineView
    (passTile c n l a u x s) = lineView s := by
  unfold passTile
  repeat' first
    | with_reducible rfl | with_reducible refine (countResult_line ..).trans ?_
    | with_reducible refine (updRun_line ..).trans ?_ | with_reducible refine (updNeu_line ..).trans ?_
    | with_reducible apply ite_line | split | dsimp only

theorem storeLine_line (s : State) (ws : List (Nat × Nat × List Byte)) : lineView (storeLine s ws) = lineView s := by
  unfold storeLine
  repeat' first | with_reducible rfl | with_reducible refine (applyElems_line ..).trans ?_ | dsimp only

theorem discardRun_line (store : Bool) (x : ArrayRun) (s : State) : lineView (discardRun store x s) = lineView s := by
  unfold discardRun
  repeat' first
    | with_reducible rfl | with_reducible refine (drawFree_line ..).trans ?_
    | with_reducible refine (storeLine_line ..).trans ?_ | with_reducible apply ite_line
    | (with_reducible refine (foldl_line ?_).trans ?_; intro _ _) | split | dsimp only

theorem discardStages_line (c : NeuCmd) (fault : Option Nat) (s : State) : lineView (discardStages c fault s) =
    lineView s := by
  unfold discardStages
  repeat' first
    | with_reducible rfl | with_reducible refine (discardRun_line ..).trans ?_ | with_reducible apply ite_line
    | (with_reducible refine (foldl_line ?_).trans ?_; intro _ _) | split | dsimp only

theorem neuFault_lines (c : NeuCmd) (u : Nat) (how : TileEnd) (inj : Bool) (store : Option Nat) (s : State) (h :
    LineInv s) : LineInv (neuFault c u how inj store s) := by
  unfold neuFault
  repeat' first
    | with_reducible assumption | with_reducible apply lines_ite | with_reducible apply neuEnd_lines
    | with_reducible apply detectS1_lines | with_reducible apply abortPour_lines
    | with_reducible apply unitFailed_lines | with_reducible refine lines_of_view (discardStages_line ..) ?_
    | with_reducible refine lines_of_view (raise_line ..) ?_ | split | dsimp only

theorem flushRun_lines (r : PourRef) (node a : Nat) (s : State) (h : LineInv s) : LineInv (flushRun r node a s) := by
  unfold flushRun
  repeat' first
    | with_reducible assumption | with_reducible apply lines_ite | with_reducible apply neuFault_lines
    | with_reducible apply reportDenied_lines | with_reducible refine lines_of_view (storeLine_line ..) ?_
    | with_reducible refine lines_of_view (sendLines_line ..) ?_
    | with_reducible refine lines_of_view (updRun_line ..) ?_ | (with_reducible apply foldl_lines; intro _ _ _)
    | split | dsimp only

theorem flushStages_lines (s : State) (h : LineInv s) : LineInv (flushStages s) := by
  unfold flushStages
  repeat' first
    | with_reducible assumption | with_reducible apply lines_ite | with_reducible apply flushRun_lines
    | with_reducible refine lines_of_view (armBarrier_line ..) ?_ | (with_reducible apply foldl_lines; intro _ _ _)
    | split | dsimp only

theorem updBuf_line (ph : Nat) (f : LocalBuf → LocalBuf) (s : State) : lineView (updBuf ph f s) = lineView s := by
  unfold updBuf
  repeat' first | with_reducible rfl | dsimp only

theorem fillHalf_line (p : Pattern) (l : Layer) (seq t k ph : Nat) (s : State) : lineView (fillHalf p l seq t k ph s)
    = lineView s := by
  unfold fillHalf
  repeat' first | with_reducible rfl | with_reducible refine (updBuf_line ..).trans ?_ | dsimp only

theorem fillRun_line (r : PourRef) (node a : Nat) (s : State) : lineView (fillRun r node a s) = lineView s := by
  unfold fillRun
  repeat' first
    | with_reducible rfl | with_reducible refine (updBuf_line ..).trans ?_
    | with_reducible refine (updRun_line ..).trans ?_ | with_reducible refine (fillHalf_line ..).trans ?_
    | with_reducible apply ite_line | split | dsimp only

theorem fillBuffers_line (s : State) : lineView (fillBuffers s) = lineView s := by
  unfold fillBuffers
  repeat' first
    | with_reducible rfl | with_reducible refine (fillRun_line ..).trans ?_
    | (with_reducible refine (foldl_line ?_).trans ?_; intro _ _) | dsimp only

theorem endTile_lines (c : NeuCmd) (n : NodeRec) (l : Layer) (a u : Nat) (x : ArrayRun) (how : TileEnd) (s : State) (h
    : LineInv s) : LineInv (endTile c n l a u x how s) := by
  unfold endTile
  repeat' first
    | with_reducible assumption
    | with_reducible refine lines_of_view (countSel_line ..) ?_ | with_reducible apply lines_ite | with_reducible apply neuFault_lines
    | with_reducible apply reportDenied_lines | with_reducible refine lines_of_view (takeInjection_line ..) ?_
    | with_reducible refine lines_of_view (passTile_line ..) ?_
    | with_reducible refine lines_of_view (drawFree_line ..) ?_ | split | dsimp only

theorem execNeuTileEnd_lines (a : Fin 16) (how : TileEnd) (s : State) (h : LineInv s) : outLines (execNeuTileEnd a how
    s) := by
  unfold execNeuTileEnd
  repeat' first
    | with_reducible assumption | with_reducible apply outLines_done | with_reducible apply lines_ite
    | with_reducible apply outLines_ite | with_reducible apply endTile_lines | split | dsimp only

theorem nextLayer_lines (r : PourRef) (n : NodeRec) (view : TokenView) (s : State) (h : LineInv s) : LineInv
    (nextLayer r n view s) := by
  unfold nextLayer
  repeat' first
    | with_reducible assumption | with_reducible apply lines_ite | with_reducible apply neuEnd_lines
    | with_reducible refine lines_of_view (updNeu_line ..) ?_
    | with_reducible refine lines_of_view (openExchange_line ..) ?_
    | with_reducible refine lines_of_view (armBarrier_line ..) ?_ | split | dsimp only

theorem passBarrier_lines (c : NeuCmd) (n : NodeRec) (l : Layer) (view : TokenView) (s : State) (h : LineInv s) :
    LineInv (passBarrier c n l view s) := by
  unfold passBarrier
  repeat' first
    | with_reducible assumption | with_reducible apply neuFault_lines | with_reducible apply reportDenied_lines
    | with_reducible apply nextLayer_lines | with_reducible refine lines_of_view (countResult_line ..) ?_
    | with_reducible refine lines_of_view (applyElems_line ..) ?_ | split | dsimp only

theorem execNeuLayerBarrier_lines (node : Nat) (seq : Word32) (view : TokenView) (s : State) (h : LineInv s) :
    outLines (execNeuLayerBarrier node seq view s) := by
  unfold execNeuLayerBarrier
  repeat' first
    | with_reducible assumption | with_reducible apply outLines_done | with_reducible apply lines_ite
    | with_reducible apply outLines_ite | with_reducible apply passBarrier_lines | split | dsimp only

theorem execNeuArrayStopped_lines (node : Nat) (seq : Word32) (s : State) (h : LineInv s) : outLines
    (execNeuArrayStopped node seq s) := by
  unfold execNeuArrayStopped
  repeat' first
    | with_reducible assumption | with_reducible apply outLines_done | with_reducible apply lines_ite
    | with_reducible apply outLines_ite | with_reducible apply neuEnd_lines | with_reducible apply abortPour_lines
    | with_reducible refine lines_of_view (discardStages_line ..) ?_ | split | dsimp only

end Sys2Proof.Machine
end

