-- ==== Sys2Proof/Laws/LineUnits.lean ====
section
/-! SUPPORT. The safety lines across the Runners, the cameras and ISP pipes, the scheduler, the Riser threads and the rotation: a function
that touches nothing they read leaves it as it is (_line); any other keeps them justified (_lines). -/

set_option linter.unusedTactic false
set_option linter.unusedVariables false
set_option linter.unreachableTactic false
set_option linter.unusedSimpArgs false

namespace Sys2Proof.Machine

theorem givePath_line (i ch : Nat) (s : State) : lineView (givePath i ch s) = lineView s := by
  unfold givePath
  repeat' first | with_reducible rfl | with_reducible refine (updCh_line ..).trans ?_ | dsimp only

theorem assignPaths_line (s : State) : lineView (assignPaths s) = lineView s := by
  unfold assignPaths
  repeat' first
    | with_reducible rfl | with_reducible refine (givePath_line ..).trans ?_ | with_reducible apply ite_line
    | (with_reducible refine (foldl_line ?_).trans ?_; intro _ _) | split | dsimp only

theorem failChannel_lines (ch result : Nat) (code : EventCode) (s : State) (h : LineInv s) : LineInv (failChannel ch
    result code s) := by
  unfold failChannel
  repeat' first
    | with_reducible assumption | with_reducible apply ringResult_lines | with_reducible apply abortPour_lines
    | with_reducible refine lines_of_view (freePath_line ..) ?_
    | with_reducible refine lines_of_view (ladleStop_line ..) ?_
    | with_reducible refine lines_of_view (endChannel_line ..) ?_
    | with_reducible refine lines_of_view (updCh_line ..) ?_
    | with_reducible refine lines_of_view (endNode_line ..) ?_ | split | dsimp only

theorem descError_lines (ch result : Nat) (code : EventCode) (s : State) (h : LineInv s) : LineInv (descError ch
    result code s) := by
  unfold descError
  repeat' first
    | with_reducible assumption | with_reducible apply failChannel_lines
    | with_reducible refine lines_of_view (assignPaths_line ..) ?_
    | with_reducible refine lines_of_view (raise_line ..) ?_ | dsimp only

theorem haltAll_line (s : State) : lineView (haltAll s) = lineView s := by
  unfold haltAll
  repeat' first
    | with_reducible rfl | with_reducible refine (updCh_line ..).trans ?_
    | with_reducible refine (freePath_line ..).trans ?_ | with_reducible refine (ladleStop_line ..).trans ?_
    | with_reducible apply ite_line | (with_reducible refine (foldl_line ?_).trans ?_; intro _ _) | split
    | dsimp only

theorem busError_lines (ch kind : Nat) (isWrite : Bool) (addr : Nat) (s : State) (h : LineInv s) : LineInv (busError
    ch kind isWrite addr s) := by
  unfold busError
  repeat' first
    | with_reducible assumption | with_reducible apply lines_ite | with_reducible apply detectS1_lines
    | with_reducible apply failChannel_lines | with_reducible refine lines_of_view (raise_line ..) ?_
    | with_reducible refine lines_of_view (haltAll_line ..) ?_ | split | dsimp only

theorem requestChannel_lines (ch : Nat) (s : State) (h : LineInv s) : LineInv (requestChannel ch s) := by
  unfold requestChannel
  repeat' first
    | with_reducible assumption | with_reducible apply lines_ite | with_reducible apply abortPour_lines
    | with_reducible refine lines_of_view (ladleRequest_line ..) ?_
    | with_reducible refine lines_of_view (updCh_line ..) ?_
    | with_reducible refine lines_of_view (endNode_line ..) ?_ | split | dsimp only

theorem startChannel_lines (ch : Nat) (s : State) (h : LineInv s) : LineInv (startChannel ch s) := by
  unfold startChannel
  repeat' first
    | with_reducible assumption | with_reducible apply lines_ite | with_reducible apply requestChannel_lines
    | with_reducible refine lines_of_view (raise_line ..) ?_ | with_reducible refine lines_of_view (updCh_line ..) ?_
    | split | dsimp only

theorem softStop_lines (ch : Nat) (s : State) (h : LineInv s) : LineInv (softStop ch s) := by
  unfold softStop
  repeat' first
    | with_reducible assumption | with_reducible apply lines_ite | with_reducible apply stopChannel_lines
    | with_reducible refine lines_of_view (raise_line ..) ?_
    | with_reducible refine lines_of_view (assignPaths_line ..) ?_ | split | dsimp only

theorem ringDoorbell_line (ch : Nat) (s : State) : lineView (ringDoorbell ch s) = lineView s := by
  unfold ringDoorbell
  repeat' first
    | with_reducible rfl | with_reducible refine (assignPaths_line ..).trans ?_
    | with_reducible refine (updCh_line ..).trans ?_ | with_reducible apply ite_line | split | dsimp only

theorem clearError_line (ch : Nat) (s : State) : lineView (clearError ch s) = lineView s := by
  unfold clearError
  repeat' first
    | with_reducible rfl | with_reducible refine (updCh_line ..).trans ?_ | with_reducible apply ite_line | split
    | dsimp only

theorem resumeDma_lines (s : State) (h : LineInv s) : LineInv (resumeDma s) := by
  unfold resumeDma
  repeat' first
    | with_reducible assumption | with_reducible apply lines_ite | with_reducible apply requestChannel_lines
    | with_reducible refine lines_of_view (raise_line ..) ?_ | (with_reducible apply foldl_lines; intro _ _ _)
    | split | dsimp only

theorem execDmaStart_lines (who : Agent) (ch : Fin 32) (s : State) (h : LineInv s) : outLines (execDmaStart who ch
    s) := by
  unfold execDmaStart
  repeat' first
    | with_reducible assumption | with_reducible apply outLines_done | with_reducible apply lines_ite
    | with_reducible apply outLines_ite | with_reducible apply startChannel_lines | split | dsimp only

theorem execDmaDoorbell_lines (who : Agent) (ch : Fin 32) (s : State) (h : LineInv s) : outLines (execDmaDoorbell who
    ch s) := by
  unfold execDmaDoorbell
  repeat' first
    | with_reducible assumption | with_reducible apply outLines_done | with_reducible apply lines_ite
    | with_reducible apply outLines_ite | with_reducible refine lines_of_view (ringDoorbell_line ..) ?_ | split
    | dsimp only

theorem execDmaStop_lines (who : Agent) (ch : Fin 32) (s : State) (h : LineInv s) : outLines (execDmaStop who ch
    s) := by
  unfold execDmaStop
  repeat' first
    | with_reducible assumption | with_reducible apply outLines_done | with_reducible apply lines_ite
    | with_reducible apply outLines_ite | with_reducible apply softStop_lines | split | dsimp only

theorem execDmaClearErr_lines (who : Agent) (ch : Fin 32) (s : State) (h : LineInv s) : outLines (execDmaClearErr who
    ch s) := by
  unfold execDmaClearErr
  repeat' first
    | with_reducible assumption | with_reducible apply outLines_done | with_reducible apply lines_ite
    | with_reducible apply outLines_ite | with_reducible refine lines_of_view (clearError_line ..) ?_ | split
    | dsimp only

theorem execDmaResume_lines (who : Agent) (s : State) (h : LineInv s) : outLines (execDmaResume who s) := by
  unfold execDmaResume
  repeat' first
    | with_reducible assumption | with_reducible apply outLines_done | with_reducible apply lines_ite
    | with_reducible apply outLines_ite | with_reducible apply resumeDma_lines | split | dsimp only

theorem beginChannel_line (ch : Nat) (s : State) : lineView (beginChannel ch s) = lineView s := by
  unfold beginChannel
  repeat' first
    | with_reducible rfl | with_reducible refine (updCh_line ..).trans ?_
    | with_reducible refine (beginSource_line ..).trans ?_ | with_reducible refine (assignPaths_line ..).trans ?_
    | with_reducible apply ite_line | split | dsimp only

theorem bindChannels_lines (p : Pattern) (s : State) (h : LineInv s) : LineInv (bindChannels p s) := by
  unfold bindChannels
  repeat' first
    | with_reducible assumption | with_reducible apply lines_ite | with_reducible apply stopChannel_lines
    | (with_reducible apply foldl_lines; intro _ _ _) | split | dsimp only

theorem refuseHolder_lines (id : Nat) (s : State) (h : LineInv s) : LineInv (refuseHolder id s) := by
  unfold refuseHolder
  repeat' first
    | with_reducible assumption | with_reducible apply refuseNode_lines
    | with_reducible refine lines_of_view (updCh_line ..) ?_ | split | dsimp only

theorem refuseHead_lines (r : Request) (s : State) (h : LineInv s) : LineInv (refuseHead r s) := by
  unfold refuseHead
  repeat' first
    | with_reducible assumption | with_reducible apply refuseHolder_lines
    | with_reducible refine lines_of_view (raise_line ..) ?_
    | with_reducible refine lines_of_view (withdrawRequest_line ..) ?_ | dsimp only

theorem execLadleGrant_lines (s : State) (h : LineInv s) : outLines (execLadleGrant s) := by
  unfold execLadleGrant
  repeat' first
    | with_reducible assumption | with_reducible apply outLines_done | with_reducible apply lines_ite
    | with_reducible apply outLines_ite | with_reducible apply refuseHead_lines
    | with_reducible refine lines_of_view (countSel_line ..) ?_
    | with_reducible refine lines_of_view (takeGrant_line ..) ?_ | split | dsimp only

theorem beginVision_line (r : PourRef) (node k u : Nat) (s : State) : lineView (beginVision r node k u s) = lineView
    s := by
  unfold beginVision
  repeat' first
    | with_reducible rfl | with_reducible refine (beginSource_line ..).trans ?_
    | with_reducible refine (startNode_line ..).trans ?_ | split | dsimp only

theorem beginIsp_line (r : PourRef) (node port : Nat) (s : State) : lineView (beginIsp r node port s) = lineView
    s := by
  unfold beginIsp
  repeat' first
    | with_reducible rfl | with_reducible refine (startNode_line ..).trans ?_
    | with_reducible refine (ladleRelease_line ..).trans ?_ | with_reducible refine (endNode_line ..).trans ?_
    | with_reducible apply ite_line | split | dsimp only

theorem joinGroup_line (l : Nat) (s : State) : lineView (joinGroup l s) = lineView s := by
  unfold joinGroup
  repeat' first | with_reducible rfl | dsimp only

theorem beginGroup_line (l : Nat) (s : State) : lineView (beginGroup l s) = lineView s := by
  unfold beginGroup
  repeat' first
    | with_reducible rfl | with_reducible refine (sendPeer_line ..).trans ?_
    | with_reducible refine (joinGroup_line ..).trans ?_ | dsimp only

theorem beginHolder_line (id : Nat) (s : State) : lineView (beginHolder id s) = lineView s := by
  unfold beginHolder
  repeat' first
    | with_reducible rfl | with_reducible refine (beginArray_line ..).trans ?_
    | with_reducible refine (beginVision_line ..).trans ?_ | with_reducible refine (beginIsp_line ..).trans ?_
    | with_reducible refine (beginChannel_line ..).trans ?_ | with_reducible refine (beginGroup_line ..).trans ?_
    | with_reducible apply ite_line | split | dsimp only

theorem writeCeiling_line (v : Nat) (s : State) : lineView (writeCeiling v s) = lineView s := by
  unfold writeCeiling
  repeat' first
    | with_reducible rfl | with_reducible refine (raise_line ..).trans ?_ | with_reducible apply ite_line | split
    | dsimp only

theorem execLadleCeilingWrite_lines (_who : Agent) (ceiling : BitVec 10) (s : State) (h : LineInv s) : outLines
    (execLadleCeilingWrite _who ceiling s) := by
  unfold execLadleCeilingWrite
  repeat' first
    | with_reducible assumption | with_reducible apply outLines_done
    | with_reducible refine lines_of_view (writeCeiling_line ..) ?_ | dsimp only

theorem execLdlOverrun_lines (s : State) (h : LineInv s) : outLines (execLdlOverrun s) := by
  unfold execLdlOverrun
  repeat' first
    | with_reducible assumption | with_reducible apply outLines_done | with_reducible apply lines_ite
    | with_reducible apply outLines_ite | with_reducible apply detectS1_lines
    | with_reducible apply invalidatePour_lines | (with_reducible apply foldl_lines; intro _ _ _) | split
    | dsimp only

theorem updCam_line (p : Nat) (f : Camera → Camera) (s : State) : lineView (updCam p f s) = lineView s := by
  unfold updCam
  repeat' first | with_reducible rfl | dsimp only

theorem writeRow_lines (watch : Bool) (f : Frame) (y : Nat) (s : State) (h : LineInv s) : LineInv (writeRow watch f y
    s) := by
  unfold writeRow
  repeat' first
    | with_reducible assumption | with_reducible apply lines_ite | with_reducible apply unitWrite_lines | split
    | dsimp only

theorem writeRows_lines (watch : Bool) (f : Frame) (a b : Nat) (s : State) (h : LineInv s) : LineInv (writeRows watch
    f a b s) := by
  unfold writeRows
  repeat' first
    | with_reducible assumption | with_reducible apply writeRow_lines
    | (with_reducible apply foldl_lines; intro _ _ _) | dsimp only

theorem damageFrame_lines (p : Nat) (k : Nat) (code : EventCode) (s : State) (h : LineInv s) : LineInv (damageFrame p
    k code s) := by
  unfold damageFrame
  repeat' first
    | with_reducible assumption | with_reducible apply lines_ite | with_reducible apply abortPour_lines
    | with_reducible refine lines_of_view (updCam_line ..) ?_ | split | dsimp only

theorem pushRow_lines (p : Nat) (px : List Nat) (extra : Nat) (got : Bool) (s : State) (h : LineInv s) : LineInv
    (pushRow p px extra got s) := by
  unfold pushRow
  repeat' first
    | with_reducible assumption | with_reducible apply writeRows_lines | with_reducible apply damageFrame_lines
    | with_reducible refine lines_of_view (updCam_line ..) ?_ | split | dsimp only

theorem extraRow_lines (p : Nat) (f : Frame) (s : State) (h : LineInv s) : LineInv (extraRow p f s) := by
  unfold extraRow
  repeat' first
    | with_reducible assumption | with_reducible apply lines_ite | with_reducible apply unitWrite_lines
    | with_reducible apply damageFrame_lines | with_reducible refine lines_of_view (raiseCamOnce_line ..) ?_
    | with_reducible refine lines_of_view (updCam_line ..) ?_ | split | dsimp only

theorem takeRow_lines (p : Nat) (px : List Nat) (extra : Nat) (s : State) (h : LineInv s) : LineInv (takeRow p px
    extra s) := by
  unfold takeRow
  repeat' first
    | with_reducible assumption | with_reducible apply lines_ite | with_reducible apply extraRow_lines
    | with_reducible apply pushRow_lines | with_reducible refine lines_of_view (raiseCamOnce_line ..) ?_
    | with_reducible refine lines_of_view (updCam_line ..) ?_ | (with_reducible apply foldl_lines; intro _ _ _)
    | split | dsimp only

theorem lostRow_lines (p : Nat) (s : State) (h : LineInv s) : LineInv (lostRow p s) := by
  unfold lostRow
  repeat' first
    | with_reducible assumption | with_reducible apply lines_ite | with_reducible apply extraRow_lines
    | with_reducible apply pushRow_lines | with_reducible refine lines_of_view (updCam_line ..) ?_ | split
    | dsimp only

theorem ispSet_lines (node : Nat) (r : PourRef) (f k : Nat) (s : State) (h : LineInv s) : LineInv (ispSet node r f k
    s) := by
  unfold ispSet
  repeat' first
    | with_reducible assumption | with_reducible apply lines_ite | with_reducible apply countSets_lines
    | with_reducible refine lines_of_view (raise_line ..) ?_ | split | dsimp only

theorem frameSets_lines (p : Nat) (f : Frame) (flags : List Nat) (s : State) (h : LineInv s) : LineInv (frameSets p f
    flags s) := by
  unfold frameSets
  repeat' first
    | with_reducible assumption | with_reducible apply lines_ite | with_reducible apply ispSet_lines
    | with_reducible refine lines_of_view (raise_line ..) ?_ | (with_reducible apply foldl_lines; intro _ _ _)
    | split | dsimp only

theorem setAux_lines (p : Nat) (f : Frame) (s : State) (h : LineInv s) : LineInv (setAux p f s) := by
  unfold setAux
  repeat' first | with_reducible assumption | with_reducible apply frameSets_lines | dsimp only

theorem closeFrame_lines (p : Nat) (force : Option EventCode) (s : State) (h : LineInv s) : LineInv (closeFrame p
    force s) := by
  unfold closeFrame
  repeat' first
    | with_reducible assumption | with_reducible apply lines_ite | with_reducible apply writeRows_lines
    | with_reducible apply unitWrite_lines | with_reducible apply setAux_lines | with_reducible apply abortPour_lines
    | with_reducible refine lines_of_view (raiseCamOnce_line ..) ?_
    | with_reducible refine lines_of_view (updCam_line ..) ?_
    | with_reducible refine lines_of_view (endSource_line ..) ?_ | (with_reducible apply foldl_lines; intro _ _ _)
    | split | dsimp only

theorem openFrame_line (p : Nat) (cfg : IspCfg) (s : State) : lineView (openFrame p cfg s) = lineView s := by
  unfold openFrame
  repeat' first
    | with_reducible rfl | with_reducible refine (updCam_line ..).trans ?_
    | with_reducible refine (beginSource_line ..).trans ?_ | dsimp only

theorem fixOrigin_line (r : PourRef) (fs : Nat × Nat) (s : State) : lineView (fixOrigin r fs s) = lineView s := by
  unfold fixOrigin
  repeat' first | with_reducible rfl | with_reducible refine (updPour_line ..).trans ?_ | dsimp only

theorem fillBands_line (r : PourRef) (ports : List Nat) (s : State) : lineView (fillBands r ports s) = lineView
    s := by
  unfold fillBands
  repeat' first
    | with_reducible rfl | with_reducible refine (putFlag_line ..).trans ?_
    | (with_reducible refine (foldl_line ?_).trans ?_; intro _ _) | dsimp only

theorem abortDamaged_lines (r : PourRef) (d : Option EventCode) (s : State) (h : LineInv s) : LineInv (abortDamaged r
    d s) := by
  unfold abortDamaged
  repeat' first | with_reducible assumption | with_reducible apply abortPour_lines | split | dsimp only

theorem openWhole_lines (slot : Nat) (frames : List (Nat × Nat)) (fs : Nat × Nat) (damage : Option EventCode) (s :
    State) (h : LineInv s) : LineInv (openWhole slot frames fs damage s) := by
  unfold openWhole
  repeat' first
    | with_reducible assumption | with_reducible apply lines_ite | with_reducible apply openPour_lines
    | with_reducible apply abortDamaged_lines | with_reducible refine lines_of_view (dropTrigger_line ..) ?_
    | with_reducible refine lines_of_view (fixOrigin_line ..) ?_
    | with_reducible refine lines_of_view (fillBands_line ..) ?_ | split | dsimp only

theorem pairTrigger_lines (slot : Nat) (fs : List PortFrame) (s : State) (h : LineInv s) : LineInv (pairTrigger slot
    fs s) := by
  unfold pairTrigger
  repeat' first
    | with_reducible assumption | with_reducible apply lines_ite | with_reducible apply openWhole_lines
    | with_reducible refine lines_of_view (fixOrigin_line ..) ?_
    | with_reducible refine lines_of_view (deferTrigger_line ..) ?_
    | with_reducible refine lines_of_view (raise_line ..) ?_ | split | dsimp only

theorem raiseSkew_line (ports : List Nat) (s : State) : lineView (raiseSkew ports s) = lineView s := by
  unfold raiseSkew
  repeat' first
    | with_reducible rfl | with_reducible refine (raise_line ..).trans ?_
    | with_reducible refine (noteCam_line ..).trans ?_ | with_reducible refine (markCam_line ..).trans ?_
    | with_reducible refine (updCam_line ..).trans ?_ | with_reducible apply ite_line
    | (with_reducible refine (foldl_line ?_).trans ?_; intro _ _) | split | dsimp only

theorem skewFrame_lines (f : PortFrame) (s : State) (h : LineInv s) : LineInv (skewFrame f s) := by
  unfold skewFrame
  repeat' first
    | with_reducible assumption | with_reducible apply unitWrite_lines | with_reducible apply abortPour_lines
    | with_reducible apply pairTrigger_lines | with_reducible refine lines_of_view (raiseSkew_line ..) ?_ | split
    | dsimp only

theorem lastFlag_lines (f : PortFrame) (s : State) (h : LineInv s) : LineInv (lastFlag f s) := by
  unfold lastFlag
  repeat' first
    | with_reducible assumption | with_reducible apply lines_ite | with_reducible apply pairTrigger_lines
    | with_reducible apply skewFrame_lines | with_reducible refine lines_of_view (updCam_line ..) ?_ | split
    | dsimp only

theorem firstBand_lines (f : PortFrame) (s : State) (h : LineInv s) : LineInv (firstBand f s) := by
  unfold firstBand
  repeat' first
    | with_reducible assumption | with_reducible apply lines_ite | with_reducible apply abortDamaged_lines
    | with_reducible apply acceptTrigger_lines | with_reducible refine lines_of_view (updPour_line ..) ?_
    | with_reducible refine lines_of_view (deferTrigger_line ..) ?_
    | with_reducible refine lines_of_view (raise_line ..) ?_ | split | dsimp only

theorem endIspNode_line (f : PortFrame) (s : State) : lineView (endIspNode f s) = lineView s := by
  unfold endIspNode
  repeat' first
    | with_reducible rfl | with_reducible refine (ladleRelease_line ..).trans ?_
    | with_reducible refine (endNode_line ..).trans ?_ | with_reducible apply ite_line | split | dsimp only

theorem watchLast_line (f : Frame) (s : State) : lineView (watchLast f s) = lineView s := by
  unfold watchLast
  repeat' first | with_reducible rfl | with_reducible refine (watchFrame_line ..).trans ?_ | dsimp only

theorem setBand_lines (p : Nat) (f : Frame) (s : State) (h : LineInv s) : LineInv (setBand p f s) := by
  unfold setBand
  repeat' first
    | with_reducible assumption | with_reducible apply lines_ite | with_reducible apply firstBand_lines
    | with_reducible apply frameSets_lines | with_reducible apply lastFlag_lines
    | with_reducible refine lines_of_view (updCam_line ..) ?_
    | with_reducible refine lines_of_view (watchLast_line ..) ?_
    | with_reducible refine lines_of_view (endIspNode_line ..) ?_ | split | dsimp only

theorem execIspBandFlag_lines (p : Fin 8) (s : State) (h : LineInv s) : outLines (execIspBandFlag p s) := by
  unfold execIspBandFlag
  repeat' first
    | with_reducible assumption | with_reducible apply outLines_done | with_reducible apply lines_ite
    | with_reducible apply outLines_ite | with_reducible apply setBand_lines | split | dsimp only

theorem execCsiPairLost_lines (pair : Fin 4) (s : State) (h : LineInv s) : outLines (execCsiPairLost pair s) := by
  unfold execCsiPairLost
  repeat' first
    | with_reducible assumption | with_reducible apply outLines_done | with_reducible apply lines_ite
    | with_reducible apply outLines_ite | with_reducible apply detectS1_lines
    | with_reducible refine lines_of_view (noteCam_line ..) ?_
    | with_reducible refine lines_of_view (markCam_line ..) ?_
    | with_reducible refine lines_of_view (updCam_line ..) ?_ | (with_reducible apply foldl_lines; intro _ _ _)
    | split | dsimp only

theorem headerCheck_line (p : Nat) (h : HeaderEcc) (s : State) : lineView ((headerCheck p h s).2) = lineView s := by
  unfold headerCheck
  repeat' first
    | with_reducible rfl | with_reducible refine (updCam_line ..).trans ?_
    | with_reducible refine (raiseCamOnce_line ..).trans ?_ | split | dsimp only

theorem heard_line (p : Nat) (s : State) : lineView (heard p s) = lineView s := by
  unfold heard
  repeat' first | with_reducible rfl | with_reducible refine (updCam_line ..).trans ?_ | dsimp only

theorem closeRow_lines (p : Nat) (s : State) (h : LineInv s) : LineInv (closeRow p s) := by
  unfold closeRow
  repeat' first
    | with_reducible assumption | with_reducible apply lines_ite | with_reducible apply lostRow_lines
    | with_reducible apply takeRow_lines | with_reducible refine lines_of_view (updCam_line ..) ?_ | split
    | dsimp only

theorem startFrame_lines (p : Nat) (s : State) (h : LineInv s) : LineInv (startFrame p s) := by
  unfold startFrame
  repeat' first
    | with_reducible assumption | with_reducible apply lines_ite | with_reducible apply closeFrame_lines
    | with_reducible apply closeRow_lines | with_reducible refine lines_of_view (raiseCam_line ..) ?_
    | with_reducible refine lines_of_view (updCam_line ..) ?_
    | with_reducible refine lines_of_view (raiseCamOnce_line ..) ?_
    | with_reducible refine lines_of_view (openFrame_line ..) ?_ | split | dsimp only

theorem execCsiFrameStart_lines (p : Fin 8) (vc : BitVec 4) (hdr : HeaderEcc) (s : State) (h : LineInv s) : outLines
    (execCsiFrameStart p vc hdr s) := by
  unfold execCsiFrameStart
  repeat' first
    | with_reducible assumption | with_reducible apply outLines_done | with_reducible apply lines_ite
    | with_reducible apply outLines_ite | with_reducible apply startFrame_lines
    | with_reducible refine lines_of_view (headerCheck_line ..) ?_
    | with_reducible refine lines_of_view (heard_line ..) ?_ | split | dsimp only

theorem endFrame_lines (p : Nat) (s : State) (h : LineInv s) : LineInv (endFrame p s) := by
  unfold endFrame
  repeat' first
    | with_reducible assumption | with_reducible apply lines_ite | with_reducible apply closeFrame_lines
    | with_reducible apply closeRow_lines | with_reducible refine lines_of_view (updCam_line ..) ?_
    | with_reducible refine lines_of_view (raiseCamOnce_line ..) ?_ | split | dsimp only

theorem execCsiFrameEnd_lines (p : Fin 8) (vc : BitVec 4) (hdr : HeaderEcc) (s : State) (h : LineInv s) : outLines
    (execCsiFrameEnd p vc hdr s) := by
  unfold execCsiFrameEnd
  repeat' first
    | with_reducible assumption | with_reducible apply outLines_done | with_reducible apply lines_ite
    | with_reducible apply outLines_ite | with_reducible apply endFrame_lines
    | with_reducible refine lines_of_view (headerCheck_line ..) ?_
    | with_reducible refine lines_of_view (heard_line ..) ?_ | split | dsimp only

theorem execCsiLineStart_lines (p : Fin 8) (vc : BitVec 4) (hdr : HeaderEcc) (s : State) (h : LineInv s) : outLines
    (execCsiLineStart p vc hdr s) := by
  unfold execCsiLineStart
  repeat' first
    | with_reducible assumption | with_reducible apply outLines_done | with_reducible apply lines_ite
    | with_reducible apply outLines_ite | with_reducible apply closeRow_lines
    | with_reducible refine lines_of_view (headerCheck_line ..) ?_
    | with_reducible refine lines_of_view (heard_line ..) ?_
    | with_reducible refine lines_of_view (updCam_line ..) ?_ | split | dsimp only

theorem execCsiLineEnd_lines (p : Fin 8) (vc : BitVec 4) (hdr : HeaderEcc) (s : State) (h : LineInv s) : outLines
    (execCsiLineEnd p vc hdr s) := by
  unfold execCsiLineEnd
  repeat' first
    | with_reducible assumption | with_reducible apply outLines_done | with_reducible apply lines_ite
    | with_reducible apply outLines_ite | with_reducible apply closeRow_lines
    | with_reducible refine lines_of_view (headerCheck_line ..) ?_
    | with_reducible refine lines_of_view (heard_line ..) ?_ | split | dsimp only

theorem frameEvent_line (p : Nat) (code : EventCode) (s : State) : lineView (frameEvent p code s) = lineView s := by
  unfold frameEvent
  repeat' first
    | with_reducible rfl | with_reducible refine (raiseCamOnce_line ..).trans ?_ | with_reducible apply ite_line
    | split | dsimp only

theorem discardType_line (p : Nat) (s : State) : lineView (discardType p s) = lineView s := by
  unfold discardType
  repeat' first
    | with_reducible rfl | with_reducible refine (frameEvent_line ..).trans ?_
    | with_reducible refine (updCam_line ..).trans ?_ | dsimp only

theorem crcCheck_line (p : Nat) (ok : Bool) (s : State) : lineView (crcCheck p ok s) = lineView s := by
  unfold crcCheck
  repeat' first
    | with_reducible rfl | with_reducible refine (frameEvent_line ..).trans ?_
    | with_reducible refine (updCam_line ..).trans ?_ | with_reducible apply ite_line | split | dsimp only

theorem takePixels_lines (p : Nat) (f : Frame) (extra : Nat) (px : List Nat) (s : State) (h : LineInv s) : LineInv
    (takePixels p f extra px s) := by
  unfold takePixels
  repeat' first
    | with_reducible assumption | with_reducible apply takeRow_lines
    | with_reducible refine lines_of_view (updCam_line ..) ?_ | split | dsimp only

theorem pixelRow_lines (p : Nat) (f : Frame) (dt : Nat) (fixed crcOk : Bool) (payload : List Byte) (s : State) (h :
    LineInv s) : LineInv (pixelRow p f dt fixed crcOk payload s) := by
  unfold pixelRow
  repeat' first
    | with_reducible assumption | with_reducible apply lines_ite | with_reducible apply takePixels_lines | split
    | dsimp only

theorem execCsiPixelRow_lines (p : Fin 8) (vc : BitVec 4) (dt : BitVec 6) (hdr : HeaderEcc) (crcOk : Bool) (payload :
    List Byte) (s : State) (h : LineInv s) : outLines (execCsiPixelRow p vc dt hdr crcOk payload s) := by
  unfold execCsiPixelRow
  repeat' first
    | with_reducible assumption | with_reducible apply outLines_done | with_reducible apply lines_ite
    | with_reducible apply outLines_ite | with_reducible apply lostRow_lines | with_reducible apply pixelRow_lines
    | with_reducible refine lines_of_view (headerCheck_line ..) ?_
    | with_reducible refine lines_of_view (heard_line ..) ?_
    | with_reducible refine lines_of_view (discardType_line ..) ?_
    | with_reducible refine lines_of_view (crcCheck_line ..) ?_ | split | dsimp only

theorem auxWrite_lines (port : Nat) (b : Nat × Nat) (k off : Nat) (bs : List Byte) (s : State) (h : LineInv s) :
    LineInv (auxWrite port b k off bs s) := by
  unfold auxWrite
  repeat' first | with_reducible assumption | with_reducible apply unitWrite_lines | dsimp only

theorem auxPacket_line (p : Nat) (vc : Nat) (hdr : HeaderEcc) (crcOk : Bool) (s : State) : lineView ((auxPacket p vc
    hdr crcOk s).2) = lineView s := by
  unfold auxPacket
  repeat' first
    | with_reducible rfl | with_reducible refine (headerCheck_line ..).trans ?_
    | with_reducible refine (heard_line ..).trans ?_ | with_reducible refine (crcCheck_line ..).trans ?_
    | with_reducible apply ite_line | split | dsimp only

theorem execCsiEmbeddedData_lines (p : Fin 8) (vc : BitVec 4) (pkt : LongPacket) (s : State) (h : LineInv s) :
    outLines (execCsiEmbeddedData p vc pkt s) := by
  unfold execCsiEmbeddedData
  repeat' first
    | with_reducible assumption | with_reducible apply outLines_done | with_reducible apply lines_ite
    | with_reducible apply outLines_ite | with_reducible apply auxWrite_lines
    | with_reducible refine lines_of_view (auxPacket_line ..) ?_
    | with_reducible refine lines_of_view (updCam_line ..) ?_ | split | dsimp only

theorem execCsiUserData_lines (p : Fin 8) (vc : BitVec 4) (kind : Fin 8) (pkt : LongPacket) (s : State) (h :
    LineInv s) : outLines (execCsiUserData p vc kind pkt s) := by
  unfold execCsiUserData
  repeat' first
    | with_reducible assumption | with_reducible apply outLines_done | with_reducible apply lines_ite
    | with_reducible apply outLines_ite | with_reducible apply auxWrite_lines
    | with_reducible refine lines_of_view (auxPacket_line ..) ?_
    | with_reducible refine lines_of_view (updCam_line ..) ?_ | split | dsimp only

theorem execCsiGenericShort_lines (pkt : PortPacket) (s : State) (h : LineInv s) : outLines (execCsiGenericShort
    pkt s) := by
  unfold execCsiGenericShort
  repeat' first
    | with_reducible assumption | with_reducible apply outLines_done | with_reducible apply lines_ite
    | with_reducible apply outLines_ite | with_reducible refine lines_of_view (headerCheck_line ..) ?_
    | with_reducible refine lines_of_view (heard_line ..) ?_
    | with_reducible refine lines_of_view (updCam_line ..) ?_ | split | dsimp only

theorem execCsiUnsupportedPacket_lines (pkt : PortPacket) (dt : BitVec 6) (s : State) (h : LineInv s) : outLines
    (execCsiUnsupportedPacket pkt dt s) := by
  unfold execCsiUnsupportedPacket
  repeat' first
    | with_reducible assumption | with_reducible apply outLines_done | with_reducible apply lines_ite
    | with_reducible apply outLines_ite | with_reducible refine lines_of_view (headerCheck_line ..) ?_
    | with_reducible refine lines_of_view (heard_line ..) ?_
    | with_reducible refine lines_of_view (discardType_line ..) ?_ | split | dsimp only

theorem execCsiLineTimeout_lines (p : Fin 8) (s : State) (h : LineInv s) : outLines (execCsiLineTimeout p s) := by
  unfold execCsiLineTimeout
  repeat' first
    | with_reducible assumption | with_reducible apply outLines_done | with_reducible apply lines_ite
    | with_reducible apply outLines_ite | with_reducible apply closeFrame_lines | with_reducible apply closeRow_lines
    | split | dsimp only

theorem execCsiFrameLate_lines (p : Fin 8) (s : State) (h : LineInv s) : outLines (execCsiFrameLate p s) := by
  unfold execCsiFrameLate
  repeat' first
    | with_reducible assumption | with_reducible apply outLines_done | with_reducible apply lines_ite
    | with_reducible apply outLines_ite | with_reducible refine lines_of_view (raiseCam_line ..) ?_
    | with_reducible refine lines_of_view (updCam_line ..) ?_ | split | dsimp only

theorem execCsiPhySyncLost_lines (p : Fin 8) (s : State) (h : LineInv s) : outLines (execCsiPhySyncLost p s) := by
  unfold execCsiPhySyncLost
  repeat' first
    | with_reducible assumption | with_reducible apply outLines_done | with_reducible apply lines_ite
    | with_reducible apply outLines_ite | with_reducible apply closeFrame_lines | with_reducible apply closeRow_lines
    | with_reducible refine lines_of_view (raiseCamOnce_line ..) ?_
    | with_reducible refine lines_of_view (updCam_line ..) ?_ | split | dsimp only

theorem execCsiLaneSync_lines (p : Fin 8) (s : State) (h : LineInv s) : outLines (execCsiLaneSync p s) := by
  unfold execCsiLaneSync
  repeat' first
    | with_reducible assumption | with_reducible apply outLines_done | with_reducible apply lines_ite
    | with_reducible apply outLines_ite | with_reducible refine lines_of_view (updCam_line ..) ?_ | split
    | dsimp only

theorem pipeFailed_lines (p pair pass : Nat) (s : State) (h : LineInv s) : LineInv (pipeFailed p pair pass s) := by
  unfold pipeFailed
  repeat' first
    | with_reducible assumption | with_reducible apply invalidatePour_lines | with_reducible apply recallPours_lines
    | (with_reducible apply foldl_lines; intro _ _ _) | dsimp only

theorem execIspTestResult_lines (p : Fin 8) (sig : Word32) (s : State) (h : LineInv s) : outLines (execIspTestResult p
    sig s) := by
  unfold execIspTestResult
  repeat' first
    | with_reducible assumption | with_reducible apply outLines_done | with_reducible apply lines_ite
    | with_reducible apply outLines_ite | with_reducible apply detectS1_lines | with_reducible apply pipeFailed_lines
    | with_reducible refine lines_of_view (updCam_line ..) ?_
    | with_reducible refine lines_of_view (noteCam_line ..) ?_
    | with_reducible refine lines_of_view (markCam_line ..) ?_ | split | dsimp only

theorem execIspTestStale_lines (p : Fin 8) (s : State) (h : LineInv s) : outLines (execIspTestStale p s) := by
  unfold execIspTestStale
  repeat' first
    | with_reducible assumption | with_reducible apply outLines_done | with_reducible apply lines_ite
    | with_reducible apply outLines_ite | with_reducible apply detectS1_lines
    | with_reducible refine lines_of_view (updCam_line ..) ?_
    | with_reducible refine lines_of_view (noteCam_line ..) ?_
    | with_reducible refine lines_of_view (markCam_line ..) ?_ | split | dsimp only

theorem allocTask_line (k : Task) (s : State) : lineView (allocTask k s) = lineView s := by
  unfold allocTask
  repeat' first
    | with_reducible rfl | with_reducible refine (settleTasks_line ..).trans ?_
    | with_reducible refine (makeReady_line ..).trans ?_ | with_reducible refine (wakeWaits_line ..).trans ?_
    | with_reducible refine (cancelAndSettle_line ..).trans ?_ | with_reducible apply ite_line | split | dsimp only

theorem refuseSpawn_line (t : Nat) (code : EventCode) (s : State) : lineView (refuseSpawn t code s) = lineView s := by
  unfold refuseSpawn
  repeat' first
    | with_reducible rfl | with_reducible refine (updPort_line ..).trans ?_
    | with_reducible refine (raise_line ..).trans ?_ | dsimp only

theorem submitSpawn_line (t : Nat) (s : State) : lineView (submitSpawn t s) = lineView s := by
  unfold submitSpawn
  repeat' first
    | with_reducible rfl | with_reducible refine (refuseSpawn_line ..).trans ?_
    | with_reducible refine (allocTask_line ..).trans ?_ | with_reducible refine (updPort_line ..).trans ?_
    | with_reducible apply ite_line | split | dsimp only

theorem execSpawn_lines (t : Fin 256) (s : State) (h : LineInv s) : outLines (execSpawn t s) := by
  unfold execSpawn
  repeat' first
    | with_reducible assumption | with_reducible apply outLines_done
    | with_reducible refine lines_of_view (submitSpawn_line ..) ?_ | dsimp only

theorem portEnd_lines (t status : Nat) (s : State) (h : LineInv s) : LineInv (portEnd t status s) := by
  unfold portEnd
  repeat' first
    | with_reducible assumption | with_reducible apply lines_ite | with_reducible apply endTask_lines | split
    | dsimp only

theorem tableError_lines (slot gen : Nat) (s : State) (h : LineInv s) : LineInv (tableError slot gen s) := by
  unfold tableError
  repeat' first
    | with_reducible assumption | with_reducible apply detectS1_lines | with_reducible apply abortPour_lines
    | with_reducible refine lines_of_view (cancelAndSettle_line ..) ?_ | split | dsimp only

theorem execTaskEnd_lines (t : Fin 256) (status : BitVec 2) (ecc : Ecc) (s : State) (h : LineInv s) : outLines
    (execTaskEnd t status ecc s) := by
  unfold execTaskEnd
  repeat' first
    | with_reducible assumption
    | with_reducible refine lines_of_view (noteEcc_line ..) ?_ | with_reducible apply outLines_done | with_reducible apply tableError_lines
    | with_reducible apply portEnd_lines | split | dsimp only

theorem sendOperand_line (slot gen index : Nat) (value : Word32) (status : Nat) (s : State) : lineView (sendOperand
    slot gen index value status s) = lineView s := by
  unfold sendOperand
  repeat' first
    | with_reducible rfl | with_reducible refine (settleTasks_line ..).trans ?_
    | with_reducible refine (deliverOperand_line ..).trans ?_ | dsimp only

theorem sendLink_line (l : LinkWork) (s : State) : lineView (sendLink l s) = lineView s := by
  unfold sendLink
  repeat' first
    | with_reducible rfl | with_reducible refine (sendOperand_line ..).trans ?_
    | with_reducible refine (settleTasks_line ..).trans ?_ | with_reducible refine (deliverToken_line ..).trans ?_
    | with_reducible refine (raise_line ..).trans ?_ | with_reducible apply ite_line | split | dsimp only

theorem linkOrError_lines (ecc : Ecc) (l : LinkWork) (s : State) (h : LineInv s) : LineInv (linkOrError ecc l s) := by
  unfold linkOrError
  repeat' first
    | with_reducible assumption
    | with_reducible refine lines_of_view (noteEcc_line ..) ?_ | with_reducible apply lines_ite | with_reducible apply tableError_lines
    | with_reducible refine lines_of_view (sendLink_line ..) ?_ | split | dsimp only

theorem execSuccessorLink_lines (ecc : Ecc) (s : State) (h : LineInv s) : outLines (execSuccessorLink ecc s) := by
  unfold execSuccessorLink
  repeat' first
    | with_reducible assumption | with_reducible apply outLines_done | with_reducible apply lines_ite
    | with_reducible apply outLines_ite | with_reducible apply linkOrError_lines
    | with_reducible refine lines_of_view (dropTask_line ..) ?_ | split | dsimp only

theorem execOperandSend_lines (_t : Fin 256) (slot : BitVec 13) (index : BitVec 2) (gen : Byte) (value : Word32) (ecc
    : Ecc) (s : State) (h : LineInv s) : outLines (execOperandSend _t slot index gen value ecc s) := by
  unfold execOperandSend
  repeat' first
    | with_reducible assumption
    | with_reducible refine lines_of_view (noteEcc_line ..) ?_ | with_reducible apply outLines_done | with_reducible apply lines_ite
    | with_reducible apply outLines_ite | with_reducible apply tableError_lines
    | with_reducible refine lines_of_view (sendOperand_line ..) ?_ | split | dsimp only

theorem cancelWrite_line (slot gen : Nat) (s : State) : lineView (cancelWrite slot gen s) = lineView s := by
  unfold cancelWrite
  repeat' first
    | with_reducible rfl | with_reducible refine (raise_line ..).trans ?_
    | with_reducible refine (cancelAndSettle_line ..).trans ?_ | split | dsimp only

theorem execSchCancel_lines (who : Agent) (slot : BitVec 13) (gen : Byte) (s : State) (h : LineInv s) : outLines
    (execSchCancel who slot gen s) := by
  unfold execSchCancel
  repeat' first
    | with_reducible assumption | with_reducible apply outLines_done | with_reducible apply lines_ite
    | with_reducible apply outLines_ite | with_reducible refine lines_of_view (cancelWrite_line ..) ?_ | split
    | dsimp only

theorem bindTask_line (k : Task) (th : Nat) (d : AsyncDelivery) (gs : List Group) (s : State) : lineView (bindTask k
    th d gs s) = lineView s := by
  unfold bindTask
  repeat' first
    | with_reducible rfl
    | with_reducible refine (countSel_line ..).trans ?_ | with_reducible refine (updTask_line ..).trans ?_
    | with_reducible refine (updThread_line ..).trans ?_ | dsimp only

theorem deliverOrError_lines (ecc : Ecc) (k : Task) (th : Nat) (d : AsyncDelivery) (gs : List Group) (s : State) (h :
    LineInv s) : LineInv (deliverOrError ecc k th d gs s) := by
  unfold deliverOrError
  repeat' first
    | with_reducible assumption
    | with_reducible refine lines_of_view (noteEcc_line ..) ?_ | with_reducible apply lines_ite | with_reducible apply tableError_lines
    | with_reducible refine lines_of_view (bindTask_line ..) ?_ | split | dsimp only

theorem execSchDelivery_lines (ecc : Ecc) (s : State) (h : LineInv s) : outLines (execSchDelivery ecc s) := by
  unfold execSchDelivery
  repeat' first
    | with_reducible assumption | with_reducible apply outLines_done | with_reducible apply lines_ite
    | with_reducible apply outLines_ite | with_reducible apply deliverOrError_lines | split | dsimp only

theorem noteIssue_line (t : Nat) (s : State) : lineView (noteIssue t s) = lineView s := by
  unfold noteIssue
  repeat' first | with_reducible rfl | dsimp only

theorem holdBack_line (t : Nat) (s : State) : lineView (holdBack t s) = lineView s := by
  unfold holdBack
  repeat' first
    | with_reducible rfl | with_reducible refine (updThread_line ..).trans ?_ | with_reducible apply ite_line | split
    | dsimp only

theorem writeG_line (t : Nat) (r : BitVec 5) (v : Word64) (s : State) : lineView (writeG t r v s) = lineView s := by
  unfold writeG
  repeat' first
    | with_reducible rfl | with_reducible refine (updThread_line ..).trans ?_ | with_reducible apply ite_line | split
    | dsimp only

theorem complete_line (t : Nat) (s : State) : lineView (complete t s) = lineView s := by
  unfold complete
  repeat' first | with_reducible rfl | with_reducible refine (updThread_line ..).trans ?_ | dsimp only

theorem returnDelivery_line (d : AsyncDelivery) (s : State) : lineView (returnDelivery d s) = lineView s := by
  unfold returnDelivery
  repeat' first
    | with_reducible rfl | with_reducible refine (updTask_line ..).trans ?_ | with_reducible apply ite_line | split
    | dsimp only

theorem loseTasks_lines (t : Nat) (s : State) (h : LineInv s) : LineInv (loseTasks t s) := by
  unfold loseTasks
  repeat' first
    | with_reducible assumption | with_reducible apply endTask_lines
    | with_reducible refine lines_of_view (updThread_line ..) ?_
    | with_reducible refine lines_of_view (returnDelivery_line ..) ?_
    | with_reducible refine lines_of_view (updPort_line ..) ?_ | (with_reducible apply foldl_lines; intro _ _ _)
    | split | dsimp only

theorem haltThread_lines (t : Nat) (s : State) (h : LineInv s) : LineInv (haltThread t s) := by
  unfold haltThread
  repeat' first
    | with_reducible assumption | with_reducible apply loseTasks_lines
    | with_reducible refine lines_of_view (raise_line ..) ?_
    | with_reducible refine lines_of_view (updThread_line ..) ?_ | dsimp only

theorem dropResv_line (t : Nat) (s : State) : lineView (dropResv t s) = lineView s := by
  unfold dropResv
  repeat' first
    | with_reducible rfl | with_reducible refine (sendPeer_line ..).trans ?_
    | with_reducible refine (updThread_line ..).trans ?_ | split | dsimp only

theorem takeException_lines (t code detail addr epc : Nat) (ds : Bool) (s : State) (h : LineInv s) : LineInv
    (takeException t code detail addr epc ds s) := by
  unfold takeException
  repeat' first
    | with_reducible assumption | with_reducible apply lines_ite | with_reducible apply haltThread_lines
    | with_reducible refine lines_of_view (raise_line ..) ?_
    | with_reducible refine lines_of_view (updThread_line ..) ?_
    | with_reducible refine lines_of_view (dropResv_line ..) ?_ | split | dsimp only

theorem fault_lines (t code detail addr : Nat) (s : State) (h : LineInv s) : LineInv (fault t code detail addr
    s) := by
  unfold fault
  repeat' first | with_reducible assumption | with_reducible apply takeException_lines | split | dsimp only

theorem illegal_lines (t : Nat) (s : State) (h : LineInv s) : LineInv (illegal t s) := by
  unfold illegal
  repeat' first | with_reducible assumption | with_reducible apply fault_lines | dsimp only

theorem privFault_lines (t : Nat) (s : State) (h : LineInv s) : LineInv (privFault t s) := by
  unfold privFault
  repeat' first | with_reducible assumption | with_reducible apply fault_lines | dsimp only

theorem spoilPour_lines (t : Nat) (s : State) (h : LineInv s) : LineInv (spoilPour t s) := by
  unfold spoilPour
  repeat' first | with_reducible assumption | with_reducible apply invalidatePour_lines | split | dsimp only

theorem accessFault_lines (t code addr : Nat) (f : AccessFault) (s : State) (h : LineInv s) : LineInv (accessFault t
    code addr f s) := by
  unfold accessFault
  repeat' first
    | with_reducible assumption | with_reducible apply lines_ite | with_reducible apply fault_lines
    | with_reducible apply spoilPour_lines | split | dsimp only

theorem issue_lines (t : Nat) (body : State → State) (s : State) (h : LineInv s)
    (hb : ∀ x : State, LineInv x → LineInv (body x)) : LineInv (issue t body s) := by
  unfold issue
  dsimp only
  split
  · exact h
  · have hr := checkAccess_lines t (threadAt s t).keeper .execute (threadAt s t).pc 4 false
      (noteIssue t (updThread t (fun th => { th with lastPc := th.pc }) (countSel 7 1 s)))
      (lines_of_view ((noteIssue_line ..).trans ((updThread_line ..).trans (countSel_line ..))) h)
    split
    · exact hb _ hr
    · exact accessFault_lines _ _ _ _ _ hr

theorem bccBody_lines (t : Nat) (cond : BitVec 3) (ga gb : BitVec 5) (off : BitVec 13) (s : State) (h : LineInv s) :
    LineInv (bccBody t cond ga gb off s) := by
  unfold bccBody
  repeat' first
    | with_reducible assumption | with_reducible apply lines_ite | with_reducible apply illegal_lines
    | with_reducible refine lines_of_view (updThread_line ..) ?_ | split | dsimp only

theorem execBcc_lines (t : Fin 256) (cond : BitVec 3) (ga gb : BitVec 5) (off : BitVec 13) (s : State) (h : LineInv s)
    : outLines (execBcc t cond ga gb off s) := by
  unfold execBcc
  repeat' first
    | with_reducible assumption | with_reducible apply outLines_done | with_reducible apply issue_lines
    | with_reducible apply bccBody_lines | dsimp only | intro _ _

theorem balBody_lines (t : Nat) (off : BitVec 26) (s : State) (h : LineInv s) : LineInv (balBody t off s) := by
  unfold balBody
  repeat' first
    | with_reducible assumption | with_reducible apply lines_ite | with_reducible apply illegal_lines
    | with_reducible refine lines_of_view (updThread_line ..) ?_
    | with_reducible refine lines_of_view (writeG_line ..) ?_ | split | dsimp only

theorem execBal_lines (t : Fin 256) (off : BitVec 26) (s : State) (h : LineInv s) : outLines (execBal t off s) := by
  unfold execBal
  repeat' first
    | with_reducible assumption | with_reducible apply outLines_done | with_reducible apply issue_lines
    | with_reducible apply balBody_lines | dsimp only | intro _ _

theorem jumpBody_lines (t : Nat) (gs : BitVec 5) (link : Bool) (s : State) (h : LineInv s) : LineInv (jumpBody t gs
    link s) := by
  unfold jumpBody
  repeat' first
    | with_reducible assumption | with_reducible apply lines_ite | with_reducible apply illegal_lines
    | with_reducible apply fault_lines | with_reducible refine lines_of_view (updThread_line ..) ?_
    | with_reducible refine lines_of_view (writeG_line ..) ?_ | split | dsimp only

theorem execJr_lines (t : Fin 256) (gs : BitVec 5) (s : State) (h : LineInv s) : outLines (execJr t gs s) := by
  unfold execJr
  repeat' first
    | with_reducible assumption | with_reducible apply outLines_done | with_reducible apply issue_lines
    | with_reducible apply jumpBody_lines | dsimp only | intro _ _

theorem execJalr_lines (t : Fin 256) (gs : BitVec 5) (s : State) (h : LineInv s) : outLines (execJalr t gs s) := by
  unfold execJalr
  repeat' first
    | with_reducible assumption | with_reducible apply outLines_done | with_reducible apply issue_lines
    | with_reducible apply jumpBody_lines | dsimp only | intro _ _

theorem loopnBody_lines (t : Nat) (lvl : BitVec 1) (gs : BitVec 5) (len : BitVec 16) (s : State) (h : LineInv s) :
    LineInv (loopnBody t lvl gs len s) := by
  unfold loopnBody
  repeat' first
    | with_reducible assumption | with_reducible apply lines_ite | with_reducible apply illegal_lines
    | with_reducible refine lines_of_view (updThread_line ..) ?_ | split | dsimp only

theorem execLoopn_lines (t : Fin 256) (lvl : BitVec 1) (gs : BitVec 5) (len : BitVec 16) (s : State) (h : LineInv s) :
    outLines (execLoopn t lvl gs len s) := by
  unfold execLoopn
  repeat' first
    | with_reducible assumption | with_reducible apply outLines_done | with_reducible apply issue_lines
    | with_reducible apply loopnBody_lines | dsimp only | intro _ _

theorem modeBody_lines (t : Nat) (m : BitVec 1) (s : State) (h : LineInv s) : LineInv (modeBody t m s) := by
  unfold modeBody
  repeat' first
    | with_reducible assumption | with_reducible apply lines_ite | with_reducible apply illegal_lines
    | with_reducible apply privFault_lines | with_reducible refine lines_of_view (updThread_line ..) ?_ | split
    | dsimp only

theorem execMode_lines (t : Fin 256) (m : BitVec 1) (s : State) (h : LineInv s) : outLines (execMode t m s) := by
  unfold execMode
  repeat' first
    | with_reducible assumption | with_reducible apply outLines_done | with_reducible apply issue_lines
    | with_reducible apply modeBody_lines | dsimp only | intro _ _

theorem trapBody_lines (t : Nat) (code : BitVec 16) (s : State) (h : LineInv s) : LineInv (trapBody t code s) := by
  unfold trapBody
  repeat' first
    | with_reducible assumption | with_reducible apply lines_ite | with_reducible apply illegal_lines
    | with_reducible apply fault_lines | with_reducible apply takeException_lines
    | with_reducible refine lines_of_view (updThread_line ..) ?_ | split | dsimp only

theorem execTrap_lines (t : Fin 256) (code : BitVec 16) (s : State) (h : LineInv s) : outLines (execTrap t code
    s) := by
  unfold execTrap
  repeat' first
    | with_reducible assumption | with_reducible apply outLines_done | with_reducible apply issue_lines
    | with_reducible apply trapBody_lines | dsimp only | intro _ _

theorem xretBody_lines (t : Nat) (s : State) (h : LineInv s) : LineInv (xretBody t s) := by
  unfold xretBody
  repeat' first
    | with_reducible assumption | with_reducible apply lines_ite | with_reducible apply illegal_lines
    | with_reducible apply privFault_lines | with_reducible refine lines_of_view (updThread_line ..) ?_
    | with_reducible refine lines_of_view (dropResv_line ..) ?_ | split | dsimp only

theorem execXret_lines (t : Fin 256) (s : State) (h : LineInv s) : outLines (execXret t s) := by
  unfold execXret
  repeat' first
    | with_reducible assumption | with_reducible apply outLines_done | with_reducible apply issue_lines
    | with_reducible apply xretBody_lines | dsimp only | intro _ _

theorem mfsBody_lines (t : Nat) (gd sr : BitVec 5) (s : State) (h : LineInv s) : LineInv (mfsBody t gd sr s) := by
  unfold mfsBody
  repeat' first
    | with_reducible assumption | with_reducible apply lines_ite | with_reducible apply illegal_lines
    | with_reducible apply privFault_lines | with_reducible refine lines_of_view (complete_line ..) ?_
    | with_reducible refine lines_of_view (writeG_line ..) ?_ | split | dsimp only

theorem execMfs_lines (t : Fin 256) (gd sr : BitVec 5) (s : State) (h : LineInv s) : outLines (execMfs t gd sr
    s) := by
  unfold execMfs
  repeat' first
    | with_reducible assumption | with_reducible apply outLines_done | with_reducible apply issue_lines
    | with_reducible apply mfsBody_lines | dsimp only | intro _ _

theorem mtsBody_lines (t : Nat) (sr gs : BitVec 5) (s : State) (h : LineInv s) : LineInv (mtsBody t sr gs s) := by
  unfold mtsBody
  repeat' first
    | with_reducible assumption | with_reducible apply lines_ite | with_reducible apply illegal_lines
    | with_reducible apply privFault_lines | with_reducible refine lines_of_view (complete_line ..) ?_
    | with_reducible refine lines_of_view (updThread_line ..) ?_ | split | dsimp only

theorem execMts_lines (t : Fin 256) (sr gs : BitVec 5) (s : State) (h : LineInv s) : outLines (execMts t sr gs
    s) := by
  unfold execMts
  repeat' first
    | with_reducible assumption | with_reducible apply outLines_done | with_reducible apply issue_lines
    | with_reducible apply mtsBody_lines | dsimp only | intro _ _

theorem memoryError_lines (t : Nat) (s : State) (h : LineInv s) : LineInv (memoryError t s) := by
  unfold memoryError
  repeat' first
    | with_reducible assumption | with_reducible apply spoilPour_lines | with_reducible apply detectS1_lines
    | dsimp only

theorem parityHalt_lines (t : Nat) (s : State) (h : LineInv s) : LineInv (parityHalt t s) := by
  unfold parityHalt
  repeat' first
    | with_reducible assumption | with_reducible apply haltThread_lines | with_reducible apply detectS1_lines
    | dsimp only

theorem ordinaryBody_lines (t : Nat) (op : OrdinaryOp) (s : State) (h : LineInv s) : LineInv (ordinaryBody t op
    s) := by
  unfold ordinaryBody
  repeat' first
    | with_reducible assumption | with_reducible apply illegal_lines | with_reducible apply fault_lines
    | with_reducible apply memoryError_lines | with_reducible apply parityHalt_lines
    | with_reducible refine lines_of_view (complete_line ..) ?_
    | with_reducible refine lines_of_view (writeG_line ..) ?_ | split | dsimp only

theorem execOrdinaryInstruction_lines (t : Fin 256) (op : OrdinaryOp) (s : State) (h : LineInv s) : outLines
    (execOrdinaryInstruction t op s) := by
  unfold execOrdinaryInstruction
  repeat' first
    | with_reducible assumption | with_reducible apply outLines_done | with_reducible apply issue_lines
    | with_reducible apply ordinaryBody_lines | dsimp only | intro _ _

theorem showTask_line (t : Nat) (k : Task) (s : State) : lineView (showTask t k s) = lineView s := by
  unfold showTask
  repeat' first
    | with_reducible rfl | with_reducible refine (updPort_line ..).trans ?_
    | with_reducible refine (updTask_line ..).trans ?_ | with_reducible apply ite_line | split | dsimp only

theorem preemptVictim_lines (t : Nat) (v : Nat × Nat) (s : State) (h : LineInv s) : LineInv (preemptVictim t v
    s) := by
  unfold preemptVictim
  repeat' first
    | with_reducible assumption | with_reducible apply lines_ite | with_reducible apply endTask_lines
    | with_reducible refine lines_of_view (updThread_line ..) ?_
    | with_reducible refine lines_of_view (updTask_line ..) ?_ | split | dsimp only

theorem takeDelivery_lines (t : Nat) (d : AsyncDelivery) (s : State) (h : LineInv s) : LineInv (takeDelivery t d
    s) := by
  unfold takeDelivery
  repeat' first
    | with_reducible assumption | with_reducible apply lines_ite | with_reducible apply takeException_lines
    | with_reducible apply preemptVictim_lines | with_reducible refine lines_of_view (updThread_line ..) ?_
    | with_reducible refine lines_of_view (showTask_line ..) ?_ | split | dsimp only

theorem execAsyncDeliveryTaken_lines (t : Fin 256) (s : State) (h : LineInv s) : outLines (execAsyncDeliveryTaken t
    s) := by
  unfold execAsyncDeliveryTaken
  repeat' first
    | with_reducible assumption | with_reducible apply outLines_done | with_reducible apply lines_ite
    | with_reducible apply outLines_ite | with_reducible apply takeDelivery_lines | split | dsimp only

theorem refuseRsr_lines (who : Agent) (s : State) (h : LineInv s) : LineInv (refuseRsr who s) := by
  unfold refuseRsr
  repeat' first
    | with_reducible assumption | with_reducible apply lines_ite | with_reducible apply privFault_lines | split
    | dsimp only

theorem execXltInv_lines (who : Agent) (ctx : BitVec 6) (everything : Bool) (s : State) (h : LineInv s) : outLines
    (execXltInv who ctx everything s) := by
  unfold execXltInv
  repeat' first
    | with_reducible assumption | with_reducible apply refuseRsr_lines | with_reducible apply outLines_done | with_reducible apply lines_ite
    | with_reducible apply outLines_ite | with_reducible refine lines_of_view (startInv_line ..) ?_ | split
    | dsimp only

theorem execFwlLock_lines (who : Agent) (r : Fin 64) (s : State) (h : LineInv s) : outLines (execFwlLock who r
    s) := by
  unfold execFwlLock
  repeat' first
    | with_reducible assumption | with_reducible apply refuseRsr_lines | with_reducible apply outLines_done | with_reducible apply lines_ite
    | with_reducible apply outLines_ite | with_reducible refine lines_of_view (writeRegion_line ..) ?_ | split
    | dsimp only

theorem execCtrReadLow_lines (who : Agent) (ctr : CounterName) (s : State) (h : LineInv s) : outLines (execCtrReadLow
    who ctr s) := by
  unfold execCtrReadLow
  repeat' first
    | with_reducible assumption | with_reducible apply refuseRsr_lines | with_reducible apply outLines_done | with_reducible apply lines_ite
    | with_reducible apply outLines_ite | with_reducible refine lines_of_view (ctrReadLow_line ..) ?_ | split
    | dsimp only

theorem execCtrReadHigh_lines (who : Agent) (ctr : CounterName) (s : State) (h : LineInv s) : outLines
    (execCtrReadHigh who ctr s) := by
  unfold execCtrReadHigh
  repeat' first
    | with_reducible assumption | with_reducible apply refuseRsr_lines | with_reducible apply outLines_done | with_reducible apply lines_ite
    | with_reducible apply outLines_ite | with_reducible refine lines_of_view (ctrReadHigh_line ..) ?_ | split
    | dsimp only

theorem releaseOne_line (t : Nat) (s : State) : lineView (releaseOne t s) = lineView s := by
  unfold releaseOne
  repeat' first
    | with_reducible rfl | with_reducible refine (updThread_line ..).trans ?_ | with_reducible apply ite_line | split
    | dsimp only

theorem releaseThreads_line (w : Nat) (mask : Word32) (s : State) : lineView (releaseThreads w mask s) = lineView
    s := by
  unfold releaseThreads
  repeat' first
    | with_reducible rfl | with_reducible refine (releaseOne_line ..).trans ?_
    | (with_reducible refine (foldl_line ?_).trans ?_; intro _ _) | dsimp only

theorem execThreadRelease_lines (who : Agent) (word : Fin 8) (mask : Word32) (s : State) (h : LineInv s) : outLines
    (execThreadRelease who word mask s) := by
  unfold execThreadRelease
  repeat' first
    | with_reducible assumption | with_reducible apply outLines_done | with_reducible apply lines_ite
    | with_reducible apply outLines_ite | with_reducible apply refuseRsr_lines
    | with_reducible refine lines_of_view (releaseThreads_line ..) ?_ | split | dsimp only

theorem resetThread_lines (t : Nat) (s : State) (h : LineInv s) : LineInv (resetThread t s) := by
  unfold resetThread
  repeat' first
    | with_reducible assumption | with_reducible apply lines_ite | with_reducible apply loseTasks_lines
    | with_reducible refine lines_of_view (updThread_line ..) ?_
    | with_reducible refine lines_of_view (dropResv_line ..) ?_
    | with_reducible refine lines_of_view (releaseOne_line ..) ?_ | split | dsimp only

theorem execThreadReset_lines (who : Agent) (t : Fin 256) (s : State) (h : LineInv s) : outLines (execThreadReset who
    t s) := by
  unfold execThreadReset
  repeat' first
    | with_reducible assumption | with_reducible apply outLines_done | with_reducible apply lines_ite
    | with_reducible apply outLines_ite | with_reducible apply resetThread_lines
    | with_reducible apply refuseRsr_lines | split | dsimp only

theorem pauseAtTile_line (t : Nat) (s : State) : lineView (pauseAtTile t s) = lineView s := by
  unfold pauseAtTile
  repeat' first
    | with_reducible rfl | with_reducible refine (updRun_line ..).trans ?_ | with_reducible apply ite_line | split
    | dsimp only

theorem requestTarget_line (c t : Nat) (s : State) : lineView (requestTarget c t s) = lineView s := by
  unfold requestTarget
  repeat' first
    | with_reducible rfl | with_reducible refine (updClass_line ..).trans ?_
    | with_reducible refine (pauseAtTile_line ..).trans ?_ | with_reducible refine (withhold_line ..).trans ?_
    | with_reducible refine (roleMoves_line ..).trans ?_ | with_reducible refine (noteTestPhys_line ..).trans ?_
    | with_reducible apply ite_line | split | dsimp only

theorem startTest_line (c : Nat) (s : State) : lineView (startTest c s) = lineView s := by
  unfold startTest
  repeat' first
    | with_reducible rfl | with_reducible refine (beginTest_line ..).trans ?_
    | with_reducible refine (requestTarget_line ..).trans ?_ | with_reducible apply ite_line | split | dsimp only

theorem execTestStart_lines (cls : TestClass) (s : State) (h : LineInv s) : outLines (execTestStart cls s) := by
  unfold execTestStart
  repeat' first
    | with_reducible assumption | with_reducible apply outLines_done | with_reducible apply lines_ite
    | with_reducible apply outLines_ite | with_reducible refine lines_of_view (startTest_line ..) ?_ | split
    | dsimp only

theorem afterPass_line (c u : Nat) (s : State) : lineView (afterPass c u s) = lineView s := by
  unfold afterPass
  repeat' first
    | with_reducible rfl | with_reducible refine (requestTarget_line ..).trans ?_
    | with_reducible refine (updClass_line ..).trans ?_ | with_reducible refine (withhold_line ..).trans ?_
    | with_reducible refine (resumeArray_line ..).trans ?_ | with_reducible refine (noteTestPhys_line ..).trans ?_
    | with_reducible refine (settleBindings_line ..).trans ?_ | with_reducible apply ite_line | split | dsimp only

theorem traceTestEnd_line (u : Nat) (s : State) : lineView (traceTestEnd u s) = lineView s := by
  unfold traceTestEnd
  repeat' first
    | with_reducible rfl | with_reducible refine (drawFree_line ..).trans ?_
    | with_reducible refine (traceTest_line ..).trans ?_ | dsimp only

theorem scoreTest_lines (cls : TestClass) (u : Nat) (res : TestOutcome) (s : State) (h : LineInv s) : LineInv
    (scoreTest cls u res s) := by
  unfold scoreTest
  repeat' first
    | with_reducible assumption | with_reducible apply lines_ite | with_reducible apply unitFailed_lines
    | with_reducible apply detectS1_lines | with_reducible refine lines_of_view (traceTestEnd_line ..) ?_
    | with_reducible refine lines_of_view (takeInjection_line ..) ?_
    | with_reducible refine lines_of_view (drawFree_line ..) ?_
    | with_reducible refine lines_of_view (updClass_line ..) ?_
    | with_reducible refine lines_of_view (afterPass_line ..) ?_ | split | dsimp only

theorem execTestScore_lines (cls : TestClass) (res : TestOutcome) (s : State) (h : LineInv s) : outLines
    (execTestScore cls res s) := by
  unfold execTestScore
  repeat' first
    | with_reducible assumption | with_reducible apply outLines_done | with_reducible apply lines_ite
    | with_reducible apply outLines_ite | with_reducible apply scoreTest_lines | split | dsimp only

theorem execHandoverForced_lines (cls : TestClass) (s : State) (h : LineInv s) : outLines (execHandoverForced cls
    s) := by
  unfold execHandoverForced
  repeat' first
    | with_reducible assumption | with_reducible apply outLines_done | with_reducible apply lines_ite
    | with_reducible apply outLines_ite | with_reducible apply abortPour_lines
    | with_reducible refine lines_of_view (raise_line ..) ?_ | split | dsimp only

theorem execTestStale_lines (u : Fin 35) (s : State) (h : LineInv s) : outLines (execTestStale u s) := by
  unfold execTestStale
  repeat' first
    | with_reducible assumption | with_reducible apply outLines_done | with_reducible apply lines_ite
    | with_reducible apply outLines_ite | with_reducible apply detectS1_lines
    | with_reducible apply invalidatePour_lines | split | dsimp only

theorem clearBusy_line (u : Nat) (s : State) : lineView (clearBusy u s) = lineView s := by
  unfold clearBusy
  repeat' first
    | with_reducible rfl | with_reducible refine (ladleRelease_line ..).trans ?_
    | with_reducible refine (endNode_line ..).trans ?_ | with_reducible apply ite_line | split | dsimp only

theorem execTokenTimeout_lines (u : Fin 35) (s : State) (h : LineInv s) : outLines (execTokenTimeout u s) := by
  unfold execTokenTimeout
  repeat' first
    | with_reducible assumption | with_reducible apply outLines_done | with_reducible apply lines_ite
    | with_reducible apply outLines_ite | with_reducible apply unitFailed_lines
    | with_reducible apply viewConflict_lines | with_reducible refine lines_of_view (roleMoves_line ..) ?_
    | with_reducible refine lines_of_view (clearBusy_line ..) ?_ | split | dsimp only

theorem execHealthSidebandFault_lines (u : Fin 35) (s : State) (h : LineInv s) : outLines (execHealthSidebandFault u
    s) := by
  unfold execHealthSidebandFault
  repeat' first
    | with_reducible assumption | with_reducible apply outLines_done | with_reducible apply lines_ite
    | with_reducible apply outLines_ite | with_reducible apply unitFailed_lines
    | with_reducible apply viewConflict_lines | split | dsimp only

theorem injectTest_line (u : Nat) (k : Injection) (s : State) : lineView (injectTest u k s) = lineView s := by
  unfold injectTest
  repeat' first | with_reducible rfl | with_reducible refine (raise_line ..).trans ?_ | dsimp only

theorem execTstInjectSignature_lines (who : Agent) (u : Fin 35) (s : State) (h : LineInv s) : outLines
    (execTstInjectSignature who u s) := by
  unfold execTstInjectSignature
  repeat' first
    | with_reducible assumption | with_reducible apply outLines_done | with_reducible apply lines_ite
    | with_reducible apply outLines_ite | with_reducible refine lines_of_view (injectTest_line ..) ?_ | split
    | dsimp only

theorem execTstInjectParity_lines (who : Agent) (u : Fin 35) (s : State) (h : LineInv s) : outLines
    (execTstInjectParity who u s) := by
  unfold execTstInjectParity
  repeat' first
    | with_reducible assumption | with_reducible apply outLines_done | with_reducible apply lines_ite
    | with_reducible apply outLines_ite | with_reducible refine lines_of_view (injectTest_line ..) ?_ | split
    | dsimp only

theorem execTstInjectView_lines (who : Agent) (u : Fin 35) (s : State) (h : LineInv s) : outLines (execTstInjectView
    who u s) := by
  unfold execTstInjectView
  repeat' first
    | with_reducible assumption | with_reducible apply outLines_done | with_reducible apply lines_ite
    | with_reducible apply outLines_ite | with_reducible refine lines_of_view (injectTest_line ..) ?_ | split
    | dsimp only

end Sys2Proof.Machine
end

