-- ==== Sys2Proof/Laws/LineStart.lean ====
section
/-! SUPPORT. The safety lines across the Assayer, the links, power, pattern loading and the start sequence: a function
that touches nothing they read leaves it as it is (_line); any other keeps them justified (_lines). -/

set_option linter.unusedTactic false
set_option linter.unusedVariables false
set_option linter.unreachableTactic false
set_option linter.unusedSimpArgs false

namespace Sys2Proof.Machine

theorem execAsyLockstep_lines (s : State) (h : LineInv s) : outLines (execAsyLockstep s) := by
  unfold execAsyLockstep
  repeat' first
    | with_reducible assumption | with_reducible apply outLines_done | with_reducible apply lines_ite
    | with_reducible apply outLines_ite | with_reducible apply detectS2_lines | split | dsimp only

theorem passBurst_line (s : State) : lineView (passBurst s) = lineView s := by
  unfold passBurst
  repeat' first | with_reducible rfl | dsimp only

theorem execHeartbeatBurst_lines (report : BurstReport) (s : State) (h : LineInv s) : outLines (execHeartbeatBurst
    report s) := by
  unfold execHeartbeatBurst
  repeat' first
    | with_reducible assumption | with_reducible apply outLines_done | with_reducible apply lines_ite
    | with_reducible apply outLines_ite | with_reducible apply detectS2_lines
    | with_reducible refine lines_of_view (passBurst_line ..) ?_ | split | dsimp only

theorem execHeartbeatMissed_lines (s : State) (h : LineInv s) : outLines (execHeartbeatMissed s) := by
  unfold execHeartbeatMissed
  repeat' first
    | with_reducible assumption | with_reducible apply outLines_done | with_reducible apply lines_ite
    | with_reducible apply outLines_ite | with_reducible apply detectS2_lines | split | dsimp only

theorem execWitnessResult_lines (slot : Fin 8) (seq : Word32) (ecc : Ecc) (s : State) (h : LineInv s) : outLines
    (execWitnessResult slot seq ecc s) := by
  unfold execWitnessResult
  repeat' first
    | with_reducible assumption
    | with_reducible refine lines_of_view (noteEcc_line ..) ?_ | with_reducible apply outLines_done | with_reducible apply lines_ite
    | with_reducible apply outLines_ite | with_reducible apply detectS2_lines | split | dsimp only

theorem checkEvent_lines (k : Nat) (pairs : BitVec 4) (s : State) (h : LineInv s) : LineInv (checkEvent k pairs
    s) := by
  unfold checkEvent
  repeat' first
    | with_reducible assumption | with_reducible apply detectS1_lines
    | with_reducible refine lines_of_view (raise_line ..) ?_ | split | dsimp only

theorem failNotices_lines (a : Announce) (i k : Nat) (s : State) (h : LineInv s) : LineInv (failNotices a i k s) := by
  unfold failNotices
  repeat' first
    | with_reducible assumption | with_reducible apply lines_ite | with_reducible apply pushNotice_lines
    | (with_reducible apply foldl_lines; intro _ _ _) | split | dsimp only

theorem countCheck_line (k n : Nat) (s : State) : lineView (countCheck k n s) = lineView s := by
  unfold countCheck
  repeat' first | with_reducible rfl | dsimp only

theorem settleAnnounce_line (r : PourRef) (s : State) : lineView (settleAnnounce r s) = lineView s := by
  unfold settleAnnounce
  repeat' first | with_reducible rfl | dsimp only

theorem lines_more_batches {s t : State} (b : Batch) (hb : b.stalled = false)
    (hv : lineView t = lineView { s with asy := { s.asy with batches := s.asy.batches ++ [b] } })
    (h : LineInv s) : LineInv t := by
  refine lines_of_view hv ⟨fun hs => ?_, h.2⟩
  obtain ⟨h1, h2, h3, h4⟩ := h.1 hs
  exact ⟨h1, h2, by simp [List.any_append, h3, hb], h4⟩

theorem judgePour_lines (q : Pour) (a : Announce) (v : WitnessView) (s : State) (h : LineInv s) :
    LineInv (judgePour q a v s) := by
  have hs (us : Nat) (os : List Nat) : LineInv
      (settleAnnounce q.ref { s with asy := { s.asy with unchecked := us, origins := os } }) :=
    lines_of_view (settleAnnounce_line ..) h
  unfold judgePour
  dsimp only
  split
  · exact failNotices_lines _ _ _ _ (checkEvent_lines _ _ _ (lines_of_view (countCheck_line ..) (hs _ _)))
  · exact lines_more_batches _ rfl rfl (hs _ _)

theorem execAsyJudgePour_lines (slot : Fin 8) (seq : Word32) (ecc : Ecc) (s : State) (h : LineInv s) : outLines
    (execAsyJudgePour slot seq ecc s) := by
  unfold execAsyJudgePour
  repeat' first
    | with_reducible assumption
    | with_reducible refine lines_of_view (noteEcc_line ..) ?_ | with_reducible apply outLines_done | with_reducible apply lines_ite
    | with_reducible apply outLines_ite | with_reducible apply detectS2_lines | with_reducible apply judgePour_lines
    | split | dsimp only

theorem recordHistory_line (b : Batch) (s : State) : lineView (recordHistory b s) = lineView s := by
  unfold recordHistory
  repeat' first | with_reducible rfl | dsimp only

theorem ledgerBatch_line (b : Batch) (s : State) : lineView (ledgerBatch b s) = lineView s := by
  unfold ledgerBatch
  repeat' first | with_reducible rfl | with_reducible refine (pruneLedger_line ..).trans ?_ | dsimp only

theorem lateBatch_lines (b : Batch) (s : State) (h : LineInv s) : LineInv (lateBatch b s) := by
  unfold lateBatch
  repeat' first
    | with_reducible assumption | with_reducible apply detectS1_lines | with_reducible apply pushNotice_lines
    | with_reducible refine lines_of_view (countCheck_line ..) ?_ | (with_reducible apply foldl_lines; intro _ _ _)
    | dsimp only

theorem execBatchRelease_lines (s : State) (h : LineInv s) : outLines (execBatchRelease s) := by
  unfold execBatchRelease
  split
  · exact h
  · split
    · exact h
    · exact driveLines_lines _

theorem execQueueStall_lines (s : State) (h : LineInv s) : outLines (execQueueStall s) := by
  unfold execQueueStall
  split
  · exact h
  · exact driveLines_lines _

theorem declareMissing_lines (a : Announce) (s : State) (h : LineInv s) : LineInv (declareMissing a s) := by
  unfold declareMissing
  repeat' first
    | with_reducible assumption | with_reducible apply noticesOf_lines | with_reducible apply detectS1_lines
    | dsimp only

theorem pruneAnnounced_line (s : State) : lineView (pruneAnnounced s) = lineView s := by
  unfold pruneAnnounced
  repeat' first | with_reducible rfl | dsimp only

theorem execAgeTick_lines (s : State) (h : LineInv s) : outLines (execAgeTick s) := by
  unfold execAgeTick
  repeat' first
    | with_reducible assumption | with_reducible apply outLines_done | with_reducible apply lines_ite
    | with_reducible apply outLines_ite | with_reducible apply declareMissing_lines
    | with_reducible refine lines_of_view (pruneAnnounced_line ..) ?_
    | (with_reducible apply foldl_lines; intro _ _ _) | split | dsimp only

theorem execS1Exit_lines (s : State) (h : LineInv s) : outLines (execS1Exit s) := by
  unfold execS1Exit
  repeat' first
    | with_reducible assumption | with_reducible apply outLines_done | with_reducible apply lines_ite
    | with_reducible apply outLines_ite | with_reducible apply driveLines_lines
    | with_reducible refine lines_of_view (raise_line ..) ?_ | split | dsimp only

theorem execS2Repeat_lines (s : State) (h : LineInv s) : outLines (execS2Repeat s) := by
  unfold execS2Repeat
  repeat' first
    | with_reducible assumption | with_reducible apply outLines_done | with_reducible apply lines_ite
    | with_reducible apply outLines_ite | with_reducible apply driveLines_lines
    | with_reducible refine lines_of_view (raise_line ..) ?_ | split | dsimp only

theorem execS2CountExpire_lines (s : State) (h : LineInv s) : outLines (execS2CountExpire s) := by
  unfold execS2CountExpire
  repeat' first
    | with_reducible assumption | with_reducible apply outLines_done | with_reducible apply lines_ite
    | with_reducible apply outLines_ite | split | dsimp only

theorem updLink_line (l : Nat) (f : Link → Link) (s : State) : lineView (updLink l f s) = lineView s := by
  unfold updLink
  repeat' first | with_reducible rfl | dsimp only

theorem noteReference_line (s : State) : lineView (noteReference s) = lineView s := by
  unfold noteReference
  repeat' first | with_reducible rfl | dsimp only

theorem standLinks_line (k : Int) (s : State) : lineView (standLinks k s) = lineView s := by
  unfold standLinks
  repeat' first
    | with_reducible rfl | with_reducible refine (noteWindow_line ..).trans ?_ | with_reducible apply ite_line
    | split | dsimp only

theorem stepClock_line (d : Int) (s : State) : lineView (stepClock d s) = lineView s := by
  unfold stepClock
  repeat' first | with_reducible rfl | split | dsimp only

theorem noteResidual_line (stepped : Bool) (resid : Int) (s : State) : lineView (noteResidual stepped resid s) =
    lineView s := by
  unfold noteResidual
  repeat' first
    | with_reducible rfl | with_reducible refine (traceSync_line ..).trans ?_ | with_reducible apply ite_line | split
    | dsimp only

theorem alignTime_line (offsetSum : Int) (s : State) : lineView (alignTime offsetSum s) = lineView s := by
  unfold alignTime
  repeat' first
    | with_reducible rfl | with_reducible refine (stepClock_line ..).trans ?_
    | with_reducible refine (noteResidual_line ..).trans ?_ | dsimp only

theorem alignOnce_line (l : Nat) (offsetSum : Int) (s : State) : lineView (alignOnce l offsetSum s) = lineView s := by
  unfold alignOnce
  repeat' first
    | with_reducible rfl | with_reducible refine (alignTime_line ..).trans ?_ | with_reducible apply ite_line | split
    | dsimp only

theorem failTraining_line (l : Nat) (lanes : Byte) (s : State) : lineView (failTraining l lanes s) = lineView s := by
  unfold failTraining
  repeat' first | with_reducible rfl | with_reducible refine (updLink_line ..).trans ?_ | dsimp only

theorem passTraining_line (l : Nat) (inp : TrainInputs) (s : State) : lineView (passTraining l inp s) = lineView
    s := by
  unfold passTraining
  repeat' first
    | with_reducible rfl | with_reducible refine (updLink_line ..).trans ?_
    | with_reducible refine (standLinks_line ..).trans ?_ | with_reducible refine (noteReference_line ..).trans ?_
    | with_reducible refine (alignOnce_line ..).trans ?_ | dsimp only

theorem execLinkTrainAttempt_lines (l : Fin 3) (inp : TrainInputs) (s : State) (h : LineInv s) : outLines
    (execLinkTrainAttempt l inp s) := by
  unfold execLinkTrainAttempt
  repeat' first
    | with_reducible assumption | with_reducible apply outLines_done | with_reducible apply lines_ite
    | with_reducible apply outLines_ite | with_reducible refine lines_of_view (failTraining_line ..) ?_
    | with_reducible refine lines_of_view (raise_line ..) ?_
    | with_reducible refine lines_of_view (passTraining_line ..) ?_ | split | dsimp only

theorem execLinkTrainRetry_lines (l : Fin 3) (s : State) (h : LineInv s) : outLines (execLinkTrainRetry l s) := by
  unfold execLinkTrainRetry
  repeat' first
    | with_reducible assumption | with_reducible apply outLines_done | with_reducible apply lines_ite
    | with_reducible apply outLines_ite | with_reducible refine lines_of_view (raise_line ..) ?_
    | with_reducible refine lines_of_view (updLink_line ..) ?_ | split | dsimp only

theorem execResidualMeasure_lines (offsetSum : Int) (s : State) (h : LineInv s) : outLines (execResidualMeasure
    offsetSum s) := by
  unfold execResidualMeasure
  repeat' first
    | with_reducible assumption | with_reducible apply outLines_done | with_reducible apply lines_ite
    | with_reducible apply outLines_ite | with_reducible apply detectS1_lines
    | with_reducible refine lines_of_view (noteResidual_line ..) ?_
    | with_reducible refine lines_of_view (raise_line ..) ?_ | split | dsimp only

theorem execLnkTimeLost_lines (s : State) (h : LineInv s) : outLines (execLnkTimeLost s) := by
  unfold execLnkTimeLost
  repeat' first
    | with_reducible assumption | with_reducible apply outLines_done | with_reducible apply lines_ite
    | with_reducible apply outLines_ite | with_reducible apply detectS2_lines | split | dsimp only

theorem execPeerStatusSend_lines (s : State) (h : LineInv s) : outLines (execPeerStatusSend s) := by
  unfold execPeerStatusSend
  repeat' first
    | with_reducible assumption | with_reducible apply outLines_done | with_reducible apply outLines_ite
    | with_reducible refine lines_of_view (sendPeer_line ..) ?_ | (with_reducible apply foldl_lines; intro _ _ _)
    | dsimp only

theorem notePeerUp_line (chip : Nat) (s : State) : lineView (notePeerUp chip s) = lineView s := by
  unfold notePeerUp
  exact (noteReference_line ..).trans (updLink_line ..)

theorem execPeerStatusReceive_lines (chip : Fin 4) (state : BitVec 2) (pendingTag : Option Word32) (swapped : Bool) (s
    : State) (h : LineInv s) : outLines (execPeerStatusReceive chip state pendingTag swapped s) := by
  unfold execPeerStatusReceive
  repeat' first
    | with_reducible assumption
    | with_reducible refine lines_of_view (notePeerUp_line ..) ?_ | with_reducible apply outLines_done | with_reducible apply lines_ite
    | with_reducible apply outLines_ite | split | dsimp only

theorem execFlitReplay_lines (l : Fin 3) (s : State) (h : LineInv s) : outLines (execFlitReplay l s) := by
  unfold execFlitReplay
  repeat' first
    | with_reducible assumption | with_reducible apply outLines_done | with_reducible apply lines_ite
    | with_reducible apply outLines_ite | with_reducible refine lines_of_view (updLink_line ..) ?_ | split
    | dsimp only

theorem dropLink_line (l : Nat) (s : State) : lineView (dropLink l s) = lineView s := by
  unfold dropLink
  repeat' first
    | with_reducible rfl | with_reducible refine (ladleStop_line ..).trans ?_
    | with_reducible refine (standLinks_line ..).trans ?_ | with_reducible refine (updLink_line ..).trans ?_
    | with_reducible refine (noteReference_line ..).trans ?_ | dsimp only

theorem abortExchanges_lines (s : State) (h : LineInv s) : LineInv (abortExchanges s) := by
  unfold abortExchanges
  repeat' first
    | with_reducible assumption | with_reducible apply lines_ite | with_reducible apply abortPour_lines
    | with_reducible refine lines_of_view (raise_line ..) ?_ | (with_reducible apply foldl_lines; intro _ _ _)
    | split | dsimp only

theorem execLinkDown_lines (l : Fin 3) (s : State) (h : LineInv s) : outLines (execLinkDown l s) := by
  unfold execLinkDown
  repeat' first
    | with_reducible assumption | with_reducible apply outLines_done | with_reducible apply lines_ite
    | with_reducible apply outLines_ite | with_reducible apply detectS1_lines
    | with_reducible apply abortExchanges_lines | with_reducible refine lines_of_view (dropLink_line ..) ?_
    | with_reducible refine lines_of_view (raise_line ..) ?_ | split | dsimp only

theorem execLaneGroup1Lost_lines (l : Fin 3) (s : State) (h : LineInv s) : outLines (execLaneGroup1Lost l s) := by
  unfold execLaneGroup1Lost
  repeat' first
    | with_reducible assumption | with_reducible apply outLines_done | with_reducible apply lines_ite
    | with_reducible apply outLines_ite | with_reducible refine lines_of_view (ladleStop_line ..) ?_
    | with_reducible refine lines_of_view (raise_line ..) ?_
    | with_reducible refine lines_of_view (updLink_line ..) ?_ | split | dsimp only

theorem execLaneGroupIdle_lines (l : Fin 3) (s : State) (h : LineInv s) : outLines (execLaneGroupIdle l s) := by
  unfold execLaneGroupIdle
  repeat' first
    | with_reducible assumption | with_reducible apply outLines_done | with_reducible apply lines_ite
    | with_reducible apply outLines_ite | with_reducible refine lines_of_view (ladleRelease_line ..) ?_
    | with_reducible refine lines_of_view (updLink_line ..) ?_ | split | dsimp only

theorem execLaneGroup1Join_lines (l : Fin 3) (s : State) (h : LineInv s) : outLines (execLaneGroup1Join l s) := by
  unfold execLaneGroup1Join
  repeat' first
    | with_reducible assumption | with_reducible apply outLines_done | with_reducible apply lines_ite
    | with_reducible apply outLines_ite | with_reducible refine lines_of_view (joinGroup_line ..) ?_
    | with_reducible refine lines_of_view (updLink_line ..) ?_ | split | dsimp only

theorem remoteSet_lines (chip f : Nat) (ref : PourRef) (origin : Nat) (s : State) (h : LineInv s) : LineInv (remoteSet
    chip f ref origin s) := by
  unfold remoteSet
  repeat' first
    | with_reducible assumption | with_reducible apply lines_ite | with_reducible apply fireFlag_lines
    | with_reducible apply abortPour_lines | with_reducible refine lines_of_view (raise_line ..) ?_
    | with_reducible refine lines_of_view (wakeWaits_line ..) ?_
    | with_reducible refine lines_of_view (putFlag_line ..) ?_ | split | dsimp only

theorem execRemoteFlagSet_lines (chip : Fin 4) (flag : Nat) (slot : Fin 8) (seq : Word32) (origin : Nat) (s : State)
    (h : LineInv s) : outLines (execRemoteFlagSet chip flag slot seq origin s) := by
  unfold execRemoteFlagSet
  repeat' first
    | with_reducible assumption | with_reducible apply outLines_done | with_reducible apply lines_ite
    | with_reducible apply outLines_ite | with_reducible apply remoteSet_lines | split | dsimp only

theorem writeLineIn_lines (buf : Nat × Nat) (line : ExchangeLine) (s : State) (h : LineInv s) : LineInv (writeLineIn
    buf line s).1 := by
  unfold writeLineIn
  repeat' first
    | with_reducible assumption | with_reducible apply lines_ite | with_reducible apply checkAccess_lines
    | with_reducible refine lines_of_view (physWrite_line ..) ?_ | split | dsimp only

theorem remoteServe_line (ref : PourRef) (chip : Nat) (phys : BitVec 17) (s : State) : lineView (remoteServe ref chip
    phys s) = lineView s := by
  unfold remoteServe
  repeat' first | with_reducible rfl | with_reducible refine (updPour_line ..).trans ?_ | dsimp only

theorem takeLine_lines (line : ExchangeLine) (n : NodeRec) (q : Pour) (s : State) (h : LineInv s) : LineInv (takeLine
    line n q s) := by
  unfold takeLine
  repeat' first
    | with_reducible assumption | with_reducible apply lines_ite | with_reducible apply writeLineIn_lines
    | with_reducible refine lines_of_view (armBarrier_line ..) ?_
    | with_reducible refine lines_of_view (remoteServe_line ..) ?_ | split | dsimp only

theorem execXchgLine_lines (line : ExchangeLine) (s : State) (h : LineInv s) : outLines (execXchgLine line s) := by
  unfold execXchgLine
  repeat' first
    | with_reducible assumption | with_reducible apply outLines_done | with_reducible apply lines_ite
    | with_reducible apply outLines_ite | with_reducible apply takeLine_lines | split | dsimp only

theorem execPeerAbort_lines (chip : Fin 4) (slot : Fin 8) (seq : Word32) (s : State) (h : LineInv s) : outLines
    (execPeerAbort chip slot seq s) := by
  unfold execPeerAbort
  repeat' first
    | with_reducible assumption | with_reducible apply outLines_done | with_reducible apply lines_ite
    | with_reducible apply outLines_ite | with_reducible apply abortPour_lines
    | with_reducible refine lines_of_view (raise_line ..) ?_ | split | dsimp only

theorem requestSwap_line (s : State) : lineView (requestSwap s) = lineView s := by
  unfold requestSwap
  repeat' first | with_reducible rfl | dsimp only

theorem announceSwap_line (p : Pattern) (s : State) : lineView (announceSwap p s) = lineView s := by
  unfold announceSwap
  repeat' first
    | with_reducible rfl | with_reducible refine (requestSwap_line ..).trans ?_
    | with_reducible refine (raise_line ..).trans ?_ | with_reducible apply ite_line | split | dsimp only

theorem execFlaskSwapAnnounce_lines (s : State) (h : LineInv s) : outLines (execFlaskSwapAnnounce s) := by
  unfold execFlaskSwapAnnounce
  repeat' first
    | with_reducible assumption | with_reducible apply outLines_done | with_reducible apply lines_ite
    | with_reducible apply outLines_ite | with_reducible refine lines_of_view (announceSwap_line ..) ?_ | split
    | dsimp only

theorem execFlaskSwapTake_lines (s : State) (h : LineInv s) : outLines (execFlaskSwapTake s) := by
  unfold execFlaskSwapTake
  repeat' first
    | with_reducible assumption | with_reducible apply outLines_done | with_reducible apply lines_ite
    | with_reducible apply outLines_ite | with_reducible refine lines_of_view (requestSwap_line ..) ?_ | split
    | dsimp only

theorem execRemoteUnitFailed_lines (chip : Fin 4) (u : Fin 35) (s : State) (h : LineInv s) : outLines
    (execRemoteUnitFailed chip u s) := by
  unfold execRemoteUnitFailed
  repeat' first
    | with_reducible assumption | with_reducible apply outLines_done | with_reducible apply lines_ite
    | with_reducible apply outLines_ite | with_reducible apply invalidatePour_lines
    | with_reducible apply recallPours_lines | (with_reducible apply foldl_lines; intro _ _ _) | split | dsimp only

theorem execVddAsyPowerOn_lines (s : State) (h : LineInv s) : outLines (execVddAsyPowerOn s) := by
  unfold execVddAsyPowerOn
  repeat' first
    | with_reducible assumption | with_reducible apply outLines_done | with_reducible apply coldReset_lines
    | with_reducible apply driveLines_lines | dsimp only

theorem execVddAsyLoss_lines (vddIoPresent : Bool) (s : State) (h : LineInv s) : outLines (execVddAsyLoss vddIoPresent
    s) := by
  unfold execVddAsyLoss
  repeat' first
    | with_reducible assumption | with_reducible apply outLines_done | with_reducible apply coldReset_lines
    | dsimp only

theorem coreUp_line (s : State) : lineView (coreUp s) = lineView s := by
  unfold coreUp
  repeat' first | with_reducible rfl | dsimp only

theorem execVddCorePowerOn_lines (s : State) (h : LineInv s) : outLines (execVddCorePowerOn s) := by
  unfold execVddCorePowerOn
  repeat' first
    | with_reducible assumption | with_reducible apply outLines_done | with_reducible apply lines_ite
    | with_reducible apply outLines_ite | with_reducible apply driveLines_lines
    | with_reducible apply warmReset_lines | with_reducible refine lines_of_view (coreUp_line ..) ?_ | split
    | dsimp only

theorem execPmicEnAssert_lines (s : State) (h : LineInv s) : outLines (execPmicEnAssert s) := by
  unfold execPmicEnAssert
  repeat' first
    | with_reducible assumption | with_reducible apply outLines_done | with_reducible apply lines_ite
    | with_reducible apply outLines_ite | split | dsimp only

theorem execPowerUpTimeout_lines (s : State) (h : LineInv s) : outLines (execPowerUpTimeout s) := by
  unfold execPowerUpTimeout
  repeat' first
    | with_reducible assumption | with_reducible apply outLines_done | with_reducible apply lines_ite
    | with_reducible apply outLines_ite | with_reducible apply driveLines_lines | split | dsimp only

theorem holdExit_line (s : State) : lineView (holdExit s) = lineView s := by
  unfold holdExit
  repeat' first | with_reducible rfl | with_reducible apply ite_line | split | dsimp only

theorem offExit_lines (s : State) (h : LineInv s) : LineInv (offExit s) := by
  unfold offExit
  repeat' first
    | with_reducible assumption | with_reducible apply warmReset_lines | with_reducible apply driveLines_lines
    | dsimp only

theorem execRstNPulse_lines (lowEclk : Nat) (s : State) (h : LineInv s) : outLines (execRstNPulse lowEclk s) := by
  unfold execRstNPulse
  repeat' first
    | with_reducible assumption | with_reducible apply outLines_done | with_reducible apply lines_ite
    | with_reducible apply outLines_ite | with_reducible apply offExit_lines | with_reducible apply driveLines_lines
    | with_reducible apply warmReset_lines | with_reducible refine lines_of_view (holdExit_line ..) ?_ | split
    | dsimp only

theorem execSoftReset_lines (who : Agent) (s : State) (h : LineInv s) : outLines (execSoftReset who s) := by
  unfold execSoftReset
  repeat' first
    | with_reducible assumption | with_reducible apply outLines_done | with_reducible apply lines_ite
    | with_reducible apply outLines_ite | with_reducible apply driveLines_lines
    | with_reducible apply warmReset_lines | split | dsimp only

theorem execPllUnlock_lines (s : State) (h : LineInv s) : outLines (execPllUnlock s) := by
  unfold execPllUnlock
  repeat' first
    | with_reducible assumption | with_reducible apply outLines_done | with_reducible apply lines_ite
    | with_reducible apply outLines_ite | with_reducible apply detectS2_lines | split | dsimp only

theorem execRefclkLost_lines (s : State) (h : LineInv s) : outLines (execRefclkLost s) := by
  unfold execRefclkLost
  repeat' first
    | with_reducible assumption | with_reducible apply outLines_done | with_reducible apply lines_ite
    | with_reducible apply outLines_ite | with_reducible apply detectS2_lines | split | dsimp only

theorem execClockMonitorWindow_lines (counts : ClockCounts) (s : State) (h : LineInv s) : outLines
    (execClockMonitorWindow counts s) := by
  unfold execClockMonitorWindow
  repeat' first
    | with_reducible assumption | with_reducible apply outLines_done | with_reducible apply lines_ite
    | with_reducible apply outLines_ite | with_reducible apply detectS2_lines
    | (with_reducible apply foldl_lines; intro _ _ _) | split | dsimp only

theorem execSupplyExcursion_lines (rail : MonitoredRail) (millivolts eclk : Nat) (s : State) (h : LineInv s) :
    outLines (execSupplyExcursion rail millivolts eclk s) := by
  unfold execSupplyExcursion
  repeat' first
    | with_reducible assumption | with_reducible apply outLines_done | with_reducible apply lines_ite
    | with_reducible apply outLines_ite | with_reducible apply detectS2_lines | split | dsimp only

theorem execVddIoLow_lines (s : State) (h : LineInv s) : outLines (execVddIoLow s) := by
  unfold execVddIoLow
  repeat' first
    | with_reducible assumption | with_reducible apply outLines_done | with_reducible apply lines_ite
    | with_reducible apply outLines_ite | with_reducible apply detectS2_lines | split | dsimp only

theorem execTempSample_lines (celsius : BitVec 9) (s : State) (h : LineInv s) : outLines (execTempSample celsius
    s) := by
  unfold execTempSample
  repeat' first
    | with_reducible assumption | with_reducible apply outLines_done | with_reducible apply lines_ite
    | with_reducible apply outLines_ite | with_reducible refine lines_of_view (raise_line ..) ?_ | split | dsimp only

theorem execTempTrip_lines (s : State) (h : LineInv s) : outLines (execTempTrip s) := by
  unfold execTempTrip
  repeat' first
    | with_reducible assumption | with_reducible apply outLines_done | with_reducible apply lines_ite
    | with_reducible apply outLines_ite | with_reducible apply detectS2_lines | split | dsimp only

theorem execVddCoreMonRearm_lines (s : State) (h : LineInv s) : outLines (execVddCoreMonRearm s) := by
  unfold execVddCoreMonRearm
  repeat' first
    | with_reducible assumption | with_reducible apply outLines_done | with_reducible apply lines_ite
    | with_reducible apply outLines_ite | split | dsimp only

theorem execHoldCoreTimeout_lines (s : State) (h : LineInv s) : outLines (execHoldCoreTimeout s) := by
  unfold execHoldCoreTimeout
  repeat' first
    | with_reducible assumption | with_reducible apply outLines_done | with_reducible apply lines_ite
    | with_reducible apply outLines_ite | with_reducible apply detectS2_lines | split | dsimp only

theorem execHoldWakeTimer_lines (s : State) (h : LineInv s) : outLines (execHoldWakeTimer s) := by
  unfold execHoldWakeTimer
  repeat' first
    | with_reducible assumption | with_reducible apply outLines_done | with_reducible apply lines_ite
    | with_reducible apply outLines_ite | with_reducible refine lines_of_view (holdExit_line ..) ?_ | split
    | dsimp only

theorem writeModeReq_line (code : BitVec 3) (s : State) : lineView (writeModeReq code s) = lineView s := by
  unfold writeModeReq
  repeat' first
    | with_reducible rfl | with_reducible refine (requestMode_line ..).trans ?_
    | with_reducible refine (raise_line ..).trans ?_ | split | dsimp only

theorem takeModeReq_line (keeper host : Option (BitVec 3)) (s : State) : lineView (takeModeReq keeper host s) =
    lineView s := by
  unfold takeModeReq
  repeat' first
    | with_reducible rfl | with_reducible refine (raise_line ..).trans ?_
    | with_reducible refine (writeModeReq_line ..).trans ?_ | split | dsimp only

theorem execPwrModeRequest_lines (keeper host : Option (BitVec 3)) (s : State) (h : LineInv s) : outLines
    (execPwrModeRequest keeper host s) := by
  unfold execPwrModeRequest
  repeat' first
    | with_reducible assumption | with_reducible apply outLines_done | with_reducible apply lines_ite
    | with_reducible apply outLines_ite | with_reducible refine lines_of_view (takeModeReq_line ..) ?_
    | with_reducible refine lines_of_view (dropHeld_line ..) ?_ | split | dsimp only

theorem drainLadle_lines (s : State) (h : LineInv s) : LineInv (drainLadle s) := by
  unfold drainLadle
  repeat' first
    | with_reducible assumption | with_reducible apply lines_ite | with_reducible apply stopChannel_lines
    | with_reducible refine lines_of_view (stopLoad_line ..) ?_
    | with_reducible refine lines_of_view (ladleStop_line ..) ?_
    | with_reducible refine lines_of_view (updLink_line ..) ?_ | (with_reducible apply foldl_lines; intro _ _ _)
    | split | dsimp only

theorem enterQuiet_lines (s : State) (h : LineInv s) : LineInv (enterQuiet s) := by
  unfold enterQuiet
  repeat' first
    | with_reducible assumption | with_reducible apply dropSafe_lines
    | with_reducible refine lines_of_view (dropLink_line ..) ?_ | (with_reducible apply foldl_lines; intro _ _ _)
    | dsimp only

theorem startPending_line (s : State) : lineView (startPending s) = lineView s := by
  unfold startPending
  repeat' first
    | with_reducible rfl | with_reducible refine (requestMode_line ..).trans ?_ | with_reducible apply ite_line
    | split | dsimp only

theorem rampStanding_line (next : Nat) (s : State) : lineView (rampStanding next s) = lineView s := by
  unfold rampStanding
  repeat' first | with_reducible rfl | dsimp only

theorem startChange_lines (t : Transition) (s : State) (h : LineInv s) : LineInv (startChange t s) := by
  unfold startChange
  repeat' first
    | with_reducible assumption | with_reducible apply lines_ite | with_reducible apply drainLadle_lines
    | with_reducible apply enterQuiet_lines | with_reducible refine lines_of_view (startPending_line ..) ?_
    | with_reducible refine lines_of_view (raise_line ..) ?_
    | with_reducible refine lines_of_view (rampStanding_line ..) ?_ | split | dsimp only

theorem execModeTransitionStart_lines (s : State) (h : LineInv s) : outLines (execModeTransitionStart s) := by
  unfold execModeTransitionStart
  repeat' first
    | with_reducible assumption | with_reducible apply outLines_done | with_reducible apply lines_ite
    | with_reducible apply outLines_ite | with_reducible apply startChange_lines | split | dsimp only

theorem sleepCams_line (keep : Nat → Bool) (s : State) : lineView (sleepCams keep s) = lineView s := by
  unfold sleepCams
  repeat' first | with_reducible rfl | with_reducible apply ite_line | split | dsimp only

theorem hifOff_line (s : State) : lineView (hifOff s) = lineView s := by
  unfold hifOff
  repeat' first | with_reducible rfl | dsimp only

theorem enterHold_line (s : State) : lineView (enterHold s) = lineView s := by
  unfold enterHold
  repeat' first
    | with_reducible rfl | with_reducible refine (hifOff_line ..).trans ?_
    | with_reducible refine (sleepCams_line ..).trans ?_ | dsimp only

theorem enterOff_line (s : State) : lineView (enterOff s) = lineView s := by
  unfold enterOff
  repeat' first
    | with_reducible rfl | with_reducible refine (hifOff_line ..).trans ?_
    | with_reducible refine (sleepCams_line ..).trans ?_ | dsimp only

theorem returnToRun_line (source : PowerMode) (s : State) : lineView (returnToRun source s) = lineView s := by
  unfold returnToRun
  repeat' first
    | with_reducible rfl | with_reducible refine (carryOver_line ..).trans ?_ | with_reducible apply ite_line | split
    | dsimp only

theorem reverify_line (s : State) : lineView (reverify s) = lineView s := by
  unfold reverify
  repeat' first
    | with_reducible rfl | with_reducible refine (raise_line ..).trans ?_
    | with_reducible refine (setHw_line ..).trans ?_ | with_reducible apply ite_line | split | dsimp only

theorem resolveExit_line (t : Transition) (s : State) : lineView ((resolveExit t s).2) = lineView s := by
  unfold resolveExit
  repeat' first
    | with_reducible rfl | with_reducible refine (raise_line ..).trans ?_ | with_reducible apply ite_line | split
    | dsimp only

theorem discardPending_line (m : PowerMode) (s : State) : lineView (discardPending m s) = lineView s := by
  unfold discardPending
  repeat' first
    | with_reducible rfl | with_reducible refine (raise_line ..).trans ?_ | with_reducible apply ite_line | split
    | dsimp only

theorem phyBack_line (t : Transition) (s : State) : lineView (phyBack t s) = lineView s := by
  unfold phyBack
  repeat' first | with_reducible rfl | with_reducible apply ite_line | split | dsimp only

theorem execModeTransitionComplete_lines (s : State) (h : LineInv s) : outLines (execModeTransitionComplete s) := by
  unfold execModeTransitionComplete
  repeat' first
    | with_reducible assumption | with_reducible apply outLines_done | with_reducible apply driveLines_lines | split
    | dsimp only

theorem placeWrite_lines (s : State) (a : Nat) (bs : List Byte) (h : LineInv s) : LineInv (placeWrite s a bs) := by
  unfold placeWrite
  repeat' first
    | with_reducible assumption | with_reducible apply unitWrite_lines
    | with_reducible refine lines_of_view (sendPeer_line ..) ?_ | split | dsimp only

theorem readPages_lines (id : Nat) (walkBad : Bool) (fuel addr n : Nat) (s : State) (h : LineInv s) :
    LineInv (readPages id walkBad fuel addr n s).2 := by
  induction fuel generalizing addr n s with
  | zero => exact h
  | succ fuel ih =>
    unfold readPages
    have hw := checkAccess_lines id false .read addr (min n (0x10000 - addr % 0x10000)) walkBad s h
    repeat' first | exact h | exact hw | exact ih _ _ _ hw | split | dsimp only

theorem rejectState_line (code : EventCode) (s : State) : lineView (rejectState code s) = lineView s := by
  unfold rejectState
  repeat' first | with_reducible rfl | with_reducible refine (setHw_line ..).trans ?_ | dsimp only

theorem rejectLoad_line (code : EventCode) (s : State) : lineView (rejectLoad code s) = lineView s := by
  unfold rejectLoad
  repeat' first
    | with_reducible rfl | with_reducible refine (raise_line ..).trans ?_
    | with_reducible refine (rejectState_line ..).trans ?_ | dsimp only

theorem rejectEcc_lines (s : State) (h : LineInv s) : LineInv (rejectEcc s) := by
  unfold rejectEcc
  repeat' first
    | with_reducible assumption | with_reducible apply detectS1_lines
    | with_reducible refine lines_of_view (rejectState_line ..) ?_ | dsimp only

theorem refuseLoad_line (code : EventCode) (s : State) : lineView (refuseLoad code s) = lineView s := by
  unfold refuseLoad
  repeat' first
    | with_reducible rfl | with_reducible refine (raise_line ..).trans ?_
    | with_reducible refine (setHw_line ..).trans ?_ | dsimp only

theorem markParamBad_line (p : Pattern) (s : State) : lineView (markParamBad p s) = lineView s := by
  unfold markParamBad
  repeat' first
    | with_reducible rfl | with_reducible refine (noteCam_line ..).trans ?_
    | with_reducible refine (markCam_line ..).trans ?_ | split | dsimp only

theorem judgePattern_lines (bs : List Byte) (len : Option Nat) (area : Option AreaFault) (s : State) (h : LineInv
    s) : LineInv (judgePattern bs len area s) := by
  unfold judgePattern
  repeat' first
    | with_reducible assumption | with_reducible apply lines_ite | with_reducible apply rejectEcc_lines
    | with_reducible refine lines_of_view (rejectLoad_line ..) ?_
    | with_reducible refine lines_of_view (markParamBad_line ..) ?_ | split | dsimp only

theorem requestLoad_lines (ecc : Ecc) (area : Option AreaFault) (s : State) (h : LineInv s) : LineInv (requestLoad
    ecc area s) := by
  unfold requestLoad
  repeat' first
    | with_reducible assumption
    | with_reducible refine lines_of_view (noteEcc_line ..) ?_ | with_reducible apply lines_ite | with_reducible apply readPages_lines
    | with_reducible apply rejectEcc_lines | with_reducible apply judgePattern_lines
    | with_reducible refine lines_of_view (refuseLoad_line ..) ?_
    | with_reducible refine lines_of_view (rejectLoad_line ..) ?_
    | with_reducible refine lines_of_view (physWrite_line ..) ?_ | split | dsimp only

theorem takeLoad_lines (keeper host : Bool) (ecc : Ecc) (area : Option AreaFault) (s : State) (h : LineInv s) : LineInv
    (takeLoad keeper host ecc area s) := by
  unfold takeLoad
  repeat' first
    | with_reducible assumption | with_reducible apply lines_ite | with_reducible apply requestLoad_lines
    | with_reducible refine lines_of_view (dropHeld_line ..) ?_
    | with_reducible refine lines_of_view (refuseLoad_line ..) ?_ | split | dsimp only

theorem execPatternLoad_lines (keeper host : Bool) (reads : LoadReads) (s : State) (h : LineInv s) :
    outLines (execPatternLoad keeper host reads s) := by
  unfold execPatternLoad
  repeat' first
    | with_reducible assumption | with_reducible apply outLines_done | with_reducible apply takeLoad_lines
    | dsimp only

theorem settleLoad_lines (s : State) (h : LineInv s) : LineInv (settleLoad s) := by
  unfold settleLoad
  repeat' first
    | with_reducible assumption | with_reducible apply takeLoad_lines
    | with_reducible refine lines_of_view (dropHeld_line ..) ?_ | dsimp only

theorem rejectStart_lines (s : State) (h : LineInv s) : LineInv (rejectStart s) := by
  have k := lines_of_view (rejectLoad_line 0x100C s) h
  exact ⟨fun a => ⟨(k.1 a).1, (k.1 a).2.1, (k.1 a).2.2.1, Nat.le_succ_of_le (Nat.le_succ 6)⟩, k.2.1, k.2.2⟩

theorem endLoad_lines (p : Pattern) (s : State) (h : LineInv s) : LineInv (endLoad p s) := by
  unfold endLoad
  repeat' first
    | with_reducible assumption | with_reducible apply lines_ite
    | with_reducible apply placeWrite_lines | with_reducible refine lines_of_view (raise_line ..) ?_
    | with_reducible refine lines_of_view (requestSwap_line ..) ?_ | (with_reducible apply foldl_lines; intro _ _ _)
    | split | dsimp only

theorem execPatternLoaded_lines (s : State) (h : LineInv s) : outLines (execPatternLoaded s) := by
  unfold execPatternLoaded
  repeat' first
    | with_reducible assumption
    | with_reducible apply endLoad_lines
    | with_reducible apply outLines_done | with_reducible apply lines_ite
    | with_reducible apply outLines_ite | with_reducible apply rejectEcc_lines | with_reducible apply rejectStart_lines
    | with_reducible apply placeWrite_lines | with_reducible refine lines_of_view (raise_line ..) ?_
    | with_reducible refine lines_of_view (requestSwap_line ..) ?_ | (with_reducible apply foldl_lines; intro _ _ _)
    | split | dsimp only

theorem commitSwap_line (s : State) : lineView (commitSwap s) = lineView s := by
  unfold commitSwap
  repeat' first
    | with_reducible rfl | with_reducible refine (requestSwap_line ..).trans ?_ | with_reducible apply ite_line
    | split | dsimp only

theorem execSwapCommit_lines (who : Agent) (s : State) (h : LineInv s) : outLines (execSwapCommit who s) := by
  unfold execSwapCommit
  repeat' first
    | with_reducible assumption | with_reducible apply outLines_done | with_reducible apply lines_ite
    | with_reducible apply outLines_ite | with_reducible refine lines_of_view (commitSwap_line ..) ?_ | split
    | dsimp only

theorem swapCams_line (p : Pattern) (s : State) : lineView (swapCams p s) = lineView s := by
  unfold swapCams
  repeat' first | with_reducible rfl | with_reducible apply ite_line | split | dsimp only

theorem swapAsy_line (old : Option Pattern) (p : Pattern) (s : State) : lineView (swapAsy old p s) = lineView s := by
  unfold swapAsy
  repeat' first | with_reducible rfl | dsimp only

theorem swapFgs_line (s : State) : lineView (swapFgs s) = lineView s := by
  unfold swapFgs
  repeat' first | with_reducible rfl | dsimp only

theorem swapRiser_line (p : Pattern) (s : State) : lineView (swapRiser p s) = lineView s := by
  unfold swapRiser
  repeat' first | with_reducible rfl | dsimp only

theorem swapIn_lines (p : Pattern) (s : State) (h : LineInv s) : LineInv (swapIn p s) := by
  unfold swapIn
  repeat' first
    | with_reducible assumption | with_reducible apply bindChannels_lines | with_reducible apply placeWrite_lines
    | with_reducible refine lines_of_view (swapRiser_line ..) ?_
    | with_reducible refine lines_of_view (swapFgs_line ..) ?_
    | with_reducible refine lines_of_view (swapAsy_line ..) ?_
    | with_reducible refine lines_of_view (swapCams_line ..) ?_
    | with_reducible refine lines_of_view (raise_line ..) ?_ | (with_reducible apply foldl_lines; intro _ _ _)
    | dsimp only

theorem execSwapPoint_lines (s : State) (h : LineInv s) : outLines (execSwapPoint s) := by
  unfold execSwapPoint
  repeat' first
    | with_reducible assumption | with_reducible apply outLines_done | with_reducible apply lines_ite
    | with_reducible apply outLines_ite | with_reducible apply swapIn_lines | split | dsimp only

theorem execSwapDrainTimeout_lines (s : State) (h : LineInv s) : outLines (execSwapDrainTimeout s) := by
  unfold execSwapDrainTimeout
  repeat' first
    | with_reducible assumption | with_reducible apply outLines_done | with_reducible apply lines_ite
    | with_reducible apply outLines_ite | with_reducible apply abortPour_lines
    | with_reducible refine lines_of_view (raise_line ..) ?_ | (with_reducible apply foldl_lines; intro _ _ _)
    | split | dsimp only

theorem fillSoFar_line (r : PourRef) (frames : List (Nat × Nat)) (s : State) : lineView (fillSoFar r frames s) =
    lineView s := by
  unfold fillSoFar
  repeat' first
    | with_reducible rfl | with_reducible refine (putFlag_line ..).trans ?_
    | with_reducible refine (fillBands_line ..).trans ?_ | with_reducible apply ite_line
    | (with_reducible refine (foldl_line ?_).trans ?_; intro _ _) | split | dsimp only

theorem takeDeferred_lines (g : GraphRec) (d : Deferred) (s : State) (h : LineInv s) : LineInv (takeDeferred g d
    s) := by
  unfold takeDeferred
  repeat' first
    | with_reducible assumption | with_reducible apply lines_ite | with_reducible apply openWhole_lines
    | with_reducible apply openPour_lines | with_reducible apply abortDamaged_lines
    | with_reducible refine lines_of_view (dropTrigger_line ..) ?_
    | with_reducible refine lines_of_view (fillSoFar_line ..) ?_
    | with_reducible refine lines_of_view (fixOrigin_line ..) ?_ | split | dsimp only

theorem resolveDeferred_lines (d : Deferred) (s : State) (h : LineInv s) : LineInv (resolveDeferred d s) := by
  unfold resolveDeferred
  repeat' first
    | with_reducible assumption | with_reducible apply lines_ite | with_reducible apply takeDeferred_lines
    | with_reducible apply acceptTrigger_lines | with_reducible refine lines_of_view (dropSource_line ..) ?_
    | with_reducible refine lines_of_view (raise_line ..) ?_ | split | dsimp only

theorem execTriggersAccepted_lines (s : State) (h : LineInv s) : outLines (execTriggersAccepted s) := by
  unfold execTriggersAccepted
  repeat' first
    | with_reducible assumption | with_reducible apply outLines_done | with_reducible apply lines_ite
    | with_reducible apply outLines_ite | with_reducible apply resolveDeferred_lines
    | (with_reducible apply foldl_lines; intro _ _ _) | split | dsimp only

theorem fetchImage_line (flash : List Byte) (i : Nat) (s : State) : lineView (fetchImage flash i s) = lineView s := by
  unfold fetchImage
  repeat' first | with_reducible rfl | dsimp only

theorem fetchMissing_line (flash : List Byte) (badReads : List (Fin 3)) (s : State) : lineView (fetchMissing flash
    badReads s) = lineView s := by
  unfold fetchMissing
  repeat' first
    | with_reducible rfl | with_reducible refine (fetchImage_line ..).trans ?_ | with_reducible apply ite_line
    | (with_reducible refine (foldl_line ?_).trans ?_; intro _ _) | split | dsimp only

theorem bootFail_lines (code : EventCode) (s : State) (h : LineInv s) : LineInv (bootFail code s) := by
  unfold bootFail
  repeat' first | with_reducible assumption | with_reducible apply driveLines_lines | dsimp only

theorem raiseBootFail_lines (code : EventCode) (s : State) (h : LineInv s) : LineInv (raiseBootFail code s) := by
  unfold raiseBootFail
  repeat' first
    | with_reducible assumption | with_reducible apply bootFail_lines
    | with_reducible refine lines_of_view (raise_line ..) ?_ | dsimp only

theorem waitDoorbell_line (inp : StartInputs) (s : State) : lineView (waitDoorbell inp s) = lineView s := by
  unfold waitDoorbell
  repeat' first | with_reducible rfl | dsimp only

theorem verifyImage_lines (i : Nat) (inp : StartInputs) (s : State) (h : LineInv s) : LineInv (verifyImage i inp
    s).2 := by
  unfold verifyImage
  repeat' first
    | with_reducible assumption | with_reducible apply lines_ite | with_reducible apply bootFail_lines
    | with_reducible apply raiseBootFail_lines | with_reducible refine lines_of_view (raise_line ..) ?_
    | with_reducible refine lines_of_view (fetchImage_line ..) ?_
    | with_reducible refine lines_of_view (waitDoorbell_line ..) ?_ | split | dsimp only

theorem startAssayer_lines (s : State) (h : LineInv s) : LineInv (startAssayer s) := by
  unfold startAssayer
  repeat' first
    | with_reducible assumption | with_reducible apply lines_ite | with_reducible apply driveLines_lines
    | with_reducible apply enterS1_lines | with_reducible refine lines_of_view (raise_line ..) ?_
    | (with_reducible apply foldl_lines; intro _ _ _) | split | dsimp only

theorem endFetch_line (s : State) : lineView (endFetch s) = lineView s := by
  unfold endFetch
  repeat' first | with_reducible rfl | dsimp only

theorem releaseReset_line (inp : StartInputs) (s : State) : lineView (releaseReset inp s) = lineView s := by
  unfold releaseReset
  repeat' first | with_reducible rfl | dsimp only

theorem execStartSequence_lines (inp : StartInputs) (s : State) (h : LineInv s) : outLines (execStartSequence inp
    s) := by
  unfold execStartSequence
  split
  · exact driveLines_lines _
  · exact h

theorem writeDoorbell_lines (s : State) (h : LineInv s) : LineInv (writeDoorbell s) := by
  unfold writeDoorbell
  dsimp only
  split
  · split <;> exact driveLines_lines _
  · exact h

theorem execBootDoorbell_lines (_who : Agent) (s : State) (h : LineInv s) : outLines (execBootDoorbell _who s) := by
  unfold execBootDoorbell
  repeat' first
    | with_reducible assumption | with_reducible apply outLines_done | with_reducible apply lines_ite
    | with_reducible apply outLines_ite | with_reducible apply writeDoorbell_lines | split | dsimp only

theorem execFetchTimeout_lines (s : State) (h : LineInv s) : outLines (execFetchTimeout s) := by
  unfold execFetchTimeout
  repeat' first
    | with_reducible assumption | with_reducible apply outLines_done | with_reducible apply lines_ite
    | with_reducible apply outLines_ite | with_reducible refine lines_of_view (raise_line ..) ?_ | split | dsimp only

theorem execSysReady_lines (s : State) (h : LineInv s) : outLines (execSysReady s) := by
  unfold execSysReady
  split
  · dsimp only
    split
    · exact h
    · split
      · refine lines_of_view (raise_line ..) ⟨fun hs => ?_, h.2⟩
        obtain ⟨h1, h2, h3, -⟩ := h.1 hs
        exact ⟨h1, h2, h3, show 6 ≤ (10 : BitVec 4).toNat by decide⟩
      · exact h
  · exact h

theorem startFuse_line (op : FuseOp) (s : State) : lineView (startFuse op s) = lineView s := by
  unfold startFuse
  repeat' first
    | with_reducible rfl | with_reducible refine (raise_line ..).trans ?_
    | with_reducible refine (setHw_line ..).trans ?_ | with_reducible apply ite_line | split | dsimp only

theorem fuseBy_lines (who : Agent) (op : FuseOp) (s : State) (h : LineInv s) : outLines (fuseBy who op s) := by
  unfold fuseBy
  repeat' first
    | with_reducible assumption | with_reducible apply outLines_done | with_reducible apply lines_ite
    | with_reducible apply outLines_ite | with_reducible refine lines_of_view (startFuse_line ..) ?_ | split
    | dsimp only

theorem execFuseUnlock_lines (who : Agent) (s : State) (h : LineInv s) : outLines (execFuseUnlock who s) := by
  unfold execFuseUnlock
  repeat' first
    | with_reducible assumption | with_reducible apply outLines_done | with_reducible apply lines_ite
    | with_reducible apply outLines_ite | split | dsimp only

theorem execFuseWriteKey_lines (who : Agent) (slot : Fin 4) (usage : BitVec 2) (s : State) (h : LineInv s) : outLines
    (execFuseWriteKey who slot usage s) := by
  unfold execFuseWriteKey
  repeat' first
    | with_reducible assumption | with_reducible apply outLines_done | with_reducible apply fuseBy_lines | dsimp only

theorem execFuseRevokeSlot_lines (who : Agent) (slot : Fin 4) (s : State) (h : LineInv s) : outLines
    (execFuseRevokeSlot who slot s) := by
  unfold execFuseRevokeSlot
  repeat' first
    | with_reducible assumption | with_reducible apply outLines_done | with_reducible apply fuseBy_lines | dsimp only

theorem execFuseAdvanceAsySvn_lines (who : Agent) (s : State) (h : LineInv s) : outLines (execFuseAdvanceAsySvn who
    s) := by
  unfold execFuseAdvanceAsySvn
  repeat' first
    | with_reducible assumption | with_reducible apply outLines_done | with_reducible apply fuseBy_lines | dsimp only

theorem execFuseAdvanceKprSvn_lines (who : Agent) (s : State) (h : LineInv s) : outLines (execFuseAdvanceKprSvn who
    s) := by
  unfold execFuseAdvanceKprSvn
  repeat' first
    | with_reducible assumption | with_reducible apply outLines_done | with_reducible apply fuseBy_lines | dsimp only

theorem execFuseDecommission_lines (who : Agent) (s : State) (h : LineInv s) : outLines (execFuseDecommission who
    s) := by
  unfold execFuseDecommission
  repeat' first
    | with_reducible assumption | with_reducible apply outLines_done | with_reducible apply fuseBy_lines | dsimp only

theorem execFuseProgDone_lines (readBackOk : Bool) (s : State) (h : LineInv s) : outLines (execFuseProgDone readBackOk
    s) := by
  unfold execFuseProgDone
  repeat' first
    | with_reducible assumption | with_reducible apply outLines_done | with_reducible apply lines_ite
    | with_reducible apply outLines_ite | with_reducible refine lines_of_view (setHw_line ..) ?_
    | with_reducible refine lines_of_view (raise_line ..) ?_ | split | dsimp only

theorem startReport_line (s : State) : lineView (startReport s) = lineView s := by
  unfold startReport
  repeat' first
    | with_reducible rfl | with_reducible refine (raise_line ..).trans ?_
    | with_reducible refine (setHw_line ..).trans ?_ | with_reducible apply ite_line | split | dsimp only

theorem takeGo_line (keeper host : Bool) (s : State) : lineView (takeGo keeper host s) = lineView s := by
  unfold takeGo
  repeat' first
    | with_reducible rfl | with_reducible refine (startReport_line ..).trans ?_
    | with_reducible refine (dropHeld_line ..).trans ?_ | with_reducible refine (raise_line ..).trans ?_
    | with_reducible apply ite_line | split | dsimp only

theorem execAttGo_lines (keeper host : Bool) (s : State) (h : LineInv s) : outLines (execAttGo keeper host s) := by
  unfold execAttGo
  repeat' first
    | with_reducible assumption | with_reducible apply outLines_done
    | with_reducible refine lines_of_view (takeGo_line ..) ?_ | dsimp only

theorem settleGo_line (s : State) : lineView (settleGo s) = lineView s := by
  unfold settleGo
  repeat' first
    | with_reducible rfl | with_reducible refine (dropHeld_line ..).trans ?_
    | with_reducible refine (takeGo_line ..).trans ?_ | dsimp only

theorem execAttDone_lines (s : State) (h : LineInv s) : outLines (execAttDone s) := by
  unfold execAttDone
  repeat' first
    | with_reducible assumption | with_reducible apply outLines_done | with_reducible apply lines_ite
    | with_reducible apply outLines_ite | with_reducible refine lines_of_view (raise_line ..) ?_
    | with_reducible refine lines_of_view (setHw_line ..) ?_ | split | dsimp only

end Sys2Proof.Machine
end

