-- ==== Sys2Proof/Laws/LineBus.lean ====
section
/-! SUPPORT. The safety lines across the host interface, register accesses, memory ordering, the Runners in motion and the tick: a function
that touches nothing they read leaves it as it is (_line); any other keeps them justified (_lines). -/

set_option linter.unusedTactic false
set_option linter.unusedVariables false
set_option linter.unreachableTactic false
set_option linter.unusedSimpArgs false

namespace Sys2Proof.Machine

theorem popEvent_line (s : State) : lineView ((popEvent s).2) = lineView s := by
  unfold popEvent
  repeat' first
    | with_reducible rfl | with_reducible refine (markEvt_line ..).trans ?_
    | with_reducible refine (signalEvent_line ..).trans ?_ | with_reducible apply ite_line | split | dsimp only

theorem execEvtPop_lines (who : Agent) (s : State) (h : LineInv s) : outLines (execEvtPop who s) := by
  unfold execEvtPop
  repeat' first
    | with_reducible assumption | with_reducible apply outLines_done | with_reducible apply lines_ite
    | with_reducible apply outLines_ite | with_reducible refine lines_of_view (popEvent_line ..) ?_ | split
    | dsimp only

theorem updVector_line (v : Nat) (f : MsixVec → MsixVec) (s : State) : lineView (updVector v f s) = lineView s := by
  unfold updVector
  repeat' first | with_reducible rfl | dsimp only

theorem unmaskVector_line (v : Nat) (s : State) : lineView (unmaskVector v s) = lineView s := by
  unfold unmaskVector
  repeat' first
    | with_reducible rfl | with_reducible refine (updVector_line ..).trans ?_
    | with_reducible refine (signalMsix_line ..).trans ?_ | with_reducible apply ite_line | split | dsimp only

theorem maskVector_line (v : Nat) (s : State) : lineView (maskVector v s) = lineView s := by
  unfold maskVector
  repeat' first | with_reducible rfl | with_reducible refine (updVector_line ..).trans ?_ | dsimp only

theorem execMsixUnmask_lines (v : Fin 64) (s : State) (h : LineInv s) : outLines (execMsixUnmask v s) := by
  unfold execMsixUnmask
  repeat' first
    | with_reducible assumption | with_reducible apply outLines_done | with_reducible apply lines_ite
    | with_reducible apply outLines_ite | with_reducible refine lines_of_view (unmaskVector_line ..) ?_ | split
    | dsimp only

theorem execMsixPendingSend_lines (v : Fin 64) (s : State) (h : LineInv s) : outLines (execMsixPendingSend v s) := by
  unfold execMsixPendingSend
  repeat' first
    | with_reducible assumption | with_reducible apply outLines_done | with_reducible apply lines_ite
    | with_reducible apply outLines_ite | with_reducible refine lines_of_view (sendMsix_line ..) ?_ | split
    | dsimp only

theorem dropCopies_line (s : State) : lineView ((dropCopies s).2) = lineView s := by
  unfold dropCopies
  repeat' first
    | with_reducible rfl | with_reducible refine (drawFree_line ..).trans ?_ | with_reducible apply ite_line | split
    | dsimp only

theorem resetHif_line (s : State) : lineView (resetHif s) = lineView s := by
  unfold resetHif
  repeat' first | with_reducible rfl | with_reducible refine (dropCopies_line ..).trans ?_ | dsimp only

theorem execHostReset_lines (kind : HostResetKind) (s : State) (h : LineInv s) : outLines (execHostReset kind s) := by
  unfold execHostReset
  repeat' first
    | with_reducible assumption | with_reducible apply outLines_done | with_reducible apply lines_ite
    | with_reducible apply outLines_ite | with_reducible refine lines_of_view (resetHif_line ..) ?_
    | with_reducible refine lines_of_view (setHw_line ..) ?_ | with_reducible refine lines_of_view (raise_line ..) ?_
    | split | dsimp only

theorem execPcieLinkTrained_lines (speed : BitVec 3) (width : BitVec 4) (s : State) (h : LineInv s) : outLines
    (execPcieLinkTrained speed width s) := by
  unfold execPcieLinkTrained
  repeat' first
    | with_reducible assumption | with_reducible apply outLines_done | with_reducible apply lines_ite
    | with_reducible apply outLines_ite | split | dsimp only

theorem execSpiCsFall_lines (ch : Channel) (s : State) (h : LineInv s) : outLines (execSpiCsFall ch s) := by
  unfold execSpiCsFall
  split
  · exact h
  · exact lines_of_view (updChan_line _ _ _ fun _ => ⟨rfl, rfl⟩) h

theorem formDue_line (ch : Channel) (s : State) : lineView (formDue ch s) = lineView s := by
  unfold formDue
  dsimp only
  repeat' first | rfl | exact updChan_line _ _ _ fun _ => ⟨rfl, rfl⟩ | split

theorem execSpiCsRise_lines (ch : Channel) (bytes : Nat) (s : State) (h : LineInv s) :
    outLines (execSpiCsRise ch bytes s) := by
  have h1 : LineInv (updChan s ch fun c => { c with selected := false, forming := none, cur := none }) :=
    lines_of_view (updChan_line _ _ _ fun _ => ⟨rfl, rfl⟩) h
  unfold execSpiCsRise
  dsimp only
  split
  · exact h
  · split
    · exact h1
    · split
      · refine lines_of_view (updChan_line _ _ _ fun c => ?_) h1
        unfold consumeMessage
        dsimp only
        split <;> exact ⟨rfl, rfl⟩
      · exact lines_of_view ((raise_line ..).trans (updChan_line _ _ _ fun _ => ⟨rfl, rfl⟩)) h1

theorem execSfpPollLate_lines (ch : Channel) (s : State) (h : LineInv s) : outLines (execSfpPollLate ch s) := by
  unfold execSfpPollLate
  dsimp only
  split
  · exact lines_of_view ((raise_line ..).trans (updChan_line _ _ _ fun _ => ⟨rfl, rfl⟩)) h
  · exact h

theorem execSfpLineStuck_lines (_line : SafetyLine) (s : State) (h : LineInv s) : outLines (execSfpLineStuck _line
    s) := by
  unfold execSfpLineStuck
  repeat' first
    | with_reducible assumption | with_reducible apply outLines_done | with_reducible apply lines_ite
    | with_reducible apply outLines_ite | with_reducible apply detectS2_lines | split | dsimp only

theorem plain_line (v : Nat) (s : State) : lineView (plain v s).2 = lineView s := rfl

theorem rcRead_line (i : Nat) (keep : Nat → State → State) (s : State) (hk : ∀ n x, lineView (keep n x) = lineView x)
    :
    lineView (rcRead i keep s).2 = lineView s := hk ..

theorem sysRead_line (o : Nat) (s : State) : lineView ((sysRead o s).2) = lineView s := by
  unfold sysRead
  repeat' first | with_reducible rfl | split | dsimp only

theorem pwrRead_line (o : Nat) (s : State) : lineView ((pwrRead o s).2) = lineView s := by
  unfold pwrRead
  repeat' first | with_reducible rfl | refine (rcRead_line _ _ _ (by intros; rfl)).trans ?_ | split | dsimp only

theorem ldlRead_line (o : Nat) (s : State) : lineView ((ldlRead o s).2) = lineView s := by
  unfold ldlRead
  repeat' first | with_reducible rfl | refine (rcRead_line _ _ _ (by intros; rfl)).trans ?_ | split | dsimp only

theorem idnRead_line (o : Nat) (s : State) : lineView ((idnRead o s).2) = lineView s := by
  unfold idnRead
  repeat' first | with_reducible rfl | with_reducible apply ite_line | split | dsimp only

theorem patRead_line (o : Nat) (s : State) : lineView ((patRead o s).2) = lineView s := by
  unfold patRead
  repeat' first | with_reducible rfl | split | dsimp only

theorem csiRead_line (p o : Nat) (s : State) : lineView ((csiRead p o s).2) = lineView s := by
  unfold csiRead
  repeat' first | with_reducible rfl | refine (rcRead_line _ _ _ (by intros; rfl)).trans ?_ | split | dsimp only

theorem ispRead_line (p o : Nat) (s : State) : lineView ((ispRead p o s).2) = lineView s := by
  unfold ispRead
  repeat' first | with_reducible rfl | split | dsimp only

theorem venPass_line (i : VenInst) (s : State) : lineView ((venPass i s).2) = lineView s := by
  unfold venPass
  repeat' first
    | with_reducible rfl | with_reducible refine (drawFree_line ..).trans ?_ | with_reducible apply ite_line | split
    | dsimp only

theorem venStat_line (k : Nat) (s : State) : lineView ((venStat k s).2) = lineView s := by
  unfold venStat
  repeat' first
    | with_reducible rfl | with_reducible refine (venPass_line ..).trans ?_
    | with_reducible refine (drawFree_line ..).trans ?_ | split | dsimp only

theorem venPage_line (k o : Nat) (s : State) : lineView ((venPage k o s).2) = lineView s := by
  unfold venPage
  repeat' first
    | with_reducible rfl | refine (rcRead_line _ _ _ (by intros; rfl)).trans ?_
    | with_reducible refine (venStat_line ..).trans ?_ | split | dsimp only

theorem venRead_line (o : Nat) (s : State) : lineView ((venRead o s).2) = lineView s := by
  unfold venRead
  repeat' first
    | with_reducible rfl | with_reducible refine (venPage_line ..).trans ?_ | with_reducible apply ite_line | split
    | dsimp only

theorem fgsRead_line (o : Nat) (s : State) : lineView ((fgsRead o s).2) = lineView s := by
  unfold fgsRead
  repeat' first
    | with_reducible rfl | refine (rcRead_line _ _ _ (by intros; rfl)).trans ?_ | with_reducible apply ite_line
    | split | dsimp only

theorem neuMap_line (n : Nat) (s : State) : lineView ((neuMap n s).2) = lineView s := by
  unfold neuMap
  repeat' first | with_reducible rfl | with_reducible refine (drawFree_line ..).trans ?_ | split | dsimp only

theorem neuRead_line (o : Nat) (s : State) : lineView ((neuRead o s).2) = lineView s := by
  unfold neuRead
  repeat' first
    | with_reducible rfl | refine (rcRead_line _ _ _ (by intros; rfl)).trans ?_
    | with_reducible refine (neuMap_line ..).trans ?_ | with_reducible apply ite_line | split | dsimp only

theorem rsrRead_line (o : Nat) (s : State) : lineView ((rsrRead o s).2) = lineView s := by
  unfold rsrRead
  repeat' first
    | with_reducible rfl | refine (rcRead_line _ _ _ (by intros; rfl)).trans ?_ | with_reducible apply ite_line
    | split | dsimp only

theorem schRead_line (o : Nat) (s : State) : lineView ((schRead o s).2) = lineView s := by
  unfold schRead
  repeat' first
    | with_reducible rfl | refine (rcRead_line _ _ _ (by intros; rfl)).trans ?_ | with_reducible apply ite_line
    | split | dsimp only

theorem portWord_line (t o : Nat) (s : State) : lineView ((portWord t o s).2) = lineView s := by
  unfold portWord
  repeat' first
    | with_reducible rfl | with_reducible refine (updPort_line ..).trans ?_ | with_reducible apply ite_line | split
    | dsimp only

theorem portRead_line (a : RegAcc) (t o n : Nat) (s : State) : lineView ((portRead a t o n s).2) = lineView s := by
  unfold portRead
  repeat' first
    | with_reducible rfl | with_reducible refine (raise_line ..).trans ?_
    | with_reducible refine (portWord_line ..).trans ?_ | with_reducible apply ite_line | split | dsimp only

theorem xltRead_line (o : Nat) (s : State) : lineView ((xltRead o s).2) = lineView s := by
  unfold xltRead
  repeat' first | with_reducible rfl | with_reducible apply ite_line | split | dsimp only

theorem fwlRead_line (o : Nat) (s : State) : lineView ((fwlRead o s).2) = lineView s := by
  unfold fwlRead
  repeat' first | with_reducible rfl | with_reducible apply ite_line | split | dsimp only

theorem dmaRead_line (o : Nat) (s : State) : lineView ((dmaRead o s).2) = lineView s := by
  unfold dmaRead
  repeat' first | with_reducible rfl | with_reducible apply ite_line | split | dsimp only

theorem tapRead_line (o : Nat) (s : State) : lineView ((tapRead o s).2) = lineView s := by
  unfold tapRead
  repeat' first
    | with_reducible rfl | refine (rcRead_line _ _ _ (by intros; rfl)).trans ?_ | with_reducible apply ite_line
    | split | dsimp only

theorem counterRead_line (a : RegAcc) (c : CounterName) (o n : Nat) (s : State) : lineView ((counterRead a c o n s).2)
    = lineView s := by
  unfold counterRead
  repeat' first
    | with_reducible rfl | with_reducible refine (counterValue_line ..).trans ?_
    | with_reducible refine (ctrReadLow_line ..).trans ?_ | with_reducible refine (ctrReadHigh_line ..).trans ?_
    | with_reducible apply ite_line | split | dsimp only

theorem lnkRead_line (o : Nat) (s : State) : lineView ((lnkRead o s).2) = lineView s := by
  unfold lnkRead
  repeat' first
    | with_reducible rfl | refine (rcRead_line _ _ _ (by intros; rfl)).trans ?_
    | with_reducible refine (updLink_line ..).trans ?_ | with_reducible apply ite_line | split | dsimp only

theorem hifRead_line (o : Nat) (s : State) : lineView ((hifRead o s).2) = lineView s := by
  unfold hifRead
  repeat' first
    | with_reducible rfl | refine (rcRead_line _ _ _ (by intros; rfl)).trans ?_
    | with_reducible refine (popEvent_line ..).trans ?_ | with_reducible apply ite_line | split | dsimp only

theorem regWord_line (off : Nat) (s : State) : lineView ((regWord off s).2) = lineView s := by
  unfold regWord
  repeat' first
    | with_reducible rfl | with_reducible refine (sysRead_line ..).trans ?_
    | with_reducible refine (pwrRead_line ..).trans ?_ | with_reducible refine (ldlRead_line ..).trans ?_
    | with_reducible refine (idnRead_line ..).trans ?_ | with_reducible refine (patRead_line ..).trans ?_
    | with_reducible refine (csiRead_line ..).trans ?_ | with_reducible refine (ispRead_line ..).trans ?_
    | with_reducible refine (venRead_line ..).trans ?_ | with_reducible refine (fgsRead_line ..).trans ?_
    | with_reducible refine (neuRead_line ..).trans ?_ | with_reducible refine (rsrRead_line ..).trans ?_
    | with_reducible refine (schRead_line ..).trans ?_ | with_reducible refine (xltRead_line ..).trans ?_
    | with_reducible refine (fwlRead_line ..).trans ?_ | with_reducible refine (dmaRead_line ..).trans ?_
    | with_reducible refine (tapRead_line ..).trans ?_ | with_reducible refine (lnkRead_line ..).trans ?_
    | with_reducible refine (hifRead_line ..).trans ?_ | with_reducible apply ite_line | split | dsimp only

theorem regRead_line (a : RegAcc) (off n : Nat) (s : State) : lineView ((regRead a off n s).2) = lineView s := by
  unfold regRead
  repeat' first
    | with_reducible rfl | with_reducible refine (portRead_line ..).trans ?_
    | with_reducible refine (counterRead_line ..).trans ?_ | with_reducible refine (regWord_line ..).trans ?_
    | with_reducible apply ite_line | split | dsimp only

theorem holdWrite_line (a : RegAcc) (off : Nat) (w : WBits) (s : State) : lineView (holdWrite a off w s) = lineView
    s := by
  unfold holdWrite
  repeat' first | with_reducible rfl | dsimp only

theorem injectWrite_line (op u : Nat) (s : State) : lineView (injectWrite op u s) = lineView s := by
  unfold injectWrite
  repeat' first
    | with_reducible rfl | with_reducible refine (injectTest_line ..).trans ?_ | with_reducible apply ite_line
    | split | dsimp only

theorem sysWrite_lines (a : RegAcc) (o : Nat) (w : WBits) (s : State) (h : LineInv s) : LineInv (sysWrite a o w
    s) := by
  unfold sysWrite
  repeat' first
    | with_reducible assumption | with_reducible apply lines_ite | with_reducible apply driveLines_lines
    | with_reducible apply warmReset_lines | with_reducible apply writeDoorbell_lines
    | with_reducible refine lines_of_view (keepSets_line ..) ?_
    | with_reducible refine lines_of_view (injectWrite_line ..) ?_ | split | dsimp only

theorem pwrWrite_line (a : RegAcc) (o : Nat) (w : WBits) (s : State) : lineView (pwrWrite a o w s) = lineView s := by
  unfold pwrWrite
  repeat' first
    | with_reducible rfl | with_reducible refine (holdWrite_line ..).trans ?_
    | with_reducible refine (keepSets_line ..).trans ?_ | with_reducible apply ite_line | split | dsimp only

theorem tloadWrite_line (n : Nat) (w : WBits) (s : State) : lineView (tloadWrite n w s) = lineView s := by
  unfold tloadWrite
  repeat' first
    | with_reducible rfl | with_reducible refine (stopLoad_line ..).trans ?_
    | with_reducible refine (goLoad_line ..).trans ?_ | with_reducible apply ite_line | split | dsimp only

theorem ldlWrite_line (a : RegAcc) (o : Nat) (w : WBits) (s : State) : lineView (ldlWrite a o w s) = lineView s := by
  unfold ldlWrite
  repeat' first
    | with_reducible rfl | with_reducible refine (writeCeiling_line ..).trans ?_
    | with_reducible refine (keepSets_line ..).trans ?_ | with_reducible refine (tloadWrite_line ..).trans ?_
    | with_reducible apply ite_line | split | dsimp only

theorem unlockWrite_line (v : Nat) (s : State) : lineView (unlockWrite v s) = lineView s := by
  unfold unlockWrite
  repeat' first | with_reducible rfl | with_reducible apply ite_line | split | dsimp only

theorem fuseWrite_line (w : WBits) (s : State) : lineView (fuseWrite w s) = lineView s := by
  unfold fuseWrite
  repeat' first
    | with_reducible rfl | with_reducible refine (startFuse_line ..).trans ?_
    | with_reducible refine (raise_line ..).trans ?_ | with_reducible refine (setHw_line ..).trans ?_ | split
    | dsimp only

theorem idnFields_line (a : RegAcc) (o : Nat) (w : WBits) (s : State) : lineView (idnFields a o w s) = lineView
    s := by
  unfold idnFields
  repeat' first
    | with_reducible rfl | with_reducible refine (keepSets_line ..).trans ?_
    | with_reducible refine (holdWrite_line ..).trans ?_ | with_reducible apply ite_line | split | dsimp only

theorem idnWrite_line (a : RegAcc) (o : Nat) (w : WBits) (s : State) : lineView (idnWrite a o w s) = lineView s := by
  unfold idnWrite
  repeat' first
    | with_reducible rfl | with_reducible refine (fuseWrite_line ..).trans ?_
    | with_reducible refine (unlockWrite_line ..).trans ?_ | with_reducible refine (idnFields_line ..).trans ?_
    | with_reducible apply ite_line | split | dsimp only

theorem patCtrl_line (a : RegAcc) (w : WBits) (s : State) : lineView (patCtrl a w s) = lineView s := by
  unfold patCtrl
  repeat' first
    | with_reducible rfl | with_reducible refine (holdWrite_line ..).trans ?_
    | with_reducible refine (commitSwap_line ..).trans ?_ | with_reducible apply ite_line | split | dsimp only

theorem patWrite_line (a : RegAcc) (o : Nat) (w : WBits) (s : State) : lineView (patWrite a o w s) = lineView s := by
  unfold patWrite
  repeat' first
    | with_reducible rfl | with_reducible refine (patCtrl_line ..).trans ?_
    | with_reducible refine (keepSets_line ..).trans ?_ | with_reducible apply ite_line | split | dsimp only

theorem camWrite_line (o : Nat) (w : WBits) (s : State) : lineView (camWrite o w s) = lineView s := by
  unfold camWrite
  repeat' first
    | with_reducible rfl | with_reducible refine (keepSets_line ..).trans ?_ | with_reducible apply ite_line | split
    | dsimp only

theorem venWrite_line (o : Nat) (w : WBits) (s : State) : lineView (venWrite o w s) = lineView s := by
  unfold venWrite
  repeat' first
    | with_reducible rfl | with_reducible refine (keepSets_line ..).trans ?_ | with_reducible apply ite_line | split
    | dsimp only

theorem fgsWrite_lines (a : RegAcc) (o : Nat) (w : WBits) (s : State) (h : LineInv s) : LineInv (fgsWrite a o w
    s) := by
  unfold fgsWrite
  repeat' first
    | with_reducible assumption | with_reducible apply lines_ite | with_reducible apply abortSlots_lines
    | with_reducible refine lines_of_view (writeDrain_line ..) ?_
    | with_reducible refine lines_of_view (keepSets_line ..) ?_ | split | dsimp only

theorem neuWrite_line (o : Nat) (w : WBits) (s : State) : lineView (neuWrite o w s) = lineView s := by
  unfold neuWrite
  repeat' first | with_reducible rfl | with_reducible refine (keepSets_line ..).trans ?_ | split | dsimp only

theorem maskWrite_line (i : Nat) (w : WBits) (s : State) : lineView (maskWrite i w s) = lineView s := by
  unfold maskWrite
  repeat' first | with_reducible rfl | with_reducible apply ite_line | split | dsimp only

theorem rsrWrite_lines (a : RegAcc) (o : Nat) (w : WBits) (s : State) (h : LineInv s) : LineInv (rsrWrite a o w
    s) := by
  unfold rsrWrite
  repeat' first
    | with_reducible assumption | with_reducible apply lines_ite | with_reducible apply resetThread_lines
    | with_reducible refine lines_of_view (releaseThreads_line ..) ?_
    | with_reducible refine lines_of_view (maskWrite_line ..) ?_
    | with_reducible refine lines_of_view (keepSets_line ..) ?_ | split | dsimp only

theorem groupWrite_line (g : Nat) (w : WBits) (s : State) : lineView (groupWrite g w s) = lineView s := by
  unfold groupWrite
  repeat' first | with_reducible rfl | with_reducible apply ite_line | split | dsimp only

theorem schWrite_line (a : RegAcc) (o : Nat) (w : WBits) (s : State) : lineView (schWrite a o w s) = lineView s := by
  unfold schWrite
  repeat' first
    | with_reducible rfl | with_reducible refine (keepSets_line ..).trans ?_
    | with_reducible refine (cancelWrite_line ..).trans ?_ | with_reducible refine (groupWrite_line ..).trans ?_
    | with_reducible apply ite_line | split | dsimp only

theorem ownPort_lines (t o : Nat) (w : WBits) (s : State) (h : LineInv s) : LineInv (ownPort t o w s) := by
  unfold ownPort
  repeat' first
    | with_reducible assumption | with_reducible apply lines_ite | with_reducible apply portEnd_lines
    | with_reducible refine lines_of_view (updPort_line ..) ?_
    | with_reducible refine lines_of_view (submitSpawn_line ..) ?_
    | with_reducible refine lines_of_view (sendOperand_line ..) ?_ | split | dsimp only

theorem portWrite_lines (a : RegAcc) (t o : Nat) (w : WBits) (s : State) (h : LineInv s) : LineInv (portWrite a t o w
    s) := by
  unfold portWrite
  repeat' first
    | with_reducible assumption | with_reducible apply lines_ite | with_reducible apply ownPort_lines
    | with_reducible refine lines_of_view (raise_line ..) ?_ | split | dsimp only

theorem bindWrite_line (id : Nat) (w : WBits) (s : State) : lineView (bindWrite id w s) = lineView s := by
  unfold bindWrite
  repeat' first
    | with_reducible rfl | with_reducible refine (keepXlt_line ..).trans ?_ | with_reducible apply ite_line | split
    | dsimp only

theorem rootWrite_line (c : Nat) (w : WBits) (s : State) : lineView (rootWrite c w s) = lineView s := by
  unfold rootWrite
  repeat' first | with_reducible rfl | with_reducible refine (keepXlt_line ..).trans ?_ | dsimp only

theorem xltWrite_line (a : RegAcc) (o : Nat) (w : WBits) (s : State) : lineView (xltWrite a o w s) = lineView s := by
  unfold xltWrite
  repeat' first
    | with_reducible rfl | with_reducible refine (rootWrite_line ..).trans ?_
    | with_reducible refine (startInv_line ..).trans ?_ | with_reducible refine (keepSets_line ..).trans ?_
    | with_reducible refine (bindWrite_line ..).trans ?_ | with_reducible apply ite_line | split | dsimp only

theorem fwlWrite_line (a : RegAcc) (o : Nat) (w : WBits) (s : State) : lineView (fwlWrite a o w s) = lineView s := by
  unfold fwlWrite
  repeat' first
    | with_reducible rfl | with_reducible refine (writeRegion_line ..).trans ?_
    | with_reducible refine (keepSets_line ..).trans ?_ | with_reducible apply ite_line | split | dsimp only

theorem channelCtrl_lines (ch : Nat) (w : WBits) (s : State) (h : LineInv s) : LineInv (channelCtrl ch w s) := by
  unfold channelCtrl
  repeat' first
    | with_reducible assumption | with_reducible apply lines_ite | with_reducible apply softStop_lines
    | with_reducible apply startChannel_lines | with_reducible refine lines_of_view (clearError_line ..) ?_
    | with_reducible refine lines_of_view (ringDoorbell_line ..) ?_ | split | dsimp only

theorem channelConfig_line (ch o : Nat) (w : WBits) (s : State) : lineView (channelConfig ch o w s) = lineView s := by
  unfold channelConfig
  repeat' first
    | with_reducible rfl | with_reducible refine (raise_line ..).trans ?_
    | with_reducible refine (updCh_line ..).trans ?_ | with_reducible apply ite_line | split | dsimp only

theorem channelWrite_lines (a : RegAcc) (ch o : Nat) (w : WBits) (s : State) (h : LineInv s) : LineInv (channelWrite a
    ch o w s) := by
  unfold channelWrite
  repeat' first
    | with_reducible assumption | with_reducible apply lines_ite | with_reducible apply channelCtrl_lines
    | with_reducible refine lines_of_view (channelConfig_line ..) ?_
    | with_reducible refine lines_of_view (keepSets_line ..) ?_
    | with_reducible refine lines_of_view (updCh_line ..) ?_ | split | dsimp only

theorem dmaWrite_lines (a : RegAcc) (o : Nat) (w : WBits) (s : State) (h : LineInv s) : LineInv (dmaWrite a o w
    s) := by
  unfold dmaWrite
  repeat' first
    | with_reducible assumption | with_reducible apply lines_ite | with_reducible apply channelWrite_lines
    | with_reducible apply resumeDma_lines | with_reducible refine lines_of_view (keepSets_line ..) ?_ | split
    | dsimp only

theorem bufWrite_line (f : Tap → Tap) (s : State) : lineView (bufWrite f s) = lineView s := by
  unfold bufWrite
  repeat' first
    | with_reducible rfl | with_reducible refine (raise_line ..).trans ?_ | with_reducible apply ite_line | split
    | dsimp only

theorem glbConfig_line (g : Nat) (w : WBits) (s : State) : lineView (glbConfig g w s) = lineView s := by
  unfold glbConfig
  repeat' first | with_reducible rfl | with_reducible refine (keepSets_line ..).trans ?_ | dsimp only

theorem counterWrite_line (c : CounterName) (w : WBits) (s : State) : lineView (counterWrite c w s) = lineView s := by
  unfold counterWrite
  repeat' first | with_reducible rfl | split | dsimp only

theorem tapFields_line (o : Nat) (w : WBits) (s : State) : lineView (tapFields o w s) = lineView s := by
  unfold tapFields
  repeat' first
    | with_reducible rfl | with_reducible refine (writeTapCtl_line ..).trans ?_
    | with_reducible refine (bufWrite_line ..).trans ?_ | with_reducible refine (keepSets_line ..).trans ?_
    | with_reducible refine (glbConfig_line ..).trans ?_ | with_reducible apply ite_line | split | dsimp only

theorem tapApply_line (o : Nat) (w : WBits) (s : State) : lineView (tapApply o w s) = lineView s := by
  unfold tapApply
  repeat' first
    | with_reducible rfl | with_reducible refine (counterWrite_line ..).trans ?_
    | with_reducible refine (tapFields_line ..).trans ?_ | with_reducible apply ite_line | split | dsimp only

theorem tapWrite_line (a : RegAcc) (o : Nat) (w : WBits) (s : State) : lineView (tapWrite a o w s) = lineView s := by
  unfold tapWrite
  repeat' first
    | with_reducible rfl | with_reducible refine (holdWrite_line ..).trans ?_ | with_reducible apply ite_line | split
    | dsimp only

theorem settleTap_line (s : State) : lineView (settleTap s) = lineView s := by
  unfold settleTap
  repeat' first
    | with_reducible rfl | with_reducible refine (tapApply_line ..).trans ?_
    | with_reducible refine (dropHeld_line ..).trans ?_ | (with_reducible refine (foldl_line ?_).trans ?_; intro _ _)
    | dsimp only

theorem settleWrites_lines (s : State) (h : LineInv s) : LineInv (settleWrites s) := by
  unfold settleWrites
  repeat' first
    | with_reducible assumption | with_reducible apply lines_ite | with_reducible apply settleLoad_lines
    | with_reducible refine lines_of_view (takeModeReq_line ..) ?_
    | with_reducible refine lines_of_view (dropHeld_line ..) ?_
    | with_reducible refine lines_of_view (settleGo_line ..) ?_
    | with_reducible refine lines_of_view (settleTap_line ..) ?_ | split | dsimp only

theorem lnkWrite_line (o : Nat) (w : WBits) (s : State) : lineView (lnkWrite o w s) = lineView s := by
  unfold lnkWrite
  repeat' first
    | with_reducible rfl | with_reducible refine (keepSets_line ..).trans ?_ | with_reducible apply ite_line | split
    | dsimp only

theorem vectorWrite_line (v : Nat) (high : Bool) (w : WBits) (s : State) : lineView (vectorWrite v high w s) =
    lineView s := by
  unfold vectorWrite
  repeat' first
    | with_reducible rfl | with_reducible refine (updVector_line ..).trans ?_
    | with_reducible refine (unmaskVector_line ..).trans ?_ | with_reducible refine (maskVector_line ..).trans ?_
    | with_reducible apply ite_line | split | dsimp only

theorem hifWrite_line (o : Nat) (w : WBits) (s : State) : lineView (hifWrite o w s) = lineView s := by
  unfold hifWrite
  repeat' first
    | with_reducible rfl | with_reducible refine (vectorWrite_line ..).trans ?_
    | with_reducible refine (keepSets_line ..).trans ?_ | with_reducible apply ite_line | split | dsimp only

theorem regUnit_lines (a : RegAcc) (off : Nat) (w : WBits) (s : State) (h : LineInv s) : LineInv (regUnit a off w
    s) := by
  unfold regUnit
  repeat' first
    | with_reducible assumption | with_reducible apply portWrite_lines | with_reducible apply sysWrite_lines
    | with_reducible apply fgsWrite_lines | with_reducible apply rsrWrite_lines | with_reducible apply dmaWrite_lines
    | with_reducible refine lines_of_view (pwrWrite_line ..) ?_
    | with_reducible refine lines_of_view (ldlWrite_line ..) ?_
    | with_reducible refine lines_of_view (idnWrite_line ..) ?_
    | with_reducible refine lines_of_view (patWrite_line ..) ?_
    | with_reducible refine lines_of_view (camWrite_line ..) ?_
    | with_reducible refine lines_of_view (venWrite_line ..) ?_
    | with_reducible refine lines_of_view (neuWrite_line ..) ?_
    | with_reducible refine lines_of_view (schWrite_line ..) ?_
    | with_reducible refine lines_of_view (xltWrite_line ..) ?_
    | with_reducible refine lines_of_view (fwlWrite_line ..) ?_
    | with_reducible refine lines_of_view (tapWrite_line ..) ?_
    | with_reducible refine lines_of_view (lnkWrite_line ..) ?_
    | with_reducible refine lines_of_view (hifWrite_line ..) ?_ | split | dsimp only

theorem regWrite_lines (a : RegAcc) (off : Nat) (bs : List Byte) (s : State) (h : LineInv s) : LineInv (regWrite a off
    bs s) := by
  unfold regWrite
  repeat' first
    | with_reducible assumption | with_reducible apply regUnit_lines
    | (with_reducible apply foldl_lines; intro _ _ _) | dsimp only

theorem regBytes_line (a : RegAcc) (off n : Nat) (s : State) : lineView ((regBytes a off n s).2) = lineView s := by
  unfold regBytes
  repeat' first
    | with_reducible rfl | with_reducible refine (regRead_line ..).trans ?_ | with_reducible apply ite_line
    | (with_reducible refine (foldl_line ?_).trans ?_; intro _ _)
    | (with_reducible refine (foldl_snd_line ?_).trans ?_; intro _ _) | split | dsimp only

theorem execRegisterWrite_lines (who : Agent) (addr : BitVec 48) (size : BitVec 2) (value : Word64) (s : State) (h :
    LineInv s) : outLines (execRegisterWrite who addr size value s) := by
  unfold execRegisterWrite
  repeat' first
    | with_reducible assumption | with_reducible apply outLines_done | with_reducible apply lines_ite
    | with_reducible apply outLines_ite | with_reducible apply refuseRsr_lines | with_reducible apply regWrite_lines
    | split | dsimp only

theorem flagOwn_line (who : Agent) (f : Nat) (s : State) : lineView ((flagOwn who f s).2) = lineView s := by
  unfold flagOwn
  repeat' first
    | with_reducible rfl | with_reducible refine (drawFree_line ..).trans ?_ | with_reducible apply ite_line | split
    | dsimp only

theorem flagSets_line (f : Nat) (s : State) : lineView ((flagSets f s).2) = lineView s := by
  unfold flagSets
  repeat' first | with_reducible rfl | with_reducible refine (drawFree_line ..).trans ?_ | split | dsimp only

theorem flagWord_line (who : Agent) (f o : Nat) (s : State) : lineView ((flagWord who f o s).2) = lineView s := by
  unfold flagWord
  repeat' first
    | with_reducible rfl | with_reducible refine (flagOwn_line ..).trans ?_
    | with_reducible refine (flagSets_line ..).trans ?_ | with_reducible apply ite_line | split | dsimp only

theorem flagBytes_line (who : Agent) (off n : Nat) (s : State) : lineView ((flagBytes who off n s).2) = lineView
    s := by
  unfold flagBytes
  repeat' first
    | with_reducible rfl | with_reducible refine (flagWord_line ..).trans ?_
    | (with_reducible refine (foldl_line ?_).trans ?_; intro _ _)
    | (with_reducible refine (foldl_snd_line ?_).trans ?_; intro _ _) | dsimp only

theorem agentSet_lines (who : Agent) (f k : Nat) (s : State) (h : LineInv s) : LineInv (agentSet who f k s) := by
  unfold agentSet
  repeat' first
    | with_reducible assumption | with_reducible apply lines_ite | with_reducible apply setFlag_lines
    | with_reducible refine lines_of_view (raise_line ..) ?_ | split | dsimp only

theorem flagWrite_lines (who : Agent) (f o v : Nat) (s : State) (h : LineInv s) : LineInv (flagWrite who f o v
    s) := by
  unfold flagWrite
  repeat' first
    | with_reducible assumption | with_reducible apply lines_ite | with_reducible apply agentSet_lines
    | with_reducible refine lines_of_view (raise_line ..) ?_ | split | dsimp only

theorem flagStore_lines (who : Agent) (off : Nat) (bs : List Byte) (s : State) (h : LineInv s) : LineInv (flagStore
    who off bs s) := by
  unfold flagStore
  repeat' first
    | with_reducible assumption | with_reducible apply flagWrite_lines
    | (with_reducible apply foldl_lines; intro _ _ _) | dsimp only

theorem freeBytes_line (n : Nat) (s : State) : lineView (freeBytes n s).2 = lineView s := by
  induction n generalizing s with
  | zero => rfl
  | succ n ih => unfold freeBytes; exact (ih _).trans (drawFree_line s)

theorem placeRead_line (a : RegAcc) (addr n : Nat) (s : State) : lineView ((placeRead a addr n s).2) = lineView
    s := by
  unfold placeRead
  repeat' first
    | with_reducible rfl | with_reducible refine (regBytes_line ..).trans ?_
    | with_reducible refine (flagBytes_line ..).trans ?_ | with_reducible refine (freeBytes_line ..).trans ?_ | split
    | dsimp only

theorem placeStore_lines (a : RegAcc) (addr : Nat) (bs : List Byte) (s : State) (h : LineInv s) : LineInv (placeStore
    a addr bs s) := by
  unfold placeStore
  repeat' first
    | with_reducible assumption | with_reducible apply regWrite_lines | with_reducible apply flagStore_lines
    | with_reducible apply placeWrite_lines | split | dsimp only

theorem addResv_line (o : Owner) (addr : Nat) (s : State) : lineView (addResv o addr s) = lineView s := by
  unfold addResv
  repeat' first | with_reducible rfl | with_reducible apply ite_line | split | dsimp only

theorem grantHold_line (o : Owner) (addr : Nat) (s : State) : lineView (grantHold o addr s) = lineView s := by
  unfold grantHold
  repeat' first
    | with_reducible rfl | with_reducible refine (countSel_line ..).trans ?_ | with_reducible apply ite_line | split
    | dsimp only

theorem reserve_line (o : Owner) (addr : Nat) (s : State) : lineView (reserve o addr s) = lineView s := by
  unfold reserve
  repeat' first
    | with_reducible rfl | with_reducible refine (grantHold_line ..).trans ?_
    | with_reducible refine (addResv_line ..).trans ?_ | dsimp only

theorem conditional_line (o : Owner) (addr : Nat) (bs : List Byte) (s : State) : lineView ((conditional o addr bs
    s).2) = lineView s := by
  unfold conditional
  repeat' first
    | with_reducible rfl | with_reducible refine (physWrite_line ..).trans ?_ | with_reducible apply ite_line | split
    | dsimp only

theorem execReservationLapse_lines (t : Fin 256) (s : State) (h : LineInv s) : outLines (execReservationLapse t
    s) := by
  unfold execReservationLapse
  repeat' first | with_reducible assumption | with_reducible apply outLines_done | dsimp only

theorem execReservationHoldEnd_lines (granule : Nat) (s : State) (h : LineInv s) : outLines (execReservationHoldEnd
    granule s) := by
  unfold execReservationHoldEnd
  repeat' first | with_reducible assumption | with_reducible apply outLines_done | dsimp only

theorem execCrucibleScrub_lines (addr : BitVec 48) (s : State) (h : LineInv s) : outLines (execCrucibleScrub addr
    s) := by
  unfold execCrucibleScrub
  repeat' first
    | with_reducible assumption | with_reducible apply outLines_done | with_reducible apply lines_ite
    | with_reducible apply outLines_ite | with_reducible refine lines_of_view (clearResv_line ..) ?_ | split
    | dsimp only

theorem threadCheck_lines (t : Nat) (acc : Access) (reserving : Bool) (addr size : Nat) (walkBad : Bool) (s : State)
    (h : LineInv s) : LineInv (threadCheck t acc reserving addr size walkBad s).2 := by
  unfold threadCheck
  repeat' first
    | with_reducible assumption | with_reducible apply lines_ite | with_reducible apply reportFault_lines
    | with_reducible refine lines_of_view (translateIn_line ..) ?_ | split | dsimp only

theorem denyAccess_lines (t addr : Nat) (d : Denial) (s : State) (h : LineInv s) : LineInv (denyAccess t addr d
    s) := by
  unfold denyAccess
  repeat' first
    | with_reducible assumption | with_reducible apply accessFault_lines | with_reducible apply fault_lines | split
    | dsimp only

theorem noteIo_line (t a : Nat) (s : State) : lineView (noteIo t a s) = lineView s := by
  unfold noteIo
  repeat' first
    | with_reducible rfl | with_reducible refine (updThread_line ..).trans ?_ | with_reducible apply ite_line | split
    | dsimp only

theorem waitLoad_line (t : Nat) (gd : BitVec 5) (v addr : Nat) (peer reserving : Bool) (s : State) : lineView
    (waitLoad t gd v addr peer reserving s) = lineView s := by
  unfold waitLoad
  repeat' first | with_reducible rfl | with_reducible refine (updThread_line ..).trans ?_ | dsimp only

theorem loadFrom_lines (t : Nat) (gd : BitVec 5) (a size addr : Nat) (ecc : Ecc) (s : State) (h : LineInv s) : LineInv
    (loadFrom t gd a size addr ecc s) := by
  unfold loadFrom
  repeat' first
    | with_reducible assumption | with_reducible apply lines_ite | with_reducible apply fault_lines
    | with_reducible apply memoryError_lines | with_reducible refine lines_of_view (waitLoad_line ..) ?_
    | with_reducible refine lines_of_view (sendPeer_line ..) ?_
    | with_reducible refine lines_of_view (noteIo_line ..) ?_
    | with_reducible refine lines_of_view (placeRead_line ..) ?_
    | with_reducible refine lines_of_view (noteEcc_line ..) ?_ | split | dsimp only

theorem loadBody_lines (t : Nat) (gd : BitVec 5) (addr size : Nat) (ecc : Ecc) (s : State) (h : LineInv s) : LineInv
    (loadBody t gd addr size ecc s) := by
  unfold loadBody
  repeat' first
    | with_reducible assumption | with_reducible apply threadCheck_lines | with_reducible apply denyAccess_lines
    | with_reducible apply loadFrom_lines | split | dsimp only

theorem execLoad_lines (t : Fin 256) (gd : BitVec 5) (addr : BitVec 48) (size : BitVec 2) (ecc : Ecc) (s : State) (h :
    LineInv s) : outLines (execLoad t gd addr size ecc s) := by
  unfold execLoad
  repeat' first
    | with_reducible assumption | with_reducible apply outLines_done | with_reducible apply lines_ite
    | with_reducible apply outLines_ite | with_reducible apply issue_lines | with_reducible apply loadBody_lines
    | with_reducible refine lines_of_view (holdBack_line ..) ?_ | split | dsimp only | intro _ _

theorem storeLost_lines (t : Nat) (s : State) (h : LineInv s) : LineInv (storeLost t s) := by
  unfold storeLost
  repeat' first
    | with_reducible assumption | with_reducible apply detectS1_lines | with_reducible apply endTask_lines
    | with_reducible refine lines_of_view (updThread_line ..) ?_ | split | dsimp only

theorem settleSeal_line (t : Nat) (s : State) : lineView (settleSeal t s) = lineView s := by
  unfold settleSeal
  repeat' first
    | with_reducible rfl | with_reducible refine (complete_line ..).trans ?_
    | with_reducible refine (updThread_line ..).trans ?_ | with_reducible apply ite_line | split | dsimp only

theorem execLoadReturn_lines (t : Fin 256) (peerData : Option Word64) (s : State) (h : LineInv s) : outLines
    (execLoadReturn t peerData s) := by
  unfold execLoadReturn
  repeat' first
    | with_reducible assumption | with_reducible apply outLines_done | with_reducible apply lines_ite
    | with_reducible apply outLines_ite | with_reducible apply storeLost_lines | with_reducible apply fault_lines
    | with_reducible refine lines_of_view (updThread_line ..) ?_
    | with_reducible refine lines_of_view (complete_line ..) ?_
    | with_reducible refine lines_of_view (writeG_line ..) ?_
    | with_reducible refine lines_of_view (drawFree_line ..) ?_ | split | dsimp only

theorem enqueueStore_line (t addr a size : Nat) (v : Word64) (s : State) : lineView (enqueueStore t addr a size v s) =
    lineView s := by
  unfold enqueueStore
  repeat' first
    | with_reducible rfl | with_reducible refine (updThread_line ..).trans ?_
    | with_reducible refine (noteIo_line ..).trans ?_ | dsimp only

theorem storeBody_lines (t : Nat) (v : Word64) (addr size : Nat) (s : State) (h : LineInv s) : LineInv (storeBody t v
    addr size s) := by
  unfold storeBody
  repeat' first
    | with_reducible assumption | with_reducible apply threadCheck_lines | with_reducible apply denyAccess_lines
    | with_reducible refine lines_of_view (complete_line ..) ?_
    | with_reducible refine lines_of_view (enqueueStore_line ..) ?_ | split | dsimp only

theorem execStore_lines (t : Fin 256) (gs : BitVec 5) (addr : BitVec 48) (size : BitVec 2) (s : State) (h : LineInv s)
    : outLines (execStore t gs addr size s) := by
  unfold execStore
  repeat' first
    | with_reducible assumption | with_reducible apply outLines_done | with_reducible apply lines_ite
    | with_reducible apply outLines_ite | with_reducible apply issue_lines | with_reducible apply storeBody_lines
    | with_reducible refine lines_of_view (holdBack_line ..) ?_ | split | dsimp only | intro _ _

theorem performStore_lines (t : Nat) (q : QueuedStore) (s : State) (h : LineInv s) : LineInv (performStore t q
    s) := by
  unfold performStore
  repeat' first
    | with_reducible assumption | with_reducible apply placeStore_lines
    | with_reducible refine lines_of_view (sendPeer_line ..) ?_ | split | dsimp only

theorem releaseStore_lines (t : Nat) (q : QueuedStore) (ecc : Ecc) (s : State) (h : LineInv s) : LineInv (releaseStore
    t q ecc s) := by
  unfold releaseStore
  repeat' first
    | with_reducible assumption | with_reducible apply lines_ite | with_reducible apply performStore_lines
    | with_reducible refine lines_of_view (updThread_line ..) ?_
    | with_reducible refine lines_of_view (noteEcc_line ..) ?_ | split | dsimp only

theorem execStoreVisible_lines (t : Fin 256) (ecc : Ecc) (s : State) (h : LineInv s) : outLines (execStoreVisible t
    ecc s) := by
  unfold execStoreVisible
  repeat' first
    | with_reducible assumption | with_reducible apply outLines_done | with_reducible apply lines_ite
    | with_reducible apply outLines_ite | with_reducible apply releaseStore_lines | split | dsimp only

theorem execWriteResponse_lines (t : Fin 256) (reply : WriteReply) (s : State) (h : LineInv s) : outLines
    (execWriteResponse t reply s) := by
  unfold execWriteResponse
  repeat' first
    | with_reducible assumption | with_reducible apply outLines_done | with_reducible apply lines_ite
    | with_reducible apply outLines_ite | with_reducible apply storeLost_lines
    | with_reducible refine lines_of_view (settleSeal_line ..) ?_
    | with_reducible refine lines_of_view (updThread_line ..) ?_ | split | dsimp only

theorem sealBody_line (t : Nat) (s : State) : lineView (sealBody t s) = lineView s := by
  unfold sealBody
  repeat' first
    | with_reducible rfl | with_reducible refine (settleSeal_line ..).trans ?_
    | with_reducible refine (updThread_line ..).trans ?_ | dsimp only

theorem execSealStores_lines (t : Fin 256) (s : State) (h : LineInv s) : outLines (execSealStores t s) := by
  unfold execSealStores
  repeat' first
    | with_reducible assumption | with_reducible apply outLines_done | with_reducible apply issue_lines
    | with_reducible refine lines_of_view (sealBody_line ..) ?_ | dsimp only | intro _ _

theorem iosealBody_line (t : Nat) (s : State) : lineView (iosealBody t s) = lineView s := by
  unfold iosealBody
  repeat' first
    | with_reducible rfl | with_reducible refine (settleSeal_line ..).trans ?_
    | with_reducible refine (updThread_line ..).trans ?_ | dsimp only

theorem execIoseal_lines (t : Fin 256) (s : State) (h : LineInv s) : outLines (execIoseal t s) := by
  unfold execIoseal
  repeat' first
    | with_reducible assumption | with_reducible apply outLines_done | with_reducible apply issue_lines
    | with_reducible refine lines_of_view (iosealBody_line ..) ?_ | dsimp only | intro _ _

theorem resldFrom_lines (t : Nat) (gd : BitVec 5) (a addr : Nat) (ecc : Ecc) (s : State) (h : LineInv s) : LineInv
    (resldFrom t gd a addr ecc s) := by
  unfold resldFrom
  repeat' first
    | with_reducible assumption | with_reducible apply lines_ite | with_reducible apply fault_lines
    | with_reducible apply memoryError_lines | with_reducible refine lines_of_view (updThread_line ..) ?_
    | with_reducible refine lines_of_view (dropResv_line ..) ?_
    | with_reducible refine lines_of_view (noteIo_line ..) ?_
    | with_reducible refine lines_of_view (waitLoad_line ..) ?_
    | with_reducible refine lines_of_view (sendPeer_line ..) ?_
    | with_reducible refine lines_of_view (reserve_line ..) ?_
    | with_reducible refine lines_of_view (noteEcc_line ..) ?_ | split | dsimp only

theorem resldBody_lines (t : Nat) (gd : BitVec 5) (addr : Nat) (ecc : Ecc) (s : State) (h : LineInv s) : LineInv
    (resldBody t gd addr ecc s) := by
  unfold resldBody
  repeat' first
    | with_reducible assumption | with_reducible apply threadCheck_lines | with_reducible apply denyAccess_lines
    | with_reducible apply resldFrom_lines | split | dsimp only

theorem execResld_lines (t : Fin 256) (gd ga : BitVec 5) (off : BitVec 16) (ecc : Ecc) (s : State) (h : LineInv s) :
    outLines (execResld t gd ga off ecc s) := by
  unfold execResld
  repeat' first
    | with_reducible assumption | with_reducible apply outLines_done | with_reducible apply lines_ite
    | with_reducible apply outLines_ite | with_reducible apply issue_lines | with_reducible apply resldBody_lines
    | with_reducible refine lines_of_view (holdBack_line ..) ?_ | split | dsimp only | intro _ _

theorem condstTo_lines (t : Nat) (gd : BitVec 5) (v : Word64) (a addr : Nat) (ecc : Ecc) (s : State) (h : LineInv s) :
    LineInv (condstTo t gd v a addr ecc s) := by
  unfold condstTo
  repeat' first
    | with_reducible assumption | with_reducible apply lines_ite | with_reducible apply storeLost_lines
    | with_reducible refine lines_of_view (noteIo_line ..) ?_
    | with_reducible refine lines_of_view (updThread_line ..) ?_
    | with_reducible refine lines_of_view (waitLoad_line ..) ?_
    | with_reducible refine lines_of_view (sendPeer_line ..) ?_
    | with_reducible refine lines_of_view (complete_line ..) ?_
    | with_reducible refine lines_of_view (writeG_line ..) ?_
    | with_reducible refine lines_of_view (dropResv_line ..) ?_
    | with_reducible refine lines_of_view (conditional_line ..) ?_
    | with_reducible refine lines_of_view (noteEcc_line ..) ?_ | split | dsimp only

theorem condstBody_lines (t : Nat) (gd : BitVec 5) (v : Word64) (addr : Nat) (ecc : Ecc) (s : State) (h : LineInv s) :
    LineInv (condstBody t gd v addr ecc s) := by
  unfold condstBody
  repeat' first
    | with_reducible assumption | with_reducible apply threadCheck_lines | with_reducible apply denyAccess_lines
    | with_reducible apply condstTo_lines | split | dsimp only

theorem execCondst_lines (t : Fin 256) (gs ga gd : BitVec 5) (off : BitVec 11) (ecc : Ecc) (s : State) (h : LineInv s)
    : outLines (execCondst t gs ga gd off ecc s) := by
  unfold execCondst
  repeat' first
    | with_reducible assumption | with_reducible apply outLines_done | with_reducible apply lines_ite
    | with_reducible apply outLines_ite | with_reducible apply issue_lines | with_reducible apply condstBody_lines
    | with_reducible refine lines_of_view (holdBack_line ..) ?_ | split | dsimp only | intro _ _

theorem flagBody_lines (t addr : Nat) (v : Word64) (s : State) (h : LineInv s) : LineInv (flagBody t addr v s) := by
  unfold flagBody
  repeat' first
    | with_reducible assumption | with_reducible apply storeBody_lines | with_reducible apply performStore_lines
    | with_reducible refine lines_of_view (updThread_line ..) ?_ | split | dsimp only

theorem execFlagSet_lines (t : Fin 256) (flag : Fin 4096) (s : State) (h : LineInv s) : outLines (execFlagSet t flag
    s) := by
  unfold execFlagSet
  repeat' first
    | with_reducible assumption | with_reducible apply outLines_done | with_reducible apply lines_ite
    | with_reducible apply outLines_ite | with_reducible apply issue_lines | with_reducible apply flagBody_lines
    | with_reducible refine lines_of_view (holdBack_line ..) ?_ | split | dsimp only | intro _ _

theorem execFlagAdd_lines (t : Fin 256) (flag : Fin 4096) (value : Word32) (s : State) (h : LineInv s) : outLines
    (execFlagAdd t flag value s) := by
  unfold execFlagAdd
  repeat' first
    | with_reducible assumption | with_reducible apply outLines_done | with_reducible apply lines_ite
    | with_reducible apply outLines_ite | with_reducible apply issue_lines | with_reducible apply flagBody_lines
    | with_reducible refine lines_of_view (holdBack_line ..) ?_ | split | dsimp only | intro _ _

theorem peerUncorrectable_lines (s : State) (h : LineInv s) : LineInv (peerUncorrectable s).2 := by
  unfold peerUncorrectable
  repeat' first | with_reducible assumption | with_reducible apply detectS1_lines | dsimp only

theorem peerPerform_lines (chip : Fin 4) (a : RegAcc) (op : PeerOp) (addr bytes : Nat) (data : List Byte) (ecc : Ecc)
    (s : State) (h : LineInv s) : LineInv (peerPerform chip a op addr bytes data ecc s).2 := by
  unfold peerPerform
  repeat' first
    | with_reducible assumption | with_reducible apply lines_ite | with_reducible apply peerUncorrectable_lines
    | with_reducible apply placeStore_lines | with_reducible refine lines_of_view (reserve_line ..) ?_
    | with_reducible refine lines_of_view (conditional_line ..) ?_
    | with_reducible refine lines_of_view (placeRead_line ..) ?_ | split | dsimp only

theorem answerPeer_line (chip : Nat) (r : Option (List Byte)) (s : State) : lineView (answerPeer chip r s) = lineView
    s := by
  unfold answerPeer
  repeat' first | with_reducible rfl | with_reducible refine (sendPeer_line ..).trans ?_ | split | dsimp only

theorem execPeerAccess_lines (chip : Fin 4) (k : Fin 5) (op : PeerOp) (addr : BitVec 48) (bytes : Nat) (data : List
    Byte) (ecc : Ecc) (s : State) (h : LineInv s) : outLines (execPeerAccess chip k op addr bytes data ecc s) := by
  unfold execPeerAccess
  repeat' first
    | with_reducible assumption | with_reducible apply outLines_done | with_reducible apply lines_ite
    | with_reducible apply outLines_ite | with_reducible apply checkAccess_lines
    | with_reducible apply peerPerform_lines | with_reducible refine lines_of_view (answerPeer_line ..) ?_
    | with_reducible refine lines_of_view (noteEcc_line ..) ?_ | split | dsimp only

theorem dmaGet_lines (ch addr n : Nat) (s : State) (h : LineInv s) : LineInv (dmaGet ch addr n s).2 := by
  unfold dmaGet
  repeat' first
    | with_reducible assumption | with_reducible apply lines_ite | with_reducible apply checkAccess_lines
    | with_reducible refine lines_of_view (placeRead_line ..) ?_ | split | dsimp only

theorem dmaPut_lines (ch addr : Nat) (bs : List Byte) (s : State) (h : LineInv s) : LineInv (dmaPut ch addr bs
    s).2 := by
  unfold dmaPut
  repeat' first
    | with_reducible assumption | with_reducible apply lines_ite | with_reducible apply checkAccess_lines
    | with_reducible apply placeStore_lines | split | dsimp only

theorem readAhead_lines (ch k : Nat) (s : State) (h : LineInv s) : LineInv (readAhead ch k s) := by
  induction k generalizing s with
  | zero => exact h
  | succ k ih =>
    unfold readAhead
    repeat' first
      | assumption | (apply ih; refine lines_of_view (updCh_line ..) ?_) | apply dmaGet_lines | split | dsimp only

theorem keepReads_lines (ch : Nat) (s : State) (h : LineInv s) : LineInv (keepReads ch s) := by
  unfold keepReads
  repeat' first
    | with_reducible assumption | with_reducible apply lines_ite | with_reducible apply readAhead_lines
    | with_reducible refine lines_of_view (drawFree_line ..) ?_ | split | dsimp only

theorem dmaFault_lines (ch kind : Nat) (isWrite : Bool) (addr : Nat) (s : State) (h : LineInv s) : LineInv (dmaFault
    ch kind isWrite addr s) := by
  unfold dmaFault
  repeat' first
    | with_reducible assumption | with_reducible apply lines_ite | with_reducible apply busError_lines
    | with_reducible apply keepReads_lines | (with_reducible apply foldl_lines; intro _ _ _) | split | dsimp only

theorem claimGroup_line (ch a : Nat) (s : State) : lineView (claimGroup ch a s) = lineView s := by
  unfold claimGroup
  repeat' first | with_reducible rfl | with_reducible refine (requestGroup_line ..).trans ?_ | split | dsimp only

theorem classify_lines (ch : Nat) (d : Descriptor) (s : State) (h : LineInv s) : LineInv (classify ch d s) := by
  unfold classify
  repeat' first
    | with_reducible assumption | with_reducible apply lines_ite | with_reducible apply checkAccess_lines
    | with_reducible apply dmaFault_lines | with_reducible apply descError_lines
    | with_reducible refine lines_of_view (claimGroup_line ..) ?_ | split | dsimp only

theorem fetchDesc_lines (ch : Nat) (s : State) (h : LineInv s) : LineInv (fetchDesc ch s) := by
  unfold fetchDesc
  repeat' first
    | with_reducible assumption | with_reducible apply lines_ite | with_reducible apply dmaGet_lines
    | with_reducible apply dmaFault_lines | with_reducible apply classify_lines
    | with_reducible apply descError_lines | with_reducible refine lines_of_view (assignPaths_line ..) ?_
    | with_reducible refine lines_of_view (freePath_line ..) ?_
    | with_reducible refine lines_of_view (updCh_line ..) ?_ | split | dsimp only

theorem readLevel_lines (ch : Nat) (s : State) (h : LineInv s) : LineInv (readLevel ch s).2 := by
  unfold readLevel
  repeat' first | with_reducible assumption | with_reducible apply dmaGet_lines | split | dsimp only

theorem endUnit_lines (ch : Nat) (s : State) (h : LineInv s) : LineInv (endUnit ch s) := by
  unfold endUnit
  repeat' first
    | with_reducible assumption | with_reducible apply lines_ite | with_reducible apply dmaPut_lines
    | with_reducible apply dmaFault_lines | with_reducible refine lines_of_view (updCh_line ..) ?_ | split
    | dsimp only

theorem beatBytes_lines (ch : Nat) (d : Descriptor) (n : Nat) (s : State) (h : LineInv s) : LineInv (beatBytes ch d n
    s).2 := by
  unfold beatBytes
  repeat' first
    | with_reducible assumption | with_reducible apply lines_ite | with_reducible apply dmaGet_lines | split
    | dsimp only

theorem moveBeat_lines (ch : Nat) (d : Descriptor) (n : Nat) (s : State) (h : LineInv s) : LineInv (moveBeat ch d n
    s) := by
  unfold moveBeat
  repeat' first
    | with_reducible assumption | with_reducible apply lines_ite | with_reducible apply beatBytes_lines
    | with_reducible apply dmaFault_lines | with_reducible apply dmaPut_lines | with_reducible apply endUnit_lines
    | with_reducible refine lines_of_view (updCh_line ..) ?_
    | with_reducible refine lines_of_view (countSel_line ..) ?_ | split | dsimp only

theorem beginUnit_lines (ch : Nat) (s : State) (h : LineInv s) : LineInv (beginUnit ch s) := by
  unfold beginUnit
  repeat' first
    | with_reducible assumption | with_reducible apply lines_ite | with_reducible apply readLevel_lines
    | with_reducible apply dmaFault_lines | with_reducible apply descError_lines
    | with_reducible refine lines_of_view (updCh_line ..) ?_ | split | dsimp only

theorem pathBeat_lines (i : Nat) (s : State) (h : LineInv s) : LineInv (pathBeat i s) := by
  unfold pathBeat
  repeat' first
    | with_reducible assumption | with_reducible apply lines_ite | with_reducible apply fetchDesc_lines
    | with_reducible apply beginUnit_lines | with_reducible apply moveBeat_lines | split | dsimp only

theorem preempt_lines (ch : Nat) (s : State) (h : LineInv s) : LineInv (preempt ch s) := by
  unfold preempt
  repeat' first
    | with_reducible assumption | with_reducible apply lines_ite | with_reducible apply keepReads_lines
    | with_reducible refine lines_of_view (givePath_line ..) ?_
    | with_reducible refine lines_of_view (updCh_line ..) ?_ | split | dsimp only

theorem turnPaths_lines (s : State) (h : LineInv s) : LineInv (turnPaths s) := by
  unfold turnPaths
  repeat' first
    | with_reducible assumption | with_reducible apply lines_ite | with_reducible apply preempt_lines
    | with_reducible refine lines_of_view (assignPaths_line ..) ?_ | (with_reducible apply foldl_lines; intro _ _ _)
    | split | dsimp only

theorem runDma_lines (s : State) (h : LineInv s) : LineInv (runDma s) := by
  unfold runDma
  repeat' first | with_reducible assumption | with_reducible apply lines_ite | with_reducible apply turnPaths_lines | with_reducible apply pathBeat_lines | dsimp only

theorem execDmaBurstEnd_lines (dp : Fin 2) (s : State) (h : LineInv s) : outLines (execDmaBurstEnd dp s) := by
  unfold execDmaBurstEnd
  repeat' first
    | with_reducible assumption | with_reducible apply outLines_done | with_reducible apply lines_ite
    | with_reducible apply outLines_ite | with_reducible apply turnPaths_lines | split | dsimp only

theorem execLadleRampEnd_lines (id : BitVec 10) (s : State) (h : LineInv s) : outLines (execLadleRampEnd id s) := by
  unfold execLadleRampEnd
  repeat' first
    | with_reducible assumption | with_reducible apply outLines_done | with_reducible apply lines_ite
    | with_reducible apply outLines_ite | with_reducible apply preempt_lines
    | with_reducible refine lines_of_view (beginHolder_line ..) ?_ | split | dsimp only

theorem execDmaPacePoll_lines (ch : Fin 32) (s : State) (h : LineInv s) : outLines (execDmaPacePoll ch s) := by
  unfold execDmaPacePoll
  repeat' first
    | with_reducible assumption | with_reducible apply outLines_done | with_reducible apply lines_ite
    | with_reducible apply outLines_ite | with_reducible apply readLevel_lines | with_reducible apply dmaFault_lines
    | with_reducible apply descError_lines | with_reducible apply turnPaths_lines
    | with_reducible refine lines_of_view (updCh_line ..) ?_ | split | dsimp only

theorem writeBack_lines (ch : Nat) (d : Descriptor) (s : State) (h : LineInv s) : LineInv (writeBack ch d s).2 := by
  unfold writeBack
  repeat' first
    | with_reducible assumption | with_reducible apply lines_ite | with_reducible apply dmaPut_lines
    | with_reducible refine lines_of_view (updCh_line ..) ?_ | split | dsimp only

theorem endChain_line (ch : Nat) (s : State) : lineView (endChain ch s) = lineView s := by
  unfold endChain
  repeat' first
    | with_reducible rfl | with_reducible refine (freePath_line ..).trans ?_
    | with_reducible refine (ladleRelease_line ..).trans ?_ | with_reducible refine (endChannel_line ..).trans ?_
    | with_reducible refine (updCh_line ..).trans ?_ | with_reducible refine (endNode_line ..).trans ?_
    | with_reducible apply ite_line | split | dsimp only

theorem notifyChannel_line (ch : Nat) (d : Descriptor) (s : State) : lineView (notifyChannel ch d s) = lineView
    s := by
  unfold notifyChannel
  repeat' first
    | with_reducible rfl | with_reducible refine (signalMsix_line ..).trans ?_
    | with_reducible refine (setHw_line ..).trans ?_ | with_reducible apply ite_line | split | dsimp only

theorem completeDesc_lines (ch : Nat) (d : Descriptor) (s : State) (h : LineInv s) : LineInv (completeDesc ch d
    s) := by
  unfold completeDesc
  repeat' first
    | with_reducible assumption | with_reducible apply lines_ite | with_reducible apply writeBack_lines
    | with_reducible apply dmaFault_lines | with_reducible apply turnPaths_lines
    | with_reducible refine lines_of_view (updCh_line ..) ?_
    | with_reducible refine lines_of_view (notifyChannel_line ..) ?_
    | with_reducible refine lines_of_view (endChain_line ..) ?_ | split | dsimp only

theorem execDmaDescComplete_lines (ch : Fin 32) (s : State) (h : LineInv s) : outLines (execDmaDescComplete ch
    s) := by
  unfold execDmaDescComplete
  repeat' first
    | with_reducible assumption | with_reducible apply outLines_done | with_reducible apply lines_ite
    | with_reducible apply outLines_ite | with_reducible apply completeDesc_lines | split | dsimp only

theorem postedError_lines (ch addr entry : Nat) (s : State) (h : LineInv s) : LineInv (postedError ch addr entry
    s) := by
  unfold postedError
  repeat' first
    | with_reducible assumption | with_reducible apply lines_ite | with_reducible apply chWrite_lines
    | with_reducible apply dmaFault_lines | with_reducible apply detectS1_lines
    | with_reducible apply abortPour_lines | with_reducible refine lines_of_view (updCh_line ..) ?_
    | with_reducible refine lines_of_view (endNode_line ..) ?_ | split | dsimp only

theorem execDmaBusError_lines (ch : Fin 32) (kind : BusErrorKind) (isWrite : Bool) (addr : BitVec 48) (onPosted :
    Bool) (s : State) (h : LineInv s) : outLines (execDmaBusError ch kind isWrite addr onPosted s) := by
  unfold execDmaBusError
  repeat' first
    | with_reducible assumption | with_reducible apply outLines_done | with_reducible apply lines_ite
    | with_reducible apply outLines_ite | with_reducible apply postedError_lines
    | with_reducible apply dmaFault_lines | split | dsimp only

theorem reply_line (op : HostOp) (r : HostReply) (s : State) : lineView (reply op r s) = lineView s := by
  unfold reply
  repeat' first | with_reducible rfl | split | dsimp only

theorem denyHost_line (op : HostOp) (f : AccessFault) (s : State) : lineView (denyHost op f s) = lineView s := by
  unfold denyHost
  repeat' first | with_reducible rfl | with_reducible apply ite_line | split | dsimp only

theorem hostUncorrectable_lines (op : HostOp) (s : State) (h : LineInv s) : LineInv (hostUncorrectable op s) := by
  unfold hostUncorrectable
  repeat' first | with_reducible assumption | with_reducible apply detectS1_lines | split | dsimp only

theorem hostPerform_lines (op : HostOp) (a : Nat) (s : State) (h : LineInv s) : LineInv (hostPerform op a s) := by
  unfold hostPerform
  repeat' first
    | with_reducible assumption | with_reducible apply placeStore_lines
    | with_reducible refine lines_of_view (placeRead_line ..) ?_ | split | dsimp only

theorem hostTry_lines (op : HostOp) (addr : Nat) (ecc : Ecc) (s : State) (h : LineInv s) : LineInv (hostTry op addr
    ecc s) := by
  unfold hostTry
  repeat' first
    | with_reducible assumption | with_reducible apply lines_ite | with_reducible apply checkAccess_lines
    | with_reducible apply hostUncorrectable_lines | with_reducible apply hostPerform_lines
    | with_reducible refine lines_of_view (denyHost_line ..) ?_
    | with_reducible refine lines_of_view (noteEcc_line ..) ?_ | split | dsimp only

theorem execHostAccess_lines (bar : Bar) (offset : Nat) (op : HostOp) (ecc : Ecc) (s : State) (h : LineInv s) :
    outLines (execHostAccess bar offset op ecc s) := by
  unfold execHostAccess
  repeat' first
    | with_reducible assumption | with_reducible apply outLines_done | with_reducible apply lines_ite
    | with_reducible apply outLines_ite | with_reducible apply hostTry_lines
    | with_reducible refine lines_of_view (raise_line ..) ?_ | split | dsimp only

theorem countEclk_line (s : State) : lineView (countEclk s) = lineView s := by
  unfold countEclk
  repeat' first
    | with_reducible rfl | with_reducible refine (countSel_line ..).trans ?_ | with_reducible apply ite_line | split
    | dsimp only

theorem advanceTsc_line (s : State) : lineView (advanceTsc s) = lineView s := by
  unfold advanceTsc
  repeat' first | with_reducible rfl | dsimp only

theorem advanceWatch_line (s : State) : lineView (advanceWatch s) = lineView s := by
  unfold advanceWatch
  repeat' first | with_reducible rfl | with_reducible apply ite_line | split | dsimp only

theorem endPclk_lines (s : State) (h : LineInv s) : LineInv (endPclk s) := by
  unfold endPclk
  repeat' first
    | with_reducible assumption | with_reducible apply lines_ite | with_reducible apply settleWrites_lines | split
    | dsimp only

theorem clearDoorbell_line (s : State) : lineView (clearDoorbell s) = lineView s := by
  unfold clearDoorbell
  repeat' first | with_reducible rfl | with_reducible apply ite_line | split | dsimp only

theorem openCycle_line (s : State) : lineView (openCycle s) = lineView s := by
  unfold openCycle
  repeat' first | with_reducible rfl | with_reducible apply ite_line | split | dsimp only

theorem formMessages_line (s : State) : lineView (formMessages s) = lineView s := by
  unfold formMessages
  repeat' first | with_reducible rfl | with_reducible refine (formDue_line ..).trans ?_ | dsimp only

theorem runUnits_lines (s : State) (h : LineInv s) : LineInv (runUnits s) := by
  unfold runUnits
  repeat' first
    | with_reducible assumption | with_reducible apply runDma_lines | with_reducible apply endPclk_lines
    | with_reducible refine lines_of_view (clearDoorbell_line ..) ?_
    | with_reducible refine lines_of_view (fillBuffers_line ..) ?_
    | with_reducible refine lines_of_view (countEclk_line ..) ?_ | dsimp only

theorem tick_lines (s : State) (h : LineInv s) : LineInv (tick s) := by
  unfold tick
  repeat' first
    | with_reducible assumption | with_reducible apply lines_ite | with_reducible apply flushStages_lines
    | with_reducible apply runUnits_lines | with_reducible refine lines_of_view (settleRoles_line ..) ?_
    | with_reducible refine lines_of_view (advanceTsc_line ..) ?_
    | with_reducible refine lines_of_view (advanceWatch_line ..) ?_
    | with_reducible refine lines_of_view (openCycle_line ..) ?_
    | with_reducible refine lines_of_view (formMessages_line ..) ?_ | split | dsimp only

end Sys2Proof.Machine
end

