-- ==== Sys2Proof/Laws/MemShared.lean ====
section
/-! SUPPORT. The memory across the shared operations: events, safe states, Ladle, counters and translation: a function that never writes it leaves it
as it is (_mem); any other keeps its canonical form (_wf). -/

set_option linter.unusedTactic false
set_option linter.unusedVariables false
set_option linter.unreachableTactic false
set_option linter.unusedSimpArgs false

namespace Sys2Proof.Machine

@[simp] theorem clearResv_mem (a n : Nat) (s : State) : (clearResv a n s).mem = s.mem := by
  unfold clearResv
  repeat' first | with_reducible rfl

theorem physWrite_wf (s : State) (a : Nat) (bs : List Byte) (h : s.mem.wf = true) :
    (physWrite s a bs).mem.wf = true := by
  unfold physWrite
  split
  · exact Mem.write_wf a bs h
  · exact Mem.write_wf a bs h
  · exact h

@[simp] theorem updChan_mem (s : State) (c : Channel) (f : SafetyCh → SafetyCh) : (updChan s c f).mem = s.mem := by
  unfold updChan
  repeat' first | with_reducible rfl | split

@[simp] theorem sendMsix_mem (s : State) (v : Nat) : (sendMsix s v).mem = s.mem := by
  unfold sendMsix
  repeat' first | with_reducible rfl

@[simp] theorem signalMsix_mem (s : State) (v : Nat) : (signalMsix s v).mem = s.mem := by
  unfold signalMsix
  repeat' first
    | with_reducible rfl | (simp only [sendMsix_mem, apply_ite State.mem, ite_self]; done) | split
    | simp only [sendMsix_mem, apply_ite State.mem, ite_self]

@[simp] theorem pushFifo_mem (s : State) (code : EventCode) : (pushFifo s code).mem = s.mem := by
  unfold pushFifo
  repeat' first
    | with_reducible rfl | (simp only [apply_ite State.mem, ite_self]; done) | split
    | simp only [apply_ite State.mem, ite_self]

@[simp] theorem markEvt_mem (s : State) (code : EventCode) : (markEvt s code).mem = s.mem := by
  unfold markEvt
  repeat' first
    | with_reducible rfl | (simp only [apply_ite State.mem, ite_self]; done) | split
    | simp only [apply_ite State.mem, ite_self]

@[simp] theorem signalEvent_mem (s : State) (code : EventCode) : (signalEvent s code).mem = s.mem := by
  unfold signalEvent
  repeat' first
    | with_reducible rfl | (simp only [signalMsix_mem, apply_ite State.mem, ite_self]; done) | split
    | simp only [signalMsix_mem, apply_ite State.mem, ite_self]

@[simp] theorem noteSet_mem (code : EventCode) (s : State) : (noteSet code s).mem = s.mem := by
  unfold noteSet
  repeat' first | with_reducible rfl

@[simp] theorem raise_mem (code : EventCode) (s : State) : (raise code s).mem = s.mem := by
  unfold raise
  repeat' first
    | with_reducible rfl | (simp only [signalEvent_mem, pushFifo_mem, noteSet_mem, markEvt_mem]; done)
    | simp only [signalEvent_mem, pushFifo_mem, noteSet_mem, markEvt_mem]

@[simp] theorem raiseAll_mem (codes : List EventCode) (s : State) : (raiseAll codes s).mem = s.mem := by
  unfold raiseAll
  repeat' first
    | with_reducible rfl | simp only [raise_mem] | (with_reducible refine (foldl_mem ?_).trans ?_; intro _ _)
    | dsimp only

@[simp] theorem markCam_mem (p : Nat) (code : EventCode) (s : State) : (markCam p code s).mem = s.mem := by
  unfold markCam
  repeat' first
    | with_reducible rfl | (simp only [apply_ite State.mem, ite_self]; done) | split
    | simp only [apply_ite State.mem, ite_self]

@[simp] theorem noteCam_mem (p : Nat) (code : EventCode) (s : State) : (noteCam p code s).mem = s.mem := by
  unfold noteCam
  repeat' first | with_reducible rfl

@[simp] theorem raiseCam_mem (p : Nat) (code : EventCode) (s : State) : (raiseCam p code s).mem = s.mem := by
  unfold raiseCam
  repeat' first
    | with_reducible rfl | (simp only [raise_mem, noteCam_mem, markCam_mem]; done)
    | simp only [raise_mem, noteCam_mem, markCam_mem]

@[simp] theorem dropHeld_mem (off : Nat) (s : State) : (dropHeld off s).mem = s.mem := by
  unfold dropHeld
  repeat' first | with_reducible rfl

@[simp] theorem markHw_mem (s : State) (b : HwBit) : (markHw s b).mem = s.mem := by cases b <;> rfl

@[simp] theorem setHw_mem (b : HwBit) (s : State) : (setHw b s).mem = s.mem := by
  unfold setHw
  repeat' first | with_reducible rfl | (simp only [markHw_mem]; done) | simp only [markHw_mem]

@[simp] theorem keepSets_mem (s : State) : (keepSets s).mem = s.mem := by
  unfold keepSets
  repeat' first
    | with_reducible rfl | split | simp only [markHw_mem, markEvt_mem, markCam_mem, apply_ite State.mem, ite_self]
    | (with_reducible refine (foldl_mem ?_).trans ?_; intro _ _) | dsimp only

@[simp] theorem raiseCamOnce_mem (p : Nat) (code : EventCode) (s : State) : (raiseCamOnce p code s).mem = s.mem := by
  unfold raiseCamOnce
  repeat' first
    | with_reducible rfl | (simp only [raiseCam_mem, apply_ite State.mem, ite_self]; done) | split
    | simp only [raiseCam_mem, apply_ite State.mem, ite_self]

@[simp] theorem driveLines_mem (s : State) : (driveLines s).mem = s.mem := by
  unfold driveLines
  repeat' first | with_reducible rfl

@[simp] theorem dropSafe_mem (s : State) : (dropSafe s).mem = s.mem := by
  unfold dropSafe
  repeat' first | with_reducible rfl | (simp only [driveLines_mem]; done) | simp only [driveLines_mem]

@[simp] theorem logFault_mem (code : EventCode) (pairs : BitVec 4) (s : State) : (logFault code pairs s).mem =
    s.mem := by
  unfold logFault
  repeat' first
    | with_reducible rfl | (simp only [apply_ite State.mem, ite_self]; done) | split
    | simp only [apply_ite State.mem, ite_self]

@[simp] theorem enterS1_mem (code : EventCode) (s : State) : (enterS1 code s).mem = s.mem := by
  unfold enterS1
  repeat' first
    | with_reducible rfl | (simp only [raise_mem, dropSafe_mem, apply_ite State.mem, ite_self]; done) | split
    | simp only [raise_mem, dropSafe_mem, apply_ite State.mem, ite_self]

@[simp] theorem detectS1_mem (code : EventCode) (pairs : BitVec 4) (s : State) : (detectS1 code pairs s).mem =
    s.mem := by
  unfold detectS1
  repeat' first
    | with_reducible rfl | (simp only [enterS1_mem, logFault_mem, raise_mem]; done)
    | simp only [enterS1_mem, logFault_mem, raise_mem]

theorem warmReset_wf (cause : BitVec 6) (s : State) (h : s.mem.wf = true) : (warmReset cause s).mem.wf = true :=
  Mem.clear_wf _ _ h

theorem coldReset_wf (s : State) : (coldReset s).mem.wf = true := Mem.empty_wf

@[simp] theorem countS2_mem (s : State) : (countS2 s).mem = s.mem := by
  unfold countS2
  repeat' first | with_reducible rfl

@[simp] theorem freezeMessages_mem (s : State) : (freezeMessages s).mem = s.mem := by
  unfold freezeMessages
  repeat' first | with_reducible rfl

theorem detectS2_wf (code : EventCode) (s : State) (h : s.mem.wf = true) : (detectS2 code s).mem.wf = true := by
  unfold detectS2
  repeat' first
    | with_reducible assumption | with_reducible apply wf_ite | with_reducible apply warmReset_wf | split
    | dsimp only | simp only [logFault_mem, raise_mem, driveLines_mem, freezeMessages_mem, countS2_mem]

@[simp] theorem hostCopy_mem (r : SepRecord) (s : State) : (hostCopy r s).mem = s.mem := by
  unfold hostCopy
  repeat' first
    | with_reducible rfl | (simp only [raise_mem, signalMsix_mem, apply_ite State.mem, ite_self]; done) | split
    | simp only [raise_mem, signalMsix_mem, apply_ite State.mem, ite_self]

@[simp] theorem pushNotice_mem (r : SepRecord) (s : State) : (pushNotice r s).mem = s.mem := by
  unfold pushNotice
  repeat' first
    | with_reducible rfl | (simp only [hostCopy_mem, detectS1_mem, apply_ite State.mem, ite_self]; done) | split
    | simp only [hostCopy_mem, detectS1_mem, apply_ite State.mem, ite_self]

@[simp] theorem pushRecords_mem (rs : List SepRecord) (s : State) : (pushRecords rs s).mem = s.mem := by
  unfold pushRecords
  repeat' first
    | with_reducible rfl | simp only [hostCopy_mem] | (with_reducible refine (foldl_mem ?_).trans ?_; intro _ _)
    | dsimp only

@[simp] theorem drawFree_mem (s : State) : (drawFree s).2.mem = s.mem := by
  unfold drawFree
  repeat' first | with_reducible rfl

@[simp] theorem noteWindow_mem (s : State) : (noteWindow s).mem = s.mem := by
  unfold noteWindow
  repeat' first | with_reducible rfl

@[simp] theorem ladleRequest_mem (id cls : Nat) (deadline : Option Nat) (t : Nat) (serves : Option PourRef) (s :
    State) : (ladleRequest id cls deadline t serves s).1.mem = s.mem := by
  unfold ladleRequest
  repeat' first
    | with_reducible rfl | (simp only [raise_mem, apply_ite State.mem, ite_self]; done) | split
    | simp only [raise_mem, apply_ite State.mem, ite_self]

@[simp] theorem withdrawRequest_mem (id : Nat) (s : State) : (withdrawRequest id s).mem = s.mem := by
  unfold withdrawRequest
  repeat' first | with_reducible rfl

@[simp] theorem ladleRelease_mem (id : Nat) (s : State) : (ladleRelease id s).mem = s.mem := by
  unfold ladleRelease
  repeat' first | with_reducible rfl

@[simp] theorem ladleStop_mem (id : Nat) (andBegun : Bool) (s : State) : (ladleStop id andBegun s).mem = s.mem := by
  unfold ladleStop
  repeat' first
    | with_reducible rfl | (simp only [withdrawRequest_mem, apply_ite State.mem, ite_self]; done) | split
    | simp only [withdrawRequest_mem, apply_ite State.mem, ite_self]

@[simp] theorem stopLoad_mem (n : Nat) (s : State) : (stopLoad n s).mem = s.mem := by
  unfold stopLoad
  repeat' first | with_reducible rfl | (simp only [ladleStop_mem]; done) | split | simp only [ladleStop_mem]

@[simp] theorem takeGrant_mem (r : Request) (s : State) : (takeGrant r s).mem = s.mem := by
  unfold takeGrant
  repeat' first
    | with_reducible rfl | (simp only [noteWindow_mem, apply_ite State.mem, ite_self]; done) | split
    | simp only [noteWindow_mem, apply_ite State.mem, ite_self]

@[simp] theorem goLoad_mem (n tickets hold : Nat) (s : State) : (goLoad n tickets hold s).mem = s.mem := by
  unfold goLoad
  repeat' first
    | with_reducible rfl | (simp only [ladleRequest_mem, apply_ite State.mem, ite_self]; done) | split
    | simp only [ladleRequest_mem, apply_ite State.mem, ite_self]

theorem execTloadGo_wf (who : Agent) (n : Fin 2) (tickets : BitVec 8) (hold : BitVec 16) (s : State) (h : s.mem.wf =
    true) : outWf (execTloadGo who n tickets hold s) := by
  unfold execTloadGo
  repeat' first
    | with_reducible assumption | with_reducible apply outWf_done | with_reducible apply outWf_ite | split
    | dsimp only | simp only [goLoad_mem]

theorem execTloadStop_wf (who : Agent) (n : Fin 2) (s : State) (h : s.mem.wf = true) : outWf (execTloadStop who n
    s) := by
  unfold execTloadStop
  repeat' first
    | with_reducible assumption | with_reducible apply outWf_done | with_reducible apply outWf_ite | split
    | dsimp only | simp only [stopLoad_mem]

theorem execTloadHoldEnd_wf (n : Fin 2) (s : State) (h : s.mem.wf = true) : outWf (execTloadHoldEnd n s) := by
  unfold execTloadHoldEnd
  repeat' first
    | with_reducible assumption | with_reducible apply outWf_done | with_reducible apply outWf_ite | split
    | dsimp only | simp only [ladleRelease_mem]

theorem execCurrentMonitorWindow_wf (measured32 : Nat) (s : State) (h : s.mem.wf = true) : outWf
    (execCurrentMonitorWindow measured32 s) := by
  unfold execCurrentMonitorWindow
  repeat' first
    | with_reducible assumption | with_reducible apply outWf_done | with_reducible apply outWf_ite | split
    | dsimp only | simp only [noteWindow_mem]

theorem execLdlUnfreeze_wf (s : State) (h : s.mem.wf = true) : outWf (execLdlUnfreeze s) := by
  unfold execLdlUnfreeze
  repeat' first
    | with_reducible assumption | with_reducible apply outWf_done | with_reducible apply outWf_ite | split
    | dsimp only

theorem execLdlUnderrun_wf (s : State) (h : s.mem.wf = true) : outWf (execLdlUnderrun s) := by
  unfold execLdlUnderrun
  repeat' first
    | with_reducible assumption | with_reducible apply outWf_done | with_reducible apply outWf_ite | split
    | dsimp only | simp only [raise_mem]

@[simp] theorem countSel_mem (sel k : Nat) (s : State) : (countSel sel k s).mem = s.mem := by
  unfold countSel
  repeat' first | with_reducible rfl

@[simp] theorem dropTrace_mem (s : State) : (dropTrace s).mem = s.mem := by
  unfold dropTrace
  repeat' first | with_reducible rfl | split

@[simp] theorem endDropRun_mem (s : State) : (endDropRun s).mem = s.mem := by
  unfold endDropRun
  repeat' first | with_reducible rfl | (simp only [raise_mem]; done) | split | simp only [raise_mem]

@[simp] theorem pushTrace_mem (r : TraceRec) (s : State) : (pushTrace r s).mem = s.mem := by
  unfold pushTrace
  repeat' first
    | with_reducible rfl | (simp only [endDropRun_mem, dropTrace_mem, apply_ite State.mem, ite_self]; done) | split
    | simp only [endDropRun_mem, dropTrace_mem, apply_ite State.mem, ite_self]

@[simp] theorem traceSource_mem (i : Nat) (kind : BitVec 3) (node seq : Nat) (payload : List Byte) (s : State) :
    (traceSource i kind node seq payload s).mem = s.mem := by
  unfold traceSource
  repeat' first
    | with_reducible rfl | (simp only [pushTrace_mem, apply_ite State.mem, ite_self]; done) | split
    | simp only [pushTrace_mem, apply_ite State.mem, ite_self]

@[simp] theorem beginSource_mem (i node seq : Nat) (payload : List Byte) (s : State) : (beginSource i node seq payload
    s).mem = s.mem := by
  unfold beginSource
  repeat' first | with_reducible rfl | (simp only [traceSource_mem]; done) | simp only [traceSource_mem]

@[simp] theorem endSource_mem (i node seq : Nat) (bad : Bool) (payload : List Byte) (s : State) : (endSource i node
    seq bad payload s).mem = s.mem := by
  unfold endSource
  repeat' first
    | with_reducible rfl | (simp only [traceSource_mem, apply_ite State.mem, ite_self]; done) | split
    | simp only [traceSource_mem, apply_ite State.mem, ite_self]

@[simp] theorem traceTest_mem (u : Nat) (kind : BitVec 3) (payload : List Byte) (s : State) : (traceTest u kind
    payload s).mem = s.mem := by
  unfold traceTest
  repeat' first
    | with_reducible rfl | (simp only [pushTrace_mem, apply_ite State.mem, ite_self]; done) | split
    | simp only [pushTrace_mem, apply_ite State.mem, ite_self]

@[simp] theorem traceSync_mem (step resid : Int) (ref : Nat) (s : State) : (traceSync step resid ref s).mem =
    s.mem := by
  unfold traceSync
  repeat' first
    | with_reducible rfl | (simp only [pushTrace_mem, apply_ite State.mem, ite_self]; done) | split
    | simp only [pushTrace_mem, apply_ite State.mem, ite_self]

@[simp] theorem writeTapCtl_mem (v : Nat) (s : State) : (writeTapCtl v s).mem = s.mem := by
  unfold writeTapCtl
  repeat' first
    | with_reducible rfl | (simp only [raise_mem, apply_ite State.mem, ite_self]; done) | split
    | simp only [raise_mem, apply_ite State.mem, ite_self]

theorem execTapCtrlWrite_wf (keeper host : Option Word32) (s : State) (h : s.mem.wf = true) : outWf (execTapCtrlWrite
    keeper host s) := by
  unfold execTapCtrlWrite
  repeat' first
    | with_reducible assumption | with_reducible apply outWf_done | split | dsimp only
    | simp only [writeTapCtl_mem, dropHeld_mem]

theorem execCtrOverflow_wf (g : Fin 16) (s : State) (h : s.mem.wf = true) : outWf (execCtrOverflow g s) := by
  unfold execCtrOverflow
  repeat' first
    | with_reducible assumption | with_reducible apply outWf_done | with_reducible apply wf_ite
    | with_reducible apply outWf_ite | split | dsimp only | simp only [raise_mem, signalMsix_mem]

theorem counterValue_mem (s : State) (c : CounterName) : (counterValue s c).2.mem = s.mem := by
  unfold counterValue
  repeat' first | rfl | split | simp only [drawFree_mem]

@[simp] theorem ctrReadLow_mem (id : Nat) (c : CounterName) (s : State) : (ctrReadLow id c s).2.mem = s.mem := by
  unfold ctrReadLow
  repeat' first | with_reducible rfl | (simp only [counterValue_mem]; done) | simp only [counterValue_mem]

@[simp] theorem ctrReadHigh_mem (id : Nat) (c : CounterName) (s : State) : (ctrReadHigh id c s).2.mem = s.mem := by
  unfold ctrReadHigh
  repeat' first
    | with_reducible rfl | (simp only [counterValue_mem, raise_mem]; done) | split
    | simp only [counterValue_mem, raise_mem]

@[simp] theorem denyWalk_mem (f : AccessFault) (a : Nat) (s : State) : (denyWalk f a s).mem = s.mem := by
  unfold denyWalk
  simp only [raise_mem]

@[simp] theorem walkRead_mem (s : State) (a : Nat) : (walkRead s a).2.mem = s.mem := by
  unfold walkRead
  repeat' first | with_reducible rfl | (simp only [drawFree_mem, denyWalk_mem]; done) | split

@[simp] theorem walkFrom_mem (addr fuel lvl a : Nat) (s : State) : (walkFrom addr fuel lvl a s).2.mem = s.mem := by
  induction fuel generalizing lvl a s with
  | zero => rfl
  | succ fuel ih =>
    unfold walkFrom
    repeat' first | rfl | simp only [ih, walkRead_mem] | split

@[simp] theorem walk_mem (root addr : Nat) (s : State) : (walk root addr s).2.mem = s.mem := by
  unfold walk
  repeat' first | rfl | simp only [walkFrom_mem, countSel_mem] | split

@[simp] theorem cachedLeaf_mem (ctx addr : Nat) (s : State) : (cachedLeaf ctx addr s).2.mem = s.mem := by
  unfold cachedLeaf
  repeat' first | with_reducible rfl | (simp only [drawFree_mem]; done) | split

@[simp] theorem findLeaf_mem (ctx root addr : Nat) (walkBad : Bool) (s : State) :
    (findLeaf ctx root addr walkBad s).2.mem = s.mem := by
  unfold findLeaf
  repeat' first | rfl | simp only [cachedLeaf_mem, countSel_mem, walk_mem, cacheLeaf] | split

@[simp] theorem translateIn_mem (ctx : Nat) (riser keeper : Bool) (acc : Access) (addr : Nat) (walkBad : Bool) (s :
    State) : (translateIn ctx riser keeper acc addr walkBad s).2.mem = s.mem := by
  unfold translateIn
  repeat' first | rfl | simp only [findLeaf_mem] | split

theorem reportFault_wf (f : AccessFault) (addr id : Nat) (write : Bool) (s : State) (h : s.mem.wf = true) :
    (reportFault f addr id write s).mem.wf = true := by
  unfold reportFault
  repeat' first
    | with_reducible assumption | with_reducible apply detectS2_wf | split | dsimp only
    | simp only [raise_mem, detectS1_mem]

theorem checkAccess_wf (id : Nat) (keeper : Bool) (acc : Access) (addr n : Nat) (walkBad : Bool) (s : State) (h :
    s.mem.wf = true) : (checkAccess id keeper acc addr n walkBad s).2.mem.wf = true := by
  unfold checkAccess
  repeat' first
    | with_reducible assumption | with_reducible apply reportFault_wf | split | dsimp only
    | simp only [translateIn_mem]

theorem reportDenied_wf (id : Nat) (acc : Access) (a n : Nat) (s : State) (h : s.mem.wf = true) : (reportDenied id acc
    a n s).mem.wf = true := by
  unfold reportDenied
  repeat' first | with_reducible assumption | with_reducible apply checkAccess_wf | split | dsimp only

theorem unitWrite_wf (id a : Nat) (bs : List Byte) (s : State) (h : s.mem.wf = true) : (unitWrite id a bs s).mem.wf =
    true := by
  unfold unitWrite
  repeat' first
    | with_reducible assumption | with_reducible apply wf_ite | with_reducible apply reportDenied_wf
    | with_reducible apply physWrite_wf | split | dsimp only

@[simp] theorem startInv_mem (ctx : Nat) (everything : Bool) (s : State) : (startInv ctx everything s).mem =
    s.mem := by
  unfold startInv
  repeat' first
    | with_reducible rfl | (simp only [apply_ite State.mem, ite_self]; done) | split
    | simp only [apply_ite State.mem, ite_self]

theorem execXltInvDone_wf (s : State) (h : s.mem.wf = true) : outWf (execXltInvDone s) := by
  unfold execXltInvDone
  repeat' first | with_reducible assumption | with_reducible apply outWf_done | dsimp only

@[simp] theorem keepXlt_mem (s : State) : (keepXlt s).mem = s.mem := by
  unfold keepXlt
  repeat' first
    | with_reducible rfl | (simp only [apply_ite State.mem, ite_self]; done) | split
    | simp only [apply_ite State.mem, ite_self]

@[simp] theorem keepFwl_mem (s : State) : (keepFwl s).mem = s.mem := by
  unfold keepFwl
  repeat' first
    | with_reducible rfl | (simp only [apply_ite State.mem, ite_self]; done) | split
    | simp only [apply_ite State.mem, ite_self]

@[simp] theorem writeRegion_mem (r : Nat) (f : Region → Region) (s : State) : (writeRegion r f s).mem = s.mem := by
  unfold writeRegion
  repeat' first
    | with_reducible rfl | (simp only [raise_mem, keepFwl_mem, apply_ite State.mem, ite_self]; done) | split
    | simp only [raise_mem, keepFwl_mem, apply_ite State.mem, ite_self]

@[simp] theorem noteEcc_mem (ecc : Ecc) (s : State) : (noteEcc ecc s).mem = s.mem := by
  unfold noteEcc
  repeat' first
    | with_reducible rfl | (simp only [countSel_mem, apply_ite State.mem, ite_self]; done) | split
    | simp only [countSel_mem, apply_ite State.mem, ite_self]

theorem tapError_mem (s : State) : (tapError s).mem = s.mem := by
  unfold tapError
  simp only [raise_mem]

theorem writeLine_wf (a b : TraceRec) (rest : List (TraceRec × Nat)) (s : State) (h : s.mem.wf = true) : (writeLine a
    b rest s).mem.wf = true := by
  unfold writeLine
  repeat' first
    | with_reducible assumption | with_reducible apply wf_ite | with_reducible apply physWrite_wf
    | with_reducible apply reportDenied_wf | split | dsimp only | simp only [tapError_mem]

@[simp] theorem fifoError_mem (rest : List (TraceRec × Nat)) (s : State) : (fifoError rest s).mem = s.mem := by
  unfold fifoError
  repeat' first
    | with_reducible rfl | (simp only [raise_mem, dropTrace_mem]; done) | simp only [raise_mem, dropTrace_mem]

theorem execTapLineWrite_wf (ecc : Ecc) (s : State) (h : s.mem.wf = true) : outWf (execTapLineWrite ecc s) := by
  unfold execTapLineWrite
  repeat' first
    | with_reducible assumption | with_reducible apply outWf_done | with_reducible apply outWf_ite
    | with_reducible apply writeLine_wf | split | dsimp only | simp only [fifoError_mem, noteEcc_mem]

theorem execTapPad_wf (s : State) (h : s.mem.wf = true) : outWf (execTapPad s) := by
  unfold execTapPad
  repeat' first
    | with_reducible assumption | with_reducible apply outWf_done | with_reducible apply outWf_ite
    | with_reducible apply writeLine_wf | split | dsimp only

theorem execTapWriteError_wf (s : State) (h : s.mem.wf = true) : outWf (execTapWriteError s) := by
  unfold execTapWriteError
  repeat' first
    | with_reducible assumption | with_reducible apply outWf_done | with_reducible apply outWf_ite | split
    | dsimp only | simp only [tapError_mem]

end Sys2Proof.Machine
end

