-- ==== Sys2Proof/Laws/MemEngines.lean ====
section
/-! SUPPORT. The memory across the engines, the Frame Graph Sequencer and the task scheduler operations: a function that never writes it leaves it
as it is (_mem); any other keeps its canonical form (_wf). -/

set_option linter.unusedTactic false
set_option linter.unusedVariables false
set_option linter.unreachableTactic false
set_option linter.unusedSimpArgs false

namespace Sys2Proof.Machine

theorem applyWrites_wf (id : Nat) (s : State) (ws : Writes) (h : s.mem.wf = true) : (applyWrites id s ws).mem.wf =
    true := by
  unfold applyWrites
  repeat' first
    | with_reducible assumption | with_reducible apply wf_ite | with_reducible apply physWrite_wf
    | (with_reducible apply foldl_wf; intro _ _ _) | split | dsimp only

theorem applyElem_wf (s : State) (w : ElemWrite) (h : s.mem.wf = true) : (applyElem s w).mem.wf = true := by
  unfold applyElem
  repeat' first
    | with_reducible assumption | with_reducible apply wf_ite | with_reducible apply physWrite_wf | split
    | dsimp only

theorem applyElems_wf (s : State) (ws : List ElemWrite) (h : s.mem.wf = true) : (applyElems s ws).mem.wf = true := by
  unfold applyElems
  repeat' first
    | with_reducible assumption | with_reducible apply applyElem_wf | (with_reducible apply foldl_wf; intro _ _ _)
    | dsimp only

@[simp] theorem putFlag_mem (f seq v : Nat) (s : State) : (putFlag f seq v s).mem = s.mem := by
  unfold putFlag
  repeat' first
    | with_reducible rfl | (simp only [apply_ite State.mem, ite_self]; done) | split
    | simp only [apply_ite State.mem, ite_self]

@[simp] theorem updTask_mem (slot gen : Nat) (f : Task → Task) (s : State) : (updTask slot gen f s).mem = s.mem := by
  unfold updTask
  repeat' first | with_reducible rfl

@[simp] theorem dropTask_mem (slot gen : Nat) (s : State) : (dropTask slot gen s).mem = s.mem := by
  unfold dropTask
  repeat' first | with_reducible rfl

@[simp] theorem updThread_mem (t : Nat) (f : Thread → Thread) (s : State) : (updThread t f s).mem = s.mem := by
  unfold updThread
  repeat' first | with_reducible rfl

@[simp] theorem updPort_mem (t : Nat) (f : Port → Port) (s : State) : (updPort t f s).mem = s.mem := by
  unfold updPort
  repeat' first | with_reducible rfl

@[simp] theorem finishTask_mem (slot gen status : Nat) (s : State) : (finishTask slot gen status s).mem = s.mem := by
  unfold finishTask
  repeat' first
    | with_reducible rfl
    | (simp only [updPort_mem, updThread_mem, dropTask_mem, updTask_mem, apply_ite State.mem, ite_self]; done)
    | split | simp only [updPort_mem, updThread_mem, dropTask_mem, updTask_mem, apply_ite State.mem, ite_self]

@[simp] theorem makeReady_mem (slot gen : Nat) (s : State) : (makeReady slot gen s).mem = s.mem := by
  unfold makeReady
  repeat' first
    | with_reducible rfl | (simp only [finishTask_mem, updTask_mem, apply_ite State.mem, ite_self]; done) | split
    | simp only [finishTask_mem, updTask_mem, apply_ite State.mem, ite_self]

@[simp] theorem cancelTask_mem (slot gen : Nat) (s : State) : (cancelTask slot gen s).mem = s.mem := by
  unfold cancelTask
  repeat' first
    | with_reducible rfl
    | (simp only [finishTask_mem, updThread_mem, updTask_mem, apply_ite State.mem, ite_self]; done) | split
    | simp only [finishTask_mem, updThread_mem, updTask_mem, apply_ite State.mem, ite_self]

@[simp] theorem cancelPour_mem (r : PourRef) (s : State) : (cancelPour r s).mem = s.mem := by
  unfold cancelPour
  repeat' first
    | with_reducible rfl | simp only [cancelTask_mem] | (with_reducible refine (foldl_mem ?_).trans ?_; intro _ _)
    | dsimp only

@[simp] theorem deliverOperand_mem (slot gen index : Nat) (value : Word32) (status : Nat) (s : State) :
    (deliverOperand slot gen index value status s).mem = s.mem := by
  unfold deliverOperand
  repeat' first
    | with_reducible rfl
    | (simp only [raise_mem, cancelTask_mem, makeReady_mem, updTask_mem, apply_ite State.mem, ite_self]; done)
    | split | simp only [raise_mem, cancelTask_mem, makeReady_mem, updTask_mem, apply_ite State.mem, ite_self]

@[simp] theorem deliverToken_mem (slot gen index status : Nat) (s : State) : (deliverToken slot gen index status
    s).mem = s.mem := by
  unfold deliverToken
  repeat' first
    | with_reducible rfl | (simp only [raise_mem, makeReady_mem, updTask_mem, apply_ite State.mem, ite_self]; done)
    | split | simp only [raise_mem, makeReady_mem, updTask_mem, apply_ite State.mem, ite_self]

@[simp] theorem flagWaits_mem (s : State) : (flagWaits s).mem = s.mem := by
  unfold flagWaits
  repeat' first
    | with_reducible rfl | split | simp only [makeReady_mem, updTask_mem]
    | (with_reducible refine (foldl_mem ?_).trans ?_; intro _ _) | dsimp only

@[simp] theorem placeTasks_mem (p : Pattern) (r : PourRef) (s : State) : (placeTasks p r s).mem = s.mem := by
  unfold placeTasks
  repeat' first
    | with_reducible rfl | (simp only [apply_ite State.mem, ite_self]; done) | split
    | simp only [apply_ite State.mem, ite_self]

@[simp] theorem updPour_mem (r : PourRef) (f : Pour → Pour) (s : State) : (updPour r f s).mem = s.mem := by
  unfold updPour
  repeat' first | with_reducible rfl

@[simp] theorem updNode_mem (r : PourRef) (n : Nat) (f : NodeRun → NodeRun) (s : State) : (updNode r n f s).mem =
    s.mem := by
  unfold updNode
  repeat' first | with_reducible rfl | (simp only [updPour_mem]; done) | simp only [updPour_mem]

@[simp] theorem updSlot_mem (n : Nat) (f : GraphSlot → GraphSlot) (s : State) : (updSlot n f s).mem = s.mem := by
  unfold updSlot
  repeat' first | with_reducible rfl

@[simp] theorem announceIn_mem (p : Pattern) (r : PourRef) (fs : Nat) (s : State) : (announceIn p r fs s).mem =
    s.mem := by
  unfold announceIn
  repeat' first
    | with_reducible rfl | (simp only [apply_ite State.mem, ite_self]; done) | split
    | simp only [apply_ite State.mem, ite_self]

@[simp] theorem announce_mem (r : PourRef) (fs : Nat) (s : State) : (announce r fs s).mem = s.mem := by
  unfold announce
  repeat' first | with_reducible rfl | (simp only [announceIn_mem]; done) | simp only [announceIn_mem]

@[simp] theorem noticesOf_mem (a : Announce) (status : Byte) (s : State) : (noticesOf a status s).mem = s.mem := by
  unfold noticesOf
  repeat' first
    | with_reducible rfl | simp only [pushNotice_mem] | (with_reducible refine (foldl_mem ?_).trans ?_; intro _ _)
    | dsimp only

@[simp] theorem invalidatePour_mem (r : PourRef) (s : State) : (invalidatePour r s).mem = s.mem := by
  unfold invalidatePour
  repeat' first
    | with_reducible rfl | (simp only [noticesOf_mem, apply_ite State.mem, ite_self]; done) | split
    | simp only [noticesOf_mem, apply_ite State.mem, ite_self]

@[simp] theorem updCh_mem (ch : Nat) (f : DmaCh → DmaCh) (s : State) : (updCh ch f s).mem = s.mem := by
  unfold updCh
  repeat' first | with_reducible rfl

theorem chWrite_wf (ch addr : Nat) (bs : List Byte) (s : State) (h : s.mem.wf = true) : (chWrite ch addr bs
    s).2.mem.wf = true := by
  unfold chWrite
  repeat' first
    | with_reducible assumption | with_reducible apply checkAccess_wf | with_reducible apply physWrite_wf | split
    | dsimp only

theorem ringResult_wf (ch result : Nat) (s : State) (h : s.mem.wf = true) : (ringResult ch result s).mem.wf =
    true := by
  unfold ringResult
  repeat' first
    | with_reducible assumption | with_reducible apply wf_ite | with_reducible apply chWrite_wf | split | dsimp only

@[simp] theorem endChannel_mem (ch result : Nat) (s : State) : (endChannel ch result s).mem = s.mem := by
  unfold endChannel
  repeat' first
    | with_reducible rfl | (simp only [endSource_mem, apply_ite State.mem, ite_self]; done) | split
    | simp only [endSource_mem, apply_ite State.mem, ite_self]

@[simp] theorem freePath_mem (ch : Nat) (s : State) : (freePath ch s).mem = s.mem := by
  unfold freePath
  repeat' first
    | with_reducible rfl | (simp only [apply_ite State.mem, ite_self]; done) | split
    | simp only [apply_ite State.mem, ite_self]

theorem stopChannel_wf (ch result : Nat) (s : State) (h : s.mem.wf = true) : (stopChannel ch result s).mem.wf =
    true := by
  unfold stopChannel
  repeat' first
    | with_reducible assumption | with_reducible apply ringResult_wf | dsimp only
    | simp only [endChannel_mem, freePath_mem, ladleStop_mem, updCh_mem]

@[simp] theorem endNode_mem (r : PourRef) (n status : Nat) (s : State) : (endNode r n status s).mem = s.mem := by
  unfold endNode
  repeat' first | with_reducible rfl | (simp only [updNode_mem]; done) | simp only [updNode_mem]

@[simp] theorem settleNode_mem (r : PourRef) (n : Nat) (s : State) : (settleNode r n s).mem = s.mem := by
  unfold settleNode
  repeat' first
    | with_reducible rfl | (simp only [endNode_mem, apply_ite State.mem, ite_self]; done) | split
    | simp only [endNode_mem, apply_ite State.mem, ite_self]

@[simp] theorem settleTasks_mem (s : State) : (settleTasks s).mem = s.mem := by
  unfold settleTasks
  repeat' first
    | with_reducible rfl | simp only [settleNode_mem] | (with_reducible refine (foldl_mem ?_).trans ?_; intro _ _)
    | dsimp only

@[simp] theorem unreserve_mem (p : Pattern) (m : NodeRun) (s : State) : (unreserve p m s).mem = s.mem := by
  unfold unreserve
  repeat' first
    | with_reducible rfl | split | simp only [ladleStop_mem, updCh_mem, apply_ite State.mem, ite_self]
    | (with_reducible refine (foldl_mem ?_).trans ?_; intro _ _) | dsimp only

@[simp] theorem updNeu_mem (r : PourRef) (n : Nat) (f : NeuCmd → NeuCmd) (s : State) : (updNeu r n f s).mem =
    s.mem := by
  unfold updNeu
  repeat' first | with_reducible rfl

@[simp] theorem stopNeuBy_mem (why : StopKind) (p : Pattern) (r : PourRef) (m : NodeRun) (s : State) : (stopNeuBy why
    p r m s).mem = s.mem := by
  unfold stopNeuBy
  repeat' first
    | with_reducible rfl | (simp only [unreserve_mem, updNeu_mem]; done) | split
    | simp only [unreserve_mem, updNeu_mem]

@[simp] theorem stopNeu_mem (p : Pattern) (r : PourRef) (m : NodeRun) (s : State) : (stopNeu p r m s).mem =
    s.mem := by
  unfold stopNeu
  repeat' first | with_reducible rfl | (simp only [stopNeuBy_mem]; done) | simp only [stopNeuBy_mem]

theorem abortNode_wf (p : Pattern) (r : PourRef) (m : NodeRun) (s : State) (h : s.mem.wf = true) : (abortNode p r m
    s).mem.wf = true := by
  unfold abortNode
  repeat' first
    | with_reducible assumption | with_reducible apply wf_ite | with_reducible apply stopChannel_wf
    | (with_reducible apply foldl_wf; intro _ _ _) | split | dsimp only
    | simp only [updNode_mem, unreserve_mem, endNode_mem, ladleStop_mem, stopNeu_mem]

@[simp] theorem countAbort_mem (r : PourRef) (code : EventCode) (s : State) : (countAbort r code s).mem = s.mem := by
  unfold countAbort
  repeat' first
    | with_reducible rfl | split | simp only [updSlot_mem, apply_ite State.mem, ite_self]
    | (with_reducible refine (foldl_mem ?_).trans ?_; intro _ _) | dsimp only

@[simp] theorem sendPeer_mem (chip : Nat) (words : List Nat) (s : State) : (sendPeer chip words s).mem = s.mem := by
  unfold sendPeer
  repeat' first | with_reducible rfl

@[simp] theorem withdrawPour_mem (r : PourRef) (s : State) : (withdrawPour r s).mem = s.mem := by
  unfold withdrawPour
  repeat' first | with_reducible rfl

theorem abortPour_wf (code : EventCode) (r : PourRef) (s : State) (h : s.mem.wf = true) : (abortPour code r s).mem.wf
    = true := by
  unfold abortPour
  repeat' first
    | with_reducible assumption | with_reducible apply wf_ite | with_reducible apply abortNode_wf
    | (with_reducible apply foldl_wf; intro _ _ _) | split | dsimp only
    | simp only [updPour_mem, updSlot_mem, withdrawPour_mem, settleTasks_mem, cancelPour_mem, invalidatePour_mem,
        countAbort_mem, sendPeer_mem, raise_mem]

@[simp] theorem handPour_mem (r : PourRef) (s : State) : (handPour r s).mem = s.mem := by
  unfold handPour
  repeat' first
    | with_reducible rfl | (simp only [raise_mem, updPour_mem, apply_ite State.mem, ite_self]; done) | split
    | simp only [raise_mem, updPour_mem, apply_ite State.mem, ite_self]

theorem endTask_wf (slot gen status : Nat) (s : State) (h : s.mem.wf = true) : (endTask slot gen status s).mem.wf =
    true := by
  unfold endTask
  repeat' first
    | with_reducible assumption | with_reducible apply wf_ite | with_reducible apply abortPour_wf | split
    | dsimp only | simp only [finishTask_mem, raise_mem, handPour_mem, settleNode_mem]

@[simp] theorem cancelAndSettle_mem (slot gen : Nat) (s : State) : (cancelAndSettle slot gen s).mem = s.mem := by
  unfold cancelAndSettle
  repeat' first
    | with_reducible rfl | (simp only [cancelTask_mem, settleNode_mem]; done) | split
    | simp only [cancelTask_mem, settleNode_mem]

@[simp] theorem clearDevFlags_mem (p : Pattern) (slot par : Nat) (s : State) : (clearDevFlags p slot par s).mem =
    s.mem := by
  unfold clearDevFlags
  repeat' first
    | with_reducible rfl | (simp only [apply_ite State.mem, ite_self]; done) | split
    | simp only [apply_ite State.mem, ite_self]

@[simp] theorem requestGroup_mem (l cls : Nat) (deadline : Option Nat) (serves : Option PourRef) (s : State) :
    (requestGroup l cls deadline serves s).mem = s.mem := by
  unfold requestGroup
  repeat' first
    | with_reducible rfl | (simp only [ladleRequest_mem, apply_ite State.mem, ite_self]; done) | split
    | simp only [ladleRequest_mem, apply_ite State.mem, ite_self]

theorem openFlask_wf (r : PourRef) (owner : Bool) (s : State) (h : s.mem.wf = true) : (openFlask r owner s).mem.wf =
    true := by
  unfold openFlask
  repeat' first
    | with_reducible assumption | with_reducible apply wf_ite | with_reducible apply abortPour_wf
    | (with_reducible apply foldl_wf; intro _ _ _) | split | dsimp only | simp only [raise_mem, requestGroup_mem]

theorem openPour_wf (slot fs : Nat) (frames : List (Nat × Nat)) (owner : Option (Nat × PourRef)) (s : State) (h :
    s.mem.wf = true) : (openPour slot fs frames owner s).mem.wf = true := by
  unfold openPour
  repeat' first
    | with_reducible assumption | with_reducible apply wf_ite | with_reducible apply openFlask_wf
    | with_reducible apply abortPour_wf | (with_reducible apply foldl_wf; intro _ _ _) | split | dsimp only
    | simp only [updSlot_mem, putFlag_mem, clearDevFlags_mem, announce_mem, placeTasks_mem]

@[simp] theorem skipIn_mem (p : Pattern) (slot fs : Nat) (s : State) : (skipIn p slot fs s).mem = s.mem := by
  unfold skipIn
  repeat' first
    | with_reducible rfl | (simp only [updSlot_mem, announceIn_mem]; done) | simp only [updSlot_mem, announceIn_mem]

@[simp] theorem skipTrigger_mem (slot fs : Nat) (s : State) : (skipTrigger slot fs s).mem = s.mem := by
  unfold skipTrigger
  repeat' first | with_reducible rfl | (simp only [skipIn_mem]; done) | simp only [skipIn_mem]

@[simp] theorem dropTrigger_mem (slot fs : Nat) (s : State) : (dropTrigger slot fs s).mem = s.mem := by
  unfold dropTrigger
  repeat' first
    | with_reducible rfl | (simp only [raise_mem, skipTrigger_mem]; done) | simp only [raise_mem, skipTrigger_mem]

@[simp] theorem dropSource_mem (src : Nat × Nat) (fs : Nat) (s : State) : (dropSource src fs s).mem = s.mem := by
  unfold dropSource
  repeat' first
    | with_reducible rfl | (simp only [raise_mem, skipTrigger_mem, skipIn_mem]; done) | split
    | simp only [raise_mem, skipTrigger_mem, skipIn_mem]

@[simp] theorem deferTrigger_mem (d : Deferred) (s : State) : (deferTrigger d s).mem = s.mem := by
  unfold deferTrigger
  repeat' first
    | with_reducible rfl | (simp only [dropSource_mem, apply_ite State.mem, ite_self]; done) | split
    | simp only [dropSource_mem, apply_ite State.mem, ite_self]

theorem acceptTrigger_wf (slot fs : Nat) (frames : List (Nat × Nat)) (owner : Option (Nat × PourRef)) (s : State) (h :
    s.mem.wf = true) : (acceptTrigger slot fs frames owner s).mem.wf = true := by
  unfold acceptTrigger
  repeat' first
    | with_reducible assumption | with_reducible apply wf_ite | with_reducible apply openPour_wf | split | dsimp only
    | simp only [dropTrigger_mem]

theorem plainTrigger_wf (slot stamp : Nat) (owner : Option (Nat × PourRef)) (s : State) (h : s.mem.wf = true) :
    (plainTrigger slot stamp owner s).mem.wf = true := by
  unfold plainTrigger
  repeat' first
    | with_reducible assumption | with_reducible apply wf_ite | with_reducible apply acceptTrigger_wf | split
    | dsimp only | simp only [deferTrigger_mem, raise_mem]

theorem fireFlag_wf (f stamp : Nat) (owner : Option (Nat × PourRef)) (s : State) (h : s.mem.wf = true) : (fireFlag f
    stamp owner s).mem.wf = true := by
  unfold fireFlag
  repeat' first
    | with_reducible assumption | with_reducible apply wf_ite | with_reducible apply plainTrigger_wf | split
    | dsimp only | simp only [putFlag_mem]

@[simp] theorem wakeWaits_mem (s : State) : (wakeWaits s).mem = s.mem := by
  unfold wakeWaits
  repeat' first
    | with_reducible rfl | (simp only [settleTasks_mem, flagWaits_mem]; done)
    | simp only [settleTasks_mem, flagWaits_mem]

theorem countSets_wf (rec : FlagRec) (ref : PourRef) (k : Nat) (s : State) (h : s.mem.wf = true) : (countSets rec ref
    k s).mem.wf = true := by
  unfold countSets
  repeat' first
    | with_reducible assumption | with_reducible apply wf_ite | with_reducible apply abortPour_wf
    | with_reducible apply fireFlag_wf | split | dsimp only | simp only [raise_mem, wakeWaits_mem, putFlag_mem]

theorem setFlag_wf (node f : Nat) (r : Option PourRef) (k : Nat) (s : State) (h : s.mem.wf = true) : (setFlag node f r
    k s).mem.wf = true := by
  unfold setFlag
  repeat' first
    | with_reducible assumption | with_reducible apply wf_ite | with_reducible apply countSets_wf | split
    | dsimp only | simp only [raise_mem]

@[simp] theorem bindLogical_mem (c k : Nat) (u : Option Nat) (s : State) : (bindLogical c k u s).mem = s.mem := by
  unfold bindLogical
  repeat' first
    | with_reducible rfl | (simp only [apply_ite State.mem, ite_self]; done) | split
    | simp only [apply_ite State.mem, ite_self]

@[simp] theorem withhold_mem (c k : Nat) (b : Bool) (s : State) : (withhold c k b s).mem = s.mem := by
  unfold withhold
  repeat' first
    | with_reducible rfl | (simp only [apply_ite State.mem, ite_self]; done) | split
    | simp only [apply_ite State.mem, ite_self]

@[simp] theorem updClass_mem (c : Nat) (f : ClassTest → ClassTest) (s : State) : (updClass c f s).mem = s.mem := by
  unfold updClass
  repeat' first | with_reducible rfl

@[simp] theorem noteTestPhys_mem (s : State) : (noteTestPhys s).mem = s.mem := by
  unfold noteTestPhys
  repeat' first | with_reducible rfl

@[simp] theorem rebindOne_mem (c : Nat) (s : State) (k : Nat) : (rebindOne c s k).mem = s.mem := by
  unfold rebindOne
  repeat' first
    | with_reducible rfl | (simp only [withhold_mem, bindLogical_mem, apply_ite State.mem, ite_self]; done) | split
    | simp only [withhold_mem, bindLogical_mem, apply_ite State.mem, ite_self]

@[simp] theorem settleBindings_mem (c : Nat) (s : State) : (settleBindings c s).mem = s.mem := by
  unfold settleBindings
  repeat' first
    | with_reducible rfl | split
    | simp only [withhold_mem, rebindOne_mem, bindLogical_mem, apply_ite State.mem, ite_self]
    | (with_reducible refine (foldl_mem ?_).trans ?_; intro _ _) | dsimp only

@[simp] theorem pruneLedger_mem (s : State) : (pruneLedger s).mem = s.mem := by
  unfold pruneLedger
  repeat' first | with_reducible rfl

@[simp] theorem recallEntry_mem (e : LedgerEntry) (s : State) : (recallEntry e s).mem = s.mem := by
  unfold recallEntry
  repeat' first
    | with_reducible rfl | simp only [pushNotice_mem] | (with_reducible refine (foldl_mem ?_).trans ?_; intro _ _)
    | dsimp only

@[simp] theorem recallPours_mem (p : LedgerEntry → Bool) (s : State) : (recallPours p s).mem = s.mem := by
  unfold recallPours
  repeat' first
    | with_reducible rfl | split
    | simp only [pruneLedger_mem, recallEntry_mem, detectS1_mem, apply_ite State.mem, ite_self]
    | (with_reducible refine (foldl_mem ?_).trans ?_; intro _ _) | dsimp only

@[simp] theorem failureEffects_mem (u : Nat) (s : State) : (failureEffects u s).mem = s.mem := by
  unfold failureEffects
  repeat' first
    | with_reducible rfl | split | simp only [invalidatePour_mem, recallPours_mem, apply_ite State.mem, ite_self]
    | (with_reducible refine (foldl_mem ?_).trans ?_; intro _ _) | dsimp only

@[simp] theorem updRun_mem (a : Nat) (f : ArrayRun → ArrayRun) (s : State) : (updRun a f s).mem = s.mem := by
  unfold updRun
  repeat' first | with_reducible rfl

@[simp] theorem resumeArray_mem (a delay : Nat) (s : State) : (resumeArray a delay s).mem = s.mem := by
  unfold resumeArray
  repeat' first | with_reducible rfl | (simp only [updRun_mem]; done) | simp only [updRun_mem]

@[simp] theorem withdrawTarget_mem (c : Nat) (s : State) : (withdrawTarget c s).mem = s.mem := by
  unfold withdrawTarget
  repeat' first
    | with_reducible rfl
    | (simp only [updClass_mem, withhold_mem, resumeArray_mem, apply_ite State.mem, ite_self]; done) | split
    | simp only [updClass_mem, withhold_mem, resumeArray_mem, apply_ite State.mem, ite_self]

@[simp] theorem realFailure_mem (u : Nat) (injected : Bool) (s : State) : (realFailure u injected s).mem = s.mem := by
  unfold realFailure
  repeat' first
    | with_reducible rfl | (simp only [apply_ite State.mem, ite_self]; done) | split
    | simp only [apply_ite State.mem, ite_self]

@[simp] theorem reportUnit_mem (u : Nat) (s : State) : (reportUnit u s).mem = s.mem := by
  unfold reportUnit
  repeat' first
    | with_reducible rfl | split | simp only [sendPeer_mem, apply_ite State.mem, ite_self]
    | (with_reducible refine (foldl_mem ?_).trans ?_; intro _ _) | dsimp only

theorem unitFailed_wf (u : Nat) (cause : EventCode) (injected : Bool) (row : Nat) (s : State) (h : s.mem.wf = true) :
    (unitFailed u cause injected row s).mem.wf = true := by
  unfold unitFailed
  repeat' first
    | with_reducible assumption | with_reducible apply wf_ite | with_reducible apply abortPour_wf
    | with_reducible apply detectS2_wf | split | dsimp only
    | simp only [realFailure_mem, detectS1_mem, withdrawTarget_mem, updClass_mem, withhold_mem, failureEffects_mem,
        settleBindings_mem, reportUnit_mem, noteTestPhys_mem]

@[simp] theorem beginTest_mem (c u : Nat) (s : State) : (beginTest c u s).mem = s.mem := by
  unfold beginTest
  repeat' first
    | with_reducible rfl | (simp only [updClass_mem, noteTestPhys_mem, traceTest_mem]; done)
    | simp only [updClass_mem, noteTestPhys_mem, traceTest_mem]

@[simp] theorem rekeyTickets_mem (u v : Nat) (s : State) : (rekeyTickets u v s).mem = s.mem := by
  unfold rekeyTickets
  repeat' first
    | with_reducible rfl | (simp only [apply_ite State.mem, ite_self]; done) | split
    | simp only [apply_ite State.mem, ite_self]

@[simp] theorem handOver_mem (c k t : Nat) (s : State) : (handOver c k t s).mem = s.mem := by
  unfold handOver
  repeat' first
    | with_reducible rfl
    | (simp only [withhold_mem, bindLogical_mem, resumeArray_mem, rekeyTickets_mem, noteTestPhys_mem, updClass_mem,
        apply_ite State.mem, ite_self]; done)
    | split
    | simp only [withhold_mem, bindLogical_mem, resumeArray_mem, rekeyTickets_mem, noteTestPhys_mem, updClass_mem,
        apply_ite State.mem, ite_self]

@[simp] theorem roleMoves_mem (c : Nat) (s : State) : (roleMoves c s).mem = s.mem := by
  unfold roleMoves
  repeat' first
    | with_reducible rfl
    | (simp only [settleBindings_mem, handOver_mem, beginTest_mem, apply_ite State.mem, ite_self]; done) | split
    | simp only [settleBindings_mem, handOver_mem, beginTest_mem, apply_ite State.mem, ite_self]

@[simp] theorem settleRoles_mem (s : State) : (settleRoles s).mem = s.mem := by
  unfold settleRoles
  repeat' first
    | with_reducible rfl | split | simp only [roleMoves_mem, apply_ite State.mem, ite_self]
    | (with_reducible refine (foldl_mem ?_).trans ?_; intro _ _) | dsimp only

@[simp] theorem viewConflict_mem (u : Nat) (s : State) : (viewConflict u s).mem = s.mem := by
  unfold viewConflict
  repeat' first | with_reducible rfl | (simp only [detectS1_mem]; done) | simp only [detectS1_mem]

@[simp] theorem takeInjection_mem (u : Nat) (k : Injection) (s : State) : (takeInjection u k s).2.mem = s.mem := by
  unfold takeInjection
  repeat' first
    | with_reducible rfl | (simp only [apply_ite State.mem, ite_self]; done) | split
    | simp only [apply_ite State.mem, ite_self]

@[simp] theorem serveUnit_mem (r : PourRef) (u : Nat) (s : State) : (serveUnit r u s).mem = s.mem := by
  unfold serveUnit
  repeat' first
    | with_reducible rfl | (simp only [updPour_mem, invalidatePour_mem, apply_ite State.mem, ite_self]; done) | split
    | simp only [updPour_mem, invalidatePour_mem, apply_ite State.mem, ite_self]

@[simp] theorem requestMode_mem (m : PowerMode) (s : State) : (requestMode m s).mem = s.mem := by
  unfold requestMode
  repeat' first
    | with_reducible rfl | (simp only [raise_mem, apply_ite State.mem, ite_self]; done) | split
    | simp only [raise_mem, apply_ite State.mem, ite_self]

@[simp] theorem joinWindow_mem (ev : Bool) (s : State) : (joinWindow ev s).mem = s.mem := by
  unfold joinWindow
  repeat' first
    | with_reducible rfl | (simp only [raise_mem, requestMode_mem, apply_ite State.mem, ite_self]; done) | split
    | simp only [raise_mem, requestMode_mem, apply_ite State.mem, ite_self]

@[simp] theorem presenceFrame_mem (f : CellFrame) (s : State) : (presenceFrame f s).mem = s.mem := by
  unfold presenceFrame
  repeat' first | with_reducible rfl | (simp only [joinWindow_mem]; done) | split | simp only [joinWindow_mem]

@[simp] theorem presenceNode_mem (p : Pattern) (q : Pour) (n : NodeRec) (s : State) : (presenceNode p q n s).mem =
    s.mem := by
  unfold presenceNode
  repeat' first | with_reducible rfl | (simp only [presenceFrame_mem]; done) | split | simp only [presenceFrame_mem]

@[simp] theorem holdFrame_mem (f : CellFrame) (s : State) : (holdFrame f s).mem = s.mem := by
  unfold holdFrame
  repeat' first
    | with_reducible rfl | (simp only [raise_mem, apply_ite State.mem, ite_self]; done) | split
    | simp only [raise_mem, apply_ite State.mem, ite_self]

@[simp] theorem watchFrame_mem (f : CellFrame) (s : State) : (watchFrame f s).mem = s.mem := by
  unfold watchFrame
  repeat' first
    | with_reducible rfl | (simp only [holdFrame_mem, presenceFrame_mem, apply_ite State.mem, ite_self]; done)
    | split | simp only [holdFrame_mem, presenceFrame_mem, apply_ite State.mem, ite_self]

@[simp] theorem carryOver_mem (s : State) : (carryOver s).mem = s.mem := by
  unfold carryOver
  repeat' first
    | with_reducible rfl | split
    | simp only [presenceFrame_mem, joinWindow_mem, raise_mem, apply_ite State.mem, ite_self]
    | (with_reducible refine (foldl_mem ?_).trans ?_; intro _ _) | dsimp only

@[simp] theorem startNode_mem (r : PourRef) (n : Nat) (s : State) : (startNode r n s).mem = s.mem := by
  unfold startNode
  repeat' first
    | with_reducible rfl | simp only [updNode_mem, putFlag_mem]
    | (with_reducible refine (foldl_mem ?_).trans ?_; intro _ _) | dsimp only

@[simp] theorem refuseToken_mem (r : PourRef) (n cls : Nat) (res : List Nat) (s : State) : (refuseToken r n cls res
    s).mem = s.mem := by
  unfold refuseToken
  repeat' first
    | with_reducible rfl | (simp only [endSource_mem, apply_ite State.mem, ite_self]; done) | split
    | simp only [endSource_mem, apply_ite State.mem, ite_self]

theorem refuseNode_wf (r : PourRef) (n : Nat) (s : State) (h : s.mem.wf = true) : (refuseNode r n s).mem.wf =
    true := by
  unfold refuseNode
  repeat' first
    | with_reducible assumption | with_reducible apply wf_ite | with_reducible apply abortPour_wf | split
    | dsimp only | simp only [settleRoles_mem, updNeu_mem, unreserve_mem, refuseToken_mem, endNode_mem]

@[simp] theorem requestAll_mem (cls : Nat) (deadline : Option Nat) (t : Nat) (r : PourRef) (ids : List Nat) (s :
    State) :
    (requestAll cls deadline t r ids s).1.mem = s.mem := by
  induction ids generalizing s with
  | nil => rfl
  | cons id ids ih =>
    unfold requestAll
    dsimp only
    split
    · rw [ih, ladleRequest_mem]
    · exact ladleRequest_mem ..

theorem selectNode_wf (c : Candidate) (s : State) (h : s.mem.wf = true) : (selectNode c s).mem.wf = true := by
  unfold selectNode
  repeat' first
    | with_reducible assumption | with_reducible apply wf_ite | with_reducible apply refuseNode_wf
    | (with_reducible apply foldl_wf; intro _ _ _) | split | dsimp only
    | simp only [startNode_mem, presenceNode_mem, settleTasks_mem, makeReady_mem, updTask_mem, updNode_mem,
        requestAll_mem, updCh_mem]

theorem fgsTableError_wf (s : State) (h : s.mem.wf = true) : (fgsTableError s).mem.wf = true := by
  unfold fgsTableError
  repeat' first
    | with_reducible assumption | with_reducible apply abortPour_wf | (with_reducible apply foldl_wf; intro _ _ _)
    | dsimp only | simp only [detectS1_mem]

theorem execFgsNodeSelect_wf (ecc : Ecc) (s : State) (h : s.mem.wf = true) : outWf (execFgsNodeSelect ecc s) := by
  unfold execFgsNodeSelect
  repeat' first
    | with_reducible assumption | with_reducible apply outWf_done | with_reducible apply outWf_ite
    | with_reducible apply fgsTableError_wf | with_reducible apply selectNode_wf | split | dsimp only
    | simp only [noteEcc_mem]

theorem execFgsTimerTrigger_wf (slot : Fin 8) (s : State) (h : s.mem.wf = true) : outWf (execFgsTimerTrigger slot
    s) := by
  unfold execFgsTimerTrigger
  repeat' first
    | with_reducible assumption | with_reducible apply outWf_done | with_reducible apply outWf_ite
    | with_reducible apply plainTrigger_wf | split | dsimp only | simp only [updSlot_mem]

theorem execAgeOriginReturn_wf (slot : Fin 8) (seq : Word32) (s : State) (h : s.mem.wf = true) : outWf
    (execAgeOriginReturn slot seq s) := by
  unfold execAgeOriginReturn
  repeat' first
    | with_reducible assumption | with_reducible apply outWf_done | with_reducible apply outWf_ite | split
    | dsimp only | simp only [updPour_mem]

@[simp] theorem remoteSets_mem (p : Pattern) (node f : Nat) (q : Pour) (s : State) : (remoteSets p node f q s).mem =
    s.mem := by
  unfold remoteSets
  repeat' first
    | with_reducible rfl | split | simp only [sendPeer_mem, apply_ite State.mem, ite_self]
    | (with_reducible refine (foldl_mem ?_).trans ?_; intro _ _) | dsimp only

@[simp] theorem confirmPosted_mem (n : Option NodeRec) (s : State) : (confirmPosted n s).mem = s.mem := by
  unfold confirmPosted
  repeat' first
    | with_reducible rfl | (simp only [updCh_mem, apply_ite State.mem, ite_self]; done) | split
    | simp only [updCh_mem, apply_ite State.mem, ite_self]

theorem venFlush_wf (k u : Nat) (c : VenCmd) (units : List Writes) (upto : Nat) (s : State) (h : s.mem.wf = true) :
    (venFlush k u c units upto s).mem.wf = true := by
  unfold venFlush
  repeat' first | with_reducible assumption | with_reducible apply applyWrites_wf | dsimp only

theorem visionSet_wf (s : State) (p : Pattern) (q : Pour) (n : NodeRec) (flag : Nat) (h : s.mem.wf = true) (t : State)
    (ht : visionSet s p q n flag = some t) : t.mem.wf = true := by
  unfold visionSet at ht
  dsimp only at ht
  repeat' split at ht
  all_goals first | (injection ht with ht; subst ht; first | exact h | exact venFlush_wf _ _ _ _ _ _ h) | cases ht

theorem arraySet_wf (s : State) (p : Pattern) (q : Pour) (n : NodeRec) (flag : Nat) (h : s.mem.wf = true) (t : State)
    (ht : arraySet s p q n flag = some t) : t.mem.wf = true := by
  unfold arraySet at ht
  dsimp only at ht
  repeat' split at ht
  all_goals first | (injection ht with ht; subst ht; exact h) | cases ht

theorem writesMade_wf (s : State) (p : Pattern) (q : Pour) (n : NodeRec) (flag : Nat) (h : s.mem.wf = true) (t :
    State)
    (ht : writesMade s p q n flag = some t) : t.mem.wf = true := by
  unfold writesMade at ht
  split at ht
  · exact visionSet_wf s p q n flag h t ht
  · split at ht
    · exact arraySet_wf s p q n flag h t ht
    · injection ht with ht
      subst ht
      rw [confirmPosted_mem]
      exact h

theorem execEngineFlagSet_wf (node flag : Nat) (seq : Word32) (s : State) (h : s.mem.wf = true) :
    outWf (execEngineFlagSet node flag seq s) := by
  unfold execEngineFlagSet
  dsimp only
  split
  · exact setFlag_wf _ _ _ _ _ h
  · split
    · exact h
    · split
      · exact setFlag_wf _ _ _ _ _ h
      · split
        · exact setFlag_wf _ _ _ _ _ h
        · cases hw : writesMade s (active s) ‹_› ‹_› flag with
          | none => exact h
          | some t => exact setFlag_wf _ _ _ _ _ (by rw [remoteSets_mem]; exact writesMade_wf s _ _ _ flag h t hw)

@[simp] theorem cutNode_mem (r : PourRef) (n : Nat) (s : State) : (cutNode r n s).mem = s.mem := by
  unfold cutNode
  repeat' first
    | with_reducible rfl | (simp only [updNode_mem, raise_mem, apply_ite State.mem, ite_self]; done) | split
    | simp only [updNode_mem, raise_mem, apply_ite State.mem, ite_self]

theorem execFgsDeadline_wf (slot : Fin 8) (seq : Word32) (node : Nat) (s : State) (h : s.mem.wf = true) : outWf
    (execFgsDeadline slot seq node s) := by
  unfold execFgsDeadline
  repeat' first
    | with_reducible assumption | with_reducible apply outWf_done | with_reducible apply outWf_ite
    | with_reducible apply abortPour_wf | split | dsimp only | simp only [cutNode_mem, stopNeuBy_mem, raise_mem]

@[simp] theorem retirePour_mem (q : Pour) (s : State) : (retirePour q s).mem = s.mem := by
  unfold retirePour
  repeat' first
    | with_reducible rfl | split | simp only [updSlot_mem, apply_ite State.mem, ite_self]
    | (with_reducible refine (foldl_mem ?_).trans ?_; intro _ _) | dsimp only

theorem execPourRetire_wf (slot : Fin 8) (seq : Word32) (s : State) (h : s.mem.wf = true) : outWf (execPourRetire slot
    seq s) := by
  unfold execPourRetire
  repeat' first
    | with_reducible assumption | with_reducible apply outWf_done | with_reducible apply outWf_ite | split
    | dsimp only | simp only [retirePour_mem]

theorem abortSlots_wf (mask : Nat) (s : State) (h : s.mem.wf = true) : (abortSlots mask s).mem.wf = true := by
  unfold abortSlots
  repeat' first
    | with_reducible assumption | with_reducible apply abortPour_wf | (with_reducible apply foldl_wf; intro _ _ _)
    | dsimp only

theorem execFgsAbortWrite_wf (who : Agent) (mask : Byte) (s : State) (h : s.mem.wf = true) : outWf (execFgsAbortWrite
    who mask s) := by
  unfold execFgsAbortWrite
  repeat' first
    | with_reducible assumption | with_reducible apply outWf_done | with_reducible apply outWf_ite
    | with_reducible apply abortSlots_wf | split | dsimp only

@[simp] theorem writeDrain_mem (on : Bool) (s : State) : (writeDrain on s).mem = s.mem := by
  unfold writeDrain
  repeat' first | with_reducible rfl

theorem execFgsDrain_wf (_who : Agent) (on : Bool) (s : State) (h : s.mem.wf = true) : outWf (execFgsDrain _who on
    s) := by
  unfold execFgsDrain
  repeat' first
    | with_reducible assumption | with_reducible apply outWf_done | dsimp only | simp only [writeDrain_mem]

theorem execFgsGraphLost_wf (slot : Fin 8) (s : State) (h : s.mem.wf = true) : outWf (execFgsGraphLost slot s) := by
  unfold execFgsGraphLost
  repeat' first
    | with_reducible assumption | with_reducible apply outWf_done | with_reducible apply outWf_ite | split
    | dsimp only | simp only [updSlot_mem, detectS1_mem]

@[simp] theorem venCut_mem (p : Pattern) (q : Pour) (n : NodeRec) (c : VenCmd) (s : State) : (venCut p q n c s).2.mem
    = s.mem := by
  unfold venCut
  repeat' first | with_reducible rfl | (simp only [drawFree_mem]; done) | simp only [drawFree_mem]

@[simp] theorem venBroken_mem (p : Pattern) (q : Pour) (n : NodeRec) (c : VenCmd) (s : State) : (venBroken p q n c
    s).2.mem = s.mem := by
  unfold venBroken
  repeat' first
    | with_reducible rfl | (simp only [drawFree_mem, apply_ite State.mem, ite_self]; done) | split
    | simp only [drawFree_mem, apply_ite State.mem, ite_self]

@[simp] theorem venCycles_mem (n : NodeRec) (o : VenOutcome) (whole ok : Bool) (elapsed : Nat) (s : State) :
    (venCycles n o whole ok elapsed s).2.mem = s.mem := by
  unfold venCycles
  repeat' first
    | with_reducible rfl | (simp only [drawFree_mem, apply_ite State.mem, ite_self]; done) | split
    | simp only [drawFree_mem, apply_ite State.mem, ite_self]

@[simp] theorem closeInst_mem (k status : Nat) (w : VenPart) (whole : Bool) (cyc : Nat × Nat) (s : State) : (closeInst
    k status w whole cyc s).mem = s.mem := by
  unfold closeInst
  repeat' first
    | with_reducible rfl | (simp only [setHw_mem, apply_ite State.mem, ite_self]; done) | split
    | simp only [setHw_mem, apply_ite State.mem, ite_self]

theorem otherUnit_wf (r : PourRef) (u y : Nat) (injected : Bool) (s : State) (h : s.mem.wf = true) : (otherUnit r u y
    injected s).mem.wf = true := by
  unfold otherUnit
  repeat' first
    | with_reducible assumption | with_reducible apply wf_ite | with_reducible apply abortPour_wf
    | with_reducible apply unitFailed_wf | split | dsimp only
    | simp only [viewConflict_mem, serveUnit_mem, bindLogical_mem]

theorem idleToken_wf (k : Nat) (s : State) (h : s.mem.wf = true) : (idleToken k s).mem.wf = true := by
  unfold idleToken
  repeat' first
    | with_reducible assumption | with_reducible apply unitFailed_wf | split | dsimp only
    | simp only [viewConflict_mem]

theorem venFault_wf (how : EngineEnd) (r : PourRef) (u : Nat) (side inj : Bool) (s : State) (h : s.mem.wf = true) :
    (venFault how r u side inj s).mem.wf = true := by
  unfold venFault
  repeat' first
    | with_reducible assumption | with_reducible apply wf_ite | with_reducible apply unitFailed_wf | split
    | dsimp only | simp only [detectS1_mem, raise_mem, viewConflict_mem]

theorem venTokenOut_wf (k u : Nat) (c : VenCmd) (n : NodeRec) (how : EngineEnd) (w : VenPart) (whole : Bool) (status :
    Nat) (view : TokenView) (inj : Bool) (s : State) (h : s.mem.wf = true) : (venTokenOut k u c n how w whole status
    view inj s).mem.wf = true := by
  unfold venTokenOut
  repeat' first
    | with_reducible assumption | with_reducible apply wf_ite | with_reducible apply applyWrites_wf
    | with_reducible apply venFault_wf | with_reducible apply abortPour_wf | split | dsimp only
    | simp only [raiseAll_mem, venCycles_mem, closeInst_mem, endSource_mem, ladleRelease_mem, serveUnit_mem,
        updPour_mem, endNode_mem]

@[simp] theorem injectedEnd_mem (u : Nat) (how : EngineEnd) (s : State) : (injectedEnd u how s).2.2.mem = s.mem := by
  unfold injectedEnd
  repeat' first
    | with_reducible rfl | (simp only [takeInjection_mem, apply_ite State.mem, ite_self]; done) | split
    | simp only [takeInjection_mem, apply_ite State.mem, ite_self]

@[simp] theorem injectedView_mem (u : Nat) (s : State) : (injectedView u s).2.mem = s.mem := by
  unfold injectedView
  repeat' first
    | with_reducible rfl | (simp only [takeInjection_mem, drawFree_mem, apply_ite State.mem, ite_self]; done) | split
    | simp only [takeInjection_mem, drawFree_mem, apply_ite State.mem, ite_self]

theorem deniedEnd_wf (u : Nat) (c : VenCmd) (p : Pattern) (q : Pour) (n : NodeRec) (how : EngineEnd) (s : State) (h :
    s.mem.wf = true) : (deniedEnd u c p q n how s).2.mem.wf = true := by
  unfold deniedEnd
  repeat' first | with_reducible assumption | with_reducible apply reportDenied_wf | split | dsimp only

@[simp] theorem leavePours_mem (s : State) : (leavePours s).mem = s.mem := rfl

theorem venEnd_wf (k u : Nat) (c : VenCmd) (p : Pattern) (q : Pour) (n : NodeRec) (how : EngineEnd) (view : TokenView)
    (s : State) (h : s.mem.wf = true) : (venEnd k u c p q n how view s).mem.wf = true := by
  unfold venEnd
  repeat' first
    | with_reducible assumption | with_reducible apply wf_ite | with_reducible apply deniedEnd_wf
    | with_reducible apply venTokenOut_wf | with_reducible apply otherUnit_wf | split | dsimp only
    | simp only [injectedEnd_mem, venCut_mem, venBroken_mem, injectedView_mem, roleMoves_mem, leavePours_mem]

theorem execVenCommandEnd_wf (k : Fin 13) (how : EngineEnd) (view : TokenView) (s : State) (h : s.mem.wf = true) :
    outWf (execVenCommandEnd k how view s) := by
  unfold execVenCommandEnd
  repeat' first
    | with_reducible assumption | with_reducible apply outWf_done | with_reducible apply idleToken_wf
    | with_reducible apply venEnd_wf | split | dsimp only

@[simp] theorem sendLines_mem (p : Pattern) (n : NodeRec) (r : PourRef) (l : Layer) (ws : List (Nat × Nat × List
    Byte)) (s : State) : (sendLines p n r l ws s).mem = s.mem := by
  unfold sendLines
  repeat' first
    | with_reducible rfl | split | simp only [sendPeer_mem, apply_ite State.mem, ite_self]
    | (with_reducible refine (foldl_mem ?_).trans ?_; intro _ _) | dsimp only

@[simp] theorem sendLayer_mem (p : Pattern) (n : NodeRec) (c : NeuCmd) (l : Layer) (s : State) : (sendLayer p n c l
    s).mem = s.mem := by
  unfold sendLayer
  repeat' first
    | with_reducible rfl | split | simp only [sendPeer_mem, apply_ite State.mem, ite_self]
    | (with_reducible refine (foldl_mem ?_).trans ?_; intro _ _) | dsimp only

@[simp] theorem openExchange_mem (p : Pattern) (n : NodeRec) (c : NeuCmd) (s : State) : (openExchange p n c s).mem =
    s.mem := by
  unfold openExchange
  repeat' first
    | with_reducible rfl | split | simp only [requestGroup_mem, apply_ite State.mem, ite_self]
    | (with_reducible refine (foldl_mem ?_).trans ?_; intro _ _) | dsimp only

@[simp] theorem armBarrier_mem (r : PourRef) (node : Nat) (s : State) : (armBarrier r node s).mem = s.mem := by
  unfold armBarrier
  repeat' first
    | with_reducible rfl | (simp only [sendLayer_mem, updNeu_mem, apply_ite State.mem, ite_self]; done) | split
    | simp only [sendLayer_mem, updNeu_mem, apply_ite State.mem, ite_self]

@[simp] theorem beginArray_mem (r : PourRef) (node a : Nat) (s : State) : (beginArray r node a s).mem = s.mem := by
  unfold beginArray
  repeat' first
    | with_reducible rfl
    | (simp only [startNode_mem, updNeu_mem, beginSource_mem, openExchange_mem, armBarrier_mem, apply_ite State.mem,
        ite_self]; done)
    | split
    | simp only [startNode_mem, updNeu_mem, beginSource_mem, openExchange_mem, armBarrier_mem, apply_ite State.mem,
        ite_self]

@[simp] theorem stopArray_mem (c : NeuCmd) (status layers detail : Nat) (x : ArrayRun) (s : State) : (stopArray c
    status layers detail x s).mem = s.mem := by
  unfold stopArray
  repeat' first
    | with_reducible rfl
    | (simp only [ladleRelease_mem, endSource_mem, ladleStop_mem, apply_ite State.mem, ite_self]; done) | split
    | simp only [ladleRelease_mem, endSource_mem, ladleStop_mem, apply_ite State.mem, ite_self]

theorem neuEnd_wf (c : NeuCmd) (status detail : Nat) (view : TokenView) (s : State) (h : s.mem.wf = true) : (neuEnd c
    status detail view s).mem.wf = true := by
  unfold neuEnd
  repeat' first
    | with_reducible assumption | with_reducible apply wf_ite | with_reducible apply otherUnit_wf
    | (with_reducible apply foldl_wf; intro _ _ _) | split | dsimp only
    | simp only [stopArray_mem, serveUnit_mem, endNode_mem, injectedView_mem, roleMoves_mem]

@[simp] theorem countResult_mem (c : NeuCmd) (t : TileResult) (s : State) : (countResult c t s).mem = s.mem := by
  unfold countResult
  repeat' first
    | with_reducible rfl | (simp only [updNeu_mem, raise_mem, apply_ite State.mem, ite_self]; done) | split
    | simp only [updNeu_mem, raise_mem, apply_ite State.mem, ite_self]

@[simp] theorem passTile_mem (c : NeuCmd) (n : NodeRec) (l : Layer) (a u : Nat) (x : ArrayRun) (s : State) : (passTile
    c n l a u x s).mem = s.mem := by
  unfold passTile
  repeat' first
    | with_reducible rfl | (simp only [countResult_mem, updRun_mem, updNeu_mem, apply_ite State.mem, ite_self]; done)
    | split | simp only [countResult_mem, updRun_mem, updNeu_mem, apply_ite State.mem, ite_self]

theorem storeLine_wf (s : State) (ws : List (Nat × Nat × List Byte)) (h : s.mem.wf = true) : (storeLine s ws).mem.wf =
    true := by
  unfold storeLine
  repeat' first | with_reducible assumption | with_reducible apply applyElems_wf | dsimp only

theorem discardRun_wf (store : Bool) (x : ArrayRun) (s : State) (h : s.mem.wf = true) : (discardRun store x s).mem.wf
    = true := by
  unfold discardRun
  repeat' first
    | with_reducible assumption | with_reducible apply wf_ite | with_reducible apply storeLine_wf
    | (with_reducible apply foldl_wf; intro _ _ _) | split | dsimp only | simp only [drawFree_mem]

theorem discardStages_wf (c : NeuCmd) (fault : Option Nat) (s : State) (h : s.mem.wf = true) : (discardStages c fault
    s).mem.wf = true := by
  unfold discardStages
  repeat' first
    | with_reducible assumption | with_reducible apply wf_ite | with_reducible apply discardRun_wf
    | (with_reducible apply foldl_wf; intro _ _ _) | split | dsimp only

theorem neuFault_wf (c : NeuCmd) (u : Nat) (how : TileEnd) (inj : Bool) (store : Option Nat) (s : State) (h : s.mem.wf
    = true) : (neuFault c u how inj store s).mem.wf = true := by
  unfold neuFault
  repeat' first
    | with_reducible assumption | with_reducible apply wf_ite | with_reducible apply neuEnd_wf
    | with_reducible apply discardStages_wf | with_reducible apply abortPour_wf | with_reducible apply unitFailed_wf
    | split | dsimp only | simp only [detectS1_mem, raise_mem]

theorem flushRun_wf (r : PourRef) (node a : Nat) (s : State) (h : s.mem.wf = true) : (flushRun r node a s).mem.wf =
    true := by
  unfold flushRun
  repeat' first
    | with_reducible assumption | with_reducible apply wf_ite | with_reducible apply storeLine_wf
    | with_reducible apply neuFault_wf | with_reducible apply reportDenied_wf
    | (with_reducible apply foldl_wf; intro _ _ _) | split | dsimp only | simp only [sendLines_mem, updRun_mem]

theorem flushStages_wf (s : State) (h : s.mem.wf = true) : (flushStages s).mem.wf = true := by
  unfold flushStages
  repeat' first
    | with_reducible assumption | with_reducible apply wf_ite | with_reducible apply flushRun_wf
    | (with_reducible apply foldl_wf; intro _ _ _) | split | dsimp only | simp only [armBarrier_mem]

@[simp] theorem updBuf_mem (ph : Nat) (f : LocalBuf → LocalBuf) (s : State) : (updBuf ph f s).mem = s.mem := by
  unfold updBuf
  repeat' first | with_reducible rfl

@[simp] theorem fillHalf_mem (p : Pattern) (l : Layer) (seq t k ph : Nat) (s : State) : (fillHalf p l seq t k ph
    s).mem = s.mem := by
  unfold fillHalf
  repeat' first | with_reducible rfl | (simp only [updBuf_mem]; done) | simp only [updBuf_mem]

@[simp] theorem fillRun_mem (r : PourRef) (node a : Nat) (s : State) : (fillRun r node a s).mem = s.mem := by
  unfold fillRun
  repeat' first
    | with_reducible rfl | (simp only [updBuf_mem, updRun_mem, fillHalf_mem, apply_ite State.mem, ite_self]; done)
    | split | simp only [updBuf_mem, updRun_mem, fillHalf_mem, apply_ite State.mem, ite_self]

@[simp] theorem fillBuffers_mem (s : State) : (fillBuffers s).mem = s.mem := by
  unfold fillBuffers
  repeat' first
    | with_reducible rfl | simp only [fillRun_mem] | (with_reducible refine (foldl_mem ?_).trans ?_; intro _ _)
    | dsimp only

theorem endTile_wf (c : NeuCmd) (n : NodeRec) (l : Layer) (a u : Nat) (x : ArrayRun) (how : TileEnd) (s : State) (h :
    s.mem.wf = true) : (endTile c n l a u x how s).mem.wf = true := by
  unfold endTile
  repeat' first
    | with_reducible assumption | with_reducible apply wf_ite | with_reducible apply neuFault_wf
    | with_reducible apply reportDenied_wf | split | dsimp only
    | simp only [countSel_mem, takeInjection_mem, passTile_mem, drawFree_mem]

theorem execNeuTileEnd_wf (a : Fin 16) (how : TileEnd) (s : State) (h : s.mem.wf = true) : outWf (execNeuTileEnd a how
    s) := by
  unfold execNeuTileEnd
  repeat' first
    | with_reducible assumption | with_reducible apply outWf_done | with_reducible apply outWf_ite
    | with_reducible apply endTile_wf | split | dsimp only

theorem nextLayer_wf (r : PourRef) (n : NodeRec) (view : TokenView) (s : State) (h : s.mem.wf = true) : (nextLayer r n
    view s).mem.wf = true := by
  unfold nextLayer
  repeat' first
    | with_reducible assumption | with_reducible apply wf_ite | with_reducible apply neuEnd_wf | split | dsimp only
    | simp only [updNeu_mem, openExchange_mem, armBarrier_mem]

theorem passBarrier_wf (c : NeuCmd) (n : NodeRec) (l : Layer) (view : TokenView) (s : State) (h : s.mem.wf = true) :
    (passBarrier c n l view s).mem.wf = true := by
  unfold passBarrier
  repeat' first
    | with_reducible assumption | with_reducible apply neuFault_wf | with_reducible apply reportDenied_wf
    | with_reducible apply nextLayer_wf | with_reducible apply applyElems_wf | split | dsimp only
    | simp only [countResult_mem]

theorem execNeuLayerBarrier_wf (node : Nat) (seq : Word32) (view : TokenView) (s : State) (h : s.mem.wf = true) :
    outWf (execNeuLayerBarrier node seq view s) := by
  unfold execNeuLayerBarrier
  repeat' first
    | with_reducible assumption | with_reducible apply outWf_done | with_reducible apply outWf_ite
    | with_reducible apply passBarrier_wf | split | dsimp only

theorem execNeuArrayStopped_wf (node : Nat) (seq : Word32) (s : State) (h : s.mem.wf = true) : outWf
    (execNeuArrayStopped node seq s) := by
  unfold execNeuArrayStopped
  repeat' first
    | with_reducible assumption | with_reducible apply outWf_done | with_reducible apply wf_ite
    | with_reducible apply outWf_ite | with_reducible apply neuEnd_wf | with_reducible apply discardStages_wf
    | with_reducible apply abortPour_wf | split | dsimp only

end Sys2Proof.Machine
end

