-- ==== Sys2Proof/Laws/MemUnits.lean ====
section
/-! SUPPORT. The memory across the Runners, the cameras and ISP pipes, the scheduler, the Riser threads and the rotation: a function that never writes it leaves it
as it is (_mem); any other keeps its canonical form (_wf). -/

set_option linter.unusedTactic false
set_option linter.unusedVariables false
set_option linter.unreachableTactic false
set_option linter.unusedSimpArgs false

namespace Sys2Proof.Machine

@[simp] theorem givePath_mem (i ch : Nat) (s : State) : (givePath i ch s).mem = s.mem := by
  unfold givePath
  repeat' first | with_reducible rfl | (simp only [updCh_mem]; done) | simp only [updCh_mem]

@[simp] theorem assignPaths_mem (s : State) : (assignPaths s).mem = s.mem := by
  unfold assignPaths
  repeat' first
    | with_reducible rfl | split | simp only [givePath_mem, apply_ite State.mem, ite_self]
    | (with_reducible refine (foldl_mem ?_).trans ?_; intro _ _) | dsimp only

theorem failChannel_wf (ch result : Nat) (code : EventCode) (s : State) (h : s.mem.wf = true) : (failChannel ch result
    code s).mem.wf = true := by
  unfold failChannel
  repeat' first
    | with_reducible assumption | with_reducible apply ringResult_wf | with_reducible apply abortPour_wf | split
    | dsimp only | simp only [freePath_mem, ladleStop_mem, endChannel_mem, updCh_mem, endNode_mem]

theorem descError_wf (ch result : Nat) (code : EventCode) (s : State) (h : s.mem.wf = true) : (descError ch result
    code s).mem.wf = true := by
  unfold descError
  repeat' first
    | with_reducible assumption | with_reducible apply failChannel_wf | dsimp only
    | simp only [assignPaths_mem, raise_mem]

@[simp] theorem haltAll_mem (s : State) : (haltAll s).mem = s.mem := by
  unfold haltAll
  repeat' first
    | with_reducible rfl | split | simp only [updCh_mem, freePath_mem, ladleStop_mem, apply_ite State.mem, ite_self]
    | (with_reducible refine (foldl_mem ?_).trans ?_; intro _ _) | dsimp only

theorem busError_wf (ch kind : Nat) (isWrite : Bool) (addr : Nat) (s : State) (h : s.mem.wf = true) : (busError ch
    kind isWrite addr s).mem.wf = true := by
  unfold busError
  repeat' first
    | with_reducible assumption | with_reducible apply wf_ite | with_reducible apply failChannel_wf | split
    | dsimp only | simp only [detectS1_mem, raise_mem, haltAll_mem]

theorem requestChannel_wf (ch : Nat) (s : State) (h : s.mem.wf = true) : (requestChannel ch s).mem.wf = true := by
  unfold requestChannel
  repeat' first
    | with_reducible assumption | with_reducible apply wf_ite | with_reducible apply abortPour_wf | split
    | dsimp only | simp only [ladleRequest_mem, updCh_mem, endNode_mem]

theorem startChannel_wf (ch : Nat) (s : State) (h : s.mem.wf = true) : (startChannel ch s).mem.wf = true := by
  unfold startChannel
  repeat' first
    | with_reducible assumption | with_reducible apply wf_ite | with_reducible apply requestChannel_wf | split
    | dsimp only | simp only [raise_mem, updCh_mem]

theorem softStop_wf (ch : Nat) (s : State) (h : s.mem.wf = true) : (softStop ch s).mem.wf = true := by
  unfold softStop
  repeat' first
    | with_reducible assumption | with_reducible apply wf_ite | with_reducible apply stopChannel_wf | split
    | dsimp only | simp only [raise_mem, assignPaths_mem]

@[simp] theorem ringDoorbell_mem (ch : Nat) (s : State) : (ringDoorbell ch s).mem = s.mem := by
  unfold ringDoorbell
  repeat' first
    | with_reducible rfl | (simp only [assignPaths_mem, updCh_mem, apply_ite State.mem, ite_self]; done) | split
    | simp only [assignPaths_mem, updCh_mem, apply_ite State.mem, ite_self]

@[simp] theorem clearError_mem (ch : Nat) (s : State) : (clearError ch s).mem = s.mem := by
  unfold clearError
  repeat' first
    | with_reducible rfl | (simp only [updCh_mem, apply_ite State.mem, ite_self]; done) | split
    | simp only [updCh_mem, apply_ite State.mem, ite_self]

theorem resumeDma_wf (s : State) (h : s.mem.wf = true) : (resumeDma s).mem.wf = true := by
  unfold resumeDma
  repeat' first
    | with_reducible assumption | with_reducible apply wf_ite | with_reducible apply requestChannel_wf
    | (with_reducible apply foldl_wf; intro _ _ _) | split | dsimp only | simp only [raise_mem]

theorem execDmaStart_wf (who : Agent) (ch : Fin 32) (s : State) (h : s.mem.wf = true) : outWf (execDmaStart who ch
    s) := by
  unfold execDmaStart
  repeat' first
    | with_reducible assumption | with_reducible apply outWf_done | with_reducible apply outWf_ite
    | with_reducible apply startChannel_wf | split | dsimp only

theorem execDmaDoorbell_wf (who : Agent) (ch : Fin 32) (s : State) (h : s.mem.wf = true) : outWf (execDmaDoorbell who
    ch s) := by
  unfold execDmaDoorbell
  repeat' first
    | with_reducible assumption | with_reducible apply outWf_done | with_reducible apply outWf_ite | split
    | dsimp only | simp only [ringDoorbell_mem]

theorem execDmaStop_wf (who : Agent) (ch : Fin 32) (s : State) (h : s.mem.wf = true) : outWf (execDmaStop who ch
    s) := by
  unfold execDmaStop
  repeat' first
    | with_reducible assumption | with_reducible apply outWf_done | with_reducible apply outWf_ite
    | with_reducible apply softStop_wf | split | dsimp only

theorem execDmaClearErr_wf (who : Agent) (ch : Fin 32) (s : State) (h : s.mem.wf = true) : outWf (execDmaClearErr who
    ch s) := by
  unfold execDmaClearErr
  repeat' first
    | with_reducible assumption | with_reducible apply outWf_done | with_reducible apply outWf_ite | split
    | dsimp only | simp only [clearError_mem]

theorem execDmaResume_wf (who : Agent) (s : State) (h : s.mem.wf = true) : outWf (execDmaResume who s) := by
  unfold execDmaResume
  repeat' first
    | with_reducible assumption | with_reducible apply outWf_done | with_reducible apply outWf_ite
    | with_reducible apply resumeDma_wf | split | dsimp only

@[simp] theorem beginChannel_mem (ch : Nat) (s : State) : (beginChannel ch s).mem = s.mem := by
  unfold beginChannel
  repeat' first
    | with_reducible rfl
    | (simp only [updCh_mem, beginSource_mem, assignPaths_mem, apply_ite State.mem, ite_self]; done) | split
    | simp only [updCh_mem, beginSource_mem, assignPaths_mem, apply_ite State.mem, ite_self]

theorem bindChannels_wf (p : Pattern) (s : State) (h : s.mem.wf = true) : (bindChannels p s).mem.wf = true := by
  unfold bindChannels
  repeat' first
    | with_reducible assumption | with_reducible apply wf_ite | with_reducible apply stopChannel_wf
    | (with_reducible apply foldl_wf; intro _ _ _) | split | dsimp only

theorem refuseHolder_wf (id : Nat) (s : State) (h : s.mem.wf = true) : (refuseHolder id s).mem.wf = true := by
  unfold refuseHolder
  repeat' first
    | with_reducible assumption | with_reducible apply refuseNode_wf | split | dsimp only | simp only [updCh_mem]

theorem refuseHead_wf (r : Request) (s : State) (h : s.mem.wf = true) : (refuseHead r s).mem.wf = true := by
  unfold refuseHead
  repeat' first
    | with_reducible assumption | with_reducible apply refuseHolder_wf | dsimp only
    | simp only [raise_mem, withdrawRequest_mem]

theorem execLadleGrant_wf (s : State) (h : s.mem.wf = true) : outWf (execLadleGrant s) := by
  unfold execLadleGrant
  repeat' first
    | with_reducible assumption | with_reducible apply outWf_done | with_reducible apply outWf_ite
    | with_reducible apply refuseHead_wf | split | dsimp only | simp only [countSel_mem, takeGrant_mem]

@[simp] theorem beginVision_mem (r : PourRef) (node k u : Nat) (s : State) : (beginVision r node k u s).mem =
    s.mem := by
  unfold beginVision
  repeat' first
    | with_reducible rfl | (simp only [beginSource_mem, startNode_mem]; done) | split
    | simp only [beginSource_mem, startNode_mem]

@[simp] theorem beginIsp_mem (r : PourRef) (node port : Nat) (s : State) : (beginIsp r node port s).mem = s.mem := by
  unfold beginIsp
  repeat' first
    | with_reducible rfl
    | (simp only [startNode_mem, ladleRelease_mem, endNode_mem, apply_ite State.mem, ite_self]; done) | split
    | simp only [startNode_mem, ladleRelease_mem, endNode_mem, apply_ite State.mem, ite_self]

@[simp] theorem joinGroup_mem (l : Nat) (s : State) : (joinGroup l s).mem = s.mem := by
  unfold joinGroup
  repeat' first | with_reducible rfl

@[simp] theorem beginGroup_mem (l : Nat) (s : State) : (beginGroup l s).mem = s.mem := by
  unfold beginGroup
  repeat' first
    | with_reducible rfl | (simp only [sendPeer_mem, joinGroup_mem]; done) | simp only [sendPeer_mem, joinGroup_mem]

@[simp] theorem beginHolder_mem (id : Nat) (s : State) : (beginHolder id s).mem = s.mem := by
  unfold beginHolder
  repeat' first
    | with_reducible rfl
    | (simp only [beginArray_mem, beginVision_mem, beginIsp_mem, beginChannel_mem, beginGroup_mem,
        apply_ite State.mem, ite_self]; done)
    | split
    | simp only [beginArray_mem, beginVision_mem, beginIsp_mem, beginChannel_mem, beginGroup_mem,
        apply_ite State.mem, ite_self]

@[simp] theorem writeCeiling_mem (v : Nat) (s : State) : (writeCeiling v s).mem = s.mem := by
  unfold writeCeiling
  repeat' first
    | with_reducible rfl | (simp only [raise_mem, apply_ite State.mem, ite_self]; done) | split
    | simp only [raise_mem, apply_ite State.mem, ite_self]

theorem execLadleCeilingWrite_wf (_who : Agent) (ceiling : BitVec 10) (s : State) (h : s.mem.wf = true) : outWf
    (execLadleCeilingWrite _who ceiling s) := by
  unfold execLadleCeilingWrite
  repeat' first
    | with_reducible assumption | with_reducible apply outWf_done | dsimp only | simp only [writeCeiling_mem]

theorem execLdlOverrun_wf (s : State) (h : s.mem.wf = true) : outWf (execLdlOverrun s) := by
  unfold execLdlOverrun
  repeat' first
    | with_reducible assumption | with_reducible apply outWf_done | with_reducible apply wf_ite
    | with_reducible apply outWf_ite | (with_reducible apply foldl_wf; intro _ _ _) | split | dsimp only
    | simp only [detectS1_mem, invalidatePour_mem]

@[simp] theorem updCam_mem (p : Nat) (f : Camera → Camera) (s : State) : (updCam p f s).mem = s.mem := by
  unfold updCam
  repeat' first | with_reducible rfl

theorem writeRow_wf (watch : Bool) (f : Frame) (y : Nat) (s : State) (h : s.mem.wf = true) : (writeRow watch f y
    s).mem.wf = true := by
  unfold writeRow
  repeat' first
    | with_reducible assumption | with_reducible apply wf_ite | with_reducible apply unitWrite_wf | split
    | dsimp only

theorem writeRows_wf (watch : Bool) (f : Frame) (a b : Nat) (s : State) (h : s.mem.wf = true) : (writeRows watch f a b
    s).mem.wf = true := by
  unfold writeRows
  repeat' first
    | with_reducible assumption | with_reducible apply writeRow_wf | (with_reducible apply foldl_wf; intro _ _ _)
    | dsimp only

theorem damageFrame_wf (p : Nat) (k : Nat) (code : EventCode) (s : State) (h : s.mem.wf = true) : (damageFrame p k
    code s).mem.wf = true := by
  unfold damageFrame
  repeat' first
    | with_reducible assumption | with_reducible apply wf_ite | with_reducible apply abortPour_wf | split
    | dsimp only | simp only [updCam_mem]

theorem pushRow_wf (p : Nat) (px : List Nat) (extra : Nat) (got : Bool) (s : State) (h : s.mem.wf = true) : (pushRow p
    px extra got s).mem.wf = true := by
  unfold pushRow
  repeat' first
    | with_reducible assumption | with_reducible apply writeRows_wf | with_reducible apply damageFrame_wf | split
    | dsimp only | simp only [updCam_mem]

theorem extraRow_wf (p : Nat) (f : Frame) (s : State) (h : s.mem.wf = true) : (extraRow p f s).mem.wf = true := by
  unfold extraRow
  repeat' first
    | with_reducible assumption | with_reducible apply wf_ite | with_reducible apply unitWrite_wf
    | with_reducible apply damageFrame_wf | split | dsimp only | simp only [raiseCamOnce_mem, updCam_mem]

theorem takeRow_wf (p : Nat) (px : List Nat) (extra : Nat) (s : State) (h : s.mem.wf = true) : (takeRow p px extra
    s).mem.wf = true := by
  unfold takeRow
  repeat' first
    | with_reducible assumption | with_reducible apply wf_ite | with_reducible apply extraRow_wf
    | with_reducible apply pushRow_wf | (with_reducible apply foldl_wf; intro _ _ _) | split | dsimp only
    | simp only [raiseCamOnce_mem, updCam_mem]

theorem lostRow_wf (p : Nat) (s : State) (h : s.mem.wf = true) : (lostRow p s).mem.wf = true := by
  unfold lostRow
  repeat' first
    | with_reducible assumption | with_reducible apply wf_ite | with_reducible apply extraRow_wf
    | with_reducible apply pushRow_wf | split | dsimp only | simp only [updCam_mem]

theorem ispSet_wf (node : Nat) (r : PourRef) (f k : Nat) (s : State) (h : s.mem.wf = true) : (ispSet node r f k
    s).mem.wf = true := by
  unfold ispSet
  repeat' first
    | with_reducible assumption | with_reducible apply wf_ite | with_reducible apply countSets_wf | split
    | dsimp only | simp only [raise_mem]

theorem frameSets_wf (p : Nat) (f : Frame) (flags : List Nat) (s : State) (h : s.mem.wf = true) : (frameSets p f flags
    s).mem.wf = true := by
  unfold frameSets
  repeat' first
    | with_reducible assumption | with_reducible apply wf_ite | with_reducible apply ispSet_wf
    | (with_reducible apply foldl_wf; intro _ _ _) | split | dsimp only | simp only [raise_mem]

theorem setAux_wf (p : Nat) (f : Frame) (s : State) (h : s.mem.wf = true) : (setAux p f s).mem.wf = true := by
  unfold setAux
  repeat' first | with_reducible assumption | with_reducible apply frameSets_wf | dsimp only

theorem closeFrame_wf (p : Nat) (force : Option EventCode) (s : State) (h : s.mem.wf = true) : (closeFrame p force
    s).mem.wf = true := by
  unfold closeFrame
  repeat' first
    | with_reducible assumption | with_reducible apply wf_ite | with_reducible apply writeRows_wf
    | with_reducible apply unitWrite_wf | with_reducible apply setAux_wf | with_reducible apply abortPour_wf
    | (with_reducible apply foldl_wf; intro _ _ _) | split | dsimp only
    | simp only [raiseCamOnce_mem, updCam_mem, endSource_mem]

@[simp] theorem openFrame_mem (p : Nat) (cfg : IspCfg) (s : State) : (openFrame p cfg s).mem = s.mem := by
  unfold openFrame
  repeat' first
    | with_reducible rfl | (simp only [updCam_mem, beginSource_mem]; done) | simp only [updCam_mem, beginSource_mem]

@[simp] theorem fixOrigin_mem (r : PourRef) (fs : Nat × Nat) (s : State) : (fixOrigin r fs s).mem = s.mem := by
  unfold fixOrigin
  repeat' first | with_reducible rfl | (simp only [updPour_mem]; done) | simp only [updPour_mem]

@[simp] theorem fillBands_mem (r : PourRef) (ports : List Nat) (s : State) : (fillBands r ports s).mem = s.mem := by
  unfold fillBands
  repeat' first
    | with_reducible rfl | simp only [putFlag_mem] | (with_reducible refine (foldl_mem ?_).trans ?_; intro _ _)
    | dsimp only

theorem abortDamaged_wf (r : PourRef) (d : Option EventCode) (s : State) (h : s.mem.wf = true) : (abortDamaged r d
    s).mem.wf = true := by
  unfold abortDamaged
  repeat' first | with_reducible assumption | with_reducible apply abortPour_wf | split | dsimp only

theorem openWhole_wf (slot : Nat) (frames : List (Nat × Nat)) (fs : Nat × Nat) (damage : Option EventCode) (s : State)
    (h : s.mem.wf = true) : (openWhole slot frames fs damage s).mem.wf = true := by
  unfold openWhole
  repeat' first
    | with_reducible assumption | with_reducible apply wf_ite | with_reducible apply openPour_wf
    | with_reducible apply abortDamaged_wf | split | dsimp only
    | simp only [dropTrigger_mem, fixOrigin_mem, fillBands_mem]

theorem pairTrigger_wf (slot : Nat) (fs : List PortFrame) (s : State) (h : s.mem.wf = true) : (pairTrigger slot fs
    s).mem.wf = true := by
  unfold pairTrigger
  repeat' first
    | with_reducible assumption | with_reducible apply wf_ite | with_reducible apply openWhole_wf | split
    | dsimp only | simp only [fixOrigin_mem, deferTrigger_mem, raise_mem]

@[simp] theorem raiseSkew_mem (ports : List Nat) (s : State) : (raiseSkew ports s).mem = s.mem := by
  unfold raiseSkew
  repeat' first
    | with_reducible rfl | split
    | simp only [raise_mem, noteCam_mem, markCam_mem, updCam_mem, apply_ite State.mem, ite_self]
    | (with_reducible refine (foldl_mem ?_).trans ?_; intro _ _) | dsimp only

theorem skewFrame_wf (f : PortFrame) (s : State) (h : s.mem.wf = true) : (skewFrame f s).mem.wf = true := by
  unfold skewFrame
  repeat' first
    | with_reducible assumption | with_reducible apply unitWrite_wf | with_reducible apply abortPour_wf
    | with_reducible apply pairTrigger_wf | split | dsimp only | simp only [raiseSkew_mem]

theorem lastFlag_wf (f : PortFrame) (s : State) (h : s.mem.wf = true) : (lastFlag f s).mem.wf = true := by
  unfold lastFlag
  repeat' first
    | with_reducible assumption | with_reducible apply wf_ite | with_reducible apply pairTrigger_wf
    | with_reducible apply skewFrame_wf | split | dsimp only | simp only [updCam_mem]

theorem firstBand_wf (f : PortFrame) (s : State) (h : s.mem.wf = true) : (firstBand f s).mem.wf = true := by
  unfold firstBand
  repeat' first
    | with_reducible assumption | with_reducible apply wf_ite | with_reducible apply abortDamaged_wf
    | with_reducible apply acceptTrigger_wf | split | dsimp only
    | simp only [updPour_mem, deferTrigger_mem, raise_mem]

@[simp] theorem endIspNode_mem (f : PortFrame) (s : State) : (endIspNode f s).mem = s.mem := by
  unfold endIspNode
  repeat' first
    | with_reducible rfl | (simp only [ladleRelease_mem, endNode_mem, apply_ite State.mem, ite_self]; done) | split
    | simp only [ladleRelease_mem, endNode_mem, apply_ite State.mem, ite_self]

@[simp] theorem watchLast_mem (f : Frame) (s : State) : (watchLast f s).mem = s.mem := by
  unfold watchLast
  repeat' first | with_reducible rfl | (simp only [watchFrame_mem]; done) | simp only [watchFrame_mem]

theorem setBand_wf (p : Nat) (f : Frame) (s : State) (h : s.mem.wf = true) : (setBand p f s).mem.wf = true := by
  unfold setBand
  repeat' first
    | with_reducible assumption | with_reducible apply wf_ite | with_reducible apply firstBand_wf
    | with_reducible apply frameSets_wf | with_reducible apply lastFlag_wf | split | dsimp only
    | simp only [updCam_mem, watchLast_mem, endIspNode_mem]

theorem execIspBandFlag_wf (p : Fin 8) (s : State) (h : s.mem.wf = true) : outWf (execIspBandFlag p s) := by
  unfold execIspBandFlag
  repeat' first
    | with_reducible assumption | with_reducible apply outWf_done | with_reducible apply outWf_ite
    | with_reducible apply setBand_wf | split | dsimp only

theorem execCsiPairLost_wf (pair : Fin 4) (s : State) (h : s.mem.wf = true) : outWf (execCsiPairLost pair s) := by
  unfold execCsiPairLost
  repeat' first
    | with_reducible assumption | with_reducible apply outWf_done | with_reducible apply wf_ite
    | with_reducible apply outWf_ite | (with_reducible apply foldl_wf; intro _ _ _) | split | dsimp only
    | simp only [noteCam_mem, markCam_mem, updCam_mem, detectS1_mem]

@[simp] theorem headerCheck_mem (p : Nat) (h : HeaderEcc) (s : State) : (headerCheck p h s).2.mem = s.mem := by
  unfold headerCheck
  repeat' first
    | with_reducible rfl | (simp only [updCam_mem, raiseCamOnce_mem]; done) | split
    | simp only [updCam_mem, raiseCamOnce_mem]

@[simp] theorem heard_mem (p : Nat) (s : State) : (heard p s).mem = s.mem := by
  unfold heard
  repeat' first | with_reducible rfl | (simp only [updCam_mem]; done) | simp only [updCam_mem]

theorem closeRow_wf (p : Nat) (s : State) (h : s.mem.wf = true) : (closeRow p s).mem.wf = true := by
  unfold closeRow
  repeat' first
    | with_reducible assumption | with_reducible apply wf_ite | with_reducible apply lostRow_wf
    | with_reducible apply takeRow_wf | split | dsimp only | simp only [updCam_mem]

theorem startFrame_wf (p : Nat) (s : State) (h : s.mem.wf = true) : (startFrame p s).mem.wf = true := by
  unfold startFrame
  repeat' first
    | with_reducible assumption | with_reducible apply wf_ite | with_reducible apply closeFrame_wf
    | with_reducible apply closeRow_wf | split | dsimp only
    | simp only [raiseCam_mem, updCam_mem, raiseCamOnce_mem, openFrame_mem]

theorem execCsiFrameStart_wf (p : Fin 8) (vc : BitVec 4) (hdr : HeaderEcc) (s : State) (h : s.mem.wf = true) : outWf
    (execCsiFrameStart p vc hdr s) := by
  unfold execCsiFrameStart
  repeat' first
    | with_reducible assumption | with_reducible apply outWf_done | with_reducible apply outWf_ite
    | with_reducible apply startFrame_wf | split | dsimp only | simp only [headerCheck_mem, heard_mem]

theorem endFrame_wf (p : Nat) (s : State) (h : s.mem.wf = true) : (endFrame p s).mem.wf = true := by
  unfold endFrame
  repeat' first
    | with_reducible assumption | with_reducible apply wf_ite | with_reducible apply closeFrame_wf
    | with_reducible apply closeRow_wf | split | dsimp only | simp only [updCam_mem, raiseCamOnce_mem]

theorem execCsiFrameEnd_wf (p : Fin 8) (vc : BitVec 4) (hdr : HeaderEcc) (s : State) (h : s.mem.wf = true) : outWf
    (execCsiFrameEnd p vc hdr s) := by
  unfold execCsiFrameEnd
  repeat' first
    | with_reducible assumption | with_reducible apply outWf_done | with_reducible apply outWf_ite
    | with_reducible apply endFrame_wf | split | dsimp only | simp only [headerCheck_mem, heard_mem]

theorem execCsiLineStart_wf (p : Fin 8) (vc : BitVec 4) (hdr : HeaderEcc) (s : State) (h : s.mem.wf = true) : outWf
    (execCsiLineStart p vc hdr s) := by
  unfold execCsiLineStart
  repeat' first
    | with_reducible assumption | with_reducible apply outWf_done | with_reducible apply outWf_ite
    | with_reducible apply closeRow_wf | split | dsimp only | simp only [headerCheck_mem, heard_mem, updCam_mem]

theorem execCsiLineEnd_wf (p : Fin 8) (vc : BitVec 4) (hdr : HeaderEcc) (s : State) (h : s.mem.wf = true) : outWf
    (execCsiLineEnd p vc hdr s) := by
  unfold execCsiLineEnd
  repeat' first
    | with_reducible assumption | with_reducible apply outWf_done | with_reducible apply outWf_ite
    | with_reducible apply closeRow_wf | split | dsimp only | simp only [headerCheck_mem, heard_mem]

@[simp] theorem frameEvent_mem (p : Nat) (code : EventCode) (s : State) : (frameEvent p code s).mem = s.mem := by
  unfold frameEvent
  repeat' first
    | with_reducible rfl | (simp only [raiseCamOnce_mem, apply_ite State.mem, ite_self]; done) | split
    | simp only [raiseCamOnce_mem, apply_ite State.mem, ite_self]

@[simp] theorem discardType_mem (p : Nat) (s : State) : (discardType p s).mem = s.mem := by
  unfold discardType
  repeat' first
    | with_reducible rfl | (simp only [frameEvent_mem, updCam_mem]; done) | simp only [frameEvent_mem, updCam_mem]

@[simp] theorem crcCheck_mem (p : Nat) (ok : Bool) (s : State) : (crcCheck p ok s).mem = s.mem := by
  unfold crcCheck
  repeat' first
    | with_reducible rfl | (simp only [frameEvent_mem, updCam_mem, apply_ite State.mem, ite_self]; done) | split
    | simp only [frameEvent_mem, updCam_mem, apply_ite State.mem, ite_self]

theorem takePixels_wf (p : Nat) (f : Frame) (extra : Nat) (px : List Nat) (s : State) (h : s.mem.wf = true) :
    (takePixels p f extra px s).mem.wf = true := by
  unfold takePixels
  repeat' first
    | with_reducible assumption | with_reducible apply takeRow_wf | split | dsimp only | simp only [updCam_mem]

theorem pixelRow_wf (p : Nat) (f : Frame) (dt : Nat) (fixed crcOk : Bool) (payload : List Byte) (s : State) (h :
    s.mem.wf = true) : (pixelRow p f dt fixed crcOk payload s).mem.wf = true := by
  unfold pixelRow
  repeat' first
    | with_reducible assumption | with_reducible apply wf_ite | with_reducible apply takePixels_wf | split
    | dsimp only

theorem execCsiPixelRow_wf (p : Fin 8) (vc : BitVec 4) (dt : BitVec 6) (hdr : HeaderEcc) (crcOk : Bool) (payload :
    List Byte) (s : State) (h : s.mem.wf = true) : outWf (execCsiPixelRow p vc dt hdr crcOk payload s) := by
  unfold execCsiPixelRow
  repeat' first
    | with_reducible assumption | with_reducible apply outWf_done | with_reducible apply wf_ite
    | with_reducible apply outWf_ite | with_reducible apply lostRow_wf | with_reducible apply pixelRow_wf | split
    | dsimp only | simp only [headerCheck_mem, heard_mem, discardType_mem, crcCheck_mem]

theorem auxWrite_wf (port : Nat) (b : Nat × Nat) (k off : Nat) (bs : List Byte) (s : State) (h : s.mem.wf = true) :
    (auxWrite port b k off bs s).mem.wf = true := by
  unfold auxWrite
  repeat' first | with_reducible assumption | with_reducible apply unitWrite_wf | dsimp only

@[simp] theorem auxPacket_mem (p : Nat) (vc : Nat) (hdr : HeaderEcc) (crcOk : Bool) (s : State) : (auxPacket p vc hdr
    crcOk s).2.mem = s.mem := by
  unfold auxPacket
  repeat' first
    | with_reducible rfl
    | (simp only [headerCheck_mem, heard_mem, crcCheck_mem, apply_ite State.mem, ite_self]; done) | split
    | simp only [headerCheck_mem, heard_mem, crcCheck_mem, apply_ite State.mem, ite_self]

theorem execCsiEmbeddedData_wf (p : Fin 8) (vc : BitVec 4) (pkt : LongPacket) (s : State) (h : s.mem.wf = true)
    : outWf (execCsiEmbeddedData p vc pkt s) := by
  unfold execCsiEmbeddedData
  repeat' first
    | with_reducible assumption | with_reducible apply outWf_done | with_reducible apply outWf_ite
    | with_reducible apply auxWrite_wf | split | dsimp only | simp only [auxPacket_mem, updCam_mem]

theorem execCsiUserData_wf (p : Fin 8) (vc : BitVec 4) (kind : Fin 8) (pkt : LongPacket) (s : State) (h :
    s.mem.wf = true) : outWf (execCsiUserData p vc kind pkt s) := by
  unfold execCsiUserData
  repeat' first
    | with_reducible assumption | with_reducible apply outWf_done | with_reducible apply outWf_ite
    | with_reducible apply auxWrite_wf | split | dsimp only | simp only [auxPacket_mem, updCam_mem]

theorem execCsiGenericShort_wf (pkt : PortPacket) (s : State) (h : s.mem.wf = true) : outWf (execCsiGenericShort
    pkt s) := by
  unfold execCsiGenericShort
  repeat' first
    | with_reducible assumption | with_reducible apply outWf_done | with_reducible apply outWf_ite | split
    | dsimp only | simp only [headerCheck_mem, heard_mem, updCam_mem]

theorem execCsiUnsupportedPacket_wf (pkt : PortPacket) (dt : BitVec 6) (s : State) (h : s.mem.wf = true) : outWf
    (execCsiUnsupportedPacket pkt dt s) := by
  unfold execCsiUnsupportedPacket
  repeat' first
    | with_reducible assumption | with_reducible apply outWf_done | with_reducible apply outWf_ite | split
    | dsimp only | simp only [headerCheck_mem, heard_mem, discardType_mem]

theorem execCsiLineTimeout_wf (p : Fin 8) (s : State) (h : s.mem.wf = true) : outWf (execCsiLineTimeout p s) := by
  unfold execCsiLineTimeout
  repeat' first
    | with_reducible assumption | with_reducible apply outWf_done | with_reducible apply outWf_ite
    | with_reducible apply closeFrame_wf | with_reducible apply closeRow_wf | split | dsimp only

theorem execCsiFrameLate_wf (p : Fin 8) (s : State) (h : s.mem.wf = true) : outWf (execCsiFrameLate p s) := by
  unfold execCsiFrameLate
  repeat' first
    | with_reducible assumption | with_reducible apply outWf_done | with_reducible apply outWf_ite | split
    | dsimp only | simp only [raiseCam_mem, updCam_mem]

theorem execCsiPhySyncLost_wf (p : Fin 8) (s : State) (h : s.mem.wf = true) : outWf (execCsiPhySyncLost p s) := by
  unfold execCsiPhySyncLost
  repeat' first
    | with_reducible assumption | with_reducible apply outWf_done | with_reducible apply wf_ite
    | with_reducible apply outWf_ite | with_reducible apply closeFrame_wf | with_reducible apply closeRow_wf | split
    | dsimp only | simp only [raiseCamOnce_mem, updCam_mem]

theorem execCsiLaneSync_wf (p : Fin 8) (s : State) (h : s.mem.wf = true) : outWf (execCsiLaneSync p s) := by
  unfold execCsiLaneSync
  repeat' first
    | with_reducible assumption | with_reducible apply outWf_done | with_reducible apply outWf_ite | split
    | dsimp only | simp only [updCam_mem]

@[simp] theorem pipeFailed_mem (p pair pass : Nat) (s : State) : (pipeFailed p pair pass s).mem = s.mem := by
  unfold pipeFailed
  repeat' first
    | with_reducible rfl | simp only [invalidatePour_mem, recallPours_mem]
    | (with_reducible refine (foldl_mem ?_).trans ?_; intro _ _) | dsimp only

theorem execIspTestResult_wf (p : Fin 8) (sig : Word32) (s : State) (h : s.mem.wf = true) : outWf (execIspTestResult p
    sig s) := by
  unfold execIspTestResult
  repeat' first
    | with_reducible assumption | with_reducible apply outWf_done | with_reducible apply outWf_ite | split
    | dsimp only | simp only [updCam_mem, detectS1_mem, noteCam_mem, markCam_mem, pipeFailed_mem]

theorem execIspTestStale_wf (p : Fin 8) (s : State) (h : s.mem.wf = true) : outWf (execIspTestStale p s) := by
  unfold execIspTestStale
  repeat' first
    | with_reducible assumption | with_reducible apply outWf_done | with_reducible apply outWf_ite | split
    | dsimp only | simp only [updCam_mem, detectS1_mem, noteCam_mem, markCam_mem]

@[simp] theorem allocTask_mem (k : Task) (s : State) : (allocTask k s).mem = s.mem := by
  unfold allocTask
  repeat' first
    | with_reducible rfl
    | (simp only [settleTasks_mem, makeReady_mem, wakeWaits_mem, cancelAndSettle_mem, apply_ite State.mem,
        ite_self]; done)
    | split
    | simp only [settleTasks_mem, makeReady_mem, wakeWaits_mem, cancelAndSettle_mem, apply_ite State.mem, ite_self]

@[simp] theorem refuseSpawn_mem (t : Nat) (code : EventCode) (s : State) : (refuseSpawn t code s).mem = s.mem := by
  unfold refuseSpawn
  repeat' first | with_reducible rfl | (simp only [updPort_mem, raise_mem]; done) | simp only [updPort_mem, raise_mem]

@[simp] theorem submitSpawn_mem (t : Nat) (s : State) : (submitSpawn t s).mem = s.mem := by
  unfold submitSpawn
  repeat' first
    | with_reducible rfl
    | (simp only [refuseSpawn_mem, allocTask_mem, updPort_mem, apply_ite State.mem, ite_self]; done) | split
    | simp only [refuseSpawn_mem, allocTask_mem, updPort_mem, apply_ite State.mem, ite_self]

theorem execSpawn_wf (t : Fin 256) (s : State) (h : s.mem.wf = true) : outWf (execSpawn t s) := by
  unfold execSpawn
  repeat' first
    | with_reducible assumption | with_reducible apply outWf_done | dsimp only | simp only [submitSpawn_mem]

theorem portEnd_wf (t status : Nat) (s : State) (h : s.mem.wf = true) : (portEnd t status s).mem.wf = true := by
  unfold portEnd
  repeat' first
    | with_reducible assumption | with_reducible apply wf_ite | with_reducible apply endTask_wf | split | dsimp only

theorem tableError_wf (slot gen : Nat) (s : State) (h : s.mem.wf = true) : (tableError slot gen s).mem.wf = true := by
  unfold tableError
  repeat' first
    | with_reducible assumption | with_reducible apply abortPour_wf | split | dsimp only
    | simp only [detectS1_mem, cancelAndSettle_mem]

theorem execTaskEnd_wf (t : Fin 256) (status : BitVec 2) (ecc : Ecc) (s : State) (h : s.mem.wf = true) : outWf
    (execTaskEnd t status ecc s) := by
  unfold execTaskEnd
  repeat' first
    | with_reducible assumption | with_reducible apply outWf_done | with_reducible apply tableError_wf
    | with_reducible apply portEnd_wf | split | dsimp only
    | simp only [noteEcc_mem]

@[simp] theorem sendOperand_mem (slot gen index : Nat) (value : Word32) (status : Nat) (s : State) : (sendOperand slot
    gen index value status s).mem = s.mem := by
  unfold sendOperand
  repeat' first
    | with_reducible rfl | (simp only [settleTasks_mem, deliverOperand_mem]; done)
    | simp only [settleTasks_mem, deliverOperand_mem]

@[simp] theorem sendLink_mem (l : LinkWork) (s : State) : (sendLink l s).mem = s.mem := by
  unfold sendLink
  repeat' first
    | with_reducible rfl
    | (simp only [sendOperand_mem, settleTasks_mem, deliverToken_mem, raise_mem, apply_ite State.mem, ite_self]; done)
    | split
    | simp only [sendOperand_mem, settleTasks_mem, deliverToken_mem, raise_mem, apply_ite State.mem, ite_self]

theorem linkOrError_wf (ecc : Ecc) (l : LinkWork) (s : State) (h : s.mem.wf = true) : (linkOrError ecc l s).mem.wf =
    true := by
  unfold linkOrError
  repeat' first
    | with_reducible assumption | with_reducible apply wf_ite | with_reducible apply tableError_wf | split
    | dsimp only | simp only [noteEcc_mem, sendLink_mem]

theorem execSuccessorLink_wf (ecc : Ecc) (s : State) (h : s.mem.wf = true) : outWf (execSuccessorLink ecc s) := by
  unfold execSuccessorLink
  repeat' first
    | with_reducible assumption | with_reducible apply outWf_done | with_reducible apply outWf_ite
    | with_reducible apply linkOrError_wf | split | dsimp only | simp only [dropTask_mem]

theorem execOperandSend_wf (_t : Fin 256) (slot : BitVec 13) (index : BitVec 2) (gen : Byte) (value : Word32) (ecc :
    Ecc) (s : State) (h : s.mem.wf = true) : outWf (execOperandSend _t slot index gen value ecc s) := by
  unfold execOperandSend
  repeat' first
    | with_reducible assumption | with_reducible apply outWf_done | with_reducible apply outWf_ite
    | with_reducible apply tableError_wf | split | dsimp only | simp only [noteEcc_mem, sendOperand_mem]

@[simp] theorem cancelWrite_mem (slot gen : Nat) (s : State) : (cancelWrite slot gen s).mem = s.mem := by
  unfold cancelWrite
  repeat' first
    | with_reducible rfl | (simp only [raise_mem, cancelAndSettle_mem]; done) | split
    | simp only [raise_mem, cancelAndSettle_mem]

theorem execSchCancel_wf (who : Agent) (slot : BitVec 13) (gen : Byte) (s : State) (h : s.mem.wf = true) : outWf
    (execSchCancel who slot gen s) := by
  unfold execSchCancel
  repeat' first
    | with_reducible assumption | with_reducible apply outWf_done | with_reducible apply outWf_ite | split
    | dsimp only | simp only [cancelWrite_mem]

@[simp] theorem bindTask_mem (k : Task) (th : Nat) (d : AsyncDelivery) (gs : List Group) (s : State) : (bindTask k th
    d gs s).mem = s.mem := by
  unfold bindTask
  repeat' first
    | with_reducible rfl | (simp only [countSel_mem, updTask_mem, updThread_mem]; done) | simp only [countSel_mem, updTask_mem, updThread_mem]

theorem deliverOrError_wf (ecc : Ecc) (k : Task) (th : Nat) (d : AsyncDelivery) (gs : List Group) (s : State) (h :
    s.mem.wf = true) : (deliverOrError ecc k th d gs s).mem.wf = true := by
  unfold deliverOrError
  repeat' first
    | with_reducible assumption | with_reducible apply wf_ite | with_reducible apply tableError_wf | split
    | dsimp only | simp only [noteEcc_mem, bindTask_mem]

theorem execSchDelivery_wf (ecc : Ecc) (s : State) (h : s.mem.wf = true) : outWf (execSchDelivery ecc s) := by
  unfold execSchDelivery
  repeat' first
    | with_reducible assumption | with_reducible apply outWf_done | with_reducible apply outWf_ite
    | with_reducible apply deliverOrError_wf | split | dsimp only

@[simp] theorem noteIssue_mem (t : Nat) (s : State) : (noteIssue t s).mem = s.mem := by
  unfold noteIssue
  repeat' first | with_reducible rfl

@[simp] theorem holdBack_mem (t : Nat) (s : State) : (holdBack t s).mem = s.mem := by
  unfold holdBack
  repeat' first
    | with_reducible rfl | (simp only [updThread_mem, apply_ite State.mem, ite_self]; done) | split
    | simp only [updThread_mem, apply_ite State.mem, ite_self]

@[simp] theorem writeG_mem (t : Nat) (r : BitVec 5) (v : Word64) (s : State) : (writeG t r v s).mem = s.mem := by
  unfold writeG
  repeat' first
    | with_reducible rfl | (simp only [updThread_mem, apply_ite State.mem, ite_self]; done) | split
    | simp only [updThread_mem, apply_ite State.mem, ite_self]

@[simp] theorem complete_mem (t : Nat) (s : State) : (complete t s).mem = s.mem := by
  unfold complete
  repeat' first | with_reducible rfl | (simp only [updThread_mem]; done) | simp only [updThread_mem]

@[simp] theorem returnDelivery_mem (d : AsyncDelivery) (s : State) : (returnDelivery d s).mem = s.mem := by
  unfold returnDelivery
  repeat' first
    | with_reducible rfl | (simp only [updTask_mem, apply_ite State.mem, ite_self]; done) | split
    | simp only [updTask_mem, apply_ite State.mem, ite_self]

theorem loseTasks_wf (t : Nat) (s : State) (h : s.mem.wf = true) : (loseTasks t s).mem.wf = true := by
  unfold loseTasks
  repeat' first
    | with_reducible assumption | with_reducible apply endTask_wf | (with_reducible apply foldl_wf; intro _ _ _)
    | split | dsimp only | simp only [updThread_mem, returnDelivery_mem, updPort_mem]

theorem haltThread_wf (t : Nat) (s : State) (h : s.mem.wf = true) : (haltThread t s).mem.wf = true := by
  unfold haltThread
  repeat' first
    | with_reducible assumption | with_reducible apply loseTasks_wf | dsimp only
    | simp only [raise_mem, updThread_mem]

@[simp] theorem dropResv_mem (t : Nat) (s : State) : (dropResv t s).mem = s.mem := by
  unfold dropResv
  repeat' first
    | with_reducible rfl | (simp only [sendPeer_mem, updThread_mem]; done) | split
    | simp only [sendPeer_mem, updThread_mem]

theorem takeException_wf (t code detail addr epc : Nat) (ds : Bool) (s : State) (h : s.mem.wf = true) : (takeException
    t code detail addr epc ds s).mem.wf = true := by
  unfold takeException
  repeat' first
    | with_reducible assumption | with_reducible apply wf_ite | with_reducible apply haltThread_wf | split
    | dsimp only | simp only [raise_mem, updThread_mem, dropResv_mem]

theorem fault_wf (t code detail addr : Nat) (s : State) (h : s.mem.wf = true) : (fault t code detail addr s).mem.wf =
    true := by
  unfold fault
  repeat' first | with_reducible assumption | with_reducible apply takeException_wf | split | dsimp only

theorem illegal_wf (t : Nat) (s : State) (h : s.mem.wf = true) : (illegal t s).mem.wf = true := by
  unfold illegal
  repeat' first | with_reducible assumption | with_reducible apply fault_wf | dsimp only

theorem privFault_wf (t : Nat) (s : State) (h : s.mem.wf = true) : (privFault t s).mem.wf = true := by
  unfold privFault
  repeat' first | with_reducible assumption | with_reducible apply fault_wf | dsimp only

@[simp] theorem spoilPour_mem (t : Nat) (s : State) : (spoilPour t s).mem = s.mem := by
  unfold spoilPour
  repeat' first | with_reducible rfl | (simp only [invalidatePour_mem]; done) | split | simp only [invalidatePour_mem]

theorem accessFault_wf (t code addr : Nat) (f : AccessFault) (s : State) (h : s.mem.wf = true) : (accessFault t code
    addr f s).mem.wf = true := by
  unfold accessFault
  repeat' first
    | with_reducible assumption | with_reducible apply wf_ite | with_reducible apply fault_wf | split | dsimp only
    | simp only [spoilPour_mem]

theorem issue_wf (t : Nat) (body : State → State) (s : State) (h : s.mem.wf = true)
    (hb : ∀ x : State, x.mem.wf = true → (body x).mem.wf = true) : (issue t body s).mem.wf = true := by
  unfold issue
  dsimp only
  split
  · exact h
  · have hr := checkAccess_wf t (threadAt s t).keeper .execute (threadAt s t).pc 4 false
      (noteIssue t (updThread t (fun th => { th with lastPc := th.pc }) (countSel 7 1 s)))
      (by rw [noteIssue_mem, updThread_mem, countSel_mem]; exact h)
    split
    · exact hb _ hr
    · exact accessFault_wf _ _ _ _ _ hr

theorem bccBody_wf (t : Nat) (cond : BitVec 3) (ga gb : BitVec 5) (off : BitVec 13) (s : State) (h : s.mem.wf = true)
    : (bccBody t cond ga gb off s).mem.wf = true := by
  unfold bccBody
  repeat' first
    | with_reducible assumption | with_reducible apply wf_ite | with_reducible apply illegal_wf | split | dsimp only
    | simp only [updThread_mem]

theorem execBcc_wf (t : Fin 256) (cond : BitVec 3) (ga gb : BitVec 5) (off : BitVec 13) (s : State) (h : s.mem.wf =
    true) : outWf (execBcc t cond ga gb off s) := by
  unfold execBcc
  repeat' first
    | with_reducible assumption | with_reducible apply outWf_done | with_reducible apply issue_wf
    | with_reducible apply bccBody_wf | dsimp only | intro _ _

theorem balBody_wf (t : Nat) (off : BitVec 26) (s : State) (h : s.mem.wf = true) : (balBody t off s).mem.wf =
    true := by
  unfold balBody
  repeat' first
    | with_reducible assumption | with_reducible apply wf_ite | with_reducible apply illegal_wf | split | dsimp only
    | simp only [updThread_mem, writeG_mem]

theorem execBal_wf (t : Fin 256) (off : BitVec 26) (s : State) (h : s.mem.wf = true) : outWf (execBal t off s) := by
  unfold execBal
  repeat' first
    | with_reducible assumption | with_reducible apply outWf_done | with_reducible apply issue_wf
    | with_reducible apply balBody_wf | dsimp only | intro _ _

theorem jumpBody_wf (t : Nat) (gs : BitVec 5) (link : Bool) (s : State) (h : s.mem.wf = true) : (jumpBody t gs link
    s).mem.wf = true := by
  unfold jumpBody
  repeat' first
    | with_reducible assumption | with_reducible apply wf_ite | with_reducible apply illegal_wf
    | with_reducible apply fault_wf | split | dsimp only | simp only [updThread_mem, writeG_mem]

theorem execJr_wf (t : Fin 256) (gs : BitVec 5) (s : State) (h : s.mem.wf = true) : outWf (execJr t gs s) := by
  unfold execJr
  repeat' first
    | with_reducible assumption | with_reducible apply outWf_done | with_reducible apply issue_wf
    | with_reducible apply jumpBody_wf | dsimp only | intro _ _

theorem execJalr_wf (t : Fin 256) (gs : BitVec 5) (s : State) (h : s.mem.wf = true) : outWf (execJalr t gs s) := by
  unfold execJalr
  repeat' first
    | with_reducible assumption | with_reducible apply outWf_done | with_reducible apply issue_wf
    | with_reducible apply jumpBody_wf | dsimp only | intro _ _

theorem loopnBody_wf (t : Nat) (lvl : BitVec 1) (gs : BitVec 5) (len : BitVec 16) (s : State) (h : s.mem.wf = true) :
    (loopnBody t lvl gs len s).mem.wf = true := by
  unfold loopnBody
  repeat' first
    | with_reducible assumption | with_reducible apply wf_ite | with_reducible apply illegal_wf | split | dsimp only
    | simp only [updThread_mem]

theorem execLoopn_wf (t : Fin 256) (lvl : BitVec 1) (gs : BitVec 5) (len : BitVec 16) (s : State) (h : s.mem.wf =
    true) : outWf (execLoopn t lvl gs len s) := by
  unfold execLoopn
  repeat' first
    | with_reducible assumption | with_reducible apply outWf_done | with_reducible apply issue_wf
    | with_reducible apply loopnBody_wf | dsimp only | intro _ _

theorem modeBody_wf (t : Nat) (m : BitVec 1) (s : State) (h : s.mem.wf = true) : (modeBody t m s).mem.wf = true := by
  unfold modeBody
  repeat' first
    | with_reducible assumption | with_reducible apply wf_ite | with_reducible apply illegal_wf
    | with_reducible apply privFault_wf | split | dsimp only | simp only [updThread_mem]

theorem execMode_wf (t : Fin 256) (m : BitVec 1) (s : State) (h : s.mem.wf = true) : outWf (execMode t m s) := by
  unfold execMode
  repeat' first
    | with_reducible assumption | with_reducible apply outWf_done | with_reducible apply issue_wf
    | with_reducible apply modeBody_wf | dsimp only | intro _ _

theorem trapBody_wf (t : Nat) (code : BitVec 16) (s : State) (h : s.mem.wf = true) : (trapBody t code s).mem.wf =
    true := by
  unfold trapBody
  repeat' first
    | with_reducible assumption | with_reducible apply wf_ite | with_reducible apply illegal_wf
    | with_reducible apply fault_wf | with_reducible apply takeException_wf | split | dsimp only
    | simp only [updThread_mem]

theorem execTrap_wf (t : Fin 256) (code : BitVec 16) (s : State) (h : s.mem.wf = true) : outWf (execTrap t code
    s) := by
  unfold execTrap
  repeat' first
    | with_reducible assumption | with_reducible apply outWf_done | with_reducible apply issue_wf
    | with_reducible apply trapBody_wf | dsimp only | intro _ _

theorem xretBody_wf (t : Nat) (s : State) (h : s.mem.wf = true) : (xretBody t s).mem.wf = true := by
  unfold xretBody
  repeat' first
    | with_reducible assumption | with_reducible apply wf_ite | with_reducible apply illegal_wf
    | with_reducible apply privFault_wf | split | dsimp only | simp only [updThread_mem, dropResv_mem]

theorem execXret_wf (t : Fin 256) (s : State) (h : s.mem.wf = true) : outWf (execXret t s) := by
  unfold execXret
  repeat' first
    | with_reducible assumption | with_reducible apply outWf_done | with_reducible apply issue_wf
    | with_reducible apply xretBody_wf | dsimp only | intro _ _

theorem mfsBody_wf (t : Nat) (gd sr : BitVec 5) (s : State) (h : s.mem.wf = true) : (mfsBody t gd sr s).mem.wf =
    true := by
  unfold mfsBody
  repeat' first
    | with_reducible assumption | with_reducible apply wf_ite | with_reducible apply illegal_wf
    | with_reducible apply privFault_wf | split | dsimp only | simp only [complete_mem, writeG_mem]

theorem execMfs_wf (t : Fin 256) (gd sr : BitVec 5) (s : State) (h : s.mem.wf = true) : outWf (execMfs t gd sr
    s) := by
  unfold execMfs
  repeat' first
    | with_reducible assumption | with_reducible apply outWf_done | with_reducible apply issue_wf
    | with_reducible apply mfsBody_wf | dsimp only | intro _ _

theorem mtsBody_wf (t : Nat) (sr gs : BitVec 5) (s : State) (h : s.mem.wf = true) : (mtsBody t sr gs s).mem.wf =
    true := by
  unfold mtsBody
  repeat' first
    | with_reducible assumption | with_reducible apply wf_ite | with_reducible apply illegal_wf
    | with_reducible apply privFault_wf | split | dsimp only | simp only [complete_mem, updThread_mem]

theorem execMts_wf (t : Fin 256) (sr gs : BitVec 5) (s : State) (h : s.mem.wf = true) : outWf (execMts t sr gs
    s) := by
  unfold execMts
  repeat' first
    | with_reducible assumption | with_reducible apply outWf_done | with_reducible apply issue_wf
    | with_reducible apply mtsBody_wf | dsimp only | intro _ _

@[simp] theorem memoryError_mem (t : Nat) (s : State) : (memoryError t s).mem = s.mem := by
  unfold memoryError
  repeat' first
    | with_reducible rfl | (simp only [spoilPour_mem, detectS1_mem]; done) | simp only [spoilPour_mem, detectS1_mem]

theorem parityHalt_wf (t : Nat) (s : State) (h : s.mem.wf = true) : (parityHalt t s).mem.wf = true := by
  unfold parityHalt
  repeat' first
    | with_reducible assumption | with_reducible apply haltThread_wf | dsimp only | simp only [detectS1_mem]

theorem ordinaryBody_wf (t : Nat) (op : OrdinaryOp) (s : State) (h : s.mem.wf = true) : (ordinaryBody t op s).mem.wf =
    true := by
  unfold ordinaryBody
  repeat' first
    | with_reducible assumption | with_reducible apply illegal_wf | with_reducible apply fault_wf
    | with_reducible apply parityHalt_wf | split | dsimp only | simp only [complete_mem, writeG_mem, memoryError_mem]

theorem execOrdinaryInstruction_wf (t : Fin 256) (op : OrdinaryOp) (s : State) (h : s.mem.wf = true) : outWf
    (execOrdinaryInstruction t op s) := by
  unfold execOrdinaryInstruction
  repeat' first
    | with_reducible assumption | with_reducible apply outWf_done | with_reducible apply issue_wf
    | with_reducible apply ordinaryBody_wf | dsimp only | intro _ _

@[simp] theorem showTask_mem (t : Nat) (k : Task) (s : State) : (showTask t k s).mem = s.mem := by
  unfold showTask
  repeat' first
    | with_reducible rfl | (simp only [updPort_mem, updTask_mem, apply_ite State.mem, ite_self]; done) | split
    | simp only [updPort_mem, updTask_mem, apply_ite State.mem, ite_self]

theorem preemptVictim_wf (t : Nat) (v : Nat × Nat) (s : State) (h : s.mem.wf = true) : (preemptVictim t v s).mem.wf =
    true := by
  unfold preemptVictim
  repeat' first
    | with_reducible assumption | with_reducible apply wf_ite | with_reducible apply endTask_wf | split | dsimp only
    | simp only [updThread_mem, updTask_mem]

theorem takeDelivery_wf (t : Nat) (d : AsyncDelivery) (s : State) (h : s.mem.wf = true) : (takeDelivery t d s).mem.wf
    = true := by
  unfold takeDelivery
  repeat' first
    | with_reducible assumption | with_reducible apply wf_ite | with_reducible apply takeException_wf
    | with_reducible apply preemptVictim_wf | split | dsimp only | simp only [updThread_mem, showTask_mem]

theorem execAsyncDeliveryTaken_wf (t : Fin 256) (s : State) (h : s.mem.wf = true) : outWf (execAsyncDeliveryTaken t
    s) := by
  unfold execAsyncDeliveryTaken
  repeat' first
    | with_reducible assumption | with_reducible apply outWf_done | with_reducible apply outWf_ite
    | with_reducible apply takeDelivery_wf | split | dsimp only

theorem refuseRsr_wf (who : Agent) (s : State) (h : s.mem.wf = true) : (refuseRsr who s).mem.wf = true := by
  unfold refuseRsr
  repeat' first
    | with_reducible assumption | with_reducible apply wf_ite | with_reducible apply privFault_wf | split
    | dsimp only

theorem execXltInv_wf (who : Agent) (ctx : BitVec 6) (everything : Bool) (s : State) (h : s.mem.wf = true) : outWf
    (execXltInv who ctx everything s) := by
  unfold execXltInv
  repeat' first
    | with_reducible assumption | with_reducible apply refuseRsr_wf | with_reducible apply outWf_done | with_reducible apply outWf_ite | split
    | dsimp only | simp only [startInv_mem]

theorem execFwlLock_wf (who : Agent) (r : Fin 64) (s : State) (h : s.mem.wf = true) : outWf (execFwlLock who r
    s) := by
  unfold execFwlLock
  repeat' first
    | with_reducible assumption | with_reducible apply refuseRsr_wf | with_reducible apply outWf_done | with_reducible apply outWf_ite | split
    | dsimp only | simp only [writeRegion_mem]

theorem execCtrReadLow_wf (who : Agent) (ctr : CounterName) (s : State) (h : s.mem.wf = true) : outWf (execCtrReadLow
    who ctr s) := by
  unfold execCtrReadLow
  repeat' first
    | with_reducible assumption | with_reducible apply refuseRsr_wf | with_reducible apply outWf_done | with_reducible apply outWf_ite | split
    | dsimp only | simp only [ctrReadLow_mem]

theorem execCtrReadHigh_wf (who : Agent) (ctr : CounterName) (s : State) (h : s.mem.wf = true) : outWf
    (execCtrReadHigh who ctr s) := by
  unfold execCtrReadHigh
  repeat' first
    | with_reducible assumption | with_reducible apply refuseRsr_wf | with_reducible apply outWf_done | with_reducible apply outWf_ite | split
    | dsimp only | simp only [ctrReadHigh_mem]

@[simp] theorem releaseOne_mem (t : Nat) (s : State) : (releaseOne t s).mem = s.mem := by
  unfold releaseOne
  repeat' first
    | with_reducible rfl | (simp only [updThread_mem, apply_ite State.mem, ite_self]; done) | split
    | simp only [updThread_mem, apply_ite State.mem, ite_self]

@[simp] theorem releaseThreads_mem (w : Nat) (mask : Word32) (s : State) : (releaseThreads w mask s).mem = s.mem := by
  unfold releaseThreads
  repeat' first
    | with_reducible rfl | simp only [releaseOne_mem] | (with_reducible refine (foldl_mem ?_).trans ?_; intro _ _)
    | dsimp only

theorem execThreadRelease_wf (who : Agent) (word : Fin 8) (mask : Word32) (s : State) (h : s.mem.wf = true) : outWf
    (execThreadRelease who word mask s) := by
  unfold execThreadRelease
  repeat' first
    | with_reducible assumption | with_reducible apply outWf_done | with_reducible apply outWf_ite
    | with_reducible apply refuseRsr_wf | split | dsimp only | simp only [releaseThreads_mem]

theorem resetThread_wf (t : Nat) (s : State) (h : s.mem.wf = true) : (resetThread t s).mem.wf = true := by
  unfold resetThread
  repeat' first
    | with_reducible assumption | with_reducible apply wf_ite | with_reducible apply loseTasks_wf | split
    | dsimp only | simp only [updThread_mem, dropResv_mem, releaseOne_mem]

theorem execThreadReset_wf (who : Agent) (t : Fin 256) (s : State) (h : s.mem.wf = true) : outWf (execThreadReset who
    t s) := by
  unfold execThreadReset
  repeat' first
    | with_reducible assumption | with_reducible apply outWf_done | with_reducible apply outWf_ite
    | with_reducible apply resetThread_wf | with_reducible apply refuseRsr_wf | split | dsimp only

@[simp] theorem pauseAtTile_mem (t : Nat) (s : State) : (pauseAtTile t s).mem = s.mem := by
  unfold pauseAtTile
  repeat' first
    | with_reducible rfl | (simp only [updRun_mem, apply_ite State.mem, ite_self]; done) | split
    | simp only [updRun_mem, apply_ite State.mem, ite_self]

@[simp] theorem requestTarget_mem (c t : Nat) (s : State) : (requestTarget c t s).mem = s.mem := by
  unfold requestTarget
  repeat' first
    | with_reducible rfl
    | (simp only [updClass_mem, pauseAtTile_mem, withhold_mem, roleMoves_mem, noteTestPhys_mem, apply_ite State.mem,
        ite_self]; done)
    | split
    | simp only [updClass_mem, pauseAtTile_mem, withhold_mem, roleMoves_mem, noteTestPhys_mem, apply_ite State.mem,
        ite_self]

@[simp] theorem startTest_mem (c : Nat) (s : State) : (startTest c s).mem = s.mem := by
  unfold startTest
  repeat' first
    | with_reducible rfl | (simp only [beginTest_mem, requestTarget_mem, apply_ite State.mem, ite_self]; done)
    | split | simp only [beginTest_mem, requestTarget_mem, apply_ite State.mem, ite_self]

theorem execTestStart_wf (cls : TestClass) (s : State) (h : s.mem.wf = true) : outWf (execTestStart cls s) := by
  unfold execTestStart
  repeat' first
    | with_reducible assumption | with_reducible apply outWf_done | with_reducible apply outWf_ite | split
    | dsimp only | simp only [startTest_mem]

@[simp] theorem afterPass_mem (c u : Nat) (s : State) : (afterPass c u s).mem = s.mem := by
  unfold afterPass
  repeat' first
    | with_reducible rfl
    | (simp only [requestTarget_mem, updClass_mem, withhold_mem, resumeArray_mem, noteTestPhys_mem,
        settleBindings_mem, apply_ite State.mem, ite_self]; done)
    | split
    | simp only [requestTarget_mem, updClass_mem, withhold_mem, resumeArray_mem, noteTestPhys_mem,
        settleBindings_mem, apply_ite State.mem, ite_self]

@[simp] theorem traceTestEnd_mem (u : Nat) (s : State) : (traceTestEnd u s).mem = s.mem := by
  unfold traceTestEnd
  repeat' first
    | with_reducible rfl | (simp only [drawFree_mem, traceTest_mem]; done) | simp only [drawFree_mem, traceTest_mem]

theorem scoreTest_wf (cls : TestClass) (u : Nat) (res : TestOutcome) (s : State) (h : s.mem.wf = true) : (scoreTest
    cls u res s).mem.wf = true := by
  unfold scoreTest
  repeat' first
    | with_reducible assumption | with_reducible apply wf_ite | with_reducible apply unitFailed_wf | split
    | dsimp only
    | simp only [traceTestEnd_mem, takeInjection_mem, drawFree_mem, updClass_mem, afterPass_mem, detectS1_mem]

theorem execTestScore_wf (cls : TestClass) (res : TestOutcome) (s : State) (h : s.mem.wf = true) : outWf
    (execTestScore cls res s) := by
  unfold execTestScore
  repeat' first
    | with_reducible assumption | with_reducible apply outWf_done | with_reducible apply outWf_ite
    | with_reducible apply scoreTest_wf | split | dsimp only

theorem execHandoverForced_wf (cls : TestClass) (s : State) (h : s.mem.wf = true) : outWf (execHandoverForced cls
    s) := by
  unfold execHandoverForced
  repeat' first
    | with_reducible assumption | with_reducible apply outWf_done | with_reducible apply outWf_ite
    | with_reducible apply abortPour_wf | split | dsimp only | simp only [raise_mem]

theorem execTestStale_wf (u : Fin 35) (s : State) (h : s.mem.wf = true) : outWf (execTestStale u s) := by
  unfold execTestStale
  repeat' first
    | with_reducible assumption | with_reducible apply outWf_done | with_reducible apply outWf_ite | split
    | dsimp only | simp only [detectS1_mem, invalidatePour_mem]

@[simp] theorem clearBusy_mem (u : Nat) (s : State) : (clearBusy u s).mem = s.mem := by
  unfold clearBusy
  repeat' first
    | with_reducible rfl | (simp only [ladleRelease_mem, endNode_mem, apply_ite State.mem, ite_self]; done) | split
    | simp only [ladleRelease_mem, endNode_mem, apply_ite State.mem, ite_self]

theorem execTokenTimeout_wf (u : Fin 35) (s : State) (h : s.mem.wf = true) : outWf (execTokenTimeout u s) := by
  unfold execTokenTimeout
  repeat' first
    | with_reducible assumption | with_reducible apply outWf_done | with_reducible apply outWf_ite
    | with_reducible apply unitFailed_wf | split | dsimp only
    | simp only [viewConflict_mem, roleMoves_mem, clearBusy_mem]

theorem execHealthSidebandFault_wf (u : Fin 35) (s : State) (h : s.mem.wf = true) : outWf (execHealthSidebandFault u
    s) := by
  unfold execHealthSidebandFault
  repeat' first
    | with_reducible assumption | with_reducible apply outWf_done | with_reducible apply outWf_ite
    | with_reducible apply unitFailed_wf | split | dsimp only | simp only [viewConflict_mem]

@[simp] theorem injectTest_mem (u : Nat) (k : Injection) (s : State) : (injectTest u k s).mem = s.mem := by
  unfold injectTest
  repeat' first | with_reducible rfl | (simp only [raise_mem]; done) | simp only [raise_mem]

theorem execTstInjectSignature_wf (who : Agent) (u : Fin 35) (s : State) (h : s.mem.wf = true) : outWf
    (execTstInjectSignature who u s) := by
  unfold execTstInjectSignature
  repeat' first
    | with_reducible assumption | with_reducible apply outWf_done | with_reducible apply outWf_ite | split
    | dsimp only | simp only [injectTest_mem]

theorem execTstInjectParity_wf (who : Agent) (u : Fin 35) (s : State) (h : s.mem.wf = true) : outWf
    (execTstInjectParity who u s) := by
  unfold execTstInjectParity
  repeat' first
    | with_reducible assumption | with_reducible apply outWf_done | with_reducible apply outWf_ite | split
    | dsimp only | simp only [injectTest_mem]

theorem execTstInjectView_wf (who : Agent) (u : Fin 35) (s : State) (h : s.mem.wf = true) : outWf (execTstInjectView
    who u s) := by
  unfold execTstInjectView
  repeat' first
    | with_reducible assumption | with_reducible apply outWf_done | with_reducible apply outWf_ite | split
    | dsimp only | simp only [injectTest_mem]

end Sys2Proof.Machine
end

