-- ==== Sys2Proof/Laws/MemStart.lean ====
section
/-! SUPPORT. The memory across the Assayer, the links, power, pattern loading and the start sequence: a function that never writes it leaves it
as it is (_mem); any other keeps its canonical form (_wf). -/

set_option linter.unusedTactic false
set_option linter.unusedVariables false
set_option linter.unreachableTactic false
set_option linter.unusedSimpArgs false

namespace Sys2Proof.Machine

theorem execAsyLockstep_wf (s : State) (h : s.mem.wf = true) : outWf (execAsyLockstep s) := by
  unfold execAsyLockstep
  repeat' first
    | with_reducible assumption | with_reducible apply outWf_done | with_reducible apply outWf_ite
    | with_reducible apply detectS2_wf | split | dsimp only

@[simp] theorem passBurst_mem (s : State) : (passBurst s).mem = s.mem := by
  unfold passBurst
  repeat' first | with_reducible rfl

theorem execHeartbeatBurst_wf (report : BurstReport) (s : State) (h : s.mem.wf = true) : outWf (execHeartbeatBurst
    report s) := by
  unfold execHeartbeatBurst
  repeat' first
    | with_reducible assumption | with_reducible apply outWf_done | with_reducible apply outWf_ite
    | with_reducible apply detectS2_wf | split | dsimp only | simp only [passBurst_mem]

theorem execHeartbeatMissed_wf (s : State) (h : s.mem.wf = true) : outWf (execHeartbeatMissed s) := by
  unfold execHeartbeatMissed
  repeat' first
    | with_reducible assumption | with_reducible apply outWf_done | with_reducible apply outWf_ite
    | with_reducible apply detectS2_wf | split | dsimp only

theorem execWitnessResult_wf (slot : Fin 8) (seq : Word32) (ecc : Ecc) (s : State) (h : s.mem.wf = true) : outWf
    (execWitnessResult slot seq ecc s) := by
  unfold execWitnessResult
  repeat' first
    | with_reducible assumption | with_reducible apply outWf_done | with_reducible apply outWf_ite
    | with_reducible apply detectS2_wf | split | dsimp only
    | simp only [noteEcc_mem]

@[simp] theorem checkEvent_mem (k : Nat) (pairs : BitVec 4) (s : State) : (checkEvent k pairs s).mem = s.mem := by
  unfold checkEvent
  repeat' first
    | with_reducible rfl | (simp only [detectS1_mem, raise_mem]; done) | split | simp only [detectS1_mem, raise_mem]

@[simp] theorem failNotices_mem (a : Announce) (i k : Nat) (s : State) : (failNotices a i k s).mem = s.mem := by
  unfold failNotices
  repeat' first
    | with_reducible rfl | split | simp only [pushNotice_mem, apply_ite State.mem, ite_self]
    | (with_reducible refine (foldl_mem ?_).trans ?_; intro _ _) | dsimp only

@[simp] theorem countCheck_mem (k n : Nat) (s : State) : (countCheck k n s).mem = s.mem := by
  unfold countCheck
  repeat' first | with_reducible rfl

@[simp] theorem settleAnnounce_mem (r : PourRef) (s : State) : (settleAnnounce r s).mem = s.mem := by
  unfold settleAnnounce
  repeat' first | with_reducible rfl

@[simp] theorem judgePour_mem (q : Pour) (a : Announce) (v : WitnessView) (s : State) : (judgePour q a v s).mem =
    s.mem := by
  unfold judgePour
  repeat' first
    | with_reducible rfl | (simp only [settleAnnounce_mem, failNotices_mem, checkEvent_mem, countCheck_mem]; done)
    | split | simp only [settleAnnounce_mem, failNotices_mem, checkEvent_mem, countCheck_mem]

theorem execAsyJudgePour_wf (slot : Fin 8) (seq : Word32) (ecc : Ecc) (s : State) (h : s.mem.wf = true) : outWf
    (execAsyJudgePour slot seq ecc s) := by
  unfold execAsyJudgePour
  repeat' first
    | with_reducible assumption | with_reducible apply outWf_done | with_reducible apply outWf_ite
    | with_reducible apply detectS2_wf | split | dsimp only | simp only [noteEcc_mem, judgePour_mem]

@[simp] theorem recordHistory_mem (b : Batch) (s : State) : (recordHistory b s).mem = s.mem := by
  unfold recordHistory
  repeat' first | with_reducible rfl

@[simp] theorem ledgerBatch_mem (b : Batch) (s : State) : (ledgerBatch b s).mem = s.mem := by
  unfold ledgerBatch
  repeat' first | with_reducible rfl | (simp only [pruneLedger_mem]; done) | simp only [pruneLedger_mem]

@[simp] theorem releaseBatch_mem (b : Batch) (s : State) : (releaseBatch b s).mem = s.mem := by
  unfold releaseBatch
  repeat' first
    | with_reducible rfl
    | (simp only [recordHistory_mem, ledgerBatch_mem, pushRecords_mem, apply_ite State.mem, ite_self]; done) | split
    | simp only [recordHistory_mem, ledgerBatch_mem, pushRecords_mem, apply_ite State.mem, ite_self]

@[simp] theorem lateBatch_mem (b : Batch) (s : State) : (lateBatch b s).mem = s.mem := by
  unfold lateBatch
  repeat' first
    | with_reducible rfl | simp only [countCheck_mem, detectS1_mem, pushNotice_mem]
    | (with_reducible refine (foldl_mem ?_).trans ?_; intro _ _) | dsimp only

theorem execBatchRelease_wf (s : State) (h : s.mem.wf = true) : outWf (execBatchRelease s) := by
  unfold execBatchRelease
  repeat' first
    | with_reducible assumption | with_reducible apply outWf_done | with_reducible apply wf_ite
    | with_reducible apply outWf_ite | split | dsimp only
    | simp only [driveLines_mem, lateBatch_mem, releaseBatch_mem]

theorem execQueueStall_wf (s : State) (h : s.mem.wf = true) : outWf (execQueueStall s) := by
  unfold execQueueStall
  repeat' first
    | with_reducible assumption | with_reducible apply outWf_done | split | dsimp only
    | simp only [driveLines_mem, detectS1_mem]

@[simp] theorem declareMissing_mem (a : Announce) (s : State) : (declareMissing a s).mem = s.mem := by
  unfold declareMissing
  repeat' first
    | with_reducible rfl | (simp only [noticesOf_mem, detectS1_mem]; done) | simp only [noticesOf_mem, detectS1_mem]

@[simp] theorem pruneAnnounced_mem (s : State) : (pruneAnnounced s).mem = s.mem := by
  unfold pruneAnnounced
  repeat' first | with_reducible rfl

theorem execAgeTick_wf (s : State) (h : s.mem.wf = true) : outWf (execAgeTick s) := by
  unfold execAgeTick
  repeat' first
    | with_reducible assumption | with_reducible apply outWf_done | with_reducible apply wf_ite
    | with_reducible apply outWf_ite | (with_reducible apply foldl_wf; intro _ _ _) | split | dsimp only
    | simp only [pruneAnnounced_mem, declareMissing_mem]

theorem execS1Exit_wf (s : State) (h : s.mem.wf = true) : outWf (execS1Exit s) := by
  unfold execS1Exit
  repeat' first
    | with_reducible assumption | with_reducible apply outWf_done | with_reducible apply outWf_ite | split
    | dsimp only | simp only [driveLines_mem, raise_mem]

theorem execS2Repeat_wf (s : State) (h : s.mem.wf = true) : outWf (execS2Repeat s) := by
  unfold execS2Repeat
  repeat' first
    | with_reducible assumption | with_reducible apply outWf_done | with_reducible apply outWf_ite | split
    | dsimp only | simp only [driveLines_mem, raise_mem]

theorem execS2CountExpire_wf (s : State) (h : s.mem.wf = true) : outWf (execS2CountExpire s) := by
  unfold execS2CountExpire
  repeat' first
    | with_reducible assumption | with_reducible apply outWf_done | with_reducible apply outWf_ite | split
    | dsimp only

@[simp] theorem updLink_mem (l : Nat) (f : Link → Link) (s : State) : (updLink l f s).mem = s.mem := by
  unfold updLink
  repeat' first | with_reducible rfl

@[simp] theorem noteReference_mem (s : State) : (noteReference s).mem = s.mem := by
  unfold noteReference
  repeat' first | with_reducible rfl

@[simp] theorem standLinks_mem (k : Int) (s : State) : (standLinks k s).mem = s.mem := by
  unfold standLinks
  repeat' first
    | with_reducible rfl | (simp only [noteWindow_mem, apply_ite State.mem, ite_self]; done) | split
    | simp only [noteWindow_mem, apply_ite State.mem, ite_self]

@[simp] theorem stepClock_mem (d : Int) (s : State) : (stepClock d s).mem = s.mem := by
  unfold stepClock
  repeat' first | with_reducible rfl | split

@[simp] theorem noteResidual_mem (stepped : Bool) (resid : Int) (s : State) : (noteResidual stepped resid s).mem =
    s.mem := by
  unfold noteResidual
  repeat' first
    | with_reducible rfl | (simp only [traceSync_mem, apply_ite State.mem, ite_self]; done) | split
    | simp only [traceSync_mem, apply_ite State.mem, ite_self]

@[simp] theorem alignTime_mem (offsetSum : Int) (s : State) : (alignTime offsetSum s).mem = s.mem := by
  unfold alignTime
  repeat' first
    | with_reducible rfl | (simp only [stepClock_mem, noteResidual_mem]; done)
    | simp only [stepClock_mem, noteResidual_mem]

@[simp] theorem alignOnce_mem (l : Nat) (offsetSum : Int) (s : State) : (alignOnce l offsetSum s).mem = s.mem := by
  unfold alignOnce
  repeat' first
    | with_reducible rfl | (simp only [alignTime_mem, apply_ite State.mem, ite_self]; done) | split
    | simp only [alignTime_mem, apply_ite State.mem, ite_self]

@[simp] theorem failTraining_mem (l : Nat) (lanes : Byte) (s : State) : (failTraining l lanes s).mem = s.mem := by
  unfold failTraining
  repeat' first | with_reducible rfl | (simp only [updLink_mem]; done) | simp only [updLink_mem]

@[simp] theorem passTraining_mem (l : Nat) (inp : TrainInputs) (s : State) : (passTraining l inp s).mem = s.mem := by
  unfold passTraining
  repeat' first
    | with_reducible rfl | (simp only [updLink_mem, standLinks_mem, noteReference_mem, alignOnce_mem]; done)
    | simp only [updLink_mem, standLinks_mem, noteReference_mem, alignOnce_mem]

theorem execLinkTrainAttempt_wf (l : Fin 3) (inp : TrainInputs) (s : State) (h : s.mem.wf = true) : outWf
    (execLinkTrainAttempt l inp s) := by
  unfold execLinkTrainAttempt
  repeat' first
    | with_reducible assumption | with_reducible apply outWf_done | with_reducible apply outWf_ite | split
    | dsimp only | simp only [failTraining_mem, raise_mem, passTraining_mem]

theorem execLinkTrainRetry_wf (l : Fin 3) (s : State) (h : s.mem.wf = true) : outWf (execLinkTrainRetry l s) := by
  unfold execLinkTrainRetry
  repeat' first
    | with_reducible assumption | with_reducible apply outWf_done | with_reducible apply wf_ite
    | with_reducible apply outWf_ite | split | dsimp only | simp only [raise_mem, updLink_mem]

theorem execResidualMeasure_wf (offsetSum : Int) (s : State) (h : s.mem.wf = true) : outWf (execResidualMeasure
    offsetSum s) := by
  unfold execResidualMeasure
  repeat' first
    | with_reducible assumption | with_reducible apply outWf_done | with_reducible apply wf_ite
    | with_reducible apply outWf_ite | split | dsimp only | simp only [noteResidual_mem, detectS1_mem, raise_mem]

theorem execLnkTimeLost_wf (s : State) (h : s.mem.wf = true) : outWf (execLnkTimeLost s) := by
  unfold execLnkTimeLost
  repeat' first
    | with_reducible assumption | with_reducible apply outWf_done | with_reducible apply outWf_ite
    | with_reducible apply detectS2_wf | split | dsimp only

theorem execPeerStatusSend_wf (s : State) (h : s.mem.wf = true) : outWf (execPeerStatusSend s) := by
  unfold execPeerStatusSend
  repeat' first
    | with_reducible assumption | with_reducible apply outWf_done | with_reducible apply outWf_ite | (with_reducible apply foldl_wf; intro _ _ _)
    | dsimp only | simp only [sendPeer_mem]

@[simp] theorem notePeerUp_mem (chip : Nat) (s : State) : (notePeerUp chip s).mem = s.mem := by
  unfold notePeerUp
  repeat' first | with_reducible rfl | (simp only [noteReference_mem, updLink_mem]; done)

theorem execPeerStatusReceive_wf (chip : Fin 4) (state : BitVec 2) (pendingTag : Option Word32) (swapped : Bool) (s :
    State) (h : s.mem.wf = true) : outWf (execPeerStatusReceive chip state pendingTag swapped s) := by
  unfold execPeerStatusReceive
  repeat' first
    | with_reducible assumption | with_reducible apply outWf_done | with_reducible apply outWf_ite | split
    | dsimp only
    | simp only [wf_ite, notePeerUp_mem]

theorem execFlitReplay_wf (l : Fin 3) (s : State) (h : s.mem.wf = true) : outWf (execFlitReplay l s) := by
  unfold execFlitReplay
  repeat' first
    | with_reducible assumption | with_reducible apply outWf_done | with_reducible apply outWf_ite | split
    | dsimp only | simp only [updLink_mem]

@[simp] theorem dropLink_mem (l : Nat) (s : State) : (dropLink l s).mem = s.mem := by
  unfold dropLink
  repeat' first
    | with_reducible rfl | (simp only [ladleStop_mem, standLinks_mem, updLink_mem, noteReference_mem]; done)
    | simp only [ladleStop_mem, standLinks_mem, updLink_mem, noteReference_mem]

theorem abortExchanges_wf (s : State) (h : s.mem.wf = true) : (abortExchanges s).mem.wf = true := by
  unfold abortExchanges
  repeat' first
    | with_reducible assumption | with_reducible apply wf_ite | with_reducible apply abortPour_wf
    | (with_reducible apply foldl_wf; intro _ _ _) | split | dsimp only | simp only [raise_mem]

theorem execLinkDown_wf (l : Fin 3) (s : State) (h : s.mem.wf = true) : outWf (execLinkDown l s) := by
  unfold execLinkDown
  repeat' first
    | with_reducible assumption | with_reducible apply outWf_done | with_reducible apply wf_ite
    | with_reducible apply outWf_ite | with_reducible apply abortExchanges_wf | split | dsimp only
    | simp only [dropLink_mem, detectS1_mem, raise_mem]

theorem execLaneGroup1Lost_wf (l : Fin 3) (s : State) (h : s.mem.wf = true) : outWf (execLaneGroup1Lost l s) := by
  unfold execLaneGroup1Lost
  repeat' first
    | with_reducible assumption | with_reducible apply outWf_done | with_reducible apply outWf_ite | split
    | dsimp only | simp only [ladleStop_mem, raise_mem, updLink_mem]

theorem execLaneGroupIdle_wf (l : Fin 3) (s : State) (h : s.mem.wf = true) : outWf (execLaneGroupIdle l s) := by
  unfold execLaneGroupIdle
  repeat' first
    | with_reducible assumption | with_reducible apply outWf_done | with_reducible apply outWf_ite | split
    | dsimp only | simp only [ladleRelease_mem, updLink_mem]

theorem execLaneGroup1Join_wf (l : Fin 3) (s : State) (h : s.mem.wf = true) : outWf (execLaneGroup1Join l s) := by
  unfold execLaneGroup1Join
  repeat' first
    | with_reducible assumption | with_reducible apply outWf_done | with_reducible apply outWf_ite | split
    | dsimp only | simp only [joinGroup_mem, updLink_mem]

theorem remoteSet_wf (chip f : Nat) (ref : PourRef) (origin : Nat) (s : State) (h : s.mem.wf = true) : (remoteSet chip
    f ref origin s).mem.wf = true := by
  unfold remoteSet
  repeat' first
    | with_reducible assumption | with_reducible apply wf_ite | with_reducible apply fireFlag_wf
    | with_reducible apply abortPour_wf | split | dsimp only | simp only [raise_mem, wakeWaits_mem, putFlag_mem]

theorem execRemoteFlagSet_wf (chip : Fin 4) (flag : Nat) (slot : Fin 8) (seq : Word32) (origin : Nat) (s : State) (h :
    s.mem.wf = true) : outWf (execRemoteFlagSet chip flag slot seq origin s) := by
  unfold execRemoteFlagSet
  repeat' first
    | with_reducible assumption | with_reducible apply outWf_done | with_reducible apply outWf_ite
    | with_reducible apply remoteSet_wf | split | dsimp only

theorem writeLineIn_wf (buf : Nat × Nat) (line : ExchangeLine) (s : State) (h : s.mem.wf = true) : (writeLineIn buf
    line s).1.mem.wf = true := by
  unfold writeLineIn
  repeat' first
    | with_reducible assumption | with_reducible apply wf_ite | with_reducible apply checkAccess_wf
    | with_reducible apply physWrite_wf | split | dsimp only

@[simp] theorem remoteServe_mem (ref : PourRef) (chip : Nat) (phys : BitVec 17) (s : State) : (remoteServe ref chip
    phys s).mem = s.mem := by
  unfold remoteServe
  repeat' first | with_reducible rfl | (simp only [updPour_mem]; done) | simp only [updPour_mem]

theorem takeLine_wf (line : ExchangeLine) (n : NodeRec) (q : Pour) (s : State) (h : s.mem.wf = true) : (takeLine line
    n q s).mem.wf = true := by
  unfold takeLine
  repeat' first
    | with_reducible assumption | with_reducible apply wf_ite | with_reducible apply writeLineIn_wf | split
    | dsimp only | simp only [armBarrier_mem, remoteServe_mem]

theorem execXchgLine_wf (line : ExchangeLine) (s : State) (h : s.mem.wf = true) : outWf (execXchgLine line s) := by
  unfold execXchgLine
  repeat' first
    | with_reducible assumption | with_reducible apply outWf_done | with_reducible apply outWf_ite
    | with_reducible apply takeLine_wf | split | dsimp only

theorem execPeerAbort_wf (chip : Fin 4) (slot : Fin 8) (seq : Word32) (s : State) (h : s.mem.wf = true) : outWf
    (execPeerAbort chip slot seq s) := by
  unfold execPeerAbort
  repeat' first
    | with_reducible assumption | with_reducible apply outWf_done | with_reducible apply outWf_ite
    | with_reducible apply abortPour_wf | split | dsimp only | simp only [raise_mem]

@[simp] theorem requestSwap_mem (s : State) : (requestSwap s).mem = s.mem := by
  unfold requestSwap
  repeat' first | with_reducible rfl

@[simp] theorem announceSwap_mem (p : Pattern) (s : State) : (announceSwap p s).mem = s.mem := by
  unfold announceSwap
  repeat' first
    | with_reducible rfl | (simp only [requestSwap_mem, raise_mem, apply_ite State.mem, ite_self]; done) | split
    | simp only [requestSwap_mem, raise_mem, apply_ite State.mem, ite_self]

theorem execFlaskSwapAnnounce_wf (s : State) (h : s.mem.wf = true) : outWf (execFlaskSwapAnnounce s) := by
  unfold execFlaskSwapAnnounce
  repeat' first
    | with_reducible assumption | with_reducible apply outWf_done | with_reducible apply outWf_ite | split
    | dsimp only | simp only [announceSwap_mem]

theorem execFlaskSwapTake_wf (s : State) (h : s.mem.wf = true) : outWf (execFlaskSwapTake s) := by
  unfold execFlaskSwapTake
  repeat' first
    | with_reducible assumption | with_reducible apply outWf_done | with_reducible apply outWf_ite | split
    | dsimp only | simp only [requestSwap_mem]

theorem execRemoteUnitFailed_wf (chip : Fin 4) (u : Fin 35) (s : State) (h : s.mem.wf = true) : outWf
    (execRemoteUnitFailed chip u s) := by
  unfold execRemoteUnitFailed
  repeat' first
    | with_reducible assumption | with_reducible apply outWf_done | with_reducible apply wf_ite
    | with_reducible apply outWf_ite | (with_reducible apply foldl_wf; intro _ _ _) | split | dsimp only
    | simp only [invalidatePour_mem, recallPours_mem]

theorem execVddAsyPowerOn_wf (s : State) (h : s.mem.wf = true) : outWf (execVddAsyPowerOn s) := by
  unfold execVddAsyPowerOn
  repeat' first
    | with_reducible assumption | with_reducible apply outWf_done | with_reducible apply coldReset_wf | dsimp only
    | simp only [driveLines_mem]

theorem execVddAsyLoss_wf (vddIoPresent : Bool) (s : State) (h : s.mem.wf = true) : outWf (execVddAsyLoss vddIoPresent
    s) := by
  unfold execVddAsyLoss
  repeat' first
    | with_reducible assumption | with_reducible apply outWf_done | with_reducible apply coldReset_wf | dsimp only

@[simp] theorem coreUp_mem (s : State) : (coreUp s).mem = s.mem := by
  unfold coreUp
  repeat' first | with_reducible rfl

theorem execVddCorePowerOn_wf (s : State) (h : s.mem.wf = true) : outWf (execVddCorePowerOn s) := by
  unfold execVddCorePowerOn
  repeat' first
    | with_reducible assumption | with_reducible apply outWf_done | with_reducible apply outWf_ite
    | with_reducible apply warmReset_wf | split | dsimp only | simp only [coreUp_mem, driveLines_mem]

theorem execPmicEnAssert_wf (s : State) (h : s.mem.wf = true) : outWf (execPmicEnAssert s) := by
  unfold execPmicEnAssert
  repeat' first
    | with_reducible assumption | with_reducible apply outWf_done | with_reducible apply outWf_ite | split
    | dsimp only

theorem execPowerUpTimeout_wf (s : State) (h : s.mem.wf = true) : outWf (execPowerUpTimeout s) := by
  unfold execPowerUpTimeout
  repeat' first
    | with_reducible assumption | with_reducible apply outWf_done | with_reducible apply outWf_ite | split
    | dsimp only | simp only [driveLines_mem]

@[simp] theorem holdExit_mem (s : State) : (holdExit s).mem = s.mem := by
  unfold holdExit
  repeat' first
    | with_reducible rfl | (simp only [apply_ite State.mem, ite_self]; done) | split
    | simp only [apply_ite State.mem, ite_self]

theorem offExit_wf (s : State) (h : s.mem.wf = true) : (offExit s).mem.wf = true := by
  unfold offExit
  repeat' first
    | with_reducible assumption | with_reducible apply warmReset_wf | dsimp only | simp only [driveLines_mem]

theorem execRstNPulse_wf (lowEclk : Nat) (s : State) (h : s.mem.wf = true) : outWf (execRstNPulse lowEclk s) := by
  unfold execRstNPulse
  repeat' first
    | with_reducible assumption | with_reducible apply outWf_done | with_reducible apply outWf_ite
    | with_reducible apply offExit_wf | with_reducible apply warmReset_wf | split | dsimp only
    | simp only [holdExit_mem, driveLines_mem]

theorem execSoftReset_wf (who : Agent) (s : State) (h : s.mem.wf = true) : outWf (execSoftReset who s) := by
  unfold execSoftReset
  repeat' first
    | with_reducible assumption | with_reducible apply outWf_done | with_reducible apply outWf_ite
    | with_reducible apply warmReset_wf | split | dsimp only | simp only [driveLines_mem]

theorem execPllUnlock_wf (s : State) (h : s.mem.wf = true) : outWf (execPllUnlock s) := by
  unfold execPllUnlock
  repeat' first
    | with_reducible assumption | with_reducible apply outWf_done | with_reducible apply outWf_ite
    | with_reducible apply detectS2_wf | split | dsimp only

theorem execRefclkLost_wf (s : State) (h : s.mem.wf = true) : outWf (execRefclkLost s) := by
  unfold execRefclkLost
  repeat' first
    | with_reducible assumption | with_reducible apply outWf_done | with_reducible apply outWf_ite
    | with_reducible apply detectS2_wf | split | dsimp only

theorem execClockMonitorWindow_wf (counts : ClockCounts) (s : State) (h : s.mem.wf = true) : outWf
    (execClockMonitorWindow counts s) := by
  unfold execClockMonitorWindow
  repeat' first
    | with_reducible assumption | with_reducible apply outWf_done | with_reducible apply wf_ite
    | with_reducible apply outWf_ite | with_reducible apply detectS2_wf
    | (with_reducible apply foldl_wf; intro _ _ _) | split | dsimp only

theorem execSupplyExcursion_wf (rail : MonitoredRail) (millivolts eclk : Nat) (s : State) (h : s.mem.wf = true) :
    outWf (execSupplyExcursion rail millivolts eclk s) := by
  unfold execSupplyExcursion
  repeat' first
    | with_reducible assumption | with_reducible apply outWf_done | with_reducible apply outWf_ite
    | with_reducible apply detectS2_wf | split | dsimp only

theorem execVddIoLow_wf (s : State) (h : s.mem.wf = true) : outWf (execVddIoLow s) := by
  unfold execVddIoLow
  repeat' first
    | with_reducible assumption | with_reducible apply outWf_done | with_reducible apply outWf_ite
    | with_reducible apply detectS2_wf | split | dsimp only

theorem execTempSample_wf (celsius : BitVec 9) (s : State) (h : s.mem.wf = true) : outWf (execTempSample celsius
    s) := by
  unfold execTempSample
  repeat' first
    | with_reducible assumption | with_reducible apply outWf_done | with_reducible apply outWf_ite | split
    | dsimp only | simp only [raise_mem]

theorem execTempTrip_wf (s : State) (h : s.mem.wf = true) : outWf (execTempTrip s) := by
  unfold execTempTrip
  repeat' first
    | with_reducible assumption | with_reducible apply outWf_done | with_reducible apply outWf_ite
    | with_reducible apply detectS2_wf | split | dsimp only

theorem execVddCoreMonRearm_wf (s : State) (h : s.mem.wf = true) : outWf (execVddCoreMonRearm s) := by
  unfold execVddCoreMonRearm
  repeat' first
    | with_reducible assumption | with_reducible apply outWf_done | with_reducible apply outWf_ite | split
    | dsimp only

theorem execHoldCoreTimeout_wf (s : State) (h : s.mem.wf = true) : outWf (execHoldCoreTimeout s) := by
  unfold execHoldCoreTimeout
  repeat' first
    | with_reducible assumption | with_reducible apply outWf_done | with_reducible apply outWf_ite
    | with_reducible apply detectS2_wf | split | dsimp only

theorem execHoldWakeTimer_wf (s : State) (h : s.mem.wf = true) : outWf (execHoldWakeTimer s) := by
  unfold execHoldWakeTimer
  repeat' first
    | with_reducible assumption | with_reducible apply outWf_done | with_reducible apply outWf_ite | split
    | dsimp only | simp only [holdExit_mem]

@[simp] theorem writeModeReq_mem (code : BitVec 3) (s : State) : (writeModeReq code s).mem = s.mem := by
  unfold writeModeReq
  repeat' first
    | with_reducible rfl | (simp only [requestMode_mem, raise_mem]; done) | split
    | simp only [requestMode_mem, raise_mem]

@[simp] theorem takeModeReq_mem (keeper host : Option (BitVec 3)) (s : State) : (takeModeReq keeper host s).mem =
    s.mem := by
  unfold takeModeReq
  repeat' first
    | with_reducible rfl | (simp only [raise_mem, writeModeReq_mem]; done) | split
    | simp only [raise_mem, writeModeReq_mem]

theorem execPwrModeRequest_wf (keeper host : Option (BitVec 3)) (s : State) (h : s.mem.wf = true) : outWf
    (execPwrModeRequest keeper host s) := by
  unfold execPwrModeRequest
  repeat' first
    | with_reducible assumption | with_reducible apply outWf_done | with_reducible apply outWf_ite | split
    | dsimp only | simp only [takeModeReq_mem, dropHeld_mem]

theorem drainLadle_wf (s : State) (h : s.mem.wf = true) : (drainLadle s).mem.wf = true := by
  unfold drainLadle
  repeat' first
    | with_reducible assumption | with_reducible apply wf_ite | with_reducible apply stopChannel_wf
    | (with_reducible apply foldl_wf; intro _ _ _) | split | dsimp only
    | simp only [stopLoad_mem, ladleStop_mem, updLink_mem]

@[simp] theorem enterQuiet_mem (s : State) : (enterQuiet s).mem = s.mem := by
  unfold enterQuiet
  repeat' first
    | with_reducible rfl | simp only [dropSafe_mem, dropLink_mem]
    | (with_reducible refine (foldl_mem ?_).trans ?_; intro _ _) | dsimp only

@[simp] theorem startPending_mem (s : State) : (startPending s).mem = s.mem := by
  unfold startPending
  repeat' first
    | with_reducible rfl | (simp only [requestMode_mem, apply_ite State.mem, ite_self]; done) | split
    | simp only [requestMode_mem, apply_ite State.mem, ite_self]

@[simp] theorem rampStanding_mem (next : Nat) (s : State) : (rampStanding next s).mem = s.mem := by
  unfold rampStanding
  repeat' first | with_reducible rfl

theorem startChange_wf (t : Transition) (s : State) (h : s.mem.wf = true) : (startChange t s).mem.wf = true := by
  unfold startChange
  repeat' first
    | with_reducible assumption | with_reducible apply wf_ite | with_reducible apply drainLadle_wf | split
    | dsimp only | simp only [startPending_mem, raise_mem, rampStanding_mem, enterQuiet_mem]

theorem execModeTransitionStart_wf (s : State) (h : s.mem.wf = true) : outWf (execModeTransitionStart s) := by
  unfold execModeTransitionStart
  repeat' first
    | with_reducible assumption | with_reducible apply outWf_done | with_reducible apply outWf_ite
    | with_reducible apply startChange_wf | split | dsimp only

@[simp] theorem sleepCams_mem (keep : Nat → Bool) (s : State) : (sleepCams keep s).mem = s.mem := by
  unfold sleepCams
  repeat' first
    | with_reducible rfl | (simp only [apply_ite State.mem, ite_self]; done) | split
    | simp only [apply_ite State.mem, ite_self]

@[simp] theorem hifOff_mem (s : State) : (hifOff s).mem = s.mem := by
  unfold hifOff
  repeat' first | with_reducible rfl

@[simp] theorem enterHold_mem (s : State) : (enterHold s).mem = s.mem := by
  unfold enterHold
  repeat' first
    | with_reducible rfl | (simp only [hifOff_mem, sleepCams_mem]; done) | simp only [hifOff_mem, sleepCams_mem]

theorem enterOff_wf (s : State) : (enterOff s).mem.wf = true := Mem.empty_wf

@[simp] theorem returnToRun_mem (source : PowerMode) (s : State) : (returnToRun source s).mem = s.mem := by
  unfold returnToRun
  repeat' first
    | with_reducible rfl | (simp only [carryOver_mem, apply_ite State.mem, ite_self]; done) | split
    | simp only [carryOver_mem, apply_ite State.mem, ite_self]

theorem applyMode_wf (t : Transition) (s : State) (h : s.mem.wf = true) : (applyMode t s).mem.wf = true := by
  unfold applyMode
  repeat' first
    | with_reducible assumption | with_reducible apply wf_ite | with_reducible apply enterOff_wf | split | dsimp only
    | simp only [noteWindow_mem, returnToRun_mem, sleepCams_mem, enterHold_mem]

@[simp] theorem reverify_mem (s : State) : (reverify s).mem = s.mem := by
  unfold reverify
  repeat' first
    | with_reducible rfl | (simp only [raise_mem, setHw_mem, apply_ite State.mem, ite_self]; done) | split
    | simp only [raise_mem, setHw_mem, apply_ite State.mem, ite_self]

@[simp] theorem resolveExit_mem (t : Transition) (s : State) : (resolveExit t s).2.mem = s.mem := by
  unfold resolveExit
  repeat' first
    | with_reducible rfl | (simp only [raise_mem, apply_ite State.mem, ite_self]; done) | split
    | simp only [raise_mem, apply_ite State.mem, ite_self]

@[simp] theorem discardPending_mem (m : PowerMode) (s : State) : (discardPending m s).mem = s.mem := by
  unfold discardPending
  repeat' first
    | with_reducible rfl | (simp only [raise_mem, apply_ite State.mem, ite_self]; done) | split
    | simp only [raise_mem, apply_ite State.mem, ite_self]

@[simp] theorem phyBack_mem (t : Transition) (s : State) : (phyBack t s).mem = s.mem := by
  unfold phyBack
  repeat' first
    | with_reducible rfl | (simp only [apply_ite State.mem, ite_self]; done) | split
    | simp only [apply_ite State.mem, ite_self]

theorem execModeTransitionComplete_wf (s : State) (h : s.mem.wf = true) : outWf (execModeTransitionComplete s) := by
  unfold execModeTransitionComplete
  repeat' first
    | with_reducible assumption | with_reducible apply outWf_done | with_reducible apply wf_ite
    | with_reducible apply outWf_ite | with_reducible apply applyMode_wf | split | dsimp only
    | simp only [resolveExit_mem, reverify_mem, phyBack_mem, discardPending_mem, raise_mem, driveLines_mem,
        startPending_mem]

theorem placeWrite_wf (s : State) (a : Nat) (bs : List Byte) (h : s.mem.wf = true) : (placeWrite s a bs).mem.wf =
    true := by
  unfold placeWrite
  repeat' first
    | with_reducible assumption | with_reducible apply unitWrite_wf | split | dsimp only | simp only [sendPeer_mem]

theorem readPages_wf (id : Nat) (walkBad : Bool) (fuel addr n : Nat) (s : State) (h : s.mem.wf = true) :
    (readPages id walkBad fuel addr n s).2.mem.wf = true := by
  induction fuel generalizing addr n s with
  | zero => exact h
  | succ fuel ih =>
    unfold readPages
    have hw := checkAccess_wf id false .read addr (min n (0x10000 - addr % 0x10000)) walkBad s h
    repeat' first | exact h | exact hw | exact ih _ _ _ hw | split | dsimp only

@[simp] theorem rejectState_mem (code : EventCode) (s : State) : (rejectState code s).mem = s.mem := by
  unfold rejectState
  repeat' first | with_reducible rfl | (simp only [setHw_mem]; done) | simp only [setHw_mem]

@[simp] theorem rejectLoad_mem (code : EventCode) (s : State) : (rejectLoad code s).mem = s.mem := by
  unfold rejectLoad
  repeat' first
    | with_reducible rfl | (simp only [raise_mem, rejectState_mem]; done) | simp only [raise_mem, rejectState_mem]

@[simp] theorem rejectEcc_mem (s : State) : (rejectEcc s).mem = s.mem := by
  unfold rejectEcc
  repeat' first
    | with_reducible rfl | (simp only [detectS1_mem, rejectState_mem]; done)
    | simp only [detectS1_mem, rejectState_mem]

@[simp] theorem refuseLoad_mem (code : EventCode) (s : State) : (refuseLoad code s).mem = s.mem := by
  unfold refuseLoad
  repeat' first | with_reducible rfl | (simp only [raise_mem, setHw_mem]; done) | simp only [raise_mem, setHw_mem]

@[simp] theorem markParamBad_mem (p : Pattern) (s : State) : (markParamBad p s).mem = s.mem := by
  unfold markParamBad
  repeat' first
    | with_reducible rfl | (simp only [noteCam_mem, markCam_mem]; done) | split
    | simp only [noteCam_mem, markCam_mem]

@[simp] theorem judgePattern_mem (bs : List Byte) (len : Option Nat) (area : Option AreaFault) (s : State) :
    (judgePattern bs len area s).mem = s.mem := by
  unfold judgePattern
  repeat' first
    | with_reducible rfl
    | (simp only [rejectEcc_mem, rejectLoad_mem, markParamBad_mem, apply_ite State.mem, ite_self]; done) | split
    | simp only [rejectEcc_mem, rejectLoad_mem, markParamBad_mem, apply_ite State.mem, ite_self]

theorem requestLoad_wf (ecc : Ecc) (area : Option AreaFault) (s : State) (h : s.mem.wf = true) : (requestLoad ecc
    area s).mem.wf = true := by
  unfold requestLoad
  repeat' first
    | with_reducible assumption | with_reducible apply wf_ite | with_reducible apply readPages_wf
    | with_reducible apply physWrite_wf | split | dsimp only
    | simp only [noteEcc_mem, refuseLoad_mem, rejectLoad_mem, rejectEcc_mem, judgePattern_mem]

theorem takeLoad_wf (keeper host : Bool) (ecc : Ecc) (area : Option AreaFault) (s : State) (h : s.mem.wf = true) :
    (takeLoad keeper host ecc area s).mem.wf = true := by
  unfold takeLoad
  repeat' first
    | with_reducible assumption | with_reducible apply wf_ite | with_reducible apply requestLoad_wf | split
    | dsimp only | simp only [dropHeld_mem, refuseLoad_mem]

theorem execPatternLoad_wf (keeper host : Bool) (reads : LoadReads) (s : State) (h : s.mem.wf = true)
    : outWf (execPatternLoad keeper host reads s) := by
  unfold execPatternLoad
  repeat' first
    | with_reducible assumption | with_reducible apply outWf_done | with_reducible apply takeLoad_wf | dsimp only

theorem settleLoad_wf (s : State) (h : s.mem.wf = true) : (settleLoad s).mem.wf = true := by
  unfold settleLoad
  repeat' first | with_reducible assumption | with_reducible apply takeLoad_wf | dsimp only | simp only [dropHeld_mem]

@[simp] theorem rejectStart_mem (s : State) : (rejectStart s).mem = s.mem := by
  unfold rejectStart
  simp only [rejectLoad_mem]

theorem endLoad_wf (p : Pattern) (s : State) (h : s.mem.wf = true) : (endLoad p s).mem.wf = true := by
  unfold endLoad
  repeat' first
    | with_reducible assumption | with_reducible apply wf_ite | with_reducible apply placeWrite_wf
    | (with_reducible apply foldl_wf; intro _ _ _) | split | dsimp only | simp only [raise_mem, requestSwap_mem]

theorem execPatternLoaded_wf (s : State) (h : s.mem.wf = true) : outWf (execPatternLoaded s) := by
  unfold execPatternLoaded
  repeat' first
    | with_reducible assumption | with_reducible apply endLoad_wf | with_reducible apply outWf_done | with_reducible apply wf_ite
    | with_reducible apply outWf_ite | with_reducible apply placeWrite_wf
    | (with_reducible apply foldl_wf; intro _ _ _) | split | dsimp only
    | simp only [rejectStart_mem, rejectEcc_mem, raise_mem, requestSwap_mem]

@[simp] theorem commitSwap_mem (s : State) : (commitSwap s).mem = s.mem := by
  unfold commitSwap
  repeat' first
    | with_reducible rfl | (simp only [requestSwap_mem, apply_ite State.mem, ite_self]; done) | split
    | simp only [requestSwap_mem, apply_ite State.mem, ite_self]

theorem execSwapCommit_wf (who : Agent) (s : State) (h : s.mem.wf = true) : outWf (execSwapCommit who s) := by
  unfold execSwapCommit
  repeat' first
    | with_reducible assumption | with_reducible apply outWf_done | with_reducible apply outWf_ite | split
    | dsimp only | simp only [commitSwap_mem]

@[simp] theorem swapCams_mem (p : Pattern) (s : State) : (swapCams p s).mem = s.mem := by
  unfold swapCams
  repeat' first
    | with_reducible rfl | (simp only [apply_ite State.mem, ite_self]; done) | split
    | simp only [apply_ite State.mem, ite_self]

@[simp] theorem swapAsy_mem (old : Option Pattern) (p : Pattern) (s : State) : (swapAsy old p s).mem = s.mem := by
  unfold swapAsy
  repeat' first | with_reducible rfl

@[simp] theorem swapFgs_mem (s : State) : (swapFgs s).mem = s.mem := by
  unfold swapFgs
  repeat' first | with_reducible rfl

@[simp] theorem swapRiser_mem (p : Pattern) (s : State) : (swapRiser p s).mem = s.mem := by
  unfold swapRiser
  repeat' first | with_reducible rfl

theorem swapIn_wf (p : Pattern) (s : State) (h : s.mem.wf = true) : (swapIn p s).mem.wf = true := by
  unfold swapIn
  repeat' first
    | with_reducible assumption | with_reducible apply bindChannels_wf | with_reducible apply placeWrite_wf
    | (with_reducible apply foldl_wf; intro _ _ _) | dsimp only
    | simp only [swapRiser_mem, swapFgs_mem, swapAsy_mem, swapCams_mem, raise_mem]

theorem execSwapPoint_wf (s : State) (h : s.mem.wf = true) : outWf (execSwapPoint s) := by
  unfold execSwapPoint
  repeat' first
    | with_reducible assumption | with_reducible apply outWf_done | with_reducible apply outWf_ite
    | with_reducible apply swapIn_wf | split | dsimp only

theorem execSwapDrainTimeout_wf (s : State) (h : s.mem.wf = true) : outWf (execSwapDrainTimeout s) := by
  unfold execSwapDrainTimeout
  repeat' first
    | with_reducible assumption | with_reducible apply outWf_done | with_reducible apply wf_ite
    | with_reducible apply outWf_ite | with_reducible apply abortPour_wf
    | (with_reducible apply foldl_wf; intro _ _ _) | split | dsimp only | simp only [raise_mem]

@[simp] theorem fillSoFar_mem (r : PourRef) (frames : List (Nat × Nat)) (s : State) : (fillSoFar r frames s).mem =
    s.mem := by
  unfold fillSoFar
  repeat' first
    | with_reducible rfl | split | simp only [putFlag_mem, fillBands_mem, apply_ite State.mem, ite_self]
    | (with_reducible refine (foldl_mem ?_).trans ?_; intro _ _) | dsimp only

theorem takeDeferred_wf (g : GraphRec) (d : Deferred) (s : State) (h : s.mem.wf = true) : (takeDeferred g d s).mem.wf
    = true := by
  unfold takeDeferred
  repeat' first
    | with_reducible assumption | with_reducible apply wf_ite | with_reducible apply openWhole_wf
    | with_reducible apply openPour_wf | with_reducible apply abortDamaged_wf | split | dsimp only
    | simp only [dropTrigger_mem, fillSoFar_mem, fixOrigin_mem]

theorem resolveDeferred_wf (d : Deferred) (s : State) (h : s.mem.wf = true) : (resolveDeferred d s).mem.wf =
    true := by
  unfold resolveDeferred
  repeat' first
    | with_reducible assumption | with_reducible apply wf_ite | with_reducible apply takeDeferred_wf
    | with_reducible apply acceptTrigger_wf | split | dsimp only | simp only [dropSource_mem, raise_mem]

theorem execTriggersAccepted_wf (s : State) (h : s.mem.wf = true) : outWf (execTriggersAccepted s) := by
  unfold execTriggersAccepted
  repeat' first
    | with_reducible assumption | with_reducible apply outWf_done | with_reducible apply wf_ite
    | with_reducible apply outWf_ite | with_reducible apply resolveDeferred_wf
    | (with_reducible apply foldl_wf; intro _ _ _) | split | dsimp only

theorem fetchImage_wf (flash : List Byte) (i : Nat) (s : State) (h : s.mem.wf = true) :
    (fetchImage flash i s).mem.wf = true := Mem.write_wf _ _ h

theorem fetchMissing_wf (flash : List Byte) (badReads : List (Fin 3)) (s : State) (h : s.mem.wf = true) :
    (fetchMissing flash badReads s).mem.wf = true := by
  unfold fetchMissing
  repeat' first
    | with_reducible assumption | with_reducible apply wf_ite | with_reducible apply fetchImage_wf
    | (with_reducible apply foldl_wf; intro _ _ _) | split | dsimp only

@[simp] theorem bootFail_mem (code : EventCode) (s : State) : (bootFail code s).mem = s.mem := by
  unfold bootFail
  repeat' first | with_reducible rfl | (simp only [driveLines_mem]; done) | simp only [driveLines_mem]

@[simp] theorem raiseBootFail_mem (code : EventCode) (s : State) : (raiseBootFail code s).mem = s.mem := by
  unfold raiseBootFail
  repeat' first
    | with_reducible rfl | (simp only [bootFail_mem, raise_mem]; done) | simp only [bootFail_mem, raise_mem]

@[simp] theorem atStep_mem (n : Nat) (s : State) : (atStep n s).mem = s.mem := by
  unfold atStep
  repeat' first | with_reducible rfl

@[simp] theorem waitDoorbell_mem (inp : StartInputs) (s : State) : (waitDoorbell inp s).mem = s.mem := by
  unfold waitDoorbell
  repeat' first | with_reducible rfl

theorem verifyImage_wf (i : Nat) (inp : StartInputs) (s : State) (h : s.mem.wf = true) : (verifyImage i inp
    s).2.mem.wf = true := by
  unfold verifyImage
  repeat' first
    | with_reducible assumption | with_reducible apply wf_ite | with_reducible apply fetchImage_wf | split
    | dsimp only | simp only [raise_mem, bootFail_mem, raiseBootFail_mem, waitDoorbell_mem]

@[simp] theorem startAssayer_mem (s : State) : (startAssayer s).mem = s.mem := by
  unfold startAssayer
  repeat' first
    | with_reducible rfl | split | simp only [raise_mem, driveLines_mem, enterS1_mem, apply_ite State.mem, ite_self]
    | (with_reducible refine (foldl_mem ?_).trans ?_; intro _ _) | dsimp only

@[simp] theorem startPattern_mem (inp : StartInputs) (s : State) : (startPattern inp s).mem = s.mem := by
  unfold startPattern
  repeat' first
    | with_reducible rfl | (simp only [atStep_mem, judgePattern_mem, apply_ite State.mem, ite_self]; done) | split
    | simp only [atStep_mem, judgePattern_mem, apply_ite State.mem, ite_self]

theorem startKeeper_wf (inp : StartInputs) (s : State) (h : s.mem.wf = true) : (startKeeper inp s).mem.wf = true := by
  unfold startKeeper
  repeat' first
    | with_reducible assumption | with_reducible apply wf_ite | with_reducible apply verifyImage_wf | split
    | dsimp only | simp only [atStep_mem, startPattern_mem]

theorem startFirmware_wf (inp : StartInputs) (s : State) (h : s.mem.wf = true) : (startFirmware inp s).mem.wf =
    true := by
  unfold startFirmware
  repeat' first
    | with_reducible assumption | with_reducible apply wf_ite | with_reducible apply verifyImage_wf
    | with_reducible apply startKeeper_wf | split | dsimp only | simp only [atStep_mem, startAssayer_mem]

@[simp] theorem endFetch_mem (s : State) : (endFetch s).mem = s.mem := by
  unfold endFetch
  repeat' first | with_reducible rfl

theorem afterStaging_wf (inp : StartInputs) (s : State) (h : s.mem.wf = true) : (afterStaging inp s).mem.wf =
    true := by
  unfold afterStaging
  repeat' first
    | with_reducible assumption | with_reducible apply wf_ite | with_reducible apply startFirmware_wf | split
    | dsimp only | simp only [endFetch_mem, raiseBootFail_mem]

theorem startStaging_wf (inp : StartInputs) (s : State) (h : s.mem.wf = true) : (startStaging inp s).mem.wf =
    true := by
  unfold startStaging
  repeat' first
    | with_reducible assumption | with_reducible apply wf_ite | with_reducible apply afterStaging_wf
    | with_reducible apply fetchMissing_wf | split | dsimp only
    | simp only [atStep_mem, raiseBootFail_mem, waitDoorbell_mem]

@[simp] theorem releaseReset_mem (inp : StartInputs) (s : State) : (releaseReset inp s).mem = s.mem := by
  unfold releaseReset
  repeat' first | with_reducible rfl

theorem startSelfTest_wf (inp : StartInputs) (s : State) (h : s.mem.wf = true) : (startSelfTest inp s).mem.wf =
    true := by
  unfold startSelfTest
  repeat' first
    | with_reducible assumption | with_reducible apply wf_ite | with_reducible apply detectS2_wf
    | with_reducible apply startStaging_wf | split | dsimp only | simp only [atStep_mem, raiseBootFail_mem]

theorem execStartSequence_wf (inp : StartInputs) (s : State) (h : s.mem.wf = true) : outWf (execStartSequence inp
    s) := by
  unfold execStartSequence
  repeat' first
    | with_reducible assumption | with_reducible apply outWf_done | with_reducible apply outWf_ite
    | with_reducible apply startSelfTest_wf | split | dsimp only | simp only [driveLines_mem, releaseReset_mem]

theorem writeDoorbell_wf (s : State) (h : s.mem.wf = true) : (writeDoorbell s).mem.wf = true := by
  unfold writeDoorbell
  repeat' first
    | with_reducible assumption | with_reducible apply wf_ite | with_reducible apply afterStaging_wf
    | with_reducible apply startKeeper_wf | split | dsimp only | simp only [driveLines_mem, endFetch_mem]

theorem execBootDoorbell_wf (_who : Agent) (s : State) (h : s.mem.wf = true) : outWf (execBootDoorbell _who s) := by
  unfold execBootDoorbell
  repeat' first
    | with_reducible assumption | with_reducible apply outWf_done | with_reducible apply outWf_ite
    | with_reducible apply writeDoorbell_wf | split | dsimp only

theorem execFetchTimeout_wf (s : State) (h : s.mem.wf = true) : outWf (execFetchTimeout s) := by
  unfold execFetchTimeout
  repeat' first
    | with_reducible assumption | with_reducible apply outWf_done | with_reducible apply outWf_ite | split
    | dsimp only | simp only [raise_mem]

theorem execSysReady_wf (s : State) (h : s.mem.wf = true) : outWf (execSysReady s) := by
  unfold execSysReady
  repeat' first
    | with_reducible assumption | with_reducible apply outWf_done | with_reducible apply outWf_ite | split
    | dsimp only | simp only [raise_mem]

@[simp] theorem startFuse_mem (op : FuseOp) (s : State) : (startFuse op s).mem = s.mem := by
  unfold startFuse
  repeat' first
    | with_reducible rfl | (simp only [raise_mem, setHw_mem, apply_ite State.mem, ite_self]; done) | split
    | simp only [raise_mem, setHw_mem, apply_ite State.mem, ite_self]

theorem fuseBy_wf (who : Agent) (op : FuseOp) (s : State) (h : s.mem.wf = true) : outWf (fuseBy who op s) := by
  unfold fuseBy
  repeat' first
    | with_reducible assumption | with_reducible apply outWf_done | with_reducible apply outWf_ite | split
    | dsimp only | simp only [startFuse_mem]

theorem execFuseUnlock_wf (who : Agent) (s : State) (h : s.mem.wf = true) : outWf (execFuseUnlock who s) := by
  unfold execFuseUnlock
  repeat' first
    | with_reducible assumption | with_reducible apply outWf_done | with_reducible apply outWf_ite | split
    | dsimp only

theorem execFuseWriteKey_wf (who : Agent) (slot : Fin 4) (usage : BitVec 2) (s : State) (h : s.mem.wf = true) : outWf
    (execFuseWriteKey who slot usage s) := by
  unfold execFuseWriteKey
  repeat' first
    | with_reducible assumption | with_reducible apply outWf_done | with_reducible apply fuseBy_wf | dsimp only

theorem execFuseRevokeSlot_wf (who : Agent) (slot : Fin 4) (s : State) (h : s.mem.wf = true) : outWf
    (execFuseRevokeSlot who slot s) := by
  unfold execFuseRevokeSlot
  repeat' first
    | with_reducible assumption | with_reducible apply outWf_done | with_reducible apply fuseBy_wf | dsimp only

theorem execFuseAdvanceAsySvn_wf (who : Agent) (s : State) (h : s.mem.wf = true) : outWf (execFuseAdvanceAsySvn who
    s) := by
  unfold execFuseAdvanceAsySvn
  repeat' first
    | with_reducible assumption | with_reducible apply outWf_done | with_reducible apply fuseBy_wf | dsimp only

theorem execFuseAdvanceKprSvn_wf (who : Agent) (s : State) (h : s.mem.wf = true) : outWf (execFuseAdvanceKprSvn who
    s) := by
  unfold execFuseAdvanceKprSvn
  repeat' first
    | with_reducible assumption | with_reducible apply outWf_done | with_reducible apply fuseBy_wf | dsimp only

theorem execFuseDecommission_wf (who : Agent) (s : State) (h : s.mem.wf = true) : outWf (execFuseDecommission who
    s) := by
  unfold execFuseDecommission
  repeat' first
    | with_reducible assumption | with_reducible apply outWf_done | with_reducible apply fuseBy_wf | dsimp only

theorem execFuseProgDone_wf (readBackOk : Bool) (s : State) (h : s.mem.wf = true) : outWf (execFuseProgDone readBackOk
    s) := by
  unfold execFuseProgDone
  repeat' first
    | with_reducible assumption | with_reducible apply outWf_done | with_reducible apply wf_ite
    | with_reducible apply outWf_ite | split | dsimp only | simp only [setHw_mem, raise_mem]

@[simp] theorem startReport_mem (s : State) : (startReport s).mem = s.mem := by
  unfold startReport
  repeat' first
    | with_reducible rfl | (simp only [raise_mem, setHw_mem, apply_ite State.mem, ite_self]; done) | split
    | simp only [raise_mem, setHw_mem, apply_ite State.mem, ite_self]

@[simp] theorem takeGo_mem (keeper host : Bool) (s : State) : (takeGo keeper host s).mem = s.mem := by
  unfold takeGo
  repeat' first
    | with_reducible rfl
    | (simp only [startReport_mem, dropHeld_mem, raise_mem, apply_ite State.mem, ite_self]; done) | split
    | simp only [startReport_mem, dropHeld_mem, raise_mem, apply_ite State.mem, ite_self]

theorem execAttGo_wf (keeper host : Bool) (s : State) (h : s.mem.wf = true) : outWf (execAttGo keeper host s) := by
  unfold execAttGo
  repeat' first | with_reducible assumption | with_reducible apply outWf_done | dsimp only | simp only [takeGo_mem]

@[simp] theorem settleGo_mem (s : State) : (settleGo s).mem = s.mem := by
  unfold settleGo
  repeat' first
    | with_reducible rfl | (simp only [dropHeld_mem, takeGo_mem]; done) | simp only [dropHeld_mem, takeGo_mem]

theorem execAttDone_wf (s : State) (h : s.mem.wf = true) : outWf (execAttDone s) := by
  unfold execAttDone
  repeat' first
    | with_reducible assumption | with_reducible apply outWf_done | with_reducible apply outWf_ite | split
    | dsimp only | simp only [raise_mem, setHw_mem]

end Sys2Proof.Machine
end

