-- ==== Sys2Proof/Laws/MemBus.lean ====
section
/-! SUPPORT. The memory across the host interface, register accesses, memory ordering, the Runners in motion and the tick: a function that never writes it leaves it
as it is (_mem); any other keeps its canonical form (_wf). -/

set_option linter.unusedTactic false
set_option linter.unusedVariables false
set_option linter.unreachableTactic false
set_option linter.unusedSimpArgs false

namespace Sys2Proof.Machine

@[simp] theorem popEvent_mem (s : State) : (popEvent s).2.mem = s.mem := by
  unfold popEvent
  repeat' first
    | with_reducible rfl | (simp only [markEvt_mem, signalEvent_mem, apply_ite State.mem, ite_self]; done) | split
    | simp only [markEvt_mem, signalEvent_mem, apply_ite State.mem, ite_self]

theorem execEvtPop_wf (who : Agent) (s : State) (h : s.mem.wf = true) : outWf (execEvtPop who s) := by
  unfold execEvtPop
  repeat' first
    | with_reducible assumption | with_reducible apply outWf_done | with_reducible apply outWf_ite | split
    | dsimp only | simp only [popEvent_mem]

@[simp] theorem updVector_mem (v : Nat) (f : MsixVec → MsixVec) (s : State) : (updVector v f s).mem = s.mem := by
  unfold updVector
  repeat' first | with_reducible rfl

@[simp] theorem unmaskVector_mem (v : Nat) (s : State) : (unmaskVector v s).mem = s.mem := by
  unfold unmaskVector
  repeat' first
    | with_reducible rfl | (simp only [updVector_mem, signalMsix_mem, apply_ite State.mem, ite_self]; done) | split
    | simp only [updVector_mem, signalMsix_mem, apply_ite State.mem, ite_self]

@[simp] theorem maskVector_mem (v : Nat) (s : State) : (maskVector v s).mem = s.mem := by
  unfold maskVector
  repeat' first | with_reducible rfl | (simp only [updVector_mem]; done) | simp only [updVector_mem]

theorem execMsixUnmask_wf (v : Fin 64) (s : State) (h : s.mem.wf = true) : outWf (execMsixUnmask v s) := by
  unfold execMsixUnmask
  repeat' first
    | with_reducible assumption | with_reducible apply outWf_done | with_reducible apply outWf_ite | split
    | dsimp only | simp only [unmaskVector_mem]

theorem execMsixPendingSend_wf (v : Fin 64) (s : State) (h : s.mem.wf = true) : outWf (execMsixPendingSend v s) := by
  unfold execMsixPendingSend
  repeat' first
    | with_reducible assumption | with_reducible apply outWf_done | with_reducible apply outWf_ite | split
    | dsimp only | simp only [sendMsix_mem]

@[simp] theorem dropCopies_mem (s : State) : (dropCopies s).2.mem = s.mem := by
  unfold dropCopies
  repeat' first
    | with_reducible rfl | (simp only [drawFree_mem, apply_ite State.mem, ite_self]; done) | split
    | simp only [drawFree_mem, apply_ite State.mem, ite_self]

@[simp] theorem resetHif_mem (s : State) : (resetHif s).mem = s.mem := by
  unfold resetHif
  repeat' first | with_reducible rfl | (simp only [dropCopies_mem]; done) | simp only [dropCopies_mem]

theorem execHostReset_wf (kind : HostResetKind) (s : State) (h : s.mem.wf = true) : outWf (execHostReset kind s) := by
  unfold execHostReset
  repeat' first
    | with_reducible assumption | with_reducible apply outWf_done | with_reducible apply wf_ite
    | with_reducible apply outWf_ite | split | dsimp only | simp only [resetHif_mem, setHw_mem, raise_mem]

theorem execPcieLinkTrained_wf (speed : BitVec 3) (width : BitVec 4) (s : State) (h : s.mem.wf = true) : outWf
    (execPcieLinkTrained speed width s) := by
  unfold execPcieLinkTrained
  repeat' first
    | with_reducible assumption | with_reducible apply outWf_done | with_reducible apply outWf_ite | split
    | dsimp only

theorem execSpiCsFall_wf (ch : Channel) (s : State) (h : s.mem.wf = true) : outWf (execSpiCsFall ch s) := by
  unfold execSpiCsFall
  repeat' first
    | with_reducible assumption | with_reducible apply outWf_done | with_reducible apply outWf_ite | split
    | dsimp only | simp only [updChan_mem]

@[simp] theorem formDue_mem (ch : Channel) (s : State) : (formDue ch s).mem = s.mem := by
  unfold formDue
  repeat' first
    | with_reducible rfl | (simp only [updChan_mem, apply_ite State.mem, ite_self]; done) | split
    | simp only [updChan_mem, apply_ite State.mem, ite_self]

theorem execSpiCsRise_wf (ch : Channel) (bytes : Nat) (s : State) (h : s.mem.wf = true) : outWf (execSpiCsRise ch
    bytes s) := by
  unfold execSpiCsRise
  repeat' first
    | with_reducible assumption | with_reducible apply outWf_done | with_reducible apply outWf_ite | split
    | dsimp only | simp only [updChan_mem, raise_mem]

theorem execSfpPollLate_wf (ch : Channel) (s : State) (h : s.mem.wf = true) : outWf (execSfpPollLate ch s) := by
  unfold execSfpPollLate
  repeat' first
    | with_reducible assumption | with_reducible apply outWf_done | with_reducible apply outWf_ite | split
    | dsimp only | simp only [raise_mem, updChan_mem]

theorem execSfpLineStuck_wf (_line : SafetyLine) (s : State) (h : s.mem.wf = true) : outWf (execSfpLineStuck _line
    s) := by
  unfold execSfpLineStuck
  repeat' first
    | with_reducible assumption | with_reducible apply outWf_done | with_reducible apply outWf_ite
    | with_reducible apply detectS2_wf | split | dsimp only

theorem plain_mem (v : Nat) (s : State) : (plain v s).2.mem = s.mem := rfl

theorem rcRead_mem (i : Nat) (keep : Nat → State → State) (s : State) (hk : ∀ n x, (keep n x).mem = x.mem) :
    (rcRead i keep s).2.mem = s.mem := hk ..

@[simp] theorem sysRead_mem (o : Nat) (s : State) : (sysRead o s).2.mem = s.mem := by
  unfold sysRead
  repeat' first | with_reducible rfl | (simp only [plain]; done) | split | simp only [plain]

@[simp] theorem pwrRead_mem (o : Nat) (s : State) : (pwrRead o s).2.mem = s.mem := by
  unfold pwrRead
  repeat' first
    | with_reducible rfl | (simp only [plain, rcRead_mem, implies_true]; done) | split
    | simp only [plain, rcRead_mem, implies_true]

@[simp] theorem ldlRead_mem (o : Nat) (s : State) : (ldlRead o s).2.mem = s.mem := by
  unfold ldlRead
  repeat' first
    | with_reducible rfl | (simp only [plain, rcRead_mem, implies_true]; done) | split
    | simp only [plain, rcRead_mem, implies_true]

@[simp] theorem idnRead_mem (o : Nat) (s : State) : (idnRead o s).2.mem = s.mem := by
  unfold idnRead
  repeat' first
    | with_reducible rfl | (simp only [plain, apply_ite State.mem, ite_self]; done) | split
    | simp only [plain, apply_ite State.mem, ite_self]

@[simp] theorem patRead_mem (o : Nat) (s : State) : (patRead o s).2.mem = s.mem := by
  unfold patRead
  repeat' first | with_reducible rfl | (simp only [plain]; done) | split | simp only [plain]

@[simp] theorem csiRead_mem (p o : Nat) (s : State) : (csiRead p o s).2.mem = s.mem := by
  unfold csiRead
  repeat' first
    | with_reducible rfl | (simp only [plain, rcRead_mem, implies_true]; done) | split
    | simp only [plain, rcRead_mem, implies_true]

@[simp] theorem ispRead_mem (p o : Nat) (s : State) : (ispRead p o s).2.mem = s.mem := by
  unfold ispRead
  repeat' first | with_reducible rfl | (simp only [plain]; done) | split | simp only [plain]

@[simp] theorem venPass_mem (i : VenInst) (s : State) : (venPass i s).2.mem = s.mem := by
  unfold venPass
  repeat' first
    | with_reducible rfl | (simp only [plain, drawFree_mem, apply_ite State.mem, ite_self]; done) | split
    | simp only [plain, drawFree_mem, apply_ite State.mem, ite_self]

@[simp] theorem venStat_mem (k : Nat) (s : State) : (venStat k s).2.mem = s.mem := by
  unfold venStat
  repeat' first
    | with_reducible rfl | (simp only [plain, venPass_mem, drawFree_mem]; done) | split
    | simp only [plain, venPass_mem, drawFree_mem]

@[simp] theorem venPage_mem (k o : Nat) (s : State) : (venPage k o s).2.mem = s.mem := by
  unfold venPage
  repeat' first
    | with_reducible rfl | (simp only [plain, rcRead_mem, venStat_mem, implies_true]; done) | split
    | simp only [plain, rcRead_mem, venStat_mem, implies_true]

@[simp] theorem venRead_mem (o : Nat) (s : State) : (venRead o s).2.mem = s.mem := by
  unfold venRead
  repeat' first
    | with_reducible rfl | (simp only [plain, venPage_mem, apply_ite State.mem, ite_self]; done) | split
    | simp only [plain, venPage_mem, apply_ite State.mem, ite_self]

@[simp] theorem fgsRead_mem (o : Nat) (s : State) : (fgsRead o s).2.mem = s.mem := by
  unfold fgsRead
  repeat' first
    | with_reducible rfl | (simp only [plain, rcRead_mem, implies_true, apply_ite State.mem, ite_self]; done) | split
    | simp only [plain, rcRead_mem, implies_true, apply_ite State.mem, ite_self]

@[simp] theorem neuMap_mem (n : Nat) (s : State) : (neuMap n s).2.mem = s.mem := by
  unfold neuMap
  repeat' first
    | with_reducible rfl | (simp only [plain, drawFree_mem]; done) | split | simp only [plain, drawFree_mem]

@[simp] theorem neuRead_mem (o : Nat) (s : State) : (neuRead o s).2.mem = s.mem := by
  unfold neuRead
  repeat' first
    | with_reducible rfl
    | (simp only [plain, rcRead_mem, neuMap_mem, implies_true, apply_ite State.mem, ite_self]; done) | split
    | simp only [plain, rcRead_mem, neuMap_mem, implies_true, apply_ite State.mem, ite_self]

@[simp] theorem rsrRead_mem (o : Nat) (s : State) : (rsrRead o s).2.mem = s.mem := by
  unfold rsrRead
  repeat' first
    | with_reducible rfl | (simp only [plain, rcRead_mem, implies_true, apply_ite State.mem, ite_self]; done) | split
    | simp only [plain, rcRead_mem, implies_true, apply_ite State.mem, ite_self]

@[simp] theorem schRead_mem (o : Nat) (s : State) : (schRead o s).2.mem = s.mem := by
  unfold schRead
  repeat' first
    | with_reducible rfl | (simp only [plain, rcRead_mem, implies_true, apply_ite State.mem, ite_self]; done) | split
    | simp only [plain, rcRead_mem, implies_true, apply_ite State.mem, ite_self]

@[simp] theorem portWord_mem (t o : Nat) (s : State) : (portWord t o s).2.mem = s.mem := by
  unfold portWord
  repeat' first
    | with_reducible rfl | (simp only [plain, updPort_mem, apply_ite State.mem, ite_self]; done) | split
    | simp only [plain, updPort_mem, apply_ite State.mem, ite_self]

@[simp] theorem portRead_mem (a : RegAcc) (t o n : Nat) (s : State) : (portRead a t o n s).2.mem = s.mem := by
  unfold portRead
  repeat' first
    | with_reducible rfl | (simp only [raise_mem, portWord_mem, apply_ite State.mem, ite_self]; done) | split
    | simp only [raise_mem, portWord_mem, apply_ite State.mem, ite_self]

@[simp] theorem xltRead_mem (o : Nat) (s : State) : (xltRead o s).2.mem = s.mem := by
  unfold xltRead
  repeat' first
    | with_reducible rfl | (simp only [plain, apply_ite State.mem, ite_self]; done) | split
    | simp only [plain, apply_ite State.mem, ite_self]

@[simp] theorem fwlRead_mem (o : Nat) (s : State) : (fwlRead o s).2.mem = s.mem := by
  unfold fwlRead
  repeat' first
    | with_reducible rfl | (simp only [plain, apply_ite State.mem, ite_self]; done) | split
    | simp only [plain, apply_ite State.mem, ite_self]

@[simp] theorem dmaRead_mem (o : Nat) (s : State) : (dmaRead o s).2.mem = s.mem := by
  unfold dmaRead
  repeat' first
    | with_reducible rfl | (simp only [plain, apply_ite State.mem, ite_self]; done) | split
    | simp only [plain, apply_ite State.mem, ite_self]

@[simp] theorem tapRead_mem (o : Nat) (s : State) : (tapRead o s).2.mem = s.mem := by
  unfold tapRead
  repeat' first
    | with_reducible rfl | (simp only [plain, rcRead_mem, implies_true, apply_ite State.mem, ite_self]; done) | split
    | simp only [plain, rcRead_mem, implies_true, apply_ite State.mem, ite_self]

@[simp] theorem counterRead_mem (a : RegAcc) (c : CounterName) (o n : Nat) (s : State) : (counterRead a c o n s).2.mem
    = s.mem := by
  unfold counterRead
  repeat' first
    | with_reducible rfl
    | (simp only [counterValue_mem, ctrReadLow_mem, ctrReadHigh_mem, apply_ite State.mem, ite_self]; done) | split
    | simp only [counterValue_mem, ctrReadLow_mem, ctrReadHigh_mem, apply_ite State.mem, ite_self]

@[simp] theorem lnkRead_mem (o : Nat) (s : State) : (lnkRead o s).2.mem = s.mem := by
  unfold lnkRead
  repeat' first
    | with_reducible rfl
    | (simp only [plain, rcRead_mem, updLink_mem, implies_true, apply_ite State.mem, ite_self]; done) | split
    | simp only [plain, rcRead_mem, updLink_mem, implies_true, apply_ite State.mem, ite_self]

@[simp] theorem hifRead_mem (o : Nat) (s : State) : (hifRead o s).2.mem = s.mem := by
  unfold hifRead
  repeat' first
    | with_reducible rfl
    | (simp only [plain, rcRead_mem, popEvent_mem, implies_true, apply_ite State.mem, ite_self]; done) | split
    | simp only [plain, rcRead_mem, popEvent_mem, implies_true, apply_ite State.mem, ite_self]

@[simp] theorem regWord_mem (off : Nat) (s : State) : (regWord off s).2.mem = s.mem := by
  unfold regWord
  repeat' first
    | with_reducible rfl
    | (simp only [plain, sysRead_mem, pwrRead_mem, ldlRead_mem, idnRead_mem, patRead_mem, csiRead_mem, ispRead_mem,
        venRead_mem, fgsRead_mem, neuRead_mem, rsrRead_mem, schRead_mem, xltRead_mem, fwlRead_mem, dmaRead_mem,
        tapRead_mem, lnkRead_mem, hifRead_mem, apply_ite State.mem, ite_self]; done)
    | split
    | simp only [plain, sysRead_mem, pwrRead_mem, ldlRead_mem, idnRead_mem, patRead_mem, csiRead_mem, ispRead_mem,
        venRead_mem, fgsRead_mem, neuRead_mem, rsrRead_mem, schRead_mem, xltRead_mem, fwlRead_mem, dmaRead_mem,
        tapRead_mem, lnkRead_mem, hifRead_mem, apply_ite State.mem, ite_self]

@[simp] theorem regRead_mem (a : RegAcc) (off n : Nat) (s : State) : (regRead a off n s).2.mem = s.mem := by
  unfold regRead
  repeat' first
    | with_reducible rfl
    | (simp only [portRead_mem, counterRead_mem, regWord_mem, apply_ite State.mem, ite_self]; done) | split
    | simp only [portRead_mem, counterRead_mem, regWord_mem, apply_ite State.mem, ite_self]

@[simp] theorem holdWrite_mem (a : RegAcc) (off : Nat) (w : WBits) (s : State) : (holdWrite a off w s).mem =
    s.mem := by
  unfold holdWrite
  repeat' first | with_reducible rfl

@[simp] theorem injectWrite_mem (op u : Nat) (s : State) : (injectWrite op u s).mem = s.mem := by
  unfold injectWrite
  repeat' first
    | with_reducible rfl | (simp only [injectTest_mem, apply_ite State.mem, ite_self]; done) | split
    | simp only [injectTest_mem, apply_ite State.mem, ite_self]

theorem sysWrite_wf (a : RegAcc) (o : Nat) (w : WBits) (s : State) (h : s.mem.wf = true) : (sysWrite a o w s).mem.wf =
    true := by
  unfold sysWrite
  repeat' first
    | with_reducible assumption | with_reducible apply wf_ite | with_reducible apply warmReset_wf
    | with_reducible apply writeDoorbell_wf | split | dsimp only
    | simp only [keepSets_mem, driveLines_mem, injectWrite_mem]

@[simp] theorem pwrWrite_mem (a : RegAcc) (o : Nat) (w : WBits) (s : State) : (pwrWrite a o w s).mem = s.mem := by
  unfold pwrWrite
  repeat' first
    | with_reducible rfl | (simp only [holdWrite_mem, keepSets_mem, apply_ite State.mem, ite_self]; done) | split
    | simp only [holdWrite_mem, keepSets_mem, apply_ite State.mem, ite_self]

@[simp] theorem tloadWrite_mem (n : Nat) (w : WBits) (s : State) : (tloadWrite n w s).mem = s.mem := by
  unfold tloadWrite
  repeat' first
    | with_reducible rfl | (simp only [stopLoad_mem, goLoad_mem, apply_ite State.mem, ite_self]; done) | split
    | simp only [stopLoad_mem, goLoad_mem, apply_ite State.mem, ite_self]

@[simp] theorem ldlWrite_mem (a : RegAcc) (o : Nat) (w : WBits) (s : State) : (ldlWrite a o w s).mem = s.mem := by
  unfold ldlWrite
  repeat' first
    | with_reducible rfl
    | (simp only [writeCeiling_mem, keepSets_mem, tloadWrite_mem, apply_ite State.mem, ite_self]; done) | split
    | simp only [writeCeiling_mem, keepSets_mem, tloadWrite_mem, apply_ite State.mem, ite_self]

@[simp] theorem unlockWrite_mem (v : Nat) (s : State) : (unlockWrite v s).mem = s.mem := by
  unfold unlockWrite
  repeat' first
    | with_reducible rfl | (simp only [apply_ite State.mem, ite_self]; done) | split
    | simp only [apply_ite State.mem, ite_self]

@[simp] theorem fuseWrite_mem (w : WBits) (s : State) : (fuseWrite w s).mem = s.mem := by
  unfold fuseWrite
  repeat' first
    | with_reducible rfl | (simp only [startFuse_mem, raise_mem, setHw_mem]; done) | split
    | simp only [startFuse_mem, raise_mem, setHw_mem]

@[simp] theorem idnFields_mem (a : RegAcc) (o : Nat) (w : WBits) (s : State) : (idnFields a o w s).mem = s.mem := by
  unfold idnFields
  repeat' first
    | with_reducible rfl | (simp only [keepSets_mem, holdWrite_mem, apply_ite State.mem, ite_self]; done) | split
    | simp only [keepSets_mem, holdWrite_mem, apply_ite State.mem, ite_self]

@[simp] theorem idnWrite_mem (a : RegAcc) (o : Nat) (w : WBits) (s : State) : (idnWrite a o w s).mem = s.mem := by
  unfold idnWrite
  repeat' first
    | with_reducible rfl
    | (simp only [fuseWrite_mem, unlockWrite_mem, idnFields_mem, apply_ite State.mem, ite_self]; done) | split
    | simp only [fuseWrite_mem, unlockWrite_mem, idnFields_mem, apply_ite State.mem, ite_self]

@[simp] theorem patCtrl_mem (a : RegAcc) (w : WBits) (s : State) : (patCtrl a w s).mem = s.mem := by
  unfold patCtrl
  repeat' first
    | with_reducible rfl | (simp only [holdWrite_mem, commitSwap_mem, apply_ite State.mem, ite_self]; done) | split
    | simp only [holdWrite_mem, commitSwap_mem, apply_ite State.mem, ite_self]

@[simp] theorem patWrite_mem (a : RegAcc) (o : Nat) (w : WBits) (s : State) : (patWrite a o w s).mem = s.mem := by
  unfold patWrite
  repeat' first
    | with_reducible rfl | (simp only [patCtrl_mem, keepSets_mem, apply_ite State.mem, ite_self]; done) | split
    | simp only [patCtrl_mem, keepSets_mem, apply_ite State.mem, ite_self]

@[simp] theorem camWrite_mem (o : Nat) (w : WBits) (s : State) : (camWrite o w s).mem = s.mem := by
  unfold camWrite
  repeat' first
    | with_reducible rfl | (simp only [keepSets_mem, apply_ite State.mem, ite_self]; done) | split
    | simp only [keepSets_mem, apply_ite State.mem, ite_self]

@[simp] theorem venWrite_mem (o : Nat) (w : WBits) (s : State) : (venWrite o w s).mem = s.mem := by
  unfold venWrite
  repeat' first
    | with_reducible rfl | (simp only [keepSets_mem, apply_ite State.mem, ite_self]; done) | split
    | simp only [keepSets_mem, apply_ite State.mem, ite_self]

theorem fgsWrite_wf (a : RegAcc) (o : Nat) (w : WBits) (s : State) (h : s.mem.wf = true) : (fgsWrite a o w s).mem.wf =
    true := by
  unfold fgsWrite
  repeat' first
    | with_reducible assumption | with_reducible apply wf_ite | with_reducible apply abortSlots_wf | split
    | dsimp only | simp only [writeDrain_mem, keepSets_mem]

@[simp] theorem neuWrite_mem (o : Nat) (w : WBits) (s : State) : (neuWrite o w s).mem = s.mem := by
  unfold neuWrite
  repeat' first | with_reducible rfl | (simp only [keepSets_mem]; done) | split | simp only [keepSets_mem]

@[simp] theorem maskWrite_mem (i : Nat) (w : WBits) (s : State) : (maskWrite i w s).mem = s.mem := by
  unfold maskWrite
  repeat' first
    | with_reducible rfl | (simp only [apply_ite State.mem, ite_self]; done) | split
    | simp only [apply_ite State.mem, ite_self]

theorem rsrWrite_wf (a : RegAcc) (o : Nat) (w : WBits) (s : State) (h : s.mem.wf = true) : (rsrWrite a o w s).mem.wf =
    true := by
  unfold rsrWrite
  repeat' first
    | with_reducible assumption | with_reducible apply wf_ite | with_reducible apply resetThread_wf | split
    | dsimp only | simp only [releaseThreads_mem, maskWrite_mem, keepSets_mem]

@[simp] theorem groupWrite_mem (g : Nat) (w : WBits) (s : State) : (groupWrite g w s).mem = s.mem := by
  unfold groupWrite
  repeat' first
    | with_reducible rfl | (simp only [apply_ite State.mem, ite_self]; done) | split
    | simp only [apply_ite State.mem, ite_self]

@[simp] theorem schWrite_mem (a : RegAcc) (o : Nat) (w : WBits) (s : State) : (schWrite a o w s).mem = s.mem := by
  unfold schWrite
  repeat' first
    | with_reducible rfl
    | (simp only [keepSets_mem, cancelWrite_mem, groupWrite_mem, apply_ite State.mem, ite_self]; done) | split
    | simp only [keepSets_mem, cancelWrite_mem, groupWrite_mem, apply_ite State.mem, ite_self]

theorem ownPort_wf (t o : Nat) (w : WBits) (s : State) (h : s.mem.wf = true) : (ownPort t o w s).mem.wf = true := by
  unfold ownPort
  repeat' first
    | with_reducible assumption | with_reducible apply wf_ite | with_reducible apply portEnd_wf | split | dsimp only
    | simp only [updPort_mem, submitSpawn_mem, sendOperand_mem]

theorem portWrite_wf (a : RegAcc) (t o : Nat) (w : WBits) (s : State) (h : s.mem.wf = true) : (portWrite a t o w
    s).mem.wf = true := by
  unfold portWrite
  repeat' first
    | with_reducible assumption | with_reducible apply wf_ite | with_reducible apply ownPort_wf | split | dsimp only
    | simp only [raise_mem]

@[simp] theorem bindWrite_mem (id : Nat) (w : WBits) (s : State) : (bindWrite id w s).mem = s.mem := by
  unfold bindWrite
  repeat' first
    | with_reducible rfl | (simp only [keepXlt_mem, apply_ite State.mem, ite_self]; done) | split
    | simp only [keepXlt_mem, apply_ite State.mem, ite_self]

@[simp] theorem rootWrite_mem (c : Nat) (w : WBits) (s : State) : (rootWrite c w s).mem = s.mem := by
  unfold rootWrite
  repeat' first | with_reducible rfl | (simp only [keepXlt_mem]; done) | simp only [keepXlt_mem]

@[simp] theorem xltWrite_mem (a : RegAcc) (o : Nat) (w : WBits) (s : State) : (xltWrite a o w s).mem = s.mem := by
  unfold xltWrite
  repeat' first
    | with_reducible rfl
    | (simp only [rootWrite_mem, startInv_mem, keepSets_mem, bindWrite_mem, apply_ite State.mem, ite_self]; done)
    | split | simp only [rootWrite_mem, startInv_mem, keepSets_mem, bindWrite_mem, apply_ite State.mem, ite_self]

@[simp] theorem fwlWrite_mem (a : RegAcc) (o : Nat) (w : WBits) (s : State) : (fwlWrite a o w s).mem = s.mem := by
  unfold fwlWrite
  repeat' first
    | with_reducible rfl | (simp only [writeRegion_mem, keepSets_mem, apply_ite State.mem, ite_self]; done) | split
    | simp only [writeRegion_mem, keepSets_mem, apply_ite State.mem, ite_self]

theorem channelCtrl_wf (ch : Nat) (w : WBits) (s : State) (h : s.mem.wf = true) : (channelCtrl ch w s).mem.wf =
    true := by
  unfold channelCtrl
  repeat' first
    | with_reducible assumption | with_reducible apply wf_ite | with_reducible apply softStop_wf
    | with_reducible apply startChannel_wf | split | dsimp only | simp only [clearError_mem, ringDoorbell_mem]

@[simp] theorem channelConfig_mem (ch o : Nat) (w : WBits) (s : State) : (channelConfig ch o w s).mem = s.mem := by
  unfold channelConfig
  repeat' first
    | with_reducible rfl | (simp only [raise_mem, updCh_mem, apply_ite State.mem, ite_self]; done) | split
    | simp only [raise_mem, updCh_mem, apply_ite State.mem, ite_self]

theorem channelWrite_wf (a : RegAcc) (ch o : Nat) (w : WBits) (s : State) (h : s.mem.wf = true) : (channelWrite a ch o
    w s).mem.wf = true := by
  unfold channelWrite
  repeat' first
    | with_reducible assumption | with_reducible apply wf_ite | with_reducible apply channelCtrl_wf | split
    | dsimp only | simp only [channelConfig_mem, keepSets_mem, updCh_mem]

theorem dmaWrite_wf (a : RegAcc) (o : Nat) (w : WBits) (s : State) (h : s.mem.wf = true) : (dmaWrite a o w s).mem.wf =
    true := by
  unfold dmaWrite
  repeat' first
    | with_reducible assumption | with_reducible apply wf_ite | with_reducible apply channelWrite_wf
    | with_reducible apply resumeDma_wf | split | dsimp only | simp only [keepSets_mem]

@[simp] theorem bufWrite_mem (f : Tap → Tap) (s : State) : (bufWrite f s).mem = s.mem := by
  unfold bufWrite
  repeat' first
    | with_reducible rfl | (simp only [raise_mem, apply_ite State.mem, ite_self]; done) | split
    | simp only [raise_mem, apply_ite State.mem, ite_self]

@[simp] theorem glbConfig_mem (g : Nat) (w : WBits) (s : State) : (glbConfig g w s).mem = s.mem := by
  unfold glbConfig
  repeat' first | with_reducible rfl | (simp only [keepSets_mem]; done) | simp only [keepSets_mem]

@[simp] theorem counterWrite_mem (c : CounterName) (w : WBits) (s : State) : (counterWrite c w s).mem = s.mem := by
  unfold counterWrite
  repeat' first | with_reducible rfl | split

@[simp] theorem tapFields_mem (o : Nat) (w : WBits) (s : State) : (tapFields o w s).mem = s.mem := by
  unfold tapFields
  repeat' first
    | with_reducible rfl
    | (simp only [writeTapCtl_mem, bufWrite_mem, keepSets_mem, glbConfig_mem, apply_ite State.mem, ite_self]; done)
    | split | simp only [writeTapCtl_mem, bufWrite_mem, keepSets_mem, glbConfig_mem, apply_ite State.mem, ite_self]

@[simp] theorem tapApply_mem (o : Nat) (w : WBits) (s : State) : (tapApply o w s).mem = s.mem := by
  unfold tapApply
  repeat' first
    | with_reducible rfl | (simp only [counterWrite_mem, tapFields_mem, apply_ite State.mem, ite_self]; done) | split
    | simp only [counterWrite_mem, tapFields_mem, apply_ite State.mem, ite_self]

@[simp] theorem tapWrite_mem (a : RegAcc) (o : Nat) (w : WBits) (s : State) : (tapWrite a o w s).mem = s.mem := by
  unfold tapWrite
  repeat' first
    | with_reducible rfl | (simp only [holdWrite_mem, apply_ite State.mem, ite_self]; done) | split
    | simp only [holdWrite_mem, apply_ite State.mem, ite_self]

@[simp] theorem settleTap_mem (s : State) : (settleTap s).mem = s.mem := by
  unfold settleTap
  repeat' first
    | with_reducible rfl | simp only [tapApply_mem, dropHeld_mem]
    | (with_reducible refine (foldl_mem ?_).trans ?_; intro _ _) | dsimp only

theorem settleWrites_wf (s : State) (h : s.mem.wf = true) : (settleWrites s).mem.wf = true := by
  unfold settleWrites
  repeat' first
    | with_reducible assumption | with_reducible apply wf_ite | with_reducible apply settleLoad_wf | split
    | dsimp only | simp only [takeModeReq_mem, dropHeld_mem, settleGo_mem, settleTap_mem]

@[simp] theorem lnkWrite_mem (o : Nat) (w : WBits) (s : State) : (lnkWrite o w s).mem = s.mem := by
  unfold lnkWrite
  repeat' first
    | with_reducible rfl | (simp only [keepSets_mem, apply_ite State.mem, ite_self]; done) | split
    | simp only [keepSets_mem, apply_ite State.mem, ite_self]

@[simp] theorem vectorWrite_mem (v : Nat) (high : Bool) (w : WBits) (s : State) : (vectorWrite v high w s).mem =
    s.mem := by
  unfold vectorWrite
  repeat' first
    | with_reducible rfl
    | (simp only [updVector_mem, unmaskVector_mem, maskVector_mem, apply_ite State.mem, ite_self]; done) | split
    | simp only [updVector_mem, unmaskVector_mem, maskVector_mem, apply_ite State.mem, ite_self]

@[simp] theorem hifWrite_mem (o : Nat) (w : WBits) (s : State) : (hifWrite o w s).mem = s.mem := by
  unfold hifWrite
  repeat' first
    | with_reducible rfl | (simp only [vectorWrite_mem, keepSets_mem, apply_ite State.mem, ite_self]; done) | split
    | simp only [vectorWrite_mem, keepSets_mem, apply_ite State.mem, ite_self]

theorem regUnit_wf (a : RegAcc) (off : Nat) (w : WBits) (s : State) (h : s.mem.wf = true) : (regUnit a off w s).mem.wf
    = true := by
  unfold regUnit
  repeat' first
    | with_reducible assumption | with_reducible apply portWrite_wf | with_reducible apply sysWrite_wf
    | with_reducible apply fgsWrite_wf | with_reducible apply rsrWrite_wf | with_reducible apply dmaWrite_wf | split
    | dsimp only
    | simp only [pwrWrite_mem, ldlWrite_mem, idnWrite_mem, patWrite_mem, camWrite_mem, venWrite_mem, neuWrite_mem,
        schWrite_mem, xltWrite_mem, fwlWrite_mem, tapWrite_mem, lnkWrite_mem, hifWrite_mem]

theorem regWrite_wf (a : RegAcc) (off : Nat) (bs : List Byte) (s : State) (h : s.mem.wf = true) : (regWrite a off bs
    s).mem.wf = true := by
  unfold regWrite
  repeat' first
    | with_reducible assumption | with_reducible apply regUnit_wf | (with_reducible apply foldl_wf; intro _ _ _)
    | dsimp only

@[simp] theorem regBytes_mem (a : RegAcc) (off n : Nat) (s : State) : (regBytes a off n s).2.mem = s.mem := by
  unfold regBytes
  repeat' first
    | with_reducible rfl | split | simp only [regRead_mem, apply_ite State.mem, ite_self]
    | (with_reducible refine (foldl_mem ?_).trans ?_; intro _ _)
    | (with_reducible refine (foldl_snd_mem ?_).trans ?_; intro _ _) | dsimp only

theorem execRegisterWrite_wf (who : Agent) (addr : BitVec 48) (size : BitVec 2) (value : Word64) (s : State) (h :
    s.mem.wf = true) : outWf (execRegisterWrite who addr size value s) := by
  unfold execRegisterWrite
  repeat' first
    | with_reducible assumption | with_reducible apply outWf_done | with_reducible apply outWf_ite
    | with_reducible apply refuseRsr_wf | with_reducible apply regWrite_wf | split | dsimp only

@[simp] theorem flagOwn_mem (who : Agent) (f : Nat) (s : State) : (flagOwn who f s).2.mem = s.mem := by
  unfold flagOwn
  repeat' first
    | with_reducible rfl | (simp only [drawFree_mem, apply_ite State.mem, ite_self]; done) | split
    | simp only [drawFree_mem, apply_ite State.mem, ite_self]

@[simp] theorem flagSets_mem (f : Nat) (s : State) : (flagSets f s).2.mem = s.mem := by
  unfold flagSets
  repeat' first | with_reducible rfl | (simp only [drawFree_mem]; done) | split | simp only [drawFree_mem]

@[simp] theorem flagWord_mem (who : Agent) (f o : Nat) (s : State) : (flagWord who f o s).2.mem = s.mem := by
  unfold flagWord
  repeat' first
    | with_reducible rfl | (simp only [flagOwn_mem, flagSets_mem, apply_ite State.mem, ite_self]; done) | split
    | simp only [flagOwn_mem, flagSets_mem, apply_ite State.mem, ite_self]

@[simp] theorem flagBytes_mem (who : Agent) (off n : Nat) (s : State) : (flagBytes who off n s).2.mem = s.mem := by
  unfold flagBytes
  repeat' first
    | with_reducible rfl | simp only [flagWord_mem] | (with_reducible refine (foldl_mem ?_).trans ?_; intro _ _)
    | (with_reducible refine (foldl_snd_mem ?_).trans ?_; intro _ _) | dsimp only

theorem agentSet_wf (who : Agent) (f k : Nat) (s : State) (h : s.mem.wf = true) : (agentSet who f k s).mem.wf =
    true := by
  unfold agentSet
  repeat' first
    | with_reducible assumption | with_reducible apply wf_ite | with_reducible apply setFlag_wf | split | dsimp only
    | simp only [raise_mem]

theorem flagWrite_wf (who : Agent) (f o v : Nat) (s : State) (h : s.mem.wf = true) : (flagWrite who f o v s).mem.wf =
    true := by
  unfold flagWrite
  repeat' first
    | with_reducible assumption | with_reducible apply wf_ite | with_reducible apply agentSet_wf | split | dsimp only
    | simp only [raise_mem]

theorem flagStore_wf (who : Agent) (off : Nat) (bs : List Byte) (s : State) (h : s.mem.wf = true) : (flagStore who off
    bs s).mem.wf = true := by
  unfold flagStore
  repeat' first
    | with_reducible assumption | with_reducible apply flagWrite_wf | (with_reducible apply foldl_wf; intro _ _ _)
    | dsimp only

@[simp] theorem freeBytes_mem (n : Nat) (s : State) : (freeBytes n s).2.mem = s.mem := by
  induction n generalizing s with
  | zero => rfl
  | succ n ih => unfold freeBytes; dsimp only; rw [ih, drawFree_mem]

@[simp] theorem placeRead_mem (a : RegAcc) (addr n : Nat) (s : State) : (placeRead a addr n s).2.mem = s.mem := by
  unfold placeRead
  repeat' first
    | with_reducible rfl | (simp only [regBytes_mem, flagBytes_mem, freeBytes_mem]; done) | split
    | simp only [regBytes_mem, flagBytes_mem, freeBytes_mem]

theorem placeStore_wf (a : RegAcc) (addr : Nat) (bs : List Byte) (s : State) (h : s.mem.wf = true) : (placeStore a
    addr bs s).mem.wf = true := by
  unfold placeStore
  repeat' first
    | with_reducible assumption | with_reducible apply regWrite_wf | with_reducible apply flagStore_wf
    | with_reducible apply placeWrite_wf | split | dsimp only

@[simp] theorem addResv_mem (o : Owner) (addr : Nat) (s : State) : (addResv o addr s).mem = s.mem := by
  unfold addResv
  repeat' first
    | with_reducible rfl | (simp only [apply_ite State.mem, ite_self]; done) | split
    | simp only [apply_ite State.mem, ite_self]

@[simp] theorem grantHold_mem (o : Owner) (addr : Nat) (s : State) : (grantHold o addr s).mem = s.mem := by
  unfold grantHold
  repeat' first
    | with_reducible rfl | (simp only [countSel_mem, apply_ite State.mem, ite_self]; done) | split
    | simp only [countSel_mem, apply_ite State.mem, ite_self]

@[simp] theorem reserve_mem (o : Owner) (addr : Nat) (s : State) : (reserve o addr s).mem = s.mem := by
  unfold reserve
  repeat' first
    | with_reducible rfl | (simp only [grantHold_mem, addResv_mem]; done) | simp only [grantHold_mem, addResv_mem]

theorem conditional_wf (o : Owner) (addr : Nat) (bs : List Byte) (s : State) (h : s.mem.wf = true) : (conditional o
    addr bs s).2.mem.wf = true := by
  unfold conditional
  repeat' first
    | with_reducible assumption | with_reducible apply wf_ite | with_reducible apply physWrite_wf | split
    | dsimp only

theorem execReservationLapse_wf (t : Fin 256) (s : State) (h : s.mem.wf = true) : outWf (execReservationLapse t
    s) := by
  unfold execReservationLapse
  repeat' first | with_reducible assumption | with_reducible apply outWf_done | dsimp only

theorem execReservationHoldEnd_wf (granule : Nat) (s : State) (h : s.mem.wf = true) : outWf (execReservationHoldEnd
    granule s) := by
  unfold execReservationHoldEnd
  repeat' first | with_reducible assumption | with_reducible apply outWf_done | dsimp only

theorem execCrucibleScrub_wf (addr : BitVec 48) (s : State) (h : s.mem.wf = true) : outWf (execCrucibleScrub addr
    s) := by
  unfold execCrucibleScrub
  repeat' first
    | with_reducible assumption | with_reducible apply outWf_done | with_reducible apply outWf_ite | split
    | dsimp only | simp only [clearResv_mem]

theorem threadCheck_wf (t : Nat) (acc : Access) (reserving : Bool) (addr size : Nat) (walkBad : Bool) (s : State) (h :
    s.mem.wf = true) : (threadCheck t acc reserving addr size walkBad s).2.mem.wf = true := by
  unfold threadCheck
  repeat' first
    | with_reducible assumption | with_reducible apply wf_ite | with_reducible apply reportFault_wf | split
    | dsimp only | simp only [translateIn_mem]

theorem denyAccess_wf (t addr : Nat) (d : Denial) (s : State) (h : s.mem.wf = true) : (denyAccess t addr d s).mem.wf =
    true := by
  unfold denyAccess
  repeat' first
    | with_reducible assumption | with_reducible apply accessFault_wf | with_reducible apply fault_wf | split
    | dsimp only

@[simp] theorem noteIo_mem (t a : Nat) (s : State) : (noteIo t a s).mem = s.mem := by
  unfold noteIo
  repeat' first
    | with_reducible rfl | (simp only [updThread_mem, apply_ite State.mem, ite_self]; done) | split
    | simp only [updThread_mem, apply_ite State.mem, ite_self]

@[simp] theorem waitLoad_mem (t : Nat) (gd : BitVec 5) (v addr : Nat) (peer reserving : Bool) (s : State) : (waitLoad
    t gd v addr peer reserving s).mem = s.mem := by
  unfold waitLoad
  repeat' first | with_reducible rfl | (simp only [updThread_mem]; done) | simp only [updThread_mem]

theorem loadFrom_wf (t : Nat) (gd : BitVec 5) (a size addr : Nat) (ecc : Ecc) (s : State) (h : s.mem.wf = true) :
    (loadFrom t gd a size addr ecc s).mem.wf = true := by
  unfold loadFrom
  repeat' first
    | with_reducible assumption | with_reducible apply wf_ite | with_reducible apply fault_wf | split | dsimp only
    | simp only [waitLoad_mem, sendPeer_mem, noteIo_mem, memoryError_mem, placeRead_mem, noteEcc_mem]

theorem loadBody_wf (t : Nat) (gd : BitVec 5) (addr size : Nat) (ecc : Ecc) (s : State) (h : s.mem.wf = true) :
    (loadBody t gd addr size ecc s).mem.wf = true := by
  unfold loadBody
  repeat' first
    | with_reducible assumption | with_reducible apply threadCheck_wf | with_reducible apply denyAccess_wf
    | with_reducible apply loadFrom_wf | split | dsimp only

theorem execLoad_wf (t : Fin 256) (gd : BitVec 5) (addr : BitVec 48) (size : BitVec 2) (ecc : Ecc) (s : State) (h :
    s.mem.wf = true) : outWf (execLoad t gd addr size ecc s) := by
  unfold execLoad
  repeat' first
    | with_reducible assumption | with_reducible apply outWf_done | with_reducible apply outWf_ite
    | with_reducible apply issue_wf | with_reducible apply loadBody_wf | split | dsimp only
    | simp only [holdBack_mem] | intro _ _

theorem storeLost_wf (t : Nat) (s : State) (h : s.mem.wf = true) : (storeLost t s).mem.wf = true := by
  unfold storeLost
  repeat' first
    | with_reducible assumption | with_reducible apply endTask_wf | split | dsimp only
    | simp only [detectS1_mem, updThread_mem]

@[simp] theorem settleSeal_mem (t : Nat) (s : State) : (settleSeal t s).mem = s.mem := by
  unfold settleSeal
  repeat' first
    | with_reducible rfl | (simp only [complete_mem, updThread_mem, apply_ite State.mem, ite_self]; done) | split
    | simp only [complete_mem, updThread_mem, apply_ite State.mem, ite_self]

theorem execLoadReturn_wf (t : Fin 256) (peerData : Option Word64) (s : State) (h : s.mem.wf = true) : outWf
    (execLoadReturn t peerData s) := by
  unfold execLoadReturn
  repeat' first
    | with_reducible assumption | with_reducible apply outWf_done | with_reducible apply outWf_ite
    | with_reducible apply storeLost_wf | with_reducible apply fault_wf | split | dsimp only
    | simp only [updThread_mem, complete_mem, writeG_mem, drawFree_mem]

@[simp] theorem enqueueStore_mem (t addr a size : Nat) (v : Word64) (s : State) : (enqueueStore t addr a size v s).mem
    = s.mem := by
  unfold enqueueStore
  repeat' first
    | with_reducible rfl | (simp only [updThread_mem, noteIo_mem]; done) | simp only [updThread_mem, noteIo_mem]

theorem storeBody_wf (t : Nat) (v : Word64) (addr size : Nat) (s : State) (h : s.mem.wf = true) : (storeBody t v addr
    size s).mem.wf = true := by
  unfold storeBody
  repeat' first
    | with_reducible assumption | with_reducible apply threadCheck_wf | with_reducible apply denyAccess_wf | split
    | dsimp only | simp only [complete_mem, enqueueStore_mem]

theorem execStore_wf (t : Fin 256) (gs : BitVec 5) (addr : BitVec 48) (size : BitVec 2) (s : State) (h : s.mem.wf =
    true) : outWf (execStore t gs addr size s) := by
  unfold execStore
  repeat' first
    | with_reducible assumption | with_reducible apply outWf_done | with_reducible apply outWf_ite
    | with_reducible apply issue_wf | with_reducible apply storeBody_wf | split | dsimp only
    | simp only [holdBack_mem] | intro _ _

theorem performStore_wf (t : Nat) (q : QueuedStore) (s : State) (h : s.mem.wf = true) : (performStore t q s).mem.wf =
    true := by
  unfold performStore
  repeat' first
    | with_reducible assumption | with_reducible apply placeStore_wf | split | dsimp only | simp only [sendPeer_mem]

theorem releaseStore_wf (t : Nat) (q : QueuedStore) (ecc : Ecc) (s : State) (h : s.mem.wf = true) : (releaseStore t q
    ecc s).mem.wf = true := by
  unfold releaseStore
  repeat' first
    | with_reducible assumption | with_reducible apply wf_ite | with_reducible apply performStore_wf | split
    | dsimp only | simp only [updThread_mem, noteEcc_mem]

theorem execStoreVisible_wf (t : Fin 256) (ecc : Ecc) (s : State) (h : s.mem.wf = true) : outWf (execStoreVisible t
    ecc s) := by
  unfold execStoreVisible
  repeat' first
    | with_reducible assumption | with_reducible apply outWf_done | with_reducible apply outWf_ite
    | with_reducible apply releaseStore_wf | split | dsimp only

theorem execWriteResponse_wf (t : Fin 256) (reply : WriteReply) (s : State) (h : s.mem.wf = true) : outWf
    (execWriteResponse t reply s) := by
  unfold execWriteResponse
  repeat' first
    | with_reducible assumption | with_reducible apply outWf_done | with_reducible apply outWf_ite
    | with_reducible apply storeLost_wf | split | dsimp only | simp only [settleSeal_mem, updThread_mem]

@[simp] theorem sealBody_mem (t : Nat) (s : State) : (sealBody t s).mem = s.mem := by
  unfold sealBody
  repeat' first
    | with_reducible rfl | (simp only [settleSeal_mem, updThread_mem]; done)
    | simp only [settleSeal_mem, updThread_mem]

theorem execSealStores_wf (t : Fin 256) (s : State) (h : s.mem.wf = true) : outWf (execSealStores t s) := by
  unfold execSealStores
  repeat' first
    | with_reducible assumption | with_reducible apply outWf_done | with_reducible apply issue_wf | dsimp only
    | simp only [sealBody_mem] | intro _ _

@[simp] theorem iosealBody_mem (t : Nat) (s : State) : (iosealBody t s).mem = s.mem := by
  unfold iosealBody
  repeat' first
    | with_reducible rfl | (simp only [settleSeal_mem, updThread_mem]; done)
    | simp only [settleSeal_mem, updThread_mem]

theorem execIoseal_wf (t : Fin 256) (s : State) (h : s.mem.wf = true) : outWf (execIoseal t s) := by
  unfold execIoseal
  repeat' first
    | with_reducible assumption | with_reducible apply outWf_done | with_reducible apply issue_wf | dsimp only
    | simp only [iosealBody_mem] | intro _ _

theorem resldFrom_wf (t : Nat) (gd : BitVec 5) (a addr : Nat) (ecc : Ecc) (s : State) (h : s.mem.wf = true) :
    (resldFrom t gd a addr ecc s).mem.wf = true := by
  unfold resldFrom
  repeat' first
    | with_reducible assumption | with_reducible apply wf_ite | with_reducible apply fault_wf | split | dsimp only
    | simp only [updThread_mem, dropResv_mem, noteIo_mem, waitLoad_mem, sendPeer_mem, memoryError_mem, reserve_mem,
        noteEcc_mem]

theorem resldBody_wf (t : Nat) (gd : BitVec 5) (addr : Nat) (ecc : Ecc) (s : State) (h : s.mem.wf = true) : (resldBody
    t gd addr ecc s).mem.wf = true := by
  unfold resldBody
  repeat' first
    | with_reducible assumption | with_reducible apply threadCheck_wf | with_reducible apply denyAccess_wf
    | with_reducible apply resldFrom_wf | split | dsimp only

theorem execResld_wf (t : Fin 256) (gd ga : BitVec 5) (off : BitVec 16) (ecc : Ecc) (s : State) (h : s.mem.wf = true)
    : outWf (execResld t gd ga off ecc s) := by
  unfold execResld
  repeat' first
    | with_reducible assumption | with_reducible apply outWf_done | with_reducible apply outWf_ite
    | with_reducible apply issue_wf | with_reducible apply resldBody_wf | split | dsimp only
    | simp only [holdBack_mem] | intro _ _

theorem condstTo_wf (t : Nat) (gd : BitVec 5) (v : Word64) (a addr : Nat) (ecc : Ecc) (s : State) (h : s.mem.wf =
    true) : (condstTo t gd v a addr ecc s).mem.wf = true := by
  unfold condstTo
  repeat' first
    | with_reducible assumption | with_reducible apply wf_ite | with_reducible apply storeLost_wf
    | with_reducible apply conditional_wf | split | dsimp only
    | simp only [noteIo_mem, updThread_mem, waitLoad_mem, sendPeer_mem, complete_mem, writeG_mem, dropResv_mem,
        noteEcc_mem]

theorem condstBody_wf (t : Nat) (gd : BitVec 5) (v : Word64) (addr : Nat) (ecc : Ecc) (s : State) (h : s.mem.wf =
    true) : (condstBody t gd v addr ecc s).mem.wf = true := by
  unfold condstBody
  repeat' first
    | with_reducible assumption | with_reducible apply threadCheck_wf | with_reducible apply denyAccess_wf
    | with_reducible apply condstTo_wf | split | dsimp only

theorem execCondst_wf (t : Fin 256) (gs ga gd : BitVec 5) (off : BitVec 11) (ecc : Ecc) (s : State) (h : s.mem.wf =
    true) : outWf (execCondst t gs ga gd off ecc s) := by
  unfold execCondst
  repeat' first
    | with_reducible assumption | with_reducible apply outWf_done | with_reducible apply outWf_ite
    | with_reducible apply issue_wf | with_reducible apply condstBody_wf | split | dsimp only
    | simp only [holdBack_mem] | intro _ _

theorem flagBody_wf (t addr : Nat) (v : Word64) (s : State) (h : s.mem.wf = true) : (flagBody t addr v s).mem.wf =
    true := by
  unfold flagBody
  repeat' first
    | with_reducible assumption | with_reducible apply storeBody_wf | with_reducible apply performStore_wf | split
    | dsimp only | simp only [updThread_mem]

theorem execFlagSet_wf (t : Fin 256) (flag : Fin 4096) (s : State) (h : s.mem.wf = true) : outWf (execFlagSet t flag
    s) := by
  unfold execFlagSet
  repeat' first
    | with_reducible assumption | with_reducible apply outWf_done | with_reducible apply outWf_ite
    | with_reducible apply issue_wf | with_reducible apply flagBody_wf | split | dsimp only
    | simp only [holdBack_mem] | intro _ _

theorem execFlagAdd_wf (t : Fin 256) (flag : Fin 4096) (value : Word32) (s : State) (h : s.mem.wf = true) : outWf
    (execFlagAdd t flag value s) := by
  unfold execFlagAdd
  repeat' first
    | with_reducible assumption | with_reducible apply outWf_done | with_reducible apply outWf_ite
    | with_reducible apply issue_wf | with_reducible apply flagBody_wf | split | dsimp only
    | simp only [holdBack_mem] | intro _ _

@[simp] theorem peerUncorrectable_mem (s : State) : (peerUncorrectable s).2.mem = s.mem := by
  unfold peerUncorrectable
  repeat' first | with_reducible rfl | (simp only [detectS1_mem]; done) | simp only [detectS1_mem]

theorem peerPerform_wf (chip : Fin 4) (a : RegAcc) (op : PeerOp) (addr bytes : Nat) (data : List Byte) (ecc : Ecc) (s
    : State) (h : s.mem.wf = true) : (peerPerform chip a op addr bytes data ecc s).2.mem.wf = true := by
  unfold peerPerform
  repeat' first
    | with_reducible assumption | with_reducible apply wf_ite | with_reducible apply placeStore_wf
    | with_reducible apply conditional_wf | split | dsimp only
    | simp only [peerUncorrectable_mem, reserve_mem, placeRead_mem]

@[simp] theorem answerPeer_mem (chip : Nat) (r : Option (List Byte)) (s : State) : (answerPeer chip r s).mem =
    s.mem := by
  unfold answerPeer
  repeat' first | with_reducible rfl | (simp only [sendPeer_mem]; done) | split | simp only [sendPeer_mem]

theorem execPeerAccess_wf (chip : Fin 4) (k : Fin 5) (op : PeerOp) (addr : BitVec 48) (bytes : Nat) (data : List Byte)
    (ecc : Ecc) (s : State) (h : s.mem.wf = true) : outWf (execPeerAccess chip k op addr bytes data ecc s) := by
  unfold execPeerAccess
  repeat' first
    | with_reducible assumption | with_reducible apply outWf_done | with_reducible apply wf_ite
    | with_reducible apply outWf_ite | with_reducible apply checkAccess_wf | with_reducible apply peerPerform_wf
    | split | dsimp only | simp only [answerPeer_mem, noteEcc_mem]

theorem dmaGet_wf (ch addr n : Nat) (s : State) (h : s.mem.wf = true) : (dmaGet ch addr n s).2.mem.wf = true := by
  unfold dmaGet
  repeat' first
    | with_reducible assumption | with_reducible apply wf_ite | with_reducible apply checkAccess_wf | split
    | dsimp only | simp only [placeRead_mem]

theorem dmaPut_wf (ch addr : Nat) (bs : List Byte) (s : State) (h : s.mem.wf = true) : (dmaPut ch addr bs s).2.mem.wf
    = true := by
  unfold dmaPut
  repeat' first
    | with_reducible assumption | with_reducible apply wf_ite | with_reducible apply checkAccess_wf
    | with_reducible apply placeStore_wf | split | dsimp only

theorem readAhead_wf (ch k : Nat) (s : State) (h : s.mem.wf = true) : (readAhead ch k s).mem.wf = true := by
  induction k generalizing s with
  | zero => exact h
  | succ k ih =>
    unfold readAhead
    repeat' first
      | assumption | (apply ih; rw [updCh_mem]) | apply dmaGet_wf | split | dsimp only

theorem keepReads_wf (ch : Nat) (s : State) (h : s.mem.wf = true) : (keepReads ch s).mem.wf = true := by
  unfold keepReads
  repeat' first
    | with_reducible assumption | with_reducible apply wf_ite | with_reducible apply readAhead_wf | split
    | dsimp only | simp only [drawFree_mem]

theorem dmaFault_wf (ch kind : Nat) (isWrite : Bool) (addr : Nat) (s : State) (h : s.mem.wf = true) : (dmaFault ch
    kind isWrite addr s).mem.wf = true := by
  unfold dmaFault
  repeat' first
    | with_reducible assumption | with_reducible apply wf_ite | with_reducible apply busError_wf
    | with_reducible apply keepReads_wf | (with_reducible apply foldl_wf; intro _ _ _) | split | dsimp only

@[simp] theorem claimGroup_mem (ch a : Nat) (s : State) : (claimGroup ch a s).mem = s.mem := by
  unfold claimGroup
  repeat' first | with_reducible rfl | (simp only [requestGroup_mem]; done) | split | simp only [requestGroup_mem]

theorem classify_wf (ch : Nat) (d : Descriptor) (s : State) (h : s.mem.wf = true) : (classify ch d s).mem.wf =
    true := by
  unfold classify
  repeat' first
    | with_reducible assumption | with_reducible apply wf_ite | with_reducible apply checkAccess_wf
    | with_reducible apply dmaFault_wf | with_reducible apply descError_wf | split | dsimp only
    | simp only [claimGroup_mem]

theorem fetchDesc_wf (ch : Nat) (s : State) (h : s.mem.wf = true) : (fetchDesc ch s).mem.wf = true := by
  unfold fetchDesc
  repeat' first
    | with_reducible assumption | with_reducible apply wf_ite | with_reducible apply dmaGet_wf
    | with_reducible apply dmaFault_wf | with_reducible apply classify_wf | with_reducible apply descError_wf | split
    | dsimp only | simp only [assignPaths_mem, freePath_mem, updCh_mem]

theorem readLevel_wf (ch : Nat) (s : State) (h : s.mem.wf = true) : (readLevel ch s).2.mem.wf = true := by
  unfold readLevel
  repeat' first | with_reducible assumption | with_reducible apply dmaGet_wf | split | dsimp only

theorem endUnit_wf (ch : Nat) (s : State) (h : s.mem.wf = true) : (endUnit ch s).mem.wf = true := by
  unfold endUnit
  repeat' first
    | with_reducible assumption | with_reducible apply wf_ite | with_reducible apply dmaPut_wf
    | with_reducible apply dmaFault_wf | split | dsimp only | simp only [updCh_mem]

theorem beatBytes_wf (ch : Nat) (d : Descriptor) (n : Nat) (s : State) (h : s.mem.wf = true) : (beatBytes ch d n
    s).2.mem.wf = true := by
  unfold beatBytes
  repeat' first
    | with_reducible assumption | with_reducible apply wf_ite | with_reducible apply dmaGet_wf | split | dsimp only

theorem moveBeat_wf (ch : Nat) (d : Descriptor) (n : Nat) (s : State) (h : s.mem.wf = true) : (moveBeat ch d n
    s).mem.wf = true := by
  unfold moveBeat
  repeat' first
    | with_reducible assumption | with_reducible apply wf_ite | with_reducible apply beatBytes_wf
    | with_reducible apply dmaFault_wf | with_reducible apply dmaPut_wf | with_reducible apply endUnit_wf | split
    | dsimp only | simp only [updCh_mem, countSel_mem]

theorem beginUnit_wf (ch : Nat) (s : State) (h : s.mem.wf = true) : (beginUnit ch s).mem.wf = true := by
  unfold beginUnit
  repeat' first
    | with_reducible assumption | with_reducible apply wf_ite | with_reducible apply readLevel_wf
    | with_reducible apply dmaFault_wf | with_reducible apply descError_wf | split | dsimp only
    | simp only [updCh_mem]

theorem pathBeat_wf (i : Nat) (s : State) (h : s.mem.wf = true) : (pathBeat i s).mem.wf = true := by
  unfold pathBeat
  repeat' first
    | with_reducible assumption | with_reducible apply wf_ite | with_reducible apply fetchDesc_wf
    | with_reducible apply beginUnit_wf | with_reducible apply moveBeat_wf | split | dsimp only

theorem preempt_wf (ch : Nat) (s : State) (h : s.mem.wf = true) : (preempt ch s).mem.wf = true := by
  unfold preempt
  repeat' first
    | with_reducible assumption | with_reducible apply wf_ite | with_reducible apply keepReads_wf | split
    | dsimp only | simp only [givePath_mem, updCh_mem]

theorem turnPaths_wf (s : State) (h : s.mem.wf = true) : (turnPaths s).mem.wf = true := by
  unfold turnPaths
  repeat' first
    | with_reducible assumption | with_reducible apply wf_ite | with_reducible apply preempt_wf
    | (with_reducible apply foldl_wf; intro _ _ _) | split | dsimp only | simp only [assignPaths_mem]

theorem runDma_wf (s : State) (h : s.mem.wf = true) : (runDma s).mem.wf = true := by
  unfold runDma
  repeat' first | with_reducible assumption | with_reducible apply wf_ite | with_reducible apply turnPaths_wf | with_reducible apply pathBeat_wf | dsimp only

theorem execDmaBurstEnd_wf (dp : Fin 2) (s : State) (h : s.mem.wf = true) : outWf (execDmaBurstEnd dp s) := by
  unfold execDmaBurstEnd
  repeat' first
    | with_reducible assumption | with_reducible apply outWf_done | with_reducible apply outWf_ite
    | with_reducible apply turnPaths_wf | split | dsimp only

theorem execLadleRampEnd_wf (id : BitVec 10) (s : State) (h : s.mem.wf = true) : outWf (execLadleRampEnd id s) := by
  unfold execLadleRampEnd
  repeat' first
    | with_reducible assumption | with_reducible apply outWf_done | with_reducible apply wf_ite
    | with_reducible apply outWf_ite | with_reducible apply preempt_wf | split | dsimp only
    | simp only [beginHolder_mem]

theorem execDmaPacePoll_wf (ch : Fin 32) (s : State) (h : s.mem.wf = true) : outWf (execDmaPacePoll ch s) := by
  unfold execDmaPacePoll
  repeat' first
    | with_reducible assumption | with_reducible apply outWf_done | with_reducible apply outWf_ite
    | with_reducible apply readLevel_wf | with_reducible apply dmaFault_wf | with_reducible apply descError_wf
    | with_reducible apply turnPaths_wf | split | dsimp only | simp only [updCh_mem]

theorem writeBack_wf (ch : Nat) (d : Descriptor) (s : State) (h : s.mem.wf = true) : (writeBack ch d s).2.mem.wf =
    true := by
  unfold writeBack
  repeat' first
    | with_reducible assumption | with_reducible apply wf_ite | with_reducible apply dmaPut_wf | split | dsimp only
    | simp only [updCh_mem]

@[simp] theorem endChain_mem (ch : Nat) (s : State) : (endChain ch s).mem = s.mem := by
  unfold endChain
  repeat' first
    | with_reducible rfl
    | (simp only [freePath_mem, ladleRelease_mem, endChannel_mem, updCh_mem, endNode_mem, apply_ite State.mem,
        ite_self]; done)
    | split
    | simp only [freePath_mem, ladleRelease_mem, endChannel_mem, updCh_mem, endNode_mem, apply_ite State.mem,
        ite_self]

@[simp] theorem notifyChannel_mem (ch : Nat) (d : Descriptor) (s : State) : (notifyChannel ch d s).mem = s.mem := by
  unfold notifyChannel
  repeat' first
    | with_reducible rfl | (simp only [signalMsix_mem, setHw_mem, apply_ite State.mem, ite_self]; done) | split
    | simp only [signalMsix_mem, setHw_mem, apply_ite State.mem, ite_self]

theorem completeDesc_wf (ch : Nat) (d : Descriptor) (s : State) (h : s.mem.wf = true) : (completeDesc ch d s).mem.wf =
    true := by
  unfold completeDesc
  repeat' first
    | with_reducible assumption | with_reducible apply wf_ite | with_reducible apply writeBack_wf
    | with_reducible apply dmaFault_wf | with_reducible apply turnPaths_wf | split | dsimp only
    | simp only [updCh_mem, notifyChannel_mem, endChain_mem]

theorem execDmaDescComplete_wf (ch : Fin 32) (s : State) (h : s.mem.wf = true) : outWf (execDmaDescComplete ch
    s) := by
  unfold execDmaDescComplete
  repeat' first
    | with_reducible assumption | with_reducible apply outWf_done | with_reducible apply outWf_ite
    | with_reducible apply completeDesc_wf | split | dsimp only

theorem postedError_wf (ch addr entry : Nat) (s : State) (h : s.mem.wf = true) : (postedError ch addr entry s).mem.wf
    = true := by
  unfold postedError
  repeat' first
    | with_reducible assumption | with_reducible apply wf_ite | with_reducible apply chWrite_wf
    | with_reducible apply dmaFault_wf | with_reducible apply abortPour_wf | split | dsimp only
    | simp only [updCh_mem, detectS1_mem, endNode_mem]

theorem execDmaBusError_wf (ch : Fin 32) (kind : BusErrorKind) (isWrite : Bool) (addr : BitVec 48) (onPosted : Bool)
    (s : State) (h : s.mem.wf = true) : outWf (execDmaBusError ch kind isWrite addr onPosted s) := by
  unfold execDmaBusError
  repeat' first
    | with_reducible assumption | with_reducible apply outWf_done | with_reducible apply outWf_ite
    | with_reducible apply postedError_wf | with_reducible apply dmaFault_wf | split | dsimp only

@[simp] theorem reply_mem (op : HostOp) (r : HostReply) (s : State) : (reply op r s).mem = s.mem := by
  unfold reply
  repeat' first | with_reducible rfl | split

@[simp] theorem denyHost_mem (op : HostOp) (f : AccessFault) (s : State) : (denyHost op f s).mem = s.mem := by
  unfold denyHost
  repeat' first
    | with_reducible rfl | (simp only [apply_ite State.mem, ite_self]; done) | split
    | simp only [apply_ite State.mem, ite_self]

@[simp] theorem hostUncorrectable_mem (op : HostOp) (s : State) : (hostUncorrectable op s).mem = s.mem := by
  unfold hostUncorrectable
  repeat' first | with_reducible rfl | (simp only [detectS1_mem]; done) | split | simp only [detectS1_mem]

theorem hostPerform_wf (op : HostOp) (a : Nat) (s : State) (h : s.mem.wf = true) : (hostPerform op a s).mem.wf =
    true := by
  unfold hostPerform
  repeat' first
    | with_reducible assumption | with_reducible apply placeStore_wf | split | dsimp only | simp only [placeRead_mem]

theorem hostTry_wf (op : HostOp) (addr : Nat) (ecc : Ecc) (s : State) (h : s.mem.wf = true) : (hostTry op addr ecc
    s).mem.wf = true := by
  unfold hostTry
  repeat' first
    | with_reducible assumption | with_reducible apply wf_ite | with_reducible apply checkAccess_wf
    | with_reducible apply hostPerform_wf | split | dsimp only
    | simp only [denyHost_mem, hostUncorrectable_mem, noteEcc_mem]

theorem execHostAccess_wf (bar : Bar) (offset : Nat) (op : HostOp) (ecc : Ecc) (s : State) (h : s.mem.wf = true) :
    outWf (execHostAccess bar offset op ecc s) := by
  unfold execHostAccess
  repeat' first
    | with_reducible assumption | with_reducible apply outWf_done | with_reducible apply outWf_ite
    | with_reducible apply hostTry_wf | split | dsimp only | simp only [raise_mem]

@[simp] theorem countEclk_mem (s : State) : (countEclk s).mem = s.mem := by
  unfold countEclk
  repeat' first
    | with_reducible rfl | (simp only [countSel_mem, apply_ite State.mem, ite_self]; done) | split
    | simp only [countSel_mem, apply_ite State.mem, ite_self]

@[simp] theorem advanceTsc_mem (s : State) : (advanceTsc s).mem = s.mem := by
  unfold advanceTsc
  repeat' first | with_reducible rfl

@[simp] theorem advanceWatch_mem (s : State) : (advanceWatch s).mem = s.mem := by
  unfold advanceWatch
  repeat' first
    | with_reducible rfl | (simp only [apply_ite State.mem, ite_self]; done) | split
    | simp only [apply_ite State.mem, ite_self]

theorem endPclk_wf (s : State) (h : s.mem.wf = true) : (endPclk s).mem.wf = true := by
  unfold endPclk
  repeat' first
    | with_reducible assumption | with_reducible apply wf_ite | with_reducible apply settleWrites_wf | split
    | dsimp only

@[simp] theorem clearDoorbell_mem (s : State) : (clearDoorbell s).mem = s.mem := by
  unfold clearDoorbell
  repeat' first
    | with_reducible rfl | (simp only [apply_ite State.mem, ite_self]; done) | split
    | simp only [apply_ite State.mem, ite_self]

@[simp] theorem openCycle_mem (s : State) : (openCycle s).mem = s.mem := by
  unfold openCycle
  repeat' first
    | with_reducible rfl | (simp only [apply_ite State.mem, ite_self]; done) | split
    | simp only [apply_ite State.mem, ite_self]

@[simp] theorem formMessages_mem (s : State) : (formMessages s).mem = s.mem := by
  unfold formMessages
  repeat' first | with_reducible rfl | (simp only [formDue_mem]; done) | simp only [formDue_mem]

theorem runUnits_wf (s : State) (h : s.mem.wf = true) : (runUnits s).mem.wf = true := by
  unfold runUnits
  repeat' first
    | with_reducible assumption | with_reducible apply runDma_wf | with_reducible apply endPclk_wf | dsimp only
    | simp only [clearDoorbell_mem, fillBuffers_mem, countEclk_mem]

theorem tick_wf (s : State) (h : s.mem.wf = true) : (tick s).mem.wf = true := by
  unfold tick
  repeat' first
    | with_reducible assumption | with_reducible apply wf_ite | with_reducible apply flushStages_wf
    | with_reducible apply runUnits_wf | split | dsimp only
    | simp only [settleRoles_mem, advanceTsc_mem, advanceWatch_mem, openCycle_mem, formMessages_mem]

end Sys2Proof.Machine
end

