-- ==== Sys2Proof/Laws/State.lean ====
section
/-! SUPPORT. What the shared operations do to the state, one lemma per field: raising an event, the two detections, a warm
reset, and the updates of one element. -/

namespace Sys2Proof.Machine

/-! ### Raising an event -/

/-- t differs from s at most in what raising events writes: the event registers, the host interface's event FIFO, vectors and
posted writes, and what the ECLK keeps of both. -/
def EventsOnly (s t : State) : Prop :=
  ∃ l p v f n ny r c x w d k g h vs ps ff lost dr cs cp, t = { s with
    ldl := { s.ldl with evt := l }, pat := { s.pat with evt := p }, ven := { s.ven with evt := v },
    fgs := { s.fgs with evt := f }, neu := { s.neu with evt := n, layEvt := ny }, rsr := { s.rsr with evt := r },
    sch := { s.sch with evt := c }, xlt := { s.xlt with evt := x }, fwl := { s.fwl with evt := w },
    dma := { s.dma with evt := d }, lnk := { s.lnk with evt := k }, tap := { s.tap with evt := g },
    hif := { s.hif with evt := h, vectors := vs, posted := ps, fifo := ff, evtLost := lost, dropRun := dr },
    cyc := { s.cyc with sets := cs, pushed := cp } }

theorem eventsOnly_refl (s : State) : EventsOnly s s :=
  ⟨_, _, _, _, _, _, _, _, _, _, _, _, _, _, _, _, _, _, _, _, _, rfl⟩

theorem eventsOnly_trans {s t u : State} (h : EventsOnly s t) (k : EventsOnly t u) : EventsOnly s u := by
  obtain ⟨_, _, _, _, _, _, _, _, _, _, _, _, _, _, _, _, _, _, _, _, _, rfl⟩ := h
  obtain ⟨_, _, _, _, _, _, _, _, _, _, _, _, _, _, _, _, _, _, _, _, _, rfl⟩ := k
  exact ⟨_, _, _, _, _, _, _, _, _, _, _, _, _, _, _, _, _, _, _, _, _, rfl⟩

theorem eventsOnly_ite {s x y : State} {c : Prop} [Decidable c] (hx : EventsOnly s x) (hy : EventsOnly s y) :
    EventsOnly s (if c then x else y) := by
  split <;> assumption

theorem markEvt_events (s : State) (code : EventCode) : EventsOnly s (markEvt s code) := by
  unfold markEvt
  dsimp only
  repeat' with_reducible apply eventsOnly_ite
  all_goals exact ⟨_, _, _, _, _, _, _, _, _, _, _, _, _, _, _, _, _, _, _, _, _, rfl⟩

theorem pushFifo_events (s : State) (code : EventCode) : EventsOnly s (pushFifo s code) := by
  unfold pushFifo
  split <;> exact ⟨_, _, _, _, _, _, _, _, _, _, _, _, _, _, _, _, _, _, _, _, _, rfl⟩

theorem signalMsix_events (s : State) (v : Nat) : EventsOnly s (signalMsix s v) := by
  unfold signalMsix sendMsix
  dsimp only
  repeat' split
  all_goals exact ⟨_, _, _, _, _, _, _, _, _, _, _, _, _, _, _, _, _, _, _, _, _, rfl⟩

theorem signalEvent_events (s : State) (code : EventCode) : EventsOnly s (signalEvent s code) := by
  have h1 : EventsOnly s (if code = 0x1110 then s
      else if 1 ≤ code.toNat / 256 ∧ code.toNat / 256 ≤ 18 then signalMsix s (code.toNat / 256) else s) :=
    eventsOnly_ite (eventsOnly_refl s) (eventsOnly_ite (signalMsix_events ..) (eventsOnly_refl s))
  unfold signalEvent
  dsimp only
  exact eventsOnly_ite (eventsOnly_trans h1 (signalMsix_events ..)) h1

theorem noteSet_events (code : EventCode) (s : State) : EventsOnly s (noteSet code s) :=
  ⟨_, _, _, _, _, _, _, _, _, _, _, _, _, _, _, _, _, _, _, _, _, rfl⟩

/-- Everything that raising an event can write. -/
theorem raise_events (code : EventCode) (s : State) : EventsOnly s (raise code s) :=
  eventsOnly_trans (eventsOnly_trans (eventsOnly_trans (markEvt_events ..) (noteSet_events ..)) (pushFifo_events ..))
    (signalEvent_events ..)

/-- An event leaves everything but the event registers, the host interface's queues and what the ECLK keeps of both. -/
theorem raise_frame (code : EventCode) (s : State) : raise code s = { s with
    ldl := { s.ldl with evt := (raise code s).ldl.evt }, pat := { s.pat with evt := (raise code s).pat.evt },
    ven := { s.ven with evt := (raise code s).ven.evt }, fgs := { s.fgs with evt := (raise code s).fgs.evt },
    neu := { s.neu with evt := (raise code s).neu.evt, layEvt := (raise code s).neu.layEvt },
    rsr := { s.rsr with evt := (raise code s).rsr.evt }, sch := { s.sch with evt := (raise code s).sch.evt },
    xlt := { s.xlt with evt := (raise code s).xlt.evt }, fwl := { s.fwl with evt := (raise code s).fwl.evt },
    dma := { s.dma with evt := (raise code s).dma.evt }, lnk := { s.lnk with evt := (raise code s).lnk.evt },
    tap := { s.tap with evt := (raise code s).tap.evt },
    hif := { s.hif with evt := (raise code s).hif.evt, vectors := (raise code s).hif.vectors,
                        posted := (raise code s).hif.posted, fifo := (raise code s).hif.fifo,
                        evtLost := (raise code s).hif.evtLost, dropRun := (raise code s).hif.dropRun },
    cyc := { s.cyc with sets := (raise code s).cyc.sets, pushed := (raise code s).cyc.pushed } } := by
  obtain ⟨_, _, _, _, _, _, _, _, _, _, _, _, _, _, _, _, _, _, _, _, _, h⟩ := raise_events code s
  rw [h]

/-- The event FIFO and its drop run are as they were. -/
def QueueKept (s t : State) : Prop :=
  t.hif.fifo = s.hif.fifo ∧ t.hif.evtLost = s.hif.evtLost ∧ t.hif.dropRun = s.hif.dropRun

theorem queueKept_ite {s x y : State} {c : Prop} [Decidable c] (hx : QueueKept s x) (hy : QueueKept s y) :
    QueueKept s (if c then x else y) := by
  split <;> assumption

theorem markEvt_queue (s : State) (code : EventCode) : QueueKept s (markEvt s code) := by
  unfold markEvt
  dsimp only
  repeat' with_reducible apply queueKept_ite
  all_goals exact ⟨rfl, rfl, rfl⟩

theorem signalMsix_queue (s : State) (v : Nat) : QueueKept s (signalMsix s v) := by
  unfold signalMsix sendMsix
  dsimp only
  repeat' split
  all_goals exact ⟨rfl, rfl, rfl⟩

theorem signalEvent_queue (s : State) (code : EventCode) : QueueKept s (signalEvent s code) := by
  have h1 : QueueKept s (if code = 0x1110 then s
      else if 1 ≤ code.toNat / 256 ∧ code.toNat / 256 ≤ 18 then signalMsix s (code.toNat / 256) else s) :=
    queueKept_ite ⟨rfl, rfl, rfl⟩ (queueKept_ite (signalMsix_queue ..) ⟨rfl, rfl, rfl⟩)
  have h2 := signalMsix_queue (if code = 0x1110 then s
      else if 1 ≤ code.toNat / 256 ∧ code.toNat / 256 ≤ 18 then signalMsix s (code.toNat / 256) else s) 0
  unfold signalEvent
  dsimp only
  exact queueKept_ite ⟨h2.1.trans h1.1, h2.2.1.trans h1.2.1, h2.2.2.trans h1.2.2⟩ h1

/-- R460: what raising an event does to the event FIFO. -/
theorem raise_queue (code : EventCode) (s : State) :
    (raise code s).hif.fifo = (if s.hif.fifo.length < 256 then s.hif.fifo ++ [code] else s.hif.fifo) ∧
    (raise code s).hif.evtLost = (if s.hif.fifo.length < 256 then s.hif.evtLost else satAdd 32 s.hif.evtLost 1) ∧
    (raise code s).hif.dropRun = (if s.hif.fifo.length < 256 then s.hif.dropRun else true) := by
  obtain ⟨a1, a2, a3⟩ := signalEvent_queue (pushFifo (noteSet code (markEvt s code)) code) code
  obtain ⟨b1, b2, b3⟩ : QueueKept s (noteSet code (markEvt s code)) := markEvt_queue s code
  unfold raise
  rw [a1, a2, a3]
  unfold pushFifo
  rw [b1]
  split
  · exact ⟨by rw [← b1], b2, b3⟩
  · exact ⟨b1, by rw [← b2], rfl⟩

/-! ### Fields that no event writes -/

@[simp] theorem raise_pending (code : EventCode) (s : State) : (raise code s).pending = s.pending := by
  rw [raise_frame]

@[simp] theorem raise_clock (code : EventCode) (s : State) : (raise code s).clock = s.clock := by
  rw [raise_frame]

@[simp] theorem raise_rails (code : EventCode) (s : State) : (raise code s).rails = s.rails := by
  rw [raise_frame]

@[simp] theorem raise_ret (code : EventCode) (s : State) : (raise code s).ret = s.ret := by
  rw [raise_frame]

@[simp] theorem raise_fuses (code : EventCode) (s : State) : (raise code s).fuses = s.fuses := by
  rw [raise_frame]

@[simp] theorem raise_sys (code : EventCode) (s : State) : (raise code s).sys = s.sys := by
  rw [raise_frame]

@[simp] theorem raise_pwr (code : EventCode) (s : State) : (raise code s).pwr = s.pwr := by
  rw [raise_frame]

@[simp] theorem raise_ldl_ceil (code : EventCode) (s : State) : (raise code s).ldl.ceil = s.ldl.ceil := by
  rw [raise_frame]

@[simp] theorem raise_ldl_activeCeil (code : EventCode) (s : State) : (raise code s).ldl.activeCeil = s.ldl.activeCeil := by
  rw [raise_frame]

@[simp] theorem raise_ldl_standing (code : EventCode) (s : State) : (raise code s).ldl.standing = s.ldl.standing := by
  rw [raise_frame]

@[simp] theorem raise_ldl_frozen (code : EventCode) (s : State) : (raise code s).ldl.frozen = s.ldl.frozen := by
  rw [raise_frame]

@[simp] theorem raise_ldl_marginAbs (code : EventCode) (s : State) : (raise code s).ldl.marginAbs = s.ldl.marginAbs := by
  rw [raise_frame]

@[simp] theorem raise_ldl_marginRel (code : EventCode) (s : State) : (raise code s).ldl.marginRel = s.ldl.marginRel := by
  rw [raise_frame]

@[simp] theorem raise_ldl_windows (code : EventCode) (s : State) : (raise code s).ldl.windows = s.ldl.windows := by
  rw [raise_frame]

@[simp] theorem raise_ldl_measured (code : EventCode) (s : State) : (raise code s).ldl.measured = s.ldl.measured := by
  rw [raise_frame]

@[simp] theorem raise_ldl_peak (code : EventCode) (s : State) : (raise code s).ldl.peak = s.ldl.peak := by
  rw [raise_frame]

@[simp] theorem raise_ldl_waitMax (code : EventCode) (s : State) : (raise code s).ldl.waitMax = s.ldl.waitMax := by
  rw [raise_frame]

@[simp] theorem raise_ldl_loads (code : EventCode) (s : State) : (raise code s).ldl.loads = s.ldl.loads := by
  rw [raise_frame]

@[simp] theorem raise_ldl_queue (code : EventCode) (s : State) : (raise code s).ldl.queue = s.ldl.queue := by
  rw [raise_frame]

@[simp] theorem raise_ldl_grants (code : EventCode) (s : State) : (raise code s).ldl.grants = s.ldl.grants := by
  rw [raise_frame]

@[simp] theorem raise_ldl_lastGrant (code : EventCode) (s : State) : (raise code s).ldl.lastGrant = s.ldl.lastGrant := by
  rw [raise_frame]

@[simp] theorem raise_ldl_lastRampEnd (code : EventCode) (s : State) : (raise code s).ldl.lastRampEnd = s.ldl.lastRampEnd := by
  rw [raise_frame]

@[simp] theorem raise_ldl_oldCeil (code : EventCode) (s : State) : (raise code s).ldl.oldCeil = s.ldl.oldCeil := by
  rw [raise_frame]

@[simp] theorem raise_ldl_windowAt (code : EventCode) (s : State) : (raise code s).ldl.windowAt = s.ldl.windowAt := by
  rw [raise_frame]

@[simp] theorem raise_ldl_maxGranted (code : EventCode) (s : State) : (raise code s).ldl.maxGranted = s.ldl.maxGranted := by
  rw [raise_frame]

@[simp] theorem raise_ldl_winPours (code : EventCode) (s : State) : (raise code s).ldl.winPours = s.ldl.winPours := by
  rw [raise_frame]

@[simp] theorem raise_ldl_overRun (code : EventCode) (s : State) : (raise code s).ldl.overRun = s.ldl.overRun := by
  rw [raise_frame]

@[simp] theorem raise_ldl_withinRun (code : EventCode) (s : State) : (raise code s).ldl.withinRun = s.ldl.withinRun := by
  rw [raise_frame]

@[simp] theorem raise_ldl_underRun (code : EventCode) (s : State) : (raise code s).ldl.underRun = s.ldl.underRun := by
  rw [raise_frame]

@[simp] theorem raise_ldl_underRaised (code : EventCode) (s : State) : (raise code s).ldl.underRaised = s.ldl.underRaised := by
  rw [raise_frame]

@[simp] theorem raise_ldl_overRaised (code : EventCode) (s : State) : (raise code s).ldl.overRaised = s.ldl.overRaised := by
  rw [raise_frame]

@[simp] theorem raise_ldl_exposed (code : EventCode) (s : State) : (raise code s).ldl.exposed = s.ldl.exposed := by
  rw [raise_frame]

@[simp] theorem raise_idn (code : EventCode) (s : State) : (raise code s).idn = s.idn := by
  rw [raise_frame]

@[simp] theorem raise_pat_holdSwap (code : EventCode) (s : State) : (raise code s).pat.holdSwap = s.pat.holdSwap := by
  rw [raise_frame]

@[simp] theorem raise_pat_src (code : EventCode) (s : State) : (raise code s).pat.src = s.pat.src := by
  rw [raise_frame]

@[simp] theorem raise_pat_len (code : EventCode) (s : State) : (raise code s).pat.len = s.pat.len := by
  rw [raise_frame]

@[simp] theorem raise_pat_st (code : EventCode) (s : State) : (raise code s).pat.st = s.pat.st := by
  rw [raise_frame]

@[simp] theorem raise_pat_failCode (code : EventCode) (s : State) : (raise code s).pat.failCode = s.pat.failCode := by
  rw [raise_frame]

@[simp] theorem raise_pat_swapTmo (code : EventCode) (s : State) : (raise code s).pat.swapTmo = s.pat.swapTmo := by
  rw [raise_frame]

@[simp] theorem raise_pat_active (code : EventCode) (s : State) : (raise code s).pat.active = s.pat.active := by
  rw [raise_frame]

@[simp] theorem raise_pat_checked (code : EventCode) (s : State) : (raise code s).pat.checked = s.pat.checked := by
  rw [raise_frame]

@[simp] theorem raise_pat_initBad (code : EventCode) (s : State) : (raise code s).pat.initBad = s.pat.initBad := by
  rw [raise_frame]

@[simp] theorem raise_pat_pending (code : EventCode) (s : State) : (raise code s).pat.pending = s.pat.pending := by
  rw [raise_frame]

@[simp] theorem raise_pat_committed (code : EventCode) (s : State) : (raise code s).pat.committed = s.pat.committed := by
  rw [raise_frame]

@[simp] theorem raise_pat_swapAt (code : EventCode) (s : State) : (raise code s).pat.swapAt = s.pat.swapAt := by
  rw [raise_frame]

@[simp] theorem raise_pat_acceptAt (code : EventCode) (s : State) : (raise code s).pat.acceptAt = s.pat.acceptAt := by
  rw [raise_frame]

@[simp] theorem raise_pat_deferred (code : EventCode) (s : State) : (raise code s).pat.deferred = s.pat.deferred := by
  rw [raise_frame]

@[simp] theorem raise_pat_previous (code : EventCode) (s : State) : (raise code s).pat.previous = s.pat.previous := by
  rw [raise_frame]

@[simp] theorem raise_cams (code : EventCode) (s : State) : (raise code s).cams = s.cams := by
  rw [raise_frame]

@[simp] theorem raise_ven_insts (code : EventCode) (s : State) : (raise code s).ven.insts = s.ven.insts := by
  rw [raise_frame]

@[simp] theorem raise_neu_arrays (code : EventCode) (s : State) : (raise code s).neu.arrays = s.neu.arrays := by
  rw [raise_frame]

@[simp] theorem raise_neu_bufs (code : EventCode) (s : State) : (raise code s).neu.bufs = s.neu.bufs := by
  rw [raise_frame]

@[simp] theorem raise_neu_cmds (code : EventCode) (s : State) : (raise code s).neu.cmds = s.neu.cmds := by
  rw [raise_frame]

@[simp] theorem raise_neu_testPhys (code : EventCode) (s : State) : (raise code s).neu.testPhys = s.neu.testPhys := by
  rw [raise_frame]

@[simp] theorem raise_neu_handover (code : EventCode) (s : State) : (raise code s).neu.handover = s.neu.handover := by
  rw [raise_frame]

@[simp] theorem raise_neu_satCnt (code : EventCode) (s : State) : (raise code s).neu.satCnt = s.neu.satCnt := by
  rw [raise_frame]

@[simp] theorem raise_neu_fpCnt (code : EventCode) (s : State) : (raise code s).neu.fpCnt = s.neu.fpCnt := by
  rw [raise_frame]

@[simp] theorem raise_neu_eccFix (code : EventCode) (s : State) : (raise code s).neu.eccFix = s.neu.eccFix := by
  rw [raise_frame]

@[simp] theorem raise_fgs_drain (code : EventCode) (s : State) : (raise code s).fgs.drain = s.fgs.drain := by
  rw [raise_frame]

@[simp] theorem raise_fgs_abortLimit (code : EventCode) (s : State) : (raise code s).fgs.abortLimit = s.fgs.abortLimit := by
  rw [raise_frame]

@[simp] theorem raise_fgs_dlMiss (code : EventCode) (s : State) : (raise code s).fgs.dlMiss = s.fgs.dlMiss := by
  rw [raise_frame]

@[simp] theorem raise_fgs_dlCut (code : EventCode) (s : State) : (raise code s).fgs.dlCut = s.fgs.dlCut := by
  rw [raise_frame]

@[simp] theorem raise_fgs_slots (code : EventCode) (s : State) : (raise code s).fgs.slots = s.fgs.slots := by
  rw [raise_frame]

@[simp] theorem raise_fgs_pours (code : EventCode) (s : State) : (raise code s).fgs.pours = s.fgs.pours := by
  rw [raise_frame]

@[simp] theorem raise_fgs_leaving (code : EventCode) (s : State) : (raise code s).fgs.leaving = s.fgs.leaving := by
  rw [raise_frame]

@[simp] theorem raise_fgs_flags (code : EventCode) (s : State) : (raise code s).fgs.flags = s.fgs.flags := by
  rw [raise_frame]

@[simp] theorem raise_fgs_devFlags (code : EventCode) (s : State) : (raise code s).fgs.devFlags = s.fgs.devFlags := by
  rw [raise_frame]

@[simp] theorem raise_rsr_cores (code : EventCode) (s : State) : (raise code s).rsr.cores = s.rsr.cores := by
  rw [raise_frame]

@[simp] theorem raise_rsr_threads (code : EventCode) (s : State) : (raise code s).rsr.threads = s.rsr.threads := by
  rw [raise_frame]

@[simp] theorem raise_rsr_rel (code : EventCode) (s : State) : (raise code s).rsr.rel = s.rsr.rel := by
  rw [raise_frame]

@[simp] theorem raise_rsr_keeperMask (code : EventCode) (s : State) : (raise code s).rsr.keeperMask = s.rsr.keeperMask := by
  rw [raise_frame]

@[simp] theorem raise_rsr_vec (code : EventCode) (s : State) : (raise code s).rsr.vec = s.rsr.vec := by
  rw [raise_frame]

@[simp] theorem raise_rsr_excCnt (code : EventCode) (s : State) : (raise code s).rsr.excCnt = s.rsr.excCnt := by
  rw [raise_frame]

@[simp] theorem raise_rsr_resvs (code : EventCode) (s : State) : (raise code s).rsr.resvs = s.rsr.resvs := by
  rw [raise_frame]

@[simp] theorem raise_rsr_fails (code : EventCode) (s : State) : (raise code s).rsr.fails = s.rsr.fails := by
  rw [raise_frame]

@[simp] theorem raise_rsr_holds (code : EventCode) (s : State) : (raise code s).rsr.holds = s.rsr.holds := by
  rw [raise_frame]

@[simp] theorem raise_rsr_granule (code : EventCode) (s : State) : (raise code s).rsr.granule = s.rsr.granule := by
  rw [raise_frame]

@[simp] theorem raise_sch_tasks (code : EventCode) (s : State) : (raise code s).sch.tasks = s.sch.tasks := by
  rw [raise_frame]

@[simp] theorem raise_sch_gens (code : EventCode) (s : State) : (raise code s).sch.gens = s.sch.gens := by
  rw [raise_frame]

@[simp] theorem raise_sch_groups (code : EventCode) (s : State) : (raise code s).sch.groups = s.sch.groups := by
  rw [raise_frame]

@[simp] theorem raise_sch_ports (code : EventCode) (s : State) : (raise code s).sch.ports = s.sch.ports := by
  rw [raise_frame]

@[simp] theorem raise_sch_links (code : EventCode) (s : State) : (raise code s).sch.links = s.sch.links := by
  rw [raise_frame]

@[simp] theorem raise_sch_deliveredAt (code : EventCode) (s : State) : (raise code s).sch.deliveredAt = s.sch.deliveredAt := by
  rw [raise_frame]

@[simp] theorem raise_sch_linkAt (code : EventCode) (s : State) : (raise code s).sch.linkAt = s.sch.linkAt := by
  rw [raise_frame]

@[simp] theorem raise_sch_waitMax (code : EventCode) (s : State) : (raise code s).sch.waitMax = s.sch.waitMax := by
  rw [raise_frame]

@[simp] theorem raise_xlt_roots (code : EventCode) (s : State) : (raise code s).xlt.roots = s.xlt.roots := by
  rw [raise_frame]

@[simp] theorem raise_xlt_bind (code : EventCode) (s : State) : (raise code s).xlt.bind = s.xlt.bind := by
  rw [raise_frame]

@[simp] theorem raise_xlt_invBusy (code : EventCode) (s : State) : (raise code s).xlt.invBusy = s.xlt.invBusy := by
  rw [raise_frame]

@[simp] theorem raise_xlt_cache (code : EventCode) (s : State) : (raise code s).xlt.cache = s.xlt.cache := by
  rw [raise_frame]

@[simp] theorem raise_xlt_old (code : EventCode) (s : State) : (raise code s).xlt.old = s.xlt.old := by
  rw [raise_frame]

@[simp] theorem raise_xlt_fault (code : EventCode) (s : State) : (raise code s).xlt.fault = s.xlt.fault := by
  rw [raise_frame]

@[simp] theorem raise_fwl_regions (code : EventCode) (s : State) : (raise code s).fwl.regions = s.fwl.regions := by
  rw [raise_frame]

@[simp] theorem raise_fwl_old (code : EventCode) (s : State) : (raise code s).fwl.old = s.fwl.old := by
  rw [raise_frame]

@[simp] theorem raise_fwl_fault (code : EventCode) (s : State) : (raise code s).fwl.fault = s.fwl.fault := by
  rw [raise_frame]

@[simp] theorem raise_dma_chs (code : EventCode) (s : State) : (raise code s).dma.chs = s.dma.chs := by
  rw [raise_frame]

@[simp] theorem raise_dma_paths (code : EventCode) (s : State) : (raise code s).dma.paths = s.dma.paths := by
  rw [raise_frame]

@[simp] theorem raise_dma_stopped (code : EventCode) (s : State) : (raise code s).dma.stopped = s.dma.stopped := by
  rw [raise_frame]

@[simp] theorem raise_dma_errCh (code : EventCode) (s : State) : (raise code s).dma.errCh = s.dma.errCh := by
  rw [raise_frame]

@[simp] theorem raise_dma_errKind (code : EventCode) (s : State) : (raise code s).dma.errKind = s.dma.errKind := by
  rw [raise_frame]

@[simp] theorem raise_dma_errWrite (code : EventCode) (s : State) : (raise code s).dma.errWrite = s.dma.errWrite := by
  rw [raise_frame]

@[simp] theorem raise_dma_errMore (code : EventCode) (s : State) : (raise code s).dma.errMore = s.dma.errMore := by
  rw [raise_frame]

@[simp] theorem raise_dma_errValid (code : EventCode) (s : State) : (raise code s).dma.errValid = s.dma.errValid := by
  rw [raise_frame]

@[simp] theorem raise_dma_errAddr (code : EventCode) (s : State) : (raise code s).dma.errAddr = s.dma.errAddr := by
  rw [raise_frame]

@[simp] theorem raise_dma_errDesc (code : EventCode) (s : State) : (raise code s).dma.errDesc = s.dma.errDesc := by
  rw [raise_frame]

@[simp] theorem raise_asy (code : EventCode) (s : State) : (raise code s).asy = s.asy := by
  rw [raise_frame]

@[simp] theorem raise_tst (code : EventCode) (s : State) : (raise code s).tst = s.tst := by
  rw [raise_frame]

@[simp] theorem raise_sfp (code : EventCode) (s : State) : (raise code s).sfp = s.sfp := by
  rw [raise_frame]

@[simp] theorem raise_hif_bar2Base (code : EventCode) (s : State) : (raise code s).hif.bar2Base = s.hif.bar2Base := by
  rw [raise_frame]

@[simp] theorem raise_hif_linkUp (code : EventCode) (s : State) : (raise code s).hif.linkUp = s.hif.linkUp := by
  rw [raise_frame]

@[simp] theorem raise_hif_speed (code : EventCode) (s : State) : (raise code s).hif.speed = s.hif.speed := by
  rw [raise_frame]

@[simp] theorem raise_hif_width (code : EventCode) (s : State) : (raise code s).hif.width = s.hif.width := by
  rw [raise_frame]

@[simp] theorem raise_hif_copyEn (code : EventCode) (s : State) : (raise code s).hif.copyEn = s.hif.copyEn := by
  rw [raise_frame]

@[simp] theorem raise_hif_copyLog2 (code : EventCode) (s : State) : (raise code s).hif.copyLog2 = s.hif.copyLog2 := by
  rw [raise_frame]

@[simp] theorem raise_hif_copyBase (code : EventCode) (s : State) : (raise code s).hif.copyBase = s.hif.copyBase := by
  rw [raise_frame]

@[simp] theorem raise_hif_copyHead (code : EventCode) (s : State) : (raise code s).hif.copyHead = s.hif.copyHead := by
  rw [raise_frame]

@[simp] theorem raise_hif_copyTail (code : EventCode) (s : State) : (raise code s).hif.copyTail = s.hif.copyTail := by
  rw [raise_frame]

@[simp] theorem raise_hif_oldTail (code : EventCode) (s : State) : (raise code s).hif.oldTail = s.hif.oldTail := by
  rw [raise_frame]

@[simp] theorem raise_hif_copyDrop (code : EventCode) (s : State) : (raise code s).hif.copyDrop = s.hif.copyDrop := by
  rw [raise_frame]

@[simp] theorem raise_hif_reply (code : EventCode) (s : State) : (raise code s).hif.reply = s.hif.reply := by
  rw [raise_frame]

@[simp] theorem raise_lnk_links (code : EventCode) (s : State) : (raise code s).lnk.links = s.lnk.links := by
  rw [raise_frame]

@[simp] theorem raise_lnk_ref (code : EventCode) (s : State) : (raise code s).lnk.ref = s.lnk.ref := by
  rw [raise_frame]

@[simp] theorem raise_lnk_step (code : EventCode) (s : State) : (raise code s).lnk.step = s.lnk.step := by
  rw [raise_frame]

@[simp] theorem raise_lnk_resid (code : EventCode) (s : State) : (raise code s).lnk.resid = s.lnk.resid := by
  rw [raise_frame]

@[simp] theorem raise_lnk_residMax (code : EventCode) (s : State) : (raise code s).lnk.residMax = s.lnk.residMax := by
  rw [raise_frame]

@[simp] theorem raise_lnk_peerState (code : EventCode) (s : State) : (raise code s).lnk.peerState = s.lnk.peerState := by
  rw [raise_frame]

@[simp] theorem raise_lnk_peerTags (code : EventCode) (s : State) : (raise code s).lnk.peerTags = s.lnk.peerTags := by
  rw [raise_frame]

@[simp] theorem raise_lnk_peerSwapped (code : EventCode) (s : State) : (raise code s).lnk.peerSwapped = s.lnk.peerSwapped := by
  rw [raise_frame]

@[simp] theorem raise_lnk_announcedAt (code : EventCode) (s : State) : (raise code s).lnk.announcedAt = s.lnk.announcedAt := by
  rw [raise_frame]

@[simp] theorem raise_lnk_tagMismatch (code : EventCode) (s : State) : (raise code s).lnk.tagMismatch = s.lnk.tagMismatch := by
  rw [raise_frame]

@[simp] theorem raise_lnk_driftRun (code : EventCode) (s : State) : (raise code s).lnk.driftRun = s.lnk.driftRun := by
  rw [raise_frame]

@[simp] theorem raise_lnk_aligned (code : EventCode) (s : State) : (raise code s).lnk.aligned = s.lnk.aligned := by
  rw [raise_frame]

@[simp] theorem raise_lnk_sent (code : EventCode) (s : State) : (raise code s).lnk.sent = s.lnk.sent := by
  rw [raise_frame]

@[simp] theorem raise_tap_en (code : EventCode) (s : State) : (raise code s).tap.en = s.tap.en := by
  rw [raise_frame]

@[simp] theorem raise_tap_src (code : EventCode) (s : State) : (raise code s).tap.src = s.tap.src := by
  rw [raise_frame]

@[simp] theorem raise_tap_oldCtl (code : EventCode) (s : State) : (raise code s).tap.oldCtl = s.tap.oldCtl := by
  rw [raise_frame]

@[simp] theorem raise_tap_base (code : EventCode) (s : State) : (raise code s).tap.base = s.tap.base := by
  rw [raise_frame]

@[simp] theorem raise_tap_log2 (code : EventCode) (s : State) : (raise code s).tap.log2 = s.tap.log2 := by
  rw [raise_frame]

@[simp] theorem raise_tap_wr (code : EventCode) (s : State) : (raise code s).tap.wr = s.tap.wr := by
  rw [raise_frame]

@[simp] theorem raise_tap_rd (code : EventCode) (s : State) : (raise code s).tap.rd = s.tap.rd := by
  rw [raise_frame]

@[simp] theorem raise_tap_fifo (code : EventCode) (s : State) : (raise code s).tap.fifo = s.tap.fifo := by
  rw [raise_frame]

@[simp] theorem raise_tap_error (code : EventCode) (s : State) : (raise code s).tap.error = s.tap.error := by
  rw [raise_frame]

@[simp] theorem raise_tap_drop (code : EventCode) (s : State) : (raise code s).tap.drop = s.tap.drop := by
  rw [raise_frame]

@[simp] theorem raise_tap_run (code : EventCode) (s : State) : (raise code s).tap.run = s.tap.run := by
  rw [raise_frame]

@[simp] theorem raise_tap_srcs (code : EventCode) (s : State) : (raise code s).tap.srcs = s.tap.srcs := by
  rw [raise_frame]

@[simp] theorem raise_tap_glbs (code : EventCode) (s : State) : (raise code s).tap.glbs = s.tap.glbs := by
  rw [raise_frame]

@[simp] theorem raise_tap_latches (code : EventCode) (s : State) : (raise code s).tap.latches = s.tap.latches := by
  rw [raise_frame]

@[simp] theorem raise_tap_readValue (code : EventCode) (s : State) : (raise code s).tap.readValue = s.tap.readValue := by
  rw [raise_frame]

@[simp] theorem raise_cyc_camSets (code : EventCode) (s : State) : (raise code s).cyc.camSets = s.cyc.camSets := by
  rw [raise_frame]

@[simp] theorem raise_cyc_bits (code : EventCode) (s : State) : (raise code s).cyc.bits = s.cyc.bits := by
  rw [raise_frame]

@[simp] theorem raise_cyc_wraps (code : EventCode) (s : State) : (raise code s).cyc.wraps = s.cyc.wraps := by
  rw [raise_frame]

@[simp] theorem raise_cyc_released (code : EventCode) (s : State) : (raise code s).cyc.released = s.cyc.released := by
  rw [raise_frame]

@[simp] theorem raise_cyc_bell (code : EventCode) (s : State) : (raise code s).cyc.bell = s.cyc.bell := by
  rw [raise_frame]

@[simp] theorem raise_cyc_aborted (code : EventCode) (s : State) : (raise code s).cyc.aborted = s.cyc.aborted := by
  rw [raise_frame]

@[simp] theorem raise_cyc_detected (code : EventCode) (s : State) : (raise code s).cyc.detected = s.cyc.detected := by
  rw [raise_frame]

@[simp] theorem raise_rcOld (code : EventCode) (s : State) : (raise code s).rcOld = s.rcOld := by
  rw [raise_frame]

@[simp] theorem raise_held (code : EventCode) (s : State) : (raise code s).held = s.held := by
  rw [raise_frame]

@[simp] theorem raise_draws (code : EventCode) (s : State) : (raise code s).draws = s.draws := by
  rw [raise_frame]

/-! ### Resets and detections -/

theorem clear_after_warm (s : State) (a : Nat) :
    (s.mem.clear crucibleBase stagingBase).readByte a =
      if crucibleBase ≤ a ∧ a < stagingBase then 0 else s.mem.readByte a := by
  rw [Mem.readByte_clear]
  by_cases h : crucibleBase ≤ a ∧ a < stagingBase
  · rw [if_pos h, if_neg (by omega)]
  · rw [if_neg h, if_pos (by omega)]

/-- R96: a warm reset, with the lines driven. -/
theorem warmReset_warm (cause : BitVec 6) (s : State) : WarmReset cause s (driveLines (warmReset cause s)) where
  queue := rfl
  inReset := rfl
  step := rfl
  cause := rfl
  tsc := rfl
  watch := rfl
  fuses h := by
    show interruptFuse s = s.fuses
    simp [interruptFuse, h]
  retained := ⟨rfl, rfl, rfl, rfl, rfl⟩
  memory a := clear_after_warm s a
  lines := ⟨rfl, rfl⟩
  faultN := rfl
  pairs := rfl

theorem causeAfterWarm_congr {s t : State} (cause : BitVec 6) (hs : t.sys = s.sys) (hc : t.clock = s.clock) :
    causeAfterWarm t cause = causeAfterWarm s cause := by
  simp only [causeAfterWarm, hs, hc]

theorem s2Now_congr {s t : State} (hs : t.sys = s.sys) (hc : t.clock = s.clock)
    (hr : t.ret.s2Times = s.ret.s2Times) : s2Now t = s2Now s := by
  simp only [s2Now, hs, hc, hr]

/-- R97: without another reset in this cycle, the causes of an S2 entry keep the message and leave the host interface. -/
theorem causeAfterWarm_s2 {s : State} (h : s.sys.causeAt ≠ some s.clock.watch) :
    (causeAfterWarm s 0x08).getLsbD 3 = true ∧ (causeAfterWarm s 0x08).getLsbD 1 = false := by
  unfold causeAfterWarm
  rw [if_neg (by simpa using h)]
  split <;> decide

/-- R460: an event that finds room is the last one in the event FIFO. -/
theorem raise_last (code : EventCode) (s : State) (h : s.hif.fifo.length < 256) :
    (raise code s).hif.fifo.getLast? = some code := by
  rw [(raise_queue code s).1, if_pos h]
  exact List.getLast?_concat

/-- R48, R464: what logging a detection writes; the first one of its ACLK leaves the event FIFO as it is. -/
theorem logFault_frame (code : EventCode) (pairs : BitVec 4) (s : State) :
    ∃ fc le ff, logFault code pairs s = { s with
        ret := { s.ret with faultCode := fc, lastEvent := le, faultCount := s.ret.faultCount + 1 },
        sfp := { s.sfp with faultPairs := s.sfp.faultPairs ||| pairs },
        cyc := { s.cyc with detected := code :: s.cyc.detected },
        hif := { s.hif with fifo := ff } } ∧
      (s.cyc.detected = [] → fc = code ∧ le = code ∧ ff = s.hif.fifo) := by
  by_cases hl : logsLast code s = true
  · exact ⟨code, code, s.hif.fifo, by simp [logFault, hl], fun _ => ⟨rfl, rfl, rfl⟩⟩
  · refine ⟨s.ret.faultCode, s.ret.lastEvent, (logFault code pairs s).hif.fifo, ?_, fun h => ?_⟩
    · simp [logFault, hl]
    · exact absurd (by simp [logsLast, h]) hl

/-- R48: a detection that is the first of its ACLK heads the retained event store. -/
theorem storeEvent_last (code : EventCode) (l : List EventCode) : storeEvent true code l = code :: l := by
  cases l <;> rfl

/-- R33, R384: a detection that calls for S2, outside the ACLK of another entry and unless R36 holds the device. -/
theorem detectS2_enters (code : EventCode) (s : State) (h : s.ret.s2Held = false) (hn : s2Now s = false) :
    S2Entered code s (detectS2 code s) := by
  obtain ⟨fc, le, ff, hl, hd⟩ := logFault_frame code 0 (raise code s)
  have hdet : (raise code s).cyc.detected = s.cyc.detected := raise_cyc_detected ..
  have hs2 (t : State) (a : t.sys = (raise code s).sys) (b : t.clock = (raise code s).clock)
      (c : t.ret.s2Times = (raise code s).ret.s2Times) : s2Now t = false := by
    rw [s2Now_congr (a.trans (raise_sys ..)) (b.trans (raise_clock ..)) (c.trans (by rw [raise_ret])), hn]
  unfold detectS2
  rw [h, hl]
  dsimp only
  rw [if_neg (by simp)]
  split
  · exact absurd ‹_› (Bool.eq_false_iff.1 (hs2 _ rfl rfl rfl))
  have hr := raise_ret code s
  have hlast (he : s.cyc.detected = []) : logsLast code s = true := by simp [logsLast, he]
  refine { queue := raise_pending .., state := rfl, inReset := rfl, cause := ?_, faultCode := fun he => ?_,
           faultCount := ?_, logged := fun he => ?_, counted := ?_, lines := ⟨rfl, rfl⟩, faultN := rfl,
           frozen := fun hc => ?_, emptied := ⟨rfl, rfl⟩, raised := fun he hc hf => ?_, memory := fun a => ?_ }
  · exact causeAfterWarm_congr _ (raise_sys ..) (raise_clock ..)
  · exact (hd (hdet.trans he)).1
  · exact congrArg (fun r : Retained => r.faultCount + 1) hr
  · show storeEvent (logsLast code s) code (raise code s).ret.events = _
    rw [hlast he, storeEvent_last, hr]
  · show (raise code s).ret.s2Times ++ [(raise code s).clock.watch] = _
    rw [hr, raise_clock]
  · have h3 := (causeAfterWarm_s2 hc).1
    rw [← causeAfterWarm_congr (t := raise code s) 0x08 (raise_sys ..) (raise_clock ..)] at h3
    have hk (c : SafetyCh) : (chanAfterWarm (causeAfterWarm (raise code s) 0x08) c).frozen = c.frozen := by
      simp only [chanAfterWarm]; rw [if_pos h3]
    exact ⟨(congrArg Option.isSome (hk _)).trans rfl, (congrArg Option.isSome (hk _)).trans rfl⟩
  · have h1 := (causeAfterWarm_s2 hc).2
    rw [← causeAfterWarm_congr (t := raise code s) 0x08 (raise_sys ..) (raise_clock ..)] at h1
    have hk (x : State) : (hifAfterWarm x (causeAfterWarm (raise code s) 0x08)).fifo = x.hif.fifo := by
      simp only [hifAfterWarm]; rw [if_neg (by rw [h1]; simp)]
    refine (congrArg List.getLast? ((hk _).trans ((hd (hdet.trans he)).2.2))).trans ?_
    exact raise_last code s (by omega)
  · refine (clear_after_warm _ a).trans ?_
    show (if _ then (0 : Byte) else (raise code s).mem.readByte a) = _
    rw [raise_mem]

/-- R460: the event of an S2 entry is the last one in the event FIFO when it finds room. -/
theorem detectS2_last (code : EventCode) (s : State) (h : s.ret.s2Held = false) (hn : s2Now s = false)
    (he : s.cyc.detected = []) (hc : s.sys.causeAt ≠ some s.clock.watch) (hf : s.hif.fifo.length < 254) :
    (detectS2 code s).hif.fifo.getLast? = some code := (detectS2_enters code s h hn).raised he hc hf

/-- What an S2 entry leaves depends on the queue, the reset causes, the clock, the retained store and memory alone. -/
theorem s2Entered_congr {code : EventCode} {r s t : State} (h : S2Entered code r t) (hp : r.pending = s.pending)
    (hs : r.sys = s.sys) (hc : r.clock = s.clock) (hr : r.ret = s.ret) (hm : r.mem = s.mem)
    (hd : r.cyc.detected = s.cyc.detected)
    (hf : s.cyc.detected = [] → s.sys.causeAt ≠ some s.clock.watch → s.hif.fifo.length < 254 →
      t.hif.fifo.getLast? = some code) : S2Entered code s t where
  queue := h.queue.trans hp
  state := h.state
  inReset := h.inReset
  cause := h.cause.trans (causeAfterWarm_congr _ hs hc)
  faultCode := hd ▸ h.faultCode
  faultCount := by rw [← hr]; exact h.faultCount
  logged := by rw [← hr, ← hd]; exact h.logged
  counted := by rw [← hr, ← hc]; exact h.counted
  lines := h.lines
  faultN := h.faultN
  frozen := by rw [← hs, ← hc]; exact h.frozen
  emptied := h.emptied
  raised := hf
  memory := by
    intro a
    rw [← hm]; exact h.memory a

/-- R36: a held device takes no detection, but one of the ACLK of its last entry. -/
theorem detectS2_held (code : EventCode) (s : State) (h : s.ret.s2Held = true) (hn : s2Now s = false) :
    detectS2 code s = s := by
  unfold detectS2; rw [h, hn]; rfl

/-- R33, R384: a detection that calls for S1, in normal operation after step 6. -/
theorem detectS1_enters (code : EventCode) (pairs : BitVec 4) (s : State) (hn : s.asy.state = .normal)
    (h6 : 6 ≤ s.sys.step.toNat) : S1Entered code pairs s (detectS1 code pairs s) := by
  obtain ⟨fc, le, ff, hl, hd⟩ := logFault_frame code pairs (raise code s)
  have hdet : (raise code s).cyc.detected = s.cyc.detected := raise_cyc_detected ..
  have h6' : ¬ (raise code s).sys.step.toNat < 6 := by rw [raise_sys]; omega
  have hn' : (raise code s).asy.state = .normal := by rw [raise_asy]; exact hn
  unfold detectS1 enterS1
  rw [hl]
  dsimp only
  rw [if_neg h6', hn']
  dsimp only
  refine { state := ?_, detected := ?_, faultCode := fun he => ?_, faultCount := ?_, faultPairs := ?_, lines := ?_,
           running := ?_, raised := fun he hf => ?_, memory := ?_ }
  · rw [raise_asy]; rfl
  · rw [raise_asy]; exact congrArg Clock.tsc (raise_clock code s)
  · rw [raise_ret]; exact (hd (hdet.trans he)).1
  · rw [raise_ret]; exact congrArg (fun r : Retained => r.faultCount + 1) (raise_ret code s)
  · rw [raise_sfp]; exact congrArg (fun r : Sfp => r.faultPairs ||| pairs) (raise_sfp code s)
  · constructor
    · show (raise 0x0E31 _).sfp.chA.safe = false
      rw [raise_sfp]; rfl
    · show (raise 0x0E31 _).sfp.chB.safe = false
      rw [raise_sfp]; rfl
  · rw [raise_sys]; exact raise_sys code s
  · have h1 : (raise code s).hif.fifo = s.hif.fifo ++ [code] := by rw [(raise_queue code s).1, if_pos (by omega)]
    rw [(raise_queue 0x0E31 _).1]
    show (if ff.length < 256 then ff ++ [0x0E31] else ff) = _
    rw [(hd (hdet.trans he)).2.2, h1, if_pos (by rw [List.length_append, List.length_singleton]; omega),
      List.append_assoc]
    rfl
  · rw [raise_mem]; exact raise_mem code s

end Sys2Proof.Machine
end

