-- ==== Sys2Proof/Laws/Units.lean ====
section
/-! SUPPORT. Laws of the shared operations on cameras, threads and translation: an element changed in place, what an admitted
access leaves as it was, and how an instruction that its fetch admits acts. -/

namespace Sys2Proof.Machine

/-! ### Watch times (R511) -/

/-- R511: a time that the watch oscillator measures is at most 1.0 % and 6 ECLK longer than its nominal value. -/
theorem watchSpan_le (nominal start : Nat) : Config.watchSpan nominal start ≤ nominal + nominal / 100 + 6 := by
  have := Nat.mod_lt (Config.watchDrift start) (show 2 * (nominal / 100) + 7 > 0 by omega)
  unfold Config.watchSpan; omega

/-- R511: and at most 1.0 % shorter. -/
theorem watchSpan_ge (nominal start : Nat) : nominal - nominal / 100 ≤ Config.watchSpan nominal start :=
  Nat.le_add_right _ _

/-- A time by which a watch time has passed, wherever it lies in its tolerance. -/
theorem watchSpan_passed {nominal start n : Nat} (h : start + (nominal + nominal / 100 + 6) ≤ n) :
    start + Config.watchSpan nominal start ≤ n :=
  Nat.le_trans (Nat.add_le_add_left (watchSpan_le nominal start) start) h

/-! ### Elements changed in place -/

theorem nth_upd_same {α : Type} {l : List α} {i : Nat} (f : α → α) (d : α) (h : i < l.length) :
    nth (upd l i f) i d = f (nth l i d) := by
  simp [nth, upd, List.getD_eq_getElem?_getD, h]

theorem nth_upd_other {α : Type} (l : List α) {i j : Nat} (f : α → α) (d : α) (h : j ≠ i) :
    nth (upd l i f) j d = nth l j d := by
  simp [nth, upd, List.getD_eq_getElem?_getD, Ne.symm h]

theorem upd_upd {α : Type} (l : List α) (i : Nat) (f g : α → α) : upd (upd l i f) i g = upd l i fun x => g (f x) := by
  apply List.ext_getElem?
  intro k
  simp only [upd, List.getElem?_modify]
  cases l[k]? <;> simp
  split <;> rfl

/-- Two changes of an element are one when they agree on it. -/
theorem upd_congr {α : Type} {l : List α} {i : Nat} {f g : α → α} (d : α) (h : f (nth l i d) = g (nth l i d)) :
    upd l i f = upd l i g := by
  apply List.ext_getElem?
  intro k
  simp only [upd, List.getElem?_modify]
  by_cases hk : i = k
  · subst hk
    cases e : l[i]? with
    | none => rfl
    | some a => simp [nth, List.getD_eq_getElem?_getD, e] at h; simp [h]
  · simp [hk]

@[simp] theorem upd_length {α : Type} (l : List α) (i : Nat) (f : α → α) : (upd l i f).length = l.length := by
  simp [upd]

/-! ### Cameras -/

theorem camAt_updCam_same {s : State} {p : Nat} {f : Camera → Camera} (h : p < s.cams.length) :
    camAt (updCam p f s) p = f (camAt s p) := nth_upd_same f {} h

theorem camAt_updCam_other {s : State} {p q : Nat} {f : Camera → Camera} (h : q ≠ p) :
    camAt (updCam p f s) q = camAt s q := nth_upd_other _ f {} h

theorem updCam_updCam (s : State) (p : Nat) (f g : Camera → Camera) :
    updCam p g (updCam p f s) = updCam p (fun c => g (f c)) s := by
  simp [updCam, upd_upd]

theorem updCam_congr {s : State} {p : Nat} {f g : Camera → Camera} (h : f (camAt s p) = g (camAt s p)) :
    updCam p f s = updCam p g s := by
  simp only [updCam]; rw [upd_congr {} h]

theorem camAt_mem {s : State} {p : Nat} (h : camAt s p ≠ {}) : p < s.cams.length := by
  rcases Nat.lt_or_ge p s.cams.length with a | a
  · exact a
  · exact absurd (by simp [camAt, nth, List.getD_eq_getElem?_getD, a]) h

/-! ### Threads -/

theorem threadAt_updThread_same {s : State} {t : Nat} {f : Thread → Thread} (h : t < s.rsr.threads.length) :
    threadAt (updThread t f s) t = f (threadAt s t) := nth_upd_same f {} h

theorem threadAt_updThread_other {s : State} {t q : Nat} {f : Thread → Thread} (h : q ≠ t) :
    threadAt (updThread t f s) q = threadAt s q := nth_upd_other _ f {} h

theorem updThread_updThread (s : State) (t : Nat) (f g : Thread → Thread) :
    updThread t g (updThread t f s) = updThread t (fun x => g (f x)) s := by
  simp [updThread, upd_upd]

theorem updThread_congr {s : State} {t : Nat} {f g : Thread → Thread} (h : f (threadAt s t) = g (threadAt s t)) :
    updThread t f s = updThread t g s := by
  simp only [updThread]; rw [upd_congr {} h]

theorem threadAt_running {s : State} {t : Nat} (h : (threadAt s t).st = .running) : t < s.rsr.threads.length := by
  rcases Nat.lt_or_ge t s.rsr.threads.length with a | a
  · exact a
  · simp [threadAt, nth, List.getD_eq_getElem?_getD, a] at h

/-! ### Translation -/

/-- Only the translation caches, the counters and the free values drawn may differ. -/
def WalkOnly (s t : State) : Prop := t = { s with xlt := { s.xlt with cache := t.xlt.cache }, tap := t.tap, draws := t.draws }

theorem walkOnly_refl (s : State) : WalkOnly s s := rfl

theorem walkOnly_trans {s t u : State} (h : WalkOnly s t) (k : WalkOnly t u) : WalkOnly s u := by
  unfold WalkOnly at *; rw [k, h]

theorem countSel_walk (i k : Nat) (s : State) : WalkOnly s (countSel i k s) := rfl

/-- R340: a walk read that is denied reads 0. -/
theorem walkRead_walk (s : State) (a : Nat) : (walkRead s a).1 = 0 ∨ WalkOnly s (walkRead s a).2 := by
  unfold walkRead; split
  · exact .inl rfl
  · exact .inr rfl
  · exact .inr rfl

theorem walkFrom_walk {addr fuel lvl a : Nat} {s t : State} {l : Nat × Bool} (h : walkFrom addr fuel lvl a s = (.ok l, t)) :
    WalkOnly s t := by
  induction fuel generalizing lvl a s with
  | zero => cases h
  | succ n ih =>
    unfold walkFrom at h
    dsimp only at h
    split at h
    · cases h
    next hv =>
      have w : WalkOnly s (walkRead s a).2 := (walkRead_walk s a).resolve_left fun e => hv (by rw [e]; rfl)
      split at h
      · cases h
      split at h
      · exact walkOnly_trans w (ih h)
      · cases h; exact w

theorem walk_walk {root addr : Nat} {s t : State} {l : Nat × Bool} (h : walk root addr s = (.ok l, t)) : WalkOnly s t := by
  unfold walk at h
  dsimp only at h
  split at h
  · cases h
  · exact walkOnly_trans (countSel_walk 9 1 s) (walkFrom_walk h)

theorem cachedLeaf_walk (ctx addr : Nat) (s : State) : WalkOnly s (cachedLeaf ctx addr s).2 := by
  unfold cachedLeaf; split <;> rfl

theorem findLeaf_walk {ctx root addr : Nat} {bad : Bool} {s t : State} {l : Nat × Bool}
    (h : findLeaf ctx root addr bad s = (.ok l, t)) : WalkOnly s t := by
  have c := cachedLeaf_walk ctx addr s
  unfold findLeaf at h
  dsimp only at h
  split at h
  · cases h; exact c
  split at h
  · cases h
  rcases hw : walk root addr (cachedLeaf ctx addr s).2 with ⟨r, u⟩
  rw [hw] at h
  rcases r with f | m
  · cases h
  · cases h; exact walkOnly_trans c (walkOnly_trans (walk_walk hw) rfl)

/-- R331 to R335: a translation that succeeds reads its tables and fills its caches, and changes nothing else. -/
theorem translateIn_walk {ctx : Nat} {riser keeper : Bool} {acc : Access} {addr a : Nat} {bad : Bool} {s : State}
    (h : (translateIn ctx riser keeper acc addr bad s).1 = .ok a) : WalkOnly s (translateIn ctx riser keeper acc addr bad s).2 := by
  unfold translateIn at h ⊢
  dsimp only at h ⊢
  split
  · rfl
  next hc =>
    rw [if_neg hc] at h
    split
    · rfl
    next hr =>
      rw [if_neg hr] at h
      dsimp only at h ⊢
      rcases hw : findLeaf ctx (nth (rootsNow s) ctx (false, 0)).2.toNat addr bad s with ⟨r, u⟩
      rw [hw] at h
      rcases r with f | l
      · cases h
      · exact findLeaf_walk hw

/-- R339: an admitted access is a translation. -/
theorem checkAccess_walk {id : Nat} {keeper : Bool} {acc : Access} {addr n a : Nat} {bad : Bool} {s t : State}
    (h : checkAccess id keeper acc addr n bad s = (.ok a, t)) : WalkOnly s t := by
  unfold checkAccess at h
  dsimp only at h
  split at h
  · cases h
  next e =>
    split at h
    · cases h
    · cases h; exact translateIn_walk e

theorem threadCheck_walk {t : Nat} {acc : Access} {resv : Bool} {addr n a : Nat} {bad : Bool} {s u : State}
    (h : threadCheck t acc resv addr n bad s = (.ok a, u)) : WalkOnly s u := by
  unfold threadCheck at h
  dsimp only at h
  split at h
  · cases h
  split at h
  · cases h
  split at h
  · cases h
  split at h
  · cases h
  split at h
  · cases h
  · cases h; exact translateIn_walk (by assumption)

/-! ### Issue -/

/-- An instruction that its fetch admits acts in the state that the fetch leaves. -/
theorem issue_fetched {t : Nat} {s u : State} (h : Fetched t s u) (body : State → State) : issue t body s = body u := by
  obtain ⟨hm, a, hc⟩ := h
  simp only [issue, hm, hc, Bool.not_true, Bool.false_eq_true, if_false]

@[simp] theorem threadAt_noteIssue (t q : Nat) (s : State) : threadAt (noteIssue t s) q = threadAt s q := rfl

/-- What the fetch leaves. -/
theorem fetched_walk {t : Nat} {s u : State} (h : Fetched t s u) :
    WalkOnly (noteIssue t (updThread t (fun th => { th with lastPc := th.pc }) s)) u := by
  obtain ⟨_, a, hc⟩ := h
  exact walkOnly_trans (t := noteIssue t (updThread t (fun th => { th with lastPc := th.pc }) (countSel 7 1 s))) rfl
    (checkAccess_walk hc)

/-- A thread that may issue runs. -/
theorem mayIssue_running {t : Nat} {s : State} (h : mayIssue s t = true) : (threadAt s t).st = .running := by
  simp [mayIssue, threadReady] at h; exact h.1.2.1.1.1.1

theorem fetched_inRange {t : Nat} {s u : State} (h : Fetched t s u) : t < u.rsr.threads.length := by
  have k := threadAt_running (mayIssue_running h.1)
  rw [fetched_walk h]
  simpa [noteIssue, updThread] using k

theorem fetched_thread {t : Nat} {s u : State} (h : Fetched t s u) :
    threadAt u t = { threadAt s t with lastPc := (threadAt s t).pc } := by
  have k := threadAt_running (mayIssue_running h.1)
  rw [fetched_walk h]
  exact threadAt_updThread_same k

theorem fetched_others {t q : Nat} {s u : State} (h : Fetched t s u) (hq : q ≠ t) : threadAt u q = threadAt s q := by
  rw [fetched_walk h]
  exact threadAt_updThread_other hq

end Sys2Proof.Machine
end

