-- ==== Sys2Proof/Tests/Slice0.lean ====
section
/-! SUPPORT. The model's own tests: commands that are not well formed, Riser words written out from R271, and for every
statement that has hypotheses a state and operands that meet them, clause by clause, at the boundary where there is one. -/

namespace Sys2Proof.Machine

set_option Elab.async false

/-! ### States -/

/-- A device in normal operation: step 10, RUN, both time bases at 5,000,000 ECLK, and no pattern. -/
def tUp : State :=
  { State.reset with
    clock := { tsc := 5000000, watch := 5000000 }
    sys := { State.reset.sys with step := 10, inReset := false, phase := 1, ready := true }
    asy := { State.reset.asy with state := .normal } }

/-- The device with its power state changed. -/
def tPwr (f : Pwr → Pwr) (s : State) : State := { s with pwr := f s.pwr }

/-- The device with its rails changed. -/
def tRails (f : Rails → Rails) (s : State) : State := { s with rails := f s.rails }

/-- The device at a watch time. -/
def tWatch (n : Nat) (s : State) : State := { s with clock := { s.clock with watch := n } }

/-- The device at a value of its time-stamp counter. -/
def tTsc (n : Nat) (s : State) : State := { s with clock := { s.clock with tsc := n } }

/-- The device with its pattern state changed. -/
def tPat (f : Pat → Pat) (s : State) : State := { s with pat := f s.pat }

/-- The device with Ladle changed. -/
def tLdl (f : Ldl → Ldl) (s : State) : State := { s with ldl := f s.ldl }

/-- The device with the identity block changed. -/
def tIdn (f : Idn → Idn) (s : State) : State := { s with idn := f s.idn }

/-- The device with system control changed. -/
def tSys (f : Sys → Sys) (s : State) : State := { s with sys := f s.sys }

/-- The device with its Assayer changed. -/
def tAsy (f : Asy → Asy) (s : State) : State := { s with asy := f s.asy }

/-- The device with its host interface changed. -/
def tHif (f : Hif → Hif) (s : State) : State := { s with hif := f s.hif }

/-- The device with its sequencer changed. -/
def tFgs (f : Fgs → Fgs) (s : State) : State := { s with fgs := f s.fgs }

/-- The device with its links changed. -/
def tLnk (f : Lnk → Lnk) (s : State) : State := { s with lnk := f s.lnk }

/-! ### Operands -/

/-- Every check of well-formedness refuses an operand that lies outside the spec's range. -/
theorem test_ill_formed_refused :
    [Instr.supplyExcursion .core 3001 0,
     .engineFlagSet 1024 0 0, .engineFlagSet 0 4032 0, .fgsDeadline 0 0 1024, .neuLayerBarrier 1024 0 ⟨none, false⟩,
     .neuArrayStopped 1024 0, .csiUnsupportedPacket ⟨0, 0, .ok⟩ 0x2A, .peerAccess 1 0 .write 0 0 [] .clean, .remoteFlagSet 1 4032 0 0 0,
     .remoteFlagSet 1 0 0 0 (2 ^ 64), .hostAccess .bar2 0 (.read 257) .clean, .hostAccess .bar2 0 (.write []) .clean,
     .reservationHoldEnd 32].all (fun c => !c.wellFormed) = true := by decide

/-- A long packet of 65,536 bytes is not well formed. -/
theorem test_packet_too_long (p : Fin 8) (vc : BitVec 4) (dt : BitVec 6) (k : Fin 8) :
    (Instr.csiPixelRow p vc dt .ok true (List.replicate 65536 0)).wellFormed = false ∧
    (Instr.csiEmbeddedData p vc ⟨.ok, true, List.replicate 65536 0⟩).wellFormed = false ∧
    (Instr.csiUserData p vc k ⟨.ok, true, List.replicate 65536 0⟩).wellFormed = false := by
  simp only [Instr.wellFormed, payloadOk, List.length_replicate]
  decide

/-- Flash of more than 8 MiB, and an exchange line that is not 64 bytes at a line's address, are not well formed. -/
theorem test_flash_and_line (i : StartInputs) (l : ExchangeLine) :
    (Instr.startSequence { i with flash := List.replicate 8388609 0 }).wellFormed = false ∧
    (Instr.xchgLine { l with data := List.replicate 63 0 }).wellFormed = false ∧
    (Instr.xchgLine { l with offset := 32 }).wellFormed = false := by
  simp only [Instr.wellFormed, List.length_replicate]
  exact ⟨by decide, decide_eq_false (fun h => absurd h.1 (by decide)), decide_eq_false (fun h => absurd h.2 (by decide))⟩

/-- The same operands at the ends of their ranges are well formed. -/
theorem test_well_formed_taken :
    [Instr.supplyExcursion .core 3000 0, .engineFlagSet 1023 4031 0, .fgsDeadline 0 0 1023,
     .neuLayerBarrier 1023 0 ⟨none, false⟩, .neuArrayStopped 1023 0, .peerAccess 1 0 .write 0 64 [] .clean,
     .csiUnsupportedPacket ⟨0, 0, .ok⟩ 0x29, .remoteFlagSet 1 4031 0 0 (2 ^ 64 - 1), .hostAccess .bar2 0 (.read 256) .clean, .reservationHoldEnd 64,
     .ladleGrant].all Instr.wellFormed = true := by decide

/-- R271: words written out bit by bit read as the instructions they stand for. -/
theorem test_riser_words :
    decodeRiser 5 0b010000_010_00001_00010_0000000000011#32 = .listed (.bcc 5 2 1 2 3) ∧
    decodeRiser 5 0b010001_11111111111111111111111110#32 = .listed (.bal 5 0x3FFFFFE) ∧
    decodeRiser 5 0b010010_00111_0_00000000000000000000#32 = .listed (.jr 5 7) ∧
    decodeRiser 5 0b010010_00111_1_00000000000000000000#32 = .listed (.jalr 5 7) ∧
    decodeRiser 5 0b010100_1_00100_0000000000001000_0000#32 = .listed (.loopn 5 1 4 8) ∧
    decodeRiser 5 0b011000_0000000000000000000000000_1#32 = .listed (.mode 5 1) ∧
    decodeRiser 5 0b100000_00011_00100_1111111111111000#32 = .listed (.resld 5 3 4 0xFFF8 .clean) ∧
    decodeRiser 5 0b100001_00011_00100_00101_00000001000#32 = .listed (.condst 5 3 4 5 8 .clean) ∧
    decodeRiser 5 0b110000_00000000000000000000000000#32 = .listed (.sealStores 5) ∧
    decodeRiser 5 0b110001_00000000000000000000000000#32 = .listed (.ioseal 5) ∧
    decodeRiser 5 0b111000_0000000000_0000000001010101#32 = .listed (.trap 5 0x55) ∧
    decodeRiser 5 0b111001_00000000000000000000000000#32 = .listed (.xret 5) ∧
    decodeRiser 5 0b111010_00110_00001_0000000000000000#32 = .listed (.mfs 5 6 1) ∧
    decodeRiser 5 0b111011_00110_00001_0000000000000000#32 = .listed (.mts 5 1 6) := by decide

/-- R271: reserved condition codes and reserved fields that are not 0 are ILLEGAL. -/
theorem test_riser_reserved :
    decodeRiser 5 0b010000_111_00001_00010_0000000000011#32 = .illegal ∧
    decodeRiser 5 0b110000_00000000000000000000000001#32 = .illegal := by decide

/-- The table gives no row bits: no word spells a command. -/
theorem test_no_table_word : decodeTableWord 16 0x1234 = none := by decide

/-! ### The queue, reset and the invariants -/

/-- StepRunsFrontCommand: a command stands in front of another. -/
theorem wit_front : ((tUp.enqueue .ladleGrant).enqueue .sysReady).pending = [.ladleGrant, .sysReady] := by decide

/-- EmptyQueueIsOneEclk: each of its clauses has a state. -/
theorem wit_empty_queue :
    State.reset.pending = [] ∧ clocksRun State.reset = false ∧ State.reset.rails.asy = true ∧
    tUp.pending = [] ∧ clocksRun tUp = true ∧ (tRails (fun r => { r with asy := false }) tUp).rails.asy = false := by decide

/-- RiserWordOfInstruction: a word with every operand field in use. -/
theorem wit_riser_word : decodeRiser 255 0b100001_11111_11111_11111_11111111111#32 =
    .listed (.condst 255 31 31 31 0x7FF .clean) := by decide

/-- RiserInstructionOfWord: the condition and the length at the ends of their ranges. -/
theorem wit_riser_operands : (6 : BitVec 3) ≠ 7 ∧ (0 : BitVec 3) ≠ 7 ∧ (1 : BitVec 16) ≠ 0 ∧ (0xFFFF : BitVec 16) ≠ 0 := by decide

/-- A host that writes one byte of memory through BAR2. -/
def tHostWrite : State :=
  (tHif (fun h => { h with linkUp := true, bar2Base := 0x20000000 }) tUp).enqueue (.hostAccess .bar2 5 (.write [7]) .clean)

/-- StepKeepsMemoryCanonical: a step that changes memory, from a state in the form. -/
theorem wit_memory_step : tHostWrite.mem.wf = true ∧ (match step tHostWrite with
    | .next t => t.mem.cells
    | _ => []) = [(0x20000005, 7)] := by decide

/-- A device that drives SAFE_A. -/
def tLine : State := { tUp with sfp := { tUp.sfp with chA := { tUp.sfp.chA with released := true, safe := true }, faultN := false } }

/-- StepKeepsLinesJustified: a state whose line is driven active, under its conditions, and its step. -/
theorem wit_line_driven : (tLine.sfp.chA.safe = true → lineActive tLine tLine.sfp.chA = true) ∧
    (tLine.sfp.chB.safe = true → lineActive tLine tLine.sfp.chB = true) ∧ tLine.sfp.chA.safe = true ∧
    (match step tLine with
      | .next t => t.sfp.chA.safe
      | _ => false) = true := by decide

/-- InvariantsStart: with a line driven active, a queued command keeps it so. -/
theorem wit_invariants_start : LinesJustified tLine ∧ (tLine.enqueue .ladleGrant).sfp.chA.safe = true :=
  ⟨⟨fun _ => by decide, fun h => by revert h; decide⟩, by decide⟩

/-! ### Events, detections, rails, resets and power-up -/

/-- A host interface whose event FIFO is full. -/
def tFull : State := tHif (fun h => { h with fifo := List.replicate 256 0x0104 }) tUp

/-- RaisedEventEntersFifo: room for one event more, and none. -/
theorem wit_event_fifo :
    (tHif (fun h => { h with fifo := List.replicate 255 0x0104 }) tUp).hif.fifo.length < 256 ∧
    256 ≤ tFull.hif.fifo.length := by
  simp only [tFull, tHif, List.length_replicate]
  decide

/-- A device that leaves HOLD. -/
def tHoldExit : State := tPwr (fun p => { p with
  cur := .hold, trans := some { target := .run, source := .hold, requestedAt := 0, startedAt := some 0 } }) tUp

/-- DetectionsEnterS2: every detection's conditions that no oscillator's tolerance bears on, at the ends of their ranges. -/
theorem wit_detections :
    tUp.ret.s2Held = false ∧ s2Now tUp = false ∧ pllUp tUp = true ∧
    tHoldExit.ret.s2Held = false ∧ s2Now tHoldExit = false ∧ tHoldExit.rails.asy = true ∧ holdExiting tHoldExit = true ∧
    pllUp tHoldExit = true ∧ pllUp (tWatch 119999 tHoldExit) = false ∧
    (759 < 760 ∨ 840 < 759) ∧ (841 < 760 ∨ 840 < 841) ∧ 2400 < 2401 ∧
    tUp.rails.asy = true ∧ tUp.rails.core = true ∧ tUp.rails.coreMasked = false ∧ tUp.sys.powerUpFailed = false ∧
    (699 < 700 ∨ 800 < 699) ∧ (801 < 700 ∨ 800 < 801) ∧ tUp.rails.io = true ∧
    2 ≤ (tPwr (fun p => { p with hotRun := 2 }) tUp).pwr.hotRun ∧
    assayerRuns tUp = true ∧ tUp.asy.beats = 0 ∧
    tUp.asy.lastBurst + Config.oneMs ≤ tUp.clock.watch ∧
    8 ≤ (tLnk (fun l => { l with driftRun := 8 }) tUp).lnk.driftRun := by decide

/-- A HOLD exit whose VDD_CORE has not returned 10 ms and the whole tolerance after PMIC_HOLD fell at 7. -/
def tNoCore : State := tWatch 12120013 (tRails (fun r => { r with core := false, holdFellAt := 7 }) tHoldExit)

/-- An Assayer whose last heartbeat burst lies 1.2 ms and the whole tolerance back. -/
def tQuiet : State := tAsy (fun a => { a with lastBurst := 3545594, beats := 9 }) tUp

/-- DetectionsEnterS2: the two detections that the watch oscillator times. -/
theorem wit_timed_detections :
    (tNoCore.rails.asy = true ∧ holdExiting tNoCore = true ∧ tNoCore.rails.core = false ∧
      tNoCore.rails.holdFellAt + Config.watchSpan 12000000 tNoCore.rails.holdFellAt ≤ tNoCore.clock.watch) ∧
    (assayerRuns tQuiet = true ∧
      tQuiet.asy.lastBurst + Config.watchSpan 1440000 tQuiet.asy.lastBurst ≤ tQuiet.clock.watch) :=
  ⟨⟨by decide, by decide, by decide, watchSpan_passed (by decide)⟩, by decide, watchSpan_passed (by decide)⟩

/-- MonitorsRead: counts that agree, one that does not and two that do not, with a window due and one that is not, and
temperatures on both sides of 105 and 115 degrees. -/
theorem wit_monitors :
    pllUp tUp = true ∧ windowDue tUp = true ∧
    monitorCodes ⟨38400, 1200000, 1600000, 400000, 200000, 25000⟩ = [] ∧
    monitorCodes ⟨0, 1200000, 1600000, 400000, 200000, 25000⟩ = [0x0221] ∧
    monitorCodes ⟨0, 0, 0, 400000, 0, 25000⟩ = [0x0221, 0x0222] ∧ tUp.ret.s2Held = false ∧ s2Now tUp = false ∧
    tUp.rails.asy = true ∧ tempDue tUp = true ∧
    (105 : BitVec 9).toInt ≤ 105 ∧ (0x1FF : BitVec 9).toInt ≤ 105 ∧ 105 < (106 : BitVec 9).toInt ∧
    105 < (115 : BitVec 9).toInt ∧ 115 < (116 : BitVec 9).toInt := by decide

/-- MonitorsRead: no second window ends before 0.99 ms. -/
theorem wit_window_not_due : windowDue (tPwr (fun p => { p with windowAt := some 3812001 }) tUp) = false :=
  decide_eq_false (by
    have := watchSpan_ge Config.oneMs 3812001
    show ¬3812001 + Config.watchSpan Config.oneMs 3812001 ≤ 5000000
    unfold Config.oneMs at *
    omega)

/-- MonitorsRead: no second reading comes before 0.99 ms. -/
theorem wit_temp_not_due : tempDue (tPwr (fun p => { p with tempAt := some 3812001 }) tUp) = false :=
  decide_eq_false (by
    have := watchSpan_ge Config.oneMs 3812001
    show ¬3812001 + Config.watchSpan Config.oneMs 3812001 ≤ 5000000
    unfold Config.oneMs at *
    omega)

/-- R504: two readings above 115 degrees in a row make the run that trips. -/
theorem test_hot_run : (match exec (.tempSample 116) (tPwr (fun p => { p with hotRun := 1 }) tUp) with
    | .next t => t.pwr.hotRun
    | _ => 0) = 2 := by decide

/-- A device in the very cycle of a reset in which thread 3 was in keeper mode. -/
def tResetNow : State :=
  tSys (fun y => { y with inReset := true, resetAt := some 5000000, resetKeepers := [3] }) tUp

/-- ColdResetsByVddAsy, WarmResetsByTheirSources: no fuse is being programmed; pulses on both sides of 1,200 ECLK, in RUN and
in OFF; a keeper-mode thread, one that was in the cycle of a reset, and agents that are none. -/
theorem wit_resets :
    tUp.idn.fuseOps = [] ∧ 1200 ≤ 1200 ∧ 1199 < 1200 ∧ tUp.rails.asy = true ∧ tUp.pwr.cur ≠ .hold ∧ tUp.pwr.cur ≠ .off ∧
    agentKeeper tUp (.thread 0) = true ∧ clocksRun tUp = true ∧ agentKeeper tUp (.thread 1) = false ∧
    agentKeeper tUp .host = false ∧ keptMode tUp .host = false ∧ keptMode tUp (.thread 1) = false ∧
    tUp.rails.core = true ∧ (tPwr (fun p => { p with cur := .off }) tUp).pwr.cur = .off ∧
    keptMode tResetNow (.thread 3) = true ∧ resetNow tResetNow = true := by decide

/-- VDD_CORE has been within limits since 3, and the whole tolerance of 100.0 µs has passed. -/
def tRearm : State := tWatch 121209 (tRails (fun r => { r with coreMasked := true, coreAt := some 3, holdFellAt := 2 }) tHoldExit)

/-- PowerUpSteps: each step's conditions, at its earliest time; each of the supplies that power-up waits for. -/
theorem wit_power_up :
    (let s := tRails (fun r => { r with core := false }) State.reset
     s.rails.asy = true ∧ s.rails.core = false ∧ s.rails.pmicEn = true ∧ s.rails.pmicHold = false) ∧
    (let s := tWatch 240003 (tRails (fun r => { r with pmicEn := false, asyGoodAt := 3 }) State.reset)
     s.rails.asy = true ∧ s.sys.inReset = true ∧ s.rails.pmicEn = false ∧ s.rails.asyGoodAt + 240000 ≤ s.clock.watch) ∧
    (∀ q ∈ [(false, true, true), (true, false, true), (true, true, false)],
      let s := tWatch 24000003 (tRails (fun r => { r with
        pmicEnAt := 3, core := q.1, phy := q.2.1, ddr := q.2.2 }) State.reset)
      s.rails.asy = true ∧ s.sys.inReset = true ∧ s.rails.pmicEn = true ∧ s.sys.powerUpFailed = false ∧
        (s.rails.core = false ∨ s.rails.phy = false ∨ s.rails.ddr = false) ∧
        s.rails.pmicEnAt + 24000000 ≤ s.clock.watch) := by decide

/-- PowerUpSteps: the core monitor's rearm. -/
theorem wit_rearm :
    3 = max (tRearm.rails.coreAt.getD 0) tRearm.rails.holdFellAt ∧ tRearm.rails.coreMasked = true ∧
    tRearm.rails.pmicHold = false ∧ tRearm.rails.core = true ∧ 3 + Config.watchSpan 120000 3 ≤ tRearm.clock.watch :=
  ⟨by decide, by decide, by decide, by decide, watchSpan_passed (by decide)⟩

/-- HOLD since 152,000 with an exit mode and a wake time of 4 ms, whose whole tolerance has passed. -/
def tHold (exit : BitVec 2) : State :=
  tPwr (fun p => { p with cur := .hold, holdExit := exit, holdWake := 4, holdAt := 151994 }) tUp

/-- HoldEnds: HOLD with each exit mode. -/
theorem wit_hold : (∀ q ∈ [((0 : BitVec 2), PowerMode.run), (1, .trim), (2, .watch)],
    let s := tHold q.1
    s.pwr.cur = .hold ∧ s.pwr.trans = none ∧
      (s.pwr.holdExit = 0 ∧ q.2 = .run ∨ s.pwr.holdExit = 1 ∧ q.2 = .trim ∨ s.pwr.holdExit = 2 ∧ q.2 = .watch) ∧
      1200 ≤ 1200 ∧ s.rails.asy = true ∧ s.pwr.holdWake ≠ 0) := by decide

/-- HoldEnds: the wake timer at its time. -/
theorem wit_hold_wake :
    let s := tHold 0
    s.pwr.holdAt + Config.watchSpan (s.pwr.holdWake.toNat * 1200000) s.pwr.holdAt ≤ s.clock.watch :=
  watchSpan_passed (by decide)

/-! ### Power modes and Ladle -/

/-- A requested transition, not started. -/
def tTrans (target source : PowerMode) : Transition := { target := target, source := source, requestedAt := 4000000 }

/-- The device with a transition requested and in a mode. -/
def tMode (t : Option Transition) (cur : PowerMode) : State := tPwr (fun p => { p with cur := cur, trans := t }) tUp

/-- ModeRequested: codes that name another mode, the mode in force, TRIM again, and no mode; a transition in progress. -/
theorem wit_mode_request :
    clocksRun tUp = true ∧ (∀ b, heldAt tUp modeReqAt b = []) ∧ powerModeOf (2 : BitVec 3).toNat = some .watch ∧ tUp.pwr.trans = none ∧
    PowerMode.watch ≠ tUp.pwr.cur ∧
    powerModeOf (1 : BitVec 3).toNat = some .trim ∧ (tMode none .trim).pwr.cur = .trim ∧
    powerModeOf (0 : BitVec 3).toNat = some .run ∧ PowerMode.run = tUp.pwr.cur ∧ PowerMode.run ≠ .trim ∧
    (tMode (some (tTrans .watch .run)) .run).pwr.trans.isSome = true ∧
    (tMode (some (tTrans .watch .run)) .run).pwr.pend = none ∧
    5 ≤ (5 : BitVec 3).toNat ∧ 5 ≤ (7 : BitVec 3).toNat ∧ clocksRun State.reset = false := by decide

/-- ModeTransitionStarts: out of WATCH, into WATCH without and with a pour in flight, into TRIM with a configuration that R62
accepts and with one it refuses; no swap, and one requested later. -/
theorem wit_mode_start :
    (let t := tTrans .run .watch
     let s := tMode (some t) .watch
     clocksRun s = true ∧ s.pwr.trans = some t ∧ t.startedAt = none ∧ swapBefore s t = false ∧ t.source = .watch ∧
       t.target = .run) ∧
    (let t := tTrans .watch .run
     let s := tPat (fun p => { p with swapAt := some 4000001 }) (tMode (some t) .run)
     clocksRun s = true ∧ s.pwr.trans = some t ∧ t.startedAt = none ∧ swapBefore s t = false ∧ s.fgs.pours = [] ∧
       quiet t.target = true) ∧
    (let t := tTrans .hold .watch
     let s := tMode (some t) .watch
     clocksRun s = true ∧ s.pwr.trans = some t ∧ swapBefore s t = false ∧ s.fgs.pours = [] ∧
       quiet t.target = true ∧ t.source = .watch) ∧
    (let t := tTrans .hold .run
     let s := tFgs (fun f => { f with pours := [{ ref := ⟨0, 0⟩ }] }) (tMode (some t) .run)
     clocksRun s = true ∧ s.pwr.trans = some t ∧ swapBefore s t = false ∧ s.fgs.pours ≠ [] ∧ t.source ≠ .watch) ∧
    (let t := tTrans .trim .run
     let s := tPwr (fun p => { p with trimCeil := 800, trimArrays := 16 }) (tMode (some t) .run)
     clocksRun s = true ∧ s.pwr.trans = some t ∧ t.startedAt = none ∧ swapBefore s t = false ∧ s.fgs.pours = [] ∧
       t.target = .trim ∧ (trimAccepted s).isSome = true) ∧
    (let t := tTrans .trim .run
     let s := tPwr (fun p => { p with trimCeil := 1 }) (tMode (some t) .run)
     clocksRun s = true ∧ s.pwr.trans = some t ∧ t.startedAt = none ∧ swapBefore s t = false ∧ s.fgs.pours = [] ∧
       t.target = .trim ∧ trimAccepted s = none ∧ s.pwr.pend = none) := by
  decide

/-- ModeTransitionCompletes: each transition at its latency, and one ECLK before it. -/
theorem wit_mode_complete : (∀ q ∈ [(PowerMode.watch, PowerMode.run, 180000), (.run, .trim, 24000), (.hold, .run, 240000),
      (.off, .run, 240000), (.run, .hold, 3000000)],
    let t : Transition := { tTrans q.1 q.2.1 with startedAt := some 1000000 }
    let s := tWatch (1000000 + q.2.2) (tMode (some t) q.2.1)
    let r := tWatch (1000000 + q.2.2 - 1) (tMode (some t) q.2.1)
    s.pwr.trans = some t ∧ t.startedAt = some 1000000 ∧ s.pwr.pend = none ∧ 1000000 + q.2.2 ≤ s.clock.watch ∧
      s.rails.core = true ∧ r.pwr.trans = some t ∧
      r.clock.watch < latencyFrom t 1000000 + latency t.source t.target) ∧
    (let t : Transition := { tTrans .run .watch with startedAt := some 4000003 }
     let s := tWatch 4180000 (tMode (some t) .watch)
     let r := tWatch 4179999 (tMode (some t) .watch)
     s.pwr.trans = some t ∧ t.startedAt = some 4000003 ∧ s.pwr.pend = none ∧ t.requestedAt + 180000 ≤ s.clock.watch ∧
       r.pwr.trans = some t ∧ r.clock.watch < latencyFrom t 4000003 + latency t.source t.target) := by decide

/-- A request of test load 0. -/
def tReq (n : Nat) : Request := { id := 0x175, cls := 2, deadline := none, madeAt := 100, tickets := n, serves := none }

/-- LadleGrants, LadleRefusesAndWaits: a head that fits exactly, one that fits at no time, a frozen Ladle, and a grant in its
ramp. -/
theorem wit_ladle_queue :
    (let s := tLdl (fun l => { l with queue := [tReq 560] }) tUp
     queueHead s.ldl.queue = some (tReq 560) ∧ canFit s (tReq 560).tickets = true ∧ grantDue s (tReq 560) = true) ∧
    (let s := tLdl (fun l => { l with queue := [tReq 560], frozen := true }) tUp
     queueHead s.ldl.queue = some (tReq 560) ∧ canFit s (tReq 560).tickets = true ∧ s.ldl.frozen = true) ∧
    (let s := tLdl (fun l => { l with queue := [tReq 561] }) tUp
     queueHead s.ldl.queue = some (tReq 561) ∧ canFit s (tReq 561).tickets = false) ∧
    tUp.ldl.queue = [] ∧
    (let g : Grant := ⟨0x175, 10, 4999000, 5000001, false, none, none⟩
     let s := tLdl (fun l => { l with grants := [g] }) tUp
     (s.ldl.grants.find? fun g => g.id == (0x175 : BitVec 10).toNat && !g.begun && g.relAt.isNone) = some g ∧
       now s < g.rampEnd) := by decide

/-- LadleRampEnds: the grant of test load 1 at the end of its ramp. -/
theorem wit_ladle_ramp :
    (let g : Grant := ⟨0x176, 10, 4999700, 5000000, false, none, none⟩
     let s := tLdl (fun l => { l with grants := [g] }) tUp
     (s.ldl.grants.find? fun g => g.id == (0x175 + (1 : Fin 2).val) && !g.begun && g.relAt.isNone) = some g ∧
       g.rampEnd ≤ now s) := by decide

/-- A pattern that declares peripheral draw alone. -/
def tDrawn : Pattern := { tickets := [⟨2, 0, 300⟩] }

/-- LadleCeilingWritten: just outside and at the ends of the range; below a loaded pattern's peak draw of 540. -/
theorem wit_ladle_ceiling :
    ((319 : BitVec 10).toNat < 320 ∨ 960 < (319 : BitVec 10).toNat) ∧
    ((961 : BitVec 10).toNat < 320 ∨ 960 < (961 : BitVec 10).toNat) ∧
    320 ≤ (320 : BitVec 10).toNat ∧ (960 : BitVec 10).toNat ≤ 960 ∧
    (let s := tPat (fun p => { p with active := some tDrawn }) tUp
     s.pat.active = some tDrawn ∧ 320 ≤ (539 : BitVec 10).toNat ∧ (539 : BitVec 10).toNat ≤ 960 ∧
       (539 : BitVec 10).toNat < peakDraw tDrawn s.ldl.standing) ∧
    (let s := tPat (fun p => { p with pending := some tDrawn }) tUp
     s.pat.pending = some tDrawn ∧ (539 : BitVec 10).toNat < peakDraw tDrawn s.ldl.standing ∧
       peakDraw tDrawn s.ldl.standing ≤ (540 : BitVec 10).toNat ∧ s.pat.active = none ∧ s.pwr.cur = .run) ∧
    (tMode none .trim).pwr.cur ≠ .run ∧
    (let s := tLdl (fun l => { l with queue := [tReq 560], activeCeil := 800, grants := [⟨0x176, 1, 0, 0, true, none, none⟩] }) tUp
     queueHead s.ldl.queue = some (tReq 560) ∧ canFit s (tReq 560).tickets = true ∧
       ceilingNow s < grantedSum s + (tReq 560).tickets) := by decide

/-- LadleCeilingWritten: with that pattern alone loaded, every loaded pattern's peak lies within 540. -/
theorem wit_ladle_peaks : ∀ p, (tPat (fun q => { q with active := some tDrawn }) tUp).pat.active = some p ∨
    (tPat (fun q => { q with active := some tDrawn }) tUp).pat.pending = some p → peakDraw p 240 ≤ 540 := by
  intro p h
  rcases h with h | h
  · cases h; decide
  · cases h

/-- A test load in a phase. -/
def tLoad (ph : LoadPhase) : State := tLdl (fun l => { l with loads := [{ phase := ph }, {}] }) tUp

/-- TestLoadsRun: idle, queued, ramping and drawing loads, one whose stop has ended its draw and one whose stop has not; a mode
change; a hold time that ends now and one that ends next. -/
theorem wit_test_loads :
    agentKeeper tUp .host = false ∧ agentKeeper tUp (.thread 0) = true ∧ changing tUp = false ∧
    loadPhase tUp (0 : Fin 2).val = .idle ∧ canFit tUp (max 1 (0 : BitVec 8).toNat) = true ∧
    canFit (tLdl (fun l => { l with activeCeil := 320 }) tUp) (max 1 (255 : BitVec 8).toNat) = false ∧
    agentKeeper (tLoad .queued) (.thread 0) = true ∧ loadPhase (tLoad .queued) 0 ≠ .idle ∧
    (nth (tLoad .queued).ldl.loads 0 {}).phase = .queued ∧ (tLoad .queued).ldl.grants = [] ∧
    (nth (tLoad .ramping).ldl.loads 0 {}).phase = .ramping ∧
    loadPhase (tLoad (.stopping 5000000)) 0 = .idle ∧ loadPhase (tLoad (.stopping 5000001)) 0 ≠ .idle ∧
    changing (tMode (some { tTrans .watch .run with startedAt := some 4000000 }) .run) = true ∧
    (nth (tLoad (.drawing 5000000)).ldl.loads 0 {}).phase = .drawing 5000000 ∧ 5000000 ≤ now (tLoad (.drawing 5000000)) ∧
    (nth (tLoad (.drawing 5000001)).ldl.loads 0 {}).phase = .drawing 5000001 ∧ now (tLoad (.drawing 5000001)) < 5000001 := by
  decide

/-- The end of a window in which 250 tickets were granted. -/
def tWindow : State := tLdl (fun l => { l with maxGranted := 250 }) (tTsc 6000000 tUp)

/-- CurrentWindowMeasured: at the end of a window, currents at the allowance and just above it, below half the granted sum and
at half of it. -/
theorem wit_window :
    now tWindow % 1200 = 0 ∧ tWindow.ldl.windowAt ≠ some (now tWindow) ∧ now tUp % 1200 ≠ 0 ∧
    (tLdl (fun l => { l with windowAt := some 6000000 }) tWindow).ldl.windowAt = some (now tWindow) ∧
    32 * tWindow.ldl.maxGranted + 32 * tWindow.ldl.marginAbs.toNat + tWindow.ldl.marginRel.toNat * tWindow.ldl.maxGranted < 9257 ∧
    9256 ≤ 32 * tWindow.ldl.maxGranted + 32 * tWindow.ldl.marginAbs.toNat + tWindow.ldl.marginRel.toNat * tWindow.ldl.maxGranted ∧
    2 * 3999 < 32 * tWindow.ldl.maxGranted ∧ tWindow.ldl.standing < tWindow.ldl.maxGranted ∧
    32 * tWindow.ldl.maxGranted ≤ 2 * 4000 := by decide

/-- CurrentRunsAct: runs as long as the windows that count, and one short of the underrun. -/
theorem wit_current_runs :
    (let s := tLdl (fun l => { l with overRun := 2 }) tUp
     s.ldl.overRaised = false ∧ monWindows s ≤ s.ldl.overRun ∧ s.ldl.exposed = [] ∧ s.asy.state = .normal ∧
       6 ≤ s.sys.step.toNat) ∧
    (let s := tLdl (fun l => { l with frozen := true, withinRun := 2 }) tUp
     s.ldl.frozen = true ∧ monWindows s ≤ s.ldl.withinRun) ∧
    (let s := tLdl (fun l => { l with underRun := 8 }) tUp
     8 ≤ s.ldl.underRun ∧ s.ldl.underRaised = false) ∧
    (tLdl (fun l => { l with overRaised := true }) tUp).ldl.overRaised = true ∧
    tUp.ldl.overRun < monWindows tUp ∧
    (tLdl (fun l => { l with underRun := 7 }) tUp).ldl.underRun < 8 := by decide

/-! ### Start, fuses, attestation and the pattern -/

/-- What a start samples: the host source, nothing staged, every check good. -/
def tInputs : StartInputs :=
  { bootSel := 0, flaskId := 2, flash := [], dramUnits := 1, mismatchReported := true, romCrcOk := true, fuseEccOk := true,
    badReads := [1], areaFault := none }

/-- StartSequenceRuns: the inputs of each of its clauses. -/
theorem wit_start :
    mayStart State.reset = true ∧ tInputs.mismatchReported = true ∧ tInputs.romCrcOk = true ∧ tInputs.fuseEccOk = true ∧
    tInputs.bootSel = 0 ∧ tInputs.badReads ≠ [] ∧ State.reset.sys.doorbell = false ∧
    (let i : StartInputs := { tInputs with romCrcOk := false }
     i.mismatchReported = false ∨ i.romCrcOk = false) ∧
    (let i : StartInputs := { tInputs with bootSel := 2 }
     i.mismatchReported = true ∧ i.romCrcOk = true ∧ i.fuseEccOk = true ∧ 2 ≤ i.bootSel.toNat) ∧
    { tInputs with fuseEccOk := false }.fuseEccOk = false ∧ State.reset.cyc.detected = [] ∧
    State.reset.sys.causeAt ≠ some State.reset.clock.watch ∧ State.reset.hif.fifo.length < 254 ∧
    mayStart tUp = false := by decide

/-- A device whose start waits for the doorbell since an ECLK. -/
def tWaits (w : Nat) (late : Bool) : State := tSys (fun y => { y with
  step := 5, phase := 0, ready := false, fetchWait := some w, fetchTimedOut := late, startInputs := some tInputs }) tUp

/-- A device after its first rotation, which began at an ECLK. -/
def tRotated (began : Nat) : State :=
  let s := tSys (fun y => { y with step := 9, phase := 0, ready := false }) tUp
  let s := tPat (fun p => { p with pending := some tDrawn }) (tTsc 9600000 s)
  { s with tst := { s.tst with rotationAt := some began, lastPass := List.replicate 35 (some 9600000) } }

/-- A staged pattern whose length runs out of the staging region, behind two images that are not intact. -/
def tStaged : State :=
  let head := leBytes 4 0x54415047 ++ leBytes 4 0 ++ leBytes 4 0xFFFFFFC0
  { tWaits 0 false with mem := (tWaits 0 false).mem.write (stagingBase + 0x2000) head }

/-- StartGoesOn: with and without a wait; a staged image longer than the staging region, and images that fit with an Assayer
image that fails its first check, fetched once and twice; the second keeper image; the wait at 1 s and just beyond it; the
first rotation at its end and one ECLK before; a return to RUN; no pattern. -/
theorem wit_start_goes_on :
    clocksRun tUp = true ∧ tUp.sys.fetchWait = none ∧
    clocksRun tStaged = true ∧ tStaged.sys.fetchWait.isSome = true ∧ tStaged.sys.startInputs = some tInputs ∧
    tStaged.sys.step.toNat ≤ 6 ∧ stagingSize < layoutEnd (stagedLayout tStaged) ∧
    (let s := tWaits 0 false
     let r := tSys (fun y => { y with refetched := (true, false) }) s
     s.sys.fetchWait = some 0 ∧ s.sys.startInputs = some tInputs ∧ s.sys.step.toNat ≤ 6 ∧
       layoutEnd (stagedLayout s) ≤ stagingSize ∧ imageCheck 0 (imagePlace 0 s) s = some 0x0401 ∧ s.sys.source = 0 ∧
       s.sys.refetched.1 = false ∧ r.sys.refetched.1 = true ∧ imageCheck 0 (imagePlace 0 r) r = some 0x0401 ∧
       (tSys (fun y => { y with step := 7 }) s).sys.step = 7) ∧
    (now (tTsc 1200000000 (tWaits 0 false)) ≤ 0 + 1200000000 ∧ clocksRun State.reset = false) ∧
    (let s := tTsc 1200000001 (tWaits 0 false)
     s.sys.fetchWait = some 0 ∧ 0 + 1200000000 < now s ∧ s.sys.fetchTimedOut = false) ∧
    (tWaits 0 true).sys.fetchTimedOut = true ∧
    (let s := tRotated 0
     let r := tSys (fun y => { y with step := 10, phase := 1 }) s
     s.tst.rotationAt = some 0 ∧ 0 + 9600000 ≤ now s ∧ rotationPassed s 0 = true ∧
       (s.pat.active.isSome = true ∨ s.pat.pending.isSome = true) ∧
       s.sys.ready = false ∧ s.sys.inReset = false ∧ s.sys.failed = false ∧ (s.pwr.cur = .run ∨ s.pwr.cur = .trim) ∧
       s.sys.step = 9 ∧ s.sys.phase = 0 ∧ r.tst.rotationAt = some 0 ∧ rotationPassed r 0 = true ∧ r.sys.ready = false ∧
       (r.sys.step ≠ 9 ∨ r.sys.phase ≠ 0)) ∧
    (tRotated 1).tst.rotationAt = some 1 ∧ now (tRotated 1) < 1 + 9600000 ∧
    tUp.pat.active = none ∧ tUp.pat.pending = none := by decide

/-- FuseOperationsStart: armed and not; a pour in flight; an empty slot; a slot whose revocation leaves another for patterns and
one whose does not; an operation in progress already. -/
theorem wit_fuse_start :
    agentKeeperOrHost tUp .host = true ∧ agentKeeperOrHost tUp (.thread 0) = true ∧ clocksRun tUp = true ∧
    (let s := tIdn (fun i => { i with unlock := 2, fuseOps := [(.advanceAsy, 4999999)] }) tUp
     s.idn.unlock = 2 ∧ s.fgs.pours = [] ∧ s.idn.att = none ∧
       (nth s.fuses.slots (3 : Fin 4).val {}).written = false ∧
       (nth s.fuses.slots (3 : Fin 4).val {}).hash.all (fun b => b == 0) = true ∧ fuseSlotOk s (.revoke 3) = false) ∧
    (let s : State := { tIdn (fun i => { i with unlock := 2 }) tUp with fuses := { tUp.fuses with
      slots := [{ usePattern := true, written := true }, { usePattern := true, written := true }, {}, {}] } }
     agentKeeperOrHost s .host = true ∧ s.idn.unlock = 2 ∧ fuseSlotOk s (.revoke 0) = true) ∧
    (tIdn (fun i => { i with unlock := 1 }) tUp).idn.unlock ≠ 2 ∧ tUp.idn.unlock ≠ 2 ∧
    (tFgs (fun f => { f with pours := [{ ref := ⟨0, 0⟩ }] }) tUp).fgs.pours ≠ [] ∧
    (tIdn (fun i => { i with att := some ⟨0, [], [], []⟩ }) tUp).idn.att ≠ none ∧
    threadKeeper tUp (1 : Fin 256).val = false := by decide

/-- FuseProgrammingEnds: at 2 ms and one ECLK before; a revocation, a decommissioning and an advance, with one behind it. -/
theorem wit_fuse_end : (∀ op ∈ [FuseOp.revoke 0, .decommission, .advanceAsy],
    let s := tIdn (fun i => { i with fuseOps := [(op, 2600000), (.advanceKpr, 2600001)] }) tUp
    let r := tIdn (fun i => { i with fuseOps := [(op, 2600001)] }) tUp
    s.idn.fuseOps = (op, 2600000) :: [(.advanceKpr, 2600001)] ∧ 2600000 + 2400000 ≤ now s ∧
      (0 : Fin 4).val < s.fuses.slots.length ∧
      r.idn.fuseOps = (op, 2600001) :: [] ∧ now r < 2600001 + 2400000) ∧
    (∀ slot u h, FuseOp.advanceAsy ≠ .writeKey slot u h) :=
  ⟨by decide, fun _ _ _ h => nomatch h⟩

/-- AttestationRuns: a part that is not decommissioned and one that is; a report in progress. -/
theorem wit_attestation :
    (let s := tSys (fun y => { y with identityOk := true }) tUp
     assayerRuns s = true ∧ (∀ b, heldAt s attUnit b = []) ∧ s.fuses.lifecycle ≠ .decommissioned ∧
       s.sys.identityOk = true ∧ s.idn.att = none) ∧
    (assayerRuns (tSys (fun y => { y with identityOk := false }) tUp) = true ∧
      (tSys (fun y => { y with identityOk := false }) tUp).sys.identityOk = false ∧ assayerRuns State.reset = false) ∧
    (let s : State := { tUp with fuses := { tUp.fuses with lifecycle := .decommissioned } }
     assayerRuns s = true ∧ s.fuses.lifecycle = .decommissioned) ∧
    (let j : AttJob := ⟨0, [], [], []⟩
     let s := tIdn (fun i => { i with att := some j }) tUp
     assayerRuns s = true ∧ s.idn.att = some j ∧ s.idn.att.isSome = true) := by decide

/-- A source of 16 bytes in Crucible bank 0. -/
def tSource : State := tPat (fun p => { p with src := 0x20000000, len := 16 }) tUp

/-- TRIM, with fewer arrays than a pattern of 16 bytes needs, whose header and section table can be read. -/
def tGated : State :=
  let s := tPwr (fun p => { p with cur := .trim, trimNow := { p.trimNow with arrays := 15 } }) tSource
  { s with mem := s.mem.write 0x20000000 (leBytes 4 0x54415047 ++ leBytes 4 0 ++ leBytes 8 384) }

/-- PatternLoadJudged: bytes that can be read, of a pattern that the mode does not gate and of one that it does, and bytes at no
address; a busy loader; HOLD; a step before 8; one requester, not both. -/
theorem wit_pattern_load :
    clocksRun tSource = true ∧ 8 ≤ tSource.sys.step.toNat ∧ (true != false) = true ∧ (false != true) = true ∧
    (∀ b, heldAt tSource patUnit b = []) ∧ patBusy tSource = false ∧ (LoadReads.mk .clean none).source ≠ .uncorrectable ∧
    (LoadReads.mk .uncorrectable none).source = .uncorrectable ∧
    (let r := readPages patId (Ecc.clean == .walkUncorrectable) (16 / 0x10000 + 2) tSource.pat.src.toNat 16 tSource
     16 = tSource.pat.len.toNat ∧ r.1 = some (List.replicate 16 0) ∧ loadGated (List.replicate 16 0) r.2 = false) ∧
    (let r := readPages patId (Ecc.clean == .walkUncorrectable) (16 / 0x10000 + 2) tGated.pat.src.toNat 16 tGated
     16 = tGated.pat.len.toNat ∧ patBusy tGated = false ∧ r.1.isSome = true ∧ loadGated (r.1.getD []) r.2 = true) ∧
    (let s := tPat (fun p => { p with src := 0xF000000000, len := 1 }) tUp
     (readPages patId (Ecc.clean == .walkUncorrectable) (1 / 0x10000 + 2) s.pat.src.toNat 1 s).1 = none) ∧
    patBusy (tPat (fun p => { p with pending := some tDrawn }) tUp) = true ∧
    (let r := tPwr (fun p => { p with cur := .hold }) tUp
     r.pwr.cur = .hold ∧ r.sys.inReset = false ∧ 8 ≤ r.sys.step.toNat ∧ (∀ b, heldAt r patUnit b = []) ∧
       patBusy r = false) ∧
    (tSys (fun y => { y with step := 7 }) tUp).sys.step.toNat < 8 := by decide

/-- A pattern of a flask of two chips. -/
def tFlask : Pattern := { hdr := { (default : Header) with flaskSize := 2 } }

/-- A start whose pattern of a flask of two is being loaded and whose links have not trained. -/
def tStartFlask : State :=
  tSys (fun y => { y with phase := 0, step := 9 }) (tPat (fun p => { p with checked := some tFlask }) tUp)

/-- PatternPends: a word of the area that is bad and none; the end of a load with the swap held and a pattern active, without
hold_swap, of the start pattern, in a flask, and of a start pattern whose links are not up; nothing being loaded; a commit, alone and in a flask; nothing pending; an agent that may not. -/
theorem wit_pattern_pends :
    initContent tDrawn = [] ∧ tDrawn.hdr.flaskSize < 2 ∧ tUp.pat.initBad = false ∧ tUp.hif.fifo.length < 256 ∧
    (let s := tPat (fun p => { p with checked := some tDrawn, initBad := true }) tUp
     s.pat.checked = some tDrawn ∧ s.pat.initBad = true) ∧
    (let s := tPat (fun p => { p with checked := some tDrawn, holdSwap := true, active := some tDrawn }) tUp
     s.pat.checked = some tDrawn ∧ s.pat.holdSwap = true ∧ s.pat.active.isSome = true ∧ startLoad s = false) ∧
    (let s := tPat (fun p => { p with checked := some tDrawn, holdSwap := false }) tUp
     s.pat.checked = some tDrawn ∧ s.pat.holdSwap = false ∧ startLoad s = false) ∧
    (let s := tSys (fun y => { y with phase := 0 }) (tPat (fun p => { p with checked := some tDrawn, holdSwap := true }) tUp)
     s.pat.checked = some tDrawn ∧ s.pat.holdSwap = true ∧ s.pat.active = none ∧ s.sys.phase = 0 ∧ linksUp s tDrawn = true) ∧
    (let s := tStartFlask
     s.pat.checked = some tFlask ∧ s.pat.initBad = false ∧ startLoad s = true ∧ linksUp s tFlask = false) ∧
    (let s := tPat (fun p => { p with checked := some tFlask, holdSwap := false }) tUp
     s.pat.checked = some tFlask ∧ initContent tFlask = [] ∧ s.pat.holdSwap = false ∧ startLoad s = false ∧ 2 ≤ tFlask.hdr.flaskSize) ∧
    tUp.pat.checked = none ∧
    (∀ p ∈ [tDrawn, tFlask], let s := tPat (fun q => { q with pending := some p }) tUp
     agentKeeperOrHost s .host = true ∧ s.pat.pending = some p ∧ s.pat.committed = false ∧ s.pat.swapAt = none) ∧
    tUp.pat.pending = none ∧ (tPat (fun p => { p with committed := true }) tUp).pat.committed = true ∧
    (tPat (fun p => { p with swapAt := some 0 }) tUp).pat.swapAt.isSome = true ∧
    agentKeeperOrHost tUp (.thread 9) = false := by decide

/-- SwapPointComes: with no pour and with one in flight, at and before the times of R136 and R137; a mode change requested
first; a further swap requested; a chip of the flask that has not swapped. -/
theorem wit_swap :
    (let s := tPat (fun p => { p with pending := some tDrawn, swapAt := some 4000000 }) tUp
     s.pat.swapAt = some 4000000 ∧ s.pat.pending = some tDrawn ∧ s.fgs.pours = [] ∧ swapFirst s = true ∧
       initContent tDrawn = [] ∧ (tDrawn.nodes.filter fun n => n.cls == 7) = []) ∧
    (let s := tPat (fun p => { p with pending := some tDrawn, swapAt := some 4000001 })
      (tMode (some (tTrans .watch .run)) .run)
     s.pat.swapAt = some 4000001 ∧ swapFirst s = false) ∧
    (let s := tPat (fun p => { p with acceptAt := some 5000000 }) tUp
     s.pat.acceptAt = some 5000000 ∧ 5000000 ≤ now s ∧ peersSwapped s = true ∧ s.pat.swapAt = none ∧ s.pat.deferred = []) ∧
    (let s := tPat (fun p => { p with acceptAt := some 5000000, swapAt := some 4999999 }) tUp
     s.pat.acceptAt = some 5000000 ∧ 5000000 ≤ now s ∧ peersSwapped s = true ∧ s.pat.swapAt.isSome = true) ∧
    (let s := tLnk (fun l => { l with links := upd l.links 0 fun k => { k with trained := true } })
      (tPat (fun p => { p with active := some tFlask, acceptAt := some 5000000 }) tUp)
     s.pat.acceptAt = some 5000000 ∧ peersSwapped s = false) ∧
    (let s := tPat (fun p => { p with acceptAt := some 5000001 }) tUp
     s.pat.acceptAt = some 5000001 ∧ now s < 5000001) ∧
    (let q : Pour := { ref := ⟨0, 0⟩ }
     let s := tFgs (fun f => { f with pours := [q] }) (tPat (fun p => { p with
       pending := some tDrawn, swapAt := some 4000000, swapTmo := 1000000 }) tUp)
     let r := tPat (fun p => { p with swapTmo := 1000001 }) s
     let z := tAsy (fun a => { a with ceiling := 1000000 }) (tPat (fun p => { p with swapTmo := 0 }) s)
     s.fgs.pours ≠ [] ∧ s.fgs.pours = [q] ∧ q.aborted = none ∧ s.pat.swapAt = some 4000000 ∧ s.pat.swapTmo ≠ 0 ∧
       4000000 + s.pat.swapTmo.toNat ≤ now s ∧ r.pat.swapTmo ≠ 0 ∧ now r < 4000000 + r.pat.swapTmo.toNat ∧
       z.pat.swapTmo = 0 ∧ 4000000 + z.asy.ceiling ≤ now z) := by decide

/-! ### Cameras and ISP pipes -/

/-- The device whose receiver 7 is in a state. -/
def tCam (c : Camera) : State := { tUp with cams := upd tUp.cams 7 fun _ => c }

/-- The parameters of a RAW8 sensor of 64 by 64 on virtual channel 3, with embedded and user data. -/
def tCfg : IspCfg :=
  { vc := 3, dt := 0x2A, emb := some (0x20000000, 4096), user := some (0x20001000, 4096), userMask := 0x80, pair := 1,
    testSig := 0x1234, w := 8, h := 2, bandRows := 1, dmgLimit := 2, lateTol := 5, lineTmo := 1200, framePeriod := 1000 }

/-- A receiver that runs, with no frame open. -/
def tIdle : Camera := { powered := true, sync := true, awaitFs := false, cfg := some tCfg }

/-- A receiver with a frame open. -/
def tOpen (f : Frame → Frame) : Camera := { tIdle with frame := some (f { cfg := tCfg }), lastPacket := 4998800 }

/-- ReceiverHearsPackets: a receiver that runs, with and without an open frame or row, its channel and another one, types that
are taken and one that is not, before the next frame start and after it; a receiver that is powered alone, and one that is
not. -/
theorem wit_receiver :
    (let s := tCam tIdle
     camOn s 7 = true ∧ vcOf s 7 = some (3 : BitVec 4).toNat ∧ vcOf s 7 ≠ some (4 : BitVec 4).toNat ∧
       (camAt s 7).frame = none ∧ camRuns s 7 = true ∧
       (camAt s 7).awaitFs = false ∧ (camAt s 7).cfg = some tCfg ∧ tCfg.vc = (3 : BitVec 4).toNat ∧
       (camAt s 7).testAt = none ∧ halfRead? s 7 (camAt s 7).frameCount = false) ∧
    (let s := tCam (tOpen id)
     camRuns s 7 = true ∧ (camAt s 7).frame = some { cfg := tCfg } ∧ ({ cfg := tCfg } : Frame).cfg.vc = (3 : BitVec 4).toNat ∧
       ({ cfg := tCfg } : Frame).openRow = none) ∧
    (let f : Frame := { cfg := tCfg, openRow := some ([9], 0) }
     let s := tCam (tOpen fun _ => f)
     camRuns s 7 = true ∧ (camAt s 7).frame = some f ∧ f.cfg.vc = (3 : BitVec 4).toNat ∧ f.openRow = some ([9], 0) ∧
       [9] ≠ ([] : List Nat)) ∧
    (camRuns (tCam { tIdle with awaitFs := true }) 7 = true ∧ (camAt (tCam { tIdle with awaitFs := true }) 7).awaitFs = true ∧
      vcOf (tCam { tIdle with awaitFs := true }) 7 = some (3 : BitVec 4).toNat) ∧
    acceptedType (0x29 : BitVec 6).toNat = false ∧ acceptedType (0x2A : BitVec 6).toNat = true ∧
    camOn (tCam { tIdle with sync := false }) 7 = true ∧ camOn tUp 7 = false ∧ camRuns tUp 7 = false := by decide

/-- FrameDataTaken: the last row of a frame; the second part of a row; embedded data and the user data that is taken, a kind that
is not, WATCH, and a frame with neither; a type that is discarded; another channel; the headers. -/
theorem wit_frame_data :
    (let f : Frame := { cfg := tCfg, raw := [List.replicate 8 0] }
     let s := tCam (tOpen fun _ => f)
     camRuns s 7 = true ∧ (camAt s 7).frame = some f ∧ f.cfg.vc = (3 : BitVec 4).toNat ∧
       pixelType (0x2A : BitVec 6).toNat = true ∧ f.cfg.dt = (0x2A : BitVec 6).toNat ∧ f.openRow = none ∧
       f.raw.length < f.cfg.h ∧ (unpackRow 0x2A (List.replicate 8 1)).length = f.cfg.w ∧ f.cfg.w ≤ lineBuffer ∧
       f.cfg.emb = some (0x20000000, 4096) ∧ s.pwr.cur ≠ .watch ∧ f.cfg.user = some (0x20001000, 4096) ∧
       bitAt f.cfg.userMask (7 : Fin 8).val = true ∧ bitAt f.cfg.userMask (6 : Fin 8).val = false ∧
       f.cfg.vc ≠ (4 : BitVec 4).toNat ∧ (tPwr (fun p => { p with cur := .watch }) s).pwr.cur = .watch) ∧
    (let f : Frame := { cfg := { tCfg with emb := none, user := none } }
     let s := tCam (tOpen fun _ => f)
     camRuns s 7 = true ∧ (camAt s 7).frame = some f ∧ f.cfg.vc = (3 : BitVec 4).toNat ∧ f.cfg.emb = none ∧
       f.cfg.user = none) ∧
    acceptedType (0x29 : BitVec 6).toNat = false ∧ HeaderEcc.fixed ≠ .failed ∧ HeaderEcc.ok ≠ .failed ∧
    (let f : Frame := { cfg := tCfg, openRow := some ([9], 0) }
     let s := tCam (tOpen fun _ => f)
     camRuns s 7 = true ∧ (camAt s 7).frame = some f ∧ f.cfg.vc = (3 : BitVec 4).toNat ∧ f.openRow = some ([9], 0)) := by
  decide

/-- A pattern with one graph of a pair, one camera node on port 7, one vision node, one Neural node of one layer and a flag. -/
def tNet (split : Nat) : Pattern :=
  { hdr := { (default : Header) with flaskSize := if split = 0 then 1 else 2 }
    graphs := [⟨0, 2, 1000000, 1, 0, 0, 64, 64, 1000⟩]
    nodes := [⟨1, 0, 6, 1, 0, 0, 0, 96, 0xFFFF, 0⟩, ⟨2, 0, 1, 1, 0, 0, 0, 0, 0xFFFF, 0⟩, ⟨4, 1, 0, 1, 0, 0, 96, 4, 0xFFFF, 0⟩,
      ⟨5, 0, 4, 1, 0, 1, 0, 0, 0xFFFF, 0⟩]
    flags := [⟨10, 2, 3, 0⟩, ⟨11, 0xFFFF, 3, 1⟩, ⟨12, 0xFFFF, 3, 0⟩]
    bufs := [⟨9, 0, 0, 0x20000000, 4096, 0xFFFFFFFF, 0⟩, ⟨1, 0, 0, 0x20010000, 4096, 0xFFFFFFFF, 0⟩]
    deadlines := [⟨2, 1000⟩, ⟨5, 1000⟩]
    data := leBytes 32 1 ++ leBytes 0x1C (3 + split * 256) ++ leBytes 4 1 ++ leBytes 2 1 ++ leBytes 2 1 ++ leBytes 28 0 ++
      leBytes 4 7 }

/-- FramesEndAndPipesAreTested: at and before each time; the two results of a test; a pair damaged too often. -/
theorem wit_frame_end :
    (let s := tCam (tOpen id)
     let r := tTsc 4999999 s
     camRuns s 7 = true ∧ (camAt s 7).frame = some { cfg := tCfg } ∧ ({ cfg := tCfg } : Frame).openRow = none ∧
       (camAt s 7).lastPacket + tCfg.lineTmo ≤ now s ∧ (camAt r 7).frame = some { cfg := tCfg } ∧
       now r < (camAt r 7).lastPacket + tCfg.lineTmo) ∧
    (let s := tCam { tIdle with lastFs := some 4998994 }
     (camAt s 7).lastFs = some 4998994 ∧ (camAt s 7).cfg = some tCfg ∧ camRuns s 7 = true ∧ (camAt s 7).nextLate = false ∧
       4998994 + tCfg.framePeriod + tCfg.lateTol < now s) ∧
    (let f : Frame := { cfg := tCfg, bandsSet := 1, closed := true, feStamp := 4999600 }
     let s := tCam (tOpen fun _ => f)
     (camAt s 7).tail = [] ∧ (camAt s 7).frame = some f ∧ bandDue f = some 5000000 ∧ 5000000 ≤ now s ∧
       now (tTsc 4999999 s) < 5000000) ∧
    (let s := tCam { tIdle with testAt := some 4997552 }
     (camAt s 7).testAt = some 4997552 ∧ (camAt s 7).cfg = some tCfg ∧ 4997552 + 2448 ≤ now s ∧
       (0x1234 : Word32).toNat = tCfg.testSig ∧ (0x1235 : Word32).toNat ≠ tCfg.testSig) ∧
    (let s := tTsc Config.dfdt (tCam tIdle)
     (camAt s 7).cfg = some tCfg ∧ camOn s 7 = true ∧ (camAt s 7).staleRaised = false ∧ s.cyc.detected = [] ∧
       (camAt s 7).lastPass + Config.dfdt ≤ now s ∧ s.asy.state = .normal ∧ 6 ≤ s.sys.step.toNat) ∧
    (let g : GraphRec := ⟨1, 0, 1, 1, 0, 0, 64, 64, 1000⟩
     let s := tPat (fun p => { p with active := some { tNet 0 with graphs := [g] } }) (tCam { tIdle with damageRun := 2 })
     graphOfSource (active s) (0, (1 : Fin 4).val) = some g ∧ portsOf (active s) g.slot = [7] ∧ (camAt s 7).cfg = some tCfg ∧
       tCfg.dmgLimit ≤ (camAt s 7).damageRun ∧ (camAt s 7).lostRaised = false) := by decide

/-! ### Engines and the Frame Graph Sequencer -/

/-- The device with the net active. -/
def tNetUp : State := tPat (fun p => { p with active := some (tNet 0) }) tUp

/-- The vision node of the net. -/
def tVisionNode : NodeRec := ⟨2, 0, 1, 1, 0, 0, 0, 0, 0xFFFF, 0⟩

/-- The Neural node of the net. -/
def tNeuralNode : NodeRec := ⟨1, 0, 6, 1, 0, 0, 0, 96, 0xFFFF, 0⟩

/-- A pour of the net with its vision node in a state. -/
def tPour (st : NodeSt) : Pour := { ref := ⟨0, 5⟩, origin := some 4999000, nodes := [{ node := 2, st := st, res := [0] }] }

/-- The net with that pour in flight. -/
def tFlight (st : NodeSt) : State := tFgs (fun f => { f with pours := [tPour st] }) tNetUp

/-- The vision command of the pour, begun at an ECLK. -/
def tVenCmd (began : Nat) : VenCmd := { pour := ⟨0, 5⟩, node := 2, origin := 4999000, startedAt := began }

/-- The net with that command in its first instance, on which it stands. -/
def tVen (c : VenCmd) : State := { tFlight .running with ven := { tUp.ven with
  insts := upd tUp.ven.insts 0 fun i => { i with cmd := some c } } }

/-- A Neural command of the pour on logical array 15. -/
def tNeu (f : NeuCmd → NeuCmd) : State := { tFlight .running with neu := { tUp.neu with
  cmds := [f { pour := ⟨0, 5⟩, node := 1, origin := 0, arrays := [{ array := 15, begun := true, nextAt := 4999952 }] }] } }

/-- EnginesEndTheirCommands: a vision command at its shortest time and one ECLK before, with its units bound, and an instance
without a command. -/
theorem wit_vision_end :
    (let c := tVenCmd 4999488
     let s := tVen c
     (nth s.ven.insts (0 : Fin 13).val {}).cmd = some c ∧ venPour s c.pour = some (tPour .running, tNet 0) ∧
       nodeOf (tNet 0).nodes c.node = some tVisionNode ∧ boundUnit s (tVisionNode.cls - 1) 0 = some 0 ∧
       s.tst.inject = [] ∧ c.stop = none ∧ venDenied s (unitId 0) (tNet 0) (tPour .running) tVisionNode = none ∧
       venFinished s (tNet 0) c (tPour .running) (venWhole s (tNet 0) (tPour .running) tVisionNode) = true ∧
       (⟨none, false⟩ : TokenView).namesOther = none) ∧
    (let c := tVenCmd 4999489
     let s := tVen c
     (nth s.ven.insts (0 : Fin 13).val {}).cmd = some c ∧ venPour s c.pour = some (tPour .running, tNet 0) ∧
       s.tst.inject = [] ∧ c.stop = none ∧ venDenied s (unitId 0) (tNet 0) (tPour .running) tVisionNode = none ∧
       venFinished s (tNet 0) c (tPour .running) (venWhole s (tNet 0) (tPour .running) tVisionNode) = false ∧
       now s < c.startedAt + 512 ∧ (nth s.ven.insts (12 : Fin 13).val {}).cmd = none) := by decide

/-- The net's Neural node with two layers. -/
def tDeepNode : NodeRec := { tNeuralNode with paramLen := 160 }

/-- The net with that node. -/
def tDeep : Pattern := { tNet 0 with
  nodes := tDeepNode :: (tNet 0).nodes.drop 1
  data := leBytes 32 2 ++ leBytes 0x1C 3 ++ leBytes 4 1 ++ leBytes 2 1 ++ leBytes 2 1 ++ leBytes 28 0 ++ leBytes 64 0 }

/-- EnginesEndTheirCommands: a tile at its time and one ECLK before; a barrier at its time and before, of a last layer and of one
that is not; a stopped command. -/
theorem wit_arrays_end :
    (let s := tNeu id
     let x : ArrayRun := { array := 15, begun := true, nextAt := 4999952 }
     let c : NeuCmd := { pour := ⟨0, 5⟩, node := 1, origin := 0, arrays := [x] }
     let l := layerAt (paramOf (tNet 0) tNeuralNode) 0
     s.neu.cmds = [c] ∧ c.arrays = [x] ∧ x.array = (15 : Fin 16).val ∧ c.stop = none ∧
       nodeOf (active s).nodes c.node = some tNeuralNode ∧ arrayUnit s 15 = some 33 ∧
       layerNow (active s) tNeuralNode c = some l ∧ s.tst.inject = [] ∧ tileReady s (active s) tNeuralNode l c 15 x = true ∧
       readDenied s (active s) l c.pour.seq (arrayPlace c 15 + x.tiles * c.arrays.length) (unitId 33) = none ∧
       x.begun = true ∧
       now (tTsc 4999999 s) < x.nextAt + nclk (tileTime (active s) tNeuralNode l)) ∧
    (let s := tNeu fun c => { c with barrierAt := some 4999999, exchangeAt := some 5000000 }
     let c : NeuCmd := { pour := ⟨0, 5⟩, node := 1, origin := 0, arrays := [{ array := 15, begun := true, nextAt := 4999952 }],
                         barrierAt := some 4999999, exchangeAt := some 5000000 }
     nodeOf (active s).nodes tNeuralNode.nodeId = some tNeuralNode ∧
       neuAt s (PourRef.mk tNeuralNode.slot (5 : Word32).toNat) tNeuralNode.nodeId = some c ∧
       layerNow (active s) tNeuralNode c = some (layerAt (paramOf (tNet 0) tNeuralNode) 0) ∧
       layerEnd (active s) (layerAt (paramOf (tNet 0) tNeuralNode) 0) c = some 5000000 ∧ c.stop = none ∧ 5000000 ≤ now s ∧
       now (tTsc 4999999 s) < 5000000) ∧
    (let s := tPat (fun p => { p with active := some tDeep })
      (tNeu fun c => { c with barrierAt := some 4999999, exchangeAt := some 5000000 })
     let c : NeuCmd := { pour := ⟨0, 5⟩, node := 1, origin := 0, arrays := [{ array := 15, begun := true, nextAt := 4999952 }],
                         barrierAt := some 4999999, exchangeAt := some 5000000 }
     let l := layerAt (paramOf tDeep tDeepNode) 0
     nodeOf (active s).nodes tDeepNode.nodeId = some tDeepNode ∧
       neuAt s (PourRef.mk tDeepNode.slot (5 : Word32).toNat) tDeepNode.nodeId = some c ∧
       layerNow (active s) tDeepNode c = some l ∧ layerEnd (active s) l c = some 5000000 ∧ c.stop = none ∧
       5000000 ≤ now s ∧ l.split ≠ 2 ∧ c.layer + 1 < (layersOf (active s) tDeepNode).length ∧ s.neu.cmds = [c]) ∧
    (let s := tNeu fun c => { c with stop := some .abort }
     let c : NeuCmd := { pour := ⟨0, 5⟩, node := 1, origin := 0, arrays := [{ array := 15, begun := true, nextAt := 4999952 }],
                         stop := some .abort }
     neuAt s (PourRef.mk tNeuralNode.slot (5 : Word32).toNat) tNeuralNode.nodeId = some c ∧ c.stop = some .abort) := by decide

/-- EnginesEndTheirCommands: a tile that did not end well. -/
theorem wit_tile_fault : ∀ e, TileEnd.parity ≠ .ok e := fun _ h => nomatch h

/-- The slots with the last trigger of slot 0 at an ECLK. -/
def tTimer (t : Nat) (s : State) : State := updSlot 0 (fun g => { g with timerAt := t }) s

/-- TriggersOpenPours: the period at its end and one ECLK before; refused, deferred, with two pours in flight and with fewer; an
origin still to come and one that has come; a node that can start, and none; no pour in flight. -/
theorem wit_triggers :
    (let g : GraphRec := ⟨0, 2, 1000000, 1, 0, 0, 64, 64, 1000⟩
     let s := tTimer 4000000 tNetUp
     graphOf (active s) (0 : Fin 8).val = some g ∧ g.triggerKind = 2 ∧ 0 < s.fgs.slots.length ∧
       (nth s.fgs.slots 0 {}).timerAt + g.triggerArg ≤ now s ∧ refusing s = false ∧ defersNow s = false ∧
       (slotPours s 0).length < 2 ∧ flaskGraph (active s) 0 = false ∧ 0 ∉ s.cyc.aborted ∧
       refusing (tFgs (fun f => { f with drain := true }) s) = true ∧
       defersNow (tFgs (fun f => { f with drain := true }) s) = false ∧
       defersNow (tPat (fun p => { p with swapAt := some 1 }) s) = true ∧ s.pat.deferred = [] ∧ Ecc.clean ≠ .uncorrectable ∧
       2 ≤ (slotPours (tFgs (fun f => { f with pours := [tPour .running, tPour .running] }) s) 0).length ∧
       now (tTimer 4000001 s) < (nth (tTimer 4000001 s).fgs.slots 0 {}).timerAt + g.triggerArg) ∧
    (let q : Pour := { ref := ⟨0, 5⟩ }
     let s := tFgs (fun f => { f with pours := [q] }) tNetUp
     pourAt s (PourRef.mk 0 (5 : Word32).toNat) = some q ∧ q.origin = none) ∧
    pourAt (tFlight .running) (PourRef.mk 0 (5 : Word32).toNat) = some (tPour .running) ∧
    (tPour .running).origin.isSome = true ∧
    (pickNode (active (tFlight .waiting)) (startables (tFlight .waiting) (active (tFlight .waiting)))).isSome = true ∧
    (pickNode (active tNetUp) (startables tNetUp (active tNetUp))).isNone = true ∧ tNetUp.fgs.pours = [] ∧
    tNetUp.asy.state = .normal ∧ 6 ≤ tNetUp.sys.step.toNat := by
  decide

/-- The stereo node of the net, with its refine pass on. -/
def tStereoNode : NodeRec := ⟨5, 0, 4, 1, 0, 1, 0, 0, 0xFFFF, 0⟩

/-- A pour whose stereo node runs its refine pass. -/
def tRefine : State :=
  let q : Pour := { ref := ⟨0, 5⟩, origin := some 4999000, nodes := [{ node := 5, st := .running, res := [9] }] }
  let insts := upd tUp.ven.insts 9 fun i => { i with cmd := some { pour := ⟨0, 5⟩, node := 5, origin := 4999000, startedAt := 4990000 } }
  { tFgs (fun f => { f with pours := [q] }) tNetUp with ven := { tUp.ven with insts := insts } }

/-- PoursRunAndEnd: a running node at its deadline and one ECLK before, in its refine pass and not; the flag's last set,
one beyond and one that is foreign; keeper firmware and another. -/
theorem wit_pours_run :
    (let s := tFlight .running
     let m : NodeRun := { node := 2, st := .running, res := [0] }
     pourAt s (PourRef.mk (0 : Fin 8).val (5 : Word32).toNat) = some (tPour .running) ∧
       nodeOf (active s).nodes tVisionNode.nodeId = some tVisionNode ∧ tVisionNode.slot = (0 : Fin 8).val ∧
       ((tPour .running).nodes.find? fun m => m.node == tVisionNode.nodeId) = some m ∧ m.st = .running ∧
       (tPour .running).aborted = none ∧ tVisionNode.cls ≠ 7 ∧
       flagOf (active s) 10 = some ⟨10, 2, 3, 0⟩ ∧ triggeredBy (active s) 10 = none ∧
       flagValue (putFlag 10 5 2 s) 10 (5 : Word32).toNat + 1 ≤ 3 ∧ 3 < flagValue (putFlag 10 5 3 s) 10 (5 : Word32).toNat + 1 ∧
       flagOf (active s) 11 = some ⟨11, 0xFFFF, 3, 1⟩ ∧ (0xFFFF ≠ tVisionNode.nodeId) ∧
       (tPour .running).origin = some 4999000 ∧ 4999000 + deadlineOf (active s).deadlines tVisionNode.nodeId ≤ now s ∧
       inRefine s (active s) (tPour .running) tVisionNode = false ∧
       now (tTsc 4999999 s) < 4999000 + deadlineOf (active s).deadlines tVisionNode.nodeId ∧
       s.fgs.pours = [tPour .running] ∧ agentKeeper s (.thread 0) = true ∧ (1 : Byte).getLsbD (0 : Fin 8).val = true ∧
       (2 : Byte).getLsbD (0 : Fin 8).val = false ∧ agentKeeper s .host = false) ∧
    (let s := tRefine
     let q : Pour := { ref := ⟨0, 5⟩, origin := some 4999000, nodes := [{ node := 5, st := .running, res := [9] }] }
     pourAt s (PourRef.mk (0 : Fin 8).val (5 : Word32).toNat) = some q ∧
       nodeOf (active s).nodes tStereoNode.nodeId = some tStereoNode ∧
       inRefine s (active s) q tStereoNode = true ∧ 4999000 + deadlineOf (active s).deadlines tStereoNode.nodeId ≤ now s) := by
  decide

/-- A Runner node of the net, in the pattern beside the others. -/
def tRunnerNode : NodeRec := ⟨6, 0, 7, 1, 0, 0, 0, 0, 3, 0⟩

/-- A pour whose Runner node has lost a posted write. -/
def tPosted : State :=
  let q : Pour := { ref := ⟨0, 5⟩, nodes := [{ node := 6, st := .running }] }
  let s := tFgs (fun f => { f with pours := [q] })
    (tPat (fun p => { p with active := some { tNet 0 with nodes := (tNet 0).nodes ++ [tRunnerNode] } }) tUp)
  updCh 3 (fun c => { c with postedLost := true }) s

/-- PoursRunAndEnd: a set whose writes are made, one of a command stopped before, and one whose writes were lost. -/
theorem wit_writes :
    setsLost (tFlight .running) (some tVisionNode) = false ∧
    (writesMade (tFlight .running) (active (tFlight .running)) (tPour .running) tVisionNode 10).isSome = true ∧
    (let s := tVen { tVenCmd 4999489 with stop := some .abort, stopAt := 4999999 }
     setsLost s (some tVisionNode) = false ∧ pourAt s ⟨0, 5⟩ = some (tPour .running) ∧
       (writesMade s (active s) (tPour .running) tVisionNode 10).isNone = true) ∧
    (let s := tPosted
     let q : Pour := { ref := ⟨0, 5⟩, nodes := [{ node := 6, st := .running }] }
     pourAt s (PourRef.mk (0 : Fin 8).val (5 : Word32).toNat) = some q ∧
       nodeOf (active s).nodes tRunnerNode.nodeId = some tRunnerNode ∧ tRunnerNode.slot = (0 : Fin 8).val ∧
       (q.nodes.find? fun m => m.node == tRunnerNode.nodeId) = some { node := 6, st := .running } ∧ q.aborted = none ∧
       flagOf (active s) 10 = some ⟨10, 2, 3, 0⟩ ∧ setsLost s (some tRunnerNode) = true) := by decide

/-- PoursRunAndEnd: a flag whose buffer lies on no peer is told to no peer. -/
theorem wit_no_remote_set : remoteSets (active (tFlight .running)) 2 10 (tPour .running) (tFlight .running) = tFlight .running :=
  rfl

/-- PoursRetireAndGraphsAreLost: a pour that has ended well, one that was aborted and one that cannot retire; a run of aborts at
the limit, and one below it. -/
theorem wit_retire :
    0 < tUp.fgs.slots.length ∧ canRetire (tFlight .running) (tPour .running) = false ∧
    pourAt (tFlight .running) (PourRef.mk (0 : Fin 8).val (5 : Word32).toNat) = some (tPour .running) ∧
    (nth tUp.fgs.slots 0 {}).abortRun < max 1 tUp.fgs.abortLimit.toNat ∧
    canRetire (tFlight (.ended 0)) (tPour (.ended 0)) = true ∧ (tPour (.ended 0)).aborted = none ∧
    pourAt (tFlight (.ended 0)) (PourRef.mk (0 : Fin 8).val (5 : Word32).toNat) = some (tPour (.ended 0)) ∧
    canRetire tNetUp { tPour .waiting with aborted := some 0x0802 } = true ∧
    (let s := updSlot 0 (fun g => { g with abortRun := 4 }) tUp
     max 1 s.fgs.abortLimit.toNat ≤ (nth s.fgs.slots 0 {}).abortRun ∧ (nth s.fgs.slots 0 {}).lostRaised = false ∧
       s.asy.state = .normal ∧ 6 ≤ s.sys.step.toNat) ∧
    (nth (updSlot 0 (fun g => { g with lostRaised := true }) tUp).fgs.slots 0 {}).lostRaised = true := by decide

/-! ### Riser threads and their accesses -/

/-- Thread 0 at the base of Crucible, changed. -/
def tThr (f : Thread → Thread) : State := updThread 0 (fun th => f { th with pc := 0x20000000 }) tUp

/-- The address of an admitted access. -/
def addrOf {ε : Type} : Except ε Nat → Option Nat
  | .ok b => some b
  | .error _ => none

/-- An admitted access has an address and leaves a state. -/
theorem admitted_of {ε : Type} {x : Except ε Nat × State} {a : Nat} (h : addrOf x.1 = some a) : x = (.ok a, x.2) := by
  obtain ⟨y, s⟩ := x
  cases y with
  | error e => cases h
  | ok b => cases h; rfl

/-- A refused access has its reason and leaves a state. -/
theorem refused_of {ε : Type} {x : Except ε Nat × State} (h : addrOf x.1 = none) : ∃ d v, x = (.error d, v) := by
  obtain ⟨y, s⟩ := x
  cases y with
  | error e => exact ⟨e, s, rfl⟩
  | ok b => cases h

/-- The fetch of thread 0 at its pc. -/
def tFetching (s : State) : Except AccessFault Nat × State :=
  checkAccess 0 (threadAt s 0).keeper .execute (threadAt s 0).pc 4 false
    (noteIssue 0 (updThread 0 (fun th => { th with lastPc := th.pc }) (countSel 7 1 s)))

/-- The state that it leaves. -/
def tFetch (s : State) : State := (tFetching s).2

/-- A fetch that is admitted leaves that state. -/
theorem fetched_of {s : State} {a : Nat} (hi : mayIssue s 0 = true) (h : addrOf (tFetching s).1 = some a) : Fetched 0 s (tFetch s) := ⟨hi, a, admitted_of h⟩

/-- A fetch is admitted in keeper mode and in task mode. -/
theorem wit_fetched : Fetched 0 (tThr id) (tFetch (tThr id)) ∧
    Fetched 0 (tThr fun th => { th with keeper := false }) (tFetch (tThr fun th => { th with keeper := false })) :=
  ⟨fetched_of (a := 0x20000000) (by decide) (by decide), fetched_of (a := 0x20000000) (by decide) (by decide)⟩

/-- InstructionsIssueOrFault: one of its instructions; a thread that is held, one that may issue, a fetch from an address that is
not mapped, and threads in and outside a handler, with and without a delay slot. -/
theorem wit_issue :
    (∃ x gs off sr gd lvl len m cond, Instr.ioseal 0 ∈ [Instr.bcc 0 cond gd gs x, .bal 0 off, .jr 0 gs, .jalr 0 gs,
      .loopn 0 lvl gs len, .mode 0 m, .trap 0 len, .xret 0, .mfs 0 gd sr, .mts 0 sr gs, .sealStores 0, .ioseal 0]) ∧
    mayIssue tUp (255 : Fin 256).val = false ∧
    mayIssue (updThread 0 (fun th => { th with pc := 0x3000000000 }) tUp) 0 = true ∧
    (∃ f u, tFetching (updThread 0 (fun th => { th with pc := 0x3000000000 }) tUp) = (.error f, u)) ∧
    inHandler (threadAt (tThr id) 0) = false ∧ (threadAt (tThr id) 0).branch = none ∧
    (threadAt (tThr fun th => { th with branch := some (8, 16) }) 0).branch = some (8, 16) ∧
    mayIssue (tThr fun th => { th with branch := some (8, 16) }) 0 = true ∧
    inHandler (threadAt (tThr fun th => { th with emode := 2 }) 0) = true :=
  ⟨⟨0, 0, 0, 0, 0, 0, 0, 0, 0, by decide⟩, by decide, by decide, refused_of (by decide), by decide, by decide, by decide,
    by decide, by decide⟩

/-- Thread 0 as its fetch leaves it. -/
def tTh (f : Thread → Thread) : Thread := threadAt (tFetch (tThr f)) 0

/-- BranchesLoopsAndModes: places where a branch, a loop and a mode change are allowed, and where they are not. -/
theorem wit_branches :
    branchBarred (tTh id) = false ∧ branchCond 6 (readG tUp 0 1) (readG tUp 0 2) = some true ∧
    branchCond 1 (readG tUp 0 1) (readG tUp 0 2) = some false ∧ (readG (tFetch (tThr id)) 0 4).toNat % 4 = 0 ∧
    (30 : BitVec 5) ≠ 31 ∧
    (readG (tFetch (tThr fun th => { th with g := upd th.g 4 fun _ => 2 })) 0 4).toNat % 4 ≠ 0 ∧
    branchBarred (tTh fun th => { th with branch := some (8, 16) }) = true ∧
    branchBarred (tTh fun th => { th with shadow := 1 }) = true ∧
    loopBarred (tTh id) 0 1 (addr48 (0x20000000 + 4 * 1)) = false ∧
    loopBarred (tTh id) 1 0xFFFF (addr48 (0x20000000 + 4 * 0xFFFF)) = false ∧
    loopBarred (tTh fun th => { th with lc1 := 1 }) 0 1 (addr48 (0x20000000 + 4 * 1)) = true ∧
    misplaced (tTh id) = false ∧ misplaced (tTh fun th => { th with branch := some (8, 16) }) = true ∧
    activeEnd (tTh id) [0x20000000, addr48 (0x20000000 + 4), addr48 (0x20000000 + 8)] = false ∧
    activeEnd (tTh fun th => { th with lc0 := 1, le0 := 0x1000020000004 })
      [0x20000000, addr48 (0x20000000 + 4), addr48 (0x20000000 + 8)] = true ∧
    (tTh id).keeper = true ∧ (tTh fun th => { th with keeper := false }).keeper = false := by
  decide

/-- TrapsReturnsAndSpecialRegisters: outside a handler and in it, in both modes, and in a delay slot; the last special register and
the first number that names none. -/
theorem wit_traps :
    misplaced (tTh id) = false ∧ inHandler (tTh id) = false ∧ (tTh id).keeper = true ∧
    misplaced (tTh fun th => { th with emode := 2 }) = false ∧ inHandler (tTh fun th => { th with emode := 2 }) = true ∧
    misplaced (tTh fun th => { th with branch := some (8, 16) }) = true ∧
    (6 : BitVec 5).toNat < 7 ∧ 7 ≤ (7 : BitVec 5).toNat ∧
    misplaced (tTh fun th => { th with keeper := false }) = false := by decide

/-- A delivery of a task. -/
def tDelivery : AsyncDelivery := { code := 0x10, detail := 0, task := some (3, 1) }

/-- ThreadsMove: a fetched state's registers; a word that is no instruction; deliveries of a task and of a signal that can be
taken, one that cannot, one of this ECLK's selection, and none; a reset in progress; keeper firmware and others; a thread with nothing bound. -/
theorem wit_threads :
    (tTh id).g.length = 32 ∧ (∀ i, decodeRiser 0 0 ≠ .listed i) ∧
    (let s := updThread 9 (fun th => { th with st := .idle, async := [tDelivery] }) tUp
     (threadAt s 9).async = [tDelivery] ∧ coresRun s = true ∧ deliverable (threadAt s 9) = true ∧ deliveryStands s tDelivery = true) ∧
    (let k : Task := { slot := 3, gen := 1, deliveredAt := 5000000 }
     let s := updThread 9 (fun th => { th with st := .idle, async := [tDelivery] }) { tUp with sch := { tUp.sch with tasks := [k] } }
     (threadAt s 9).async = [tDelivery] ∧ tDelivery.task.bind (fun q => taskAt s q.1 q.2) = some k ∧ k.deliveredAt = now s ∧
       deliveryStands s tDelivery = false) ∧
    (let s := updThread 9 (fun th => { th with st := .running, async := [{ tDelivery with task := none }] }) tUp
     (threadAt s 9).async = [{ tDelivery with task := none }] ∧ coresRun s = true ∧ deliverable (threadAt s 9) = true ∧
       deliveryStands s { tDelivery with task := none } = true) ∧
    coresRun State.reset = false ∧ agentKeeper tUp .host = false ∧
    (let s := updThread 9 (fun th => { th with st := .running, shadow := 1, async := [tDelivery] }) tUp
     (threadAt s 9).async = [tDelivery] ∧ deliverable (threadAt s 9) = false) ∧
    agentKeeper tUp (.thread 0) = true ∧ tUp.rsr.threads.length = 256 ∧ tUp.rsr.rel.length = 8 ∧
    (threadAt tUp (32 * (7 : Fin 8).val + 31)).st = .held ∧
    (let s := updThread 9 (fun th => { th with st := .running }) tUp
     threadKeeper s (9 : Fin 256).val = false ∧ (threadAt s 9).st = .running) ∧
    (threadAt tUp 9).async = [] ∧ (nth tUp.sch.ports 9 {}).task = none := by
  refine ⟨by decide, ?_, by decide, by decide, by decide, by decide, by decide, by decide, by decide, by decide +kernel, by decide,
    by decide, by decide, by decide, by decide⟩
  intro i h
  have hc : decodeRiser 0 0 ≠ .listed i := by
    have : (match decodeRiser 0 0 with
      | .listed _ => true
      | _ => false) = false := by decide
    intro h'
    rw [h'] at this
    cases this
  exact hc h

/-- Two queued stores to Crucible, the first one visible or not. -/
def tStores (visible : Bool) : List QueuedStore :=
  [⟨0x20000100, 0x20000100, 8, 7, true, visible, false⟩, ⟨0x20000200, 0x20000200, 4, 9, true, false, false⟩]

/-- A reservation of thread 0 on the granule at an address. -/
def tResv (base madeAt : Nat) : Reservation := ⟨⟨none, 0⟩, base, 64, madeAt⟩

/-- A device whose link to chip 1 is trained. -/
def tPeerUp : State := tLnk (fun l => { l with links := upd l.links 0 fun k => { k with trained := true } }) tUp

/-- Thread 0 of that device at the base of Crucible, changed. -/
def tThrUp (f : Thread → Thread) : State := updThread 0 (fun th => f { th with pc := 0x20000000 }) tPeerUp

/-- LoadsStoresAndReservations: a fetched state with accesses of each kind that are admitted, to Crucible and to a peer, and one of
each kind that is denied. -/
theorem wit_accesses :
    devicePending (tThr id) 0 = false ∧ loadHeld (tThr id) 0 0x20000100 8 = false ∧ Fetched 0 (tThr id) (tFetch (tThr id)) ∧
    (∃ v, threadCheck 0 .read false 0x20000100 (2 ^ (3 : BitVec 2).toNat) false (tFetch (tThr id)) = (.ok 0x20000100, v) ∧
      placeOf v 0x20000100 = .crucible) ∧
    (∃ d v, threadCheck 0 .read false 0x20000104 (2 ^ (3 : BitVec 2).toNat) (Ecc.clean == .walkUncorrectable)
      (tFetch (tThr id)) = (.error d, v)) ∧
    (∃ v, threadCheck 0 .write false 0x237FFFFC (2 ^ (2 : BitVec 2).toNat) false (tFetch (tThr id)) = (.ok 0x237FFFFC, v)) ∧
    (∃ d v, threadCheck 0 .write false 0x237FFFFC (2 ^ (3 : BitVec 2).toNat) false (tFetch (tThr id)) = (.error d, v)) ∧
    devicePending (tThrUp id) 0 = false ∧ loadHeld (tThrUp id) 0 0x110020000000 8 = false ∧
    Fetched 0 (tThrUp id) (tFetch (tThrUp id)) ∧
    (∃ v, threadCheck 0 .read false 0x110020000000 (2 ^ (3 : BitVec 2).toNat) false (tFetch (tThrUp id)) =
      (.ok 0x110020000000, v) ∧ placeOf v 0x110020000000 = .peer 1) :=
  ⟨by decide, by decide, wit_fetched.1, ⟨_, admitted_of (by decide), by decide⟩, refused_of (by decide),
    ⟨_, admitted_of (by decide)⟩, refused_of (by decide), by decide, by decide,
    fetched_of (a := 0x20000000) (by decide) (by decide), ⟨_, admitted_of (by decide), by decide⟩⟩

/-- Thread 0 with the address of a granule, and 8, in g4. -/
def tAddr : State := tThr fun th => { th with g := upd th.g 4 fun _ => 0x20000108 }

/-- LoadsStoresAndReservations: RESLD and CONDST that are admitted, at the address below that of the base register, and denied. -/
theorem wit_reserving :
    Fetched 0 tAddr (tFetch tAddr) ∧ unseen tAddr 0 = [] ∧ devicePending tAddr 0 = false ∧
    resvAddr tAddr 0 4 (0xFFF8 : BitVec 16).toInt = 0x20000100 ∧
    (∃ v, threadCheck 0 .read true (resvAddr tAddr 0 4 (0xFFF8 : BitVec 16).toInt) 8 false (tFetch tAddr) =
      (.ok 0x20000100, v) ∧ placeOf v 0x20000100 = .crucible) ∧
    (∃ d v, threadCheck 0 .read true (resvAddr tAddr 0 4 (0xFFF9 : BitVec 16).toInt) 8 (Ecc.clean == .walkUncorrectable)
      (tFetch tAddr) = (.error d, v)) ∧
    condstHeld tAddr 0 (resvAddr tAddr 0 4 (0x7F8 : BitVec 11).toInt) = false ∧
    (∃ v, threadCheck 0 .write true (resvAddr tAddr 0 4 (0x7F8 : BitVec 11).toInt) 8 false (tFetch tAddr) =
      (.ok 0x20000100, v) ∧ placeOf v 0x20000100 = .crucible ∧ (threadAt v 0).g.length = 32) ∧
    condstHeld tAddr 0 (resvAddr tAddr 0 4 (0x7F9 : BitVec 11).toInt) = false ∧
    (∃ d v, threadCheck 0 .write true (resvAddr tAddr 0 4 (0x7F9 : BitVec 11).toInt) 8 (Ecc.clean == .walkUncorrectable)
      (tFetch tAddr) = (.error d, v)) ∧
    resvHolds { tUp with rsr := { tUp.rsr with resvs := [tResv 0x20000100 4995905] } } ⟨none, 0⟩ 0x2000013F = true ∧
    resvHolds { tUp with rsr := { tUp.rsr with resvs := [tResv 0x20000100 4995905] } } ⟨none, 0⟩ 0x20000140 = false ∧
    resvHolds { tUp with rsr := { tUp.rsr with resvs := [tResv 0x20000100 4995904] } } ⟨none, 0⟩ 0x20000100 = false :=
  ⟨fetched_of (a := 0x20000000) (by decide) (by decide), by decide, by decide, by decide,
    ⟨_, admitted_of (by decide), by decide⟩, refused_of (by decide), by decide, ⟨_, admitted_of (by decide), by decide, by decide⟩,
    by decide, refused_of (by decide), by decide, by decide, by decide⟩

/-- LoadsStoresAndReservations: queued stores, visible and not, one of them lost, at a peer and here; a load of a peer's byte that a
store of its thread covers; a load that waits, for data here and from a peer; SEAL with and without stores. -/
theorem wit_queues :
    (let s := tThr fun th => { th with stores := tStores false }
     devicePending s 0 = false ∧ unseen s 0 = tStores false ∧ unseen s 0 ≠ [] ∧
       mayRelease s 0 ⟨0x20000100, 0x20000100, 8, 7, true, false, false⟩ = true ∧
       placeOf s 0x20000100 = .crucible ∧ (threadAt (tFetch s) 0).stores ≠ []) ∧
    (let s := tThr fun th => { th with stores := tStores true }
     (threadAt s 0).stores = tStores true ∧ (threadAt s 0).waiting = .none ∧ devicePending s 0 = false) ∧
    (let q : QueuedStore := ⟨0x20000100, 0x20000100, 8, 7, true, true, true⟩
     let s := tThr fun th => { th with stores := [q] }
     devicePending s 0 = false ∧ (threadAt s 0).stores = q :: [] ∧ q.visible = true ∧ q.failed = true) ∧
    (let q : QueuedStore := ⟨0x110020000000, 0x110020000000, 8, 7, true, true, false⟩
     let s := tThrUp fun th => { th with stores := [q] }
     devicePending s 0 = false ∧ (threadAt s 0).stores = q :: [] ∧ q.visible = true ∧ q.failed = false ∧
       peerBase ≤ q.paddr ∧ WriteReply.peerRejected ≠ WriteReply.ok) ∧
    (let q : QueuedStore := ⟨0x110020000000, 0x110020000000, 8, 7, true, false, false⟩
     let s := tThrUp fun th => { th with stores := [q] }
     devicePending s 0 = false ∧ loadHeld s 0 0x110020000004 4 = true) ∧
    (threadAt (tThr fun th => { th with waiting := .load 3 5 false false 0x20000100 }) 0).waiting =
      .load 3 5 false false 0x20000100 ∧
    (threadAt (tThr fun th => { th with waiting := .load 3 0 true true 0x20000100 }) 0).waiting =
      .load 3 0 true true 0x20000100 ∧
    (tTh id).stores = [] := by decide

/-- FlagSetsHoldsAndPeerAccesses: sets of the last flag that a task may set and of the first, behind no store and behind one that
is not confirmed; a store to a device register that has not completed. -/
theorem wit_flag_sets :
    devicePending (tThr id) 0 = false ∧ Fetched 0 (tThr id) (tFetch (tThr id)) ∧ (threadAt (tFetch (tThr id)) 0).stores = [] ∧
    (∃ v, threadCheck 0 .write false (flagBase + 64 * (4031 : Fin 4096).val + 0x10) 4 false (tFetch (tThr id)) =
        (.ok (flagBase + 64 * 4031 + 0x10), v) ∧ (threadAt v 0).stores = [] ∧ 0 < v.rsr.threads.length) ∧
    (∃ v, threadCheck 0 .write false (flagBase + 64 * (0 : Fin 4096).val + 0x14) 4 false (tFetch (tThr id)) =
        (.ok (flagBase + 0x14), v) ∧ (threadAt v 0).stores = [] ∧ 0 < v.rsr.threads.length) ∧
    (let s := tThr fun th => { th with stores := tStores false }
     devicePending s 0 = false ∧ Fetched 0 s (tFetch s) ∧ (threadAt (tFetch s) 0).stores = tStores false ∧
     ∃ v, threadCheck 0 .write false (flagBase + 64 * (0 : Fin 4096).val + 0x10) 4 false (tFetch s) = (.ok (flagBase + 0x10), v) ∧
      (threadAt v 0).stores = tStores false ∧ tStores false ≠ [] ∧ 0 < v.rsr.threads.length) ∧
    devicePending (tThr fun th => { th with stores := [⟨0x08000000, 0x08000000, 4, 7, true, true, false⟩] }) 0 = true :=
  ⟨by decide, wit_fetched.1, by decide, ⟨_, admitted_of (by decide), by decide, by decide +kernel⟩,
    ⟨_, admitted_of (by decide), by decide, by decide +kernel⟩,
    ⟨by decide, fetched_of (a := 0x20000000) (by decide) (by decide), by decide,
      ⟨_, admitted_of (by decide), by decide, by decide, by decide +kernel⟩⟩, by decide⟩

/-- FlagSetsHoldsAndPeerAccesses: an address in Crucible and one outside it; a peer whose link is trained, and one whose link is
not; admitted accesses of a peer of each kind, and one that is denied. -/
theorem wit_peer_accesses :
    placeOf tUp (0x20000040 : BitVec 48).toNat = .crucible ∧ placeOf tUp (0x24000000 : BitVec 48).toNat ≠ .crucible ∧
    peerUp tPeerUp (1 : Fin 4).val = true ∧ clocksRun tPeerUp = true ∧ heldByOther tPeerUp none 0x20000040 64 = false ∧
    (∃ v, checkAccess (agentId (.peer 1 0)) (decide ((0 : Fin 5).val = 1)) .write 0x20000040 64 false tPeerUp =
        (.ok 0x20000040, v) ∧ placeOf v 0x20000040 = .crucible) ∧
    (∃ v, checkAccess (agentId (.peer 1 0)) (decide ((0 : Fin 5).val = 1)) (peerKind .read) 0x20000040 64 false tPeerUp =
        (.ok 0x20000040, v) ∧ placeOf v 0x20000040 = .crucible) ∧
    (∃ v, checkAccess (agentId (.peer 1 0)) (decide ((0 : Fin 5).val = 1)) (peerKind .execute) 0x20000040 4 false tPeerUp =
        (.ok 0x20000040, v) ∧ placeOf v 0x20000040 = .crucible) ∧
    (∃ v, 0x20000040 % 8 = 0 ∧
      checkAccess (agentId (.peer 1 0)) (decide ((0 : Fin 5).val = 1)) .read 0x20000040 8 false tPeerUp = (.ok 0x20000040, v) ∧
      placeOf v 0x20000040 = .crucible) ∧
    (∃ v, heldByOther tPeerUp (some (Owner.mk (some (1 : Fin 4).val) (0 : Fin 256).val)) 0x20000040 8 = false ∧
      checkAccess (agentId (.peer 1 0)) (decide ((0 : Fin 5).val = 1)) .write 0x20000040 8 false tPeerUp = (.ok 0x20000040, v) ∧
      placeOf v 0x20000040 = .crucible) ∧
    (∃ f v, checkAccess (agentId (.peer 1 0)) (decide ((0 : Fin 5).val = 1)) .read 0x3000000000 64 false tPeerUp = (.error f, v) ∧
      v.sys.inReset = false) ∧
    peerUp tPeerUp (2 : Fin 4).val = false ∧ peerUp tPeerUp (0 : Fin 4).val = false :=
  ⟨by decide, by decide, by decide, by decide, by decide, ⟨_, admitted_of (by decide), by decide⟩,
    ⟨_, admitted_of (by decide), by decide⟩, ⟨_, admitted_of (by decide), by decide⟩,
    ⟨_, by decide, admitted_of (by decide), by decide⟩, ⟨_, by decide, admitted_of (by decide), by decide⟩,
    (let ⟨f, v, h⟩ := refused_of (x := checkAccess (agentId (.peer 1 0)) (decide ((0 : Fin 5).val = 1)) .read 0x3000000000 64
        false tPeerUp) (by decide)
     ⟨f, v, h, by rw [← show _ = v from congrArg Prod.snd h]; decide⟩), by decide, by decide⟩

/-! ### The Task Scheduler -/

/-- The device with tasks, and the scheduler changed. -/
def tSch (f : Sch → Sch) : State := { tUp with sch := f tUp.sch }

/-- A task in slot 2,048 of generation 1. -/
def tTask (f : Task → Task) : Task := f { slot := 2048, gen := 1 }

/-- The device with that task. -/
def tTasks (f : Task → Task) : State := tSch fun c => { c with tasks := [tTask f] }

/-- A spawn descriptor that waits for no flag. -/
def tDesc : List Byte := leBytes 30 0 ++ leBytes 2 0xFFFF ++ leBytes 32 0

/-- The device with every spawned slot taken. -/
def tSlotsFull : State := tSch fun c => { c with tasks := (List.range 6144).map fun i => { slot := 2048 + i, gen := 1 } }

/-- TasksSpawnMatchAndEnd: no slot is free when all 6,144 are taken. -/
theorem wit_no_slot : freeSlot tSlotsFull = none := by
  simp only [freeSlot, tSlotsFull, tSch, List.findSome?_eq_none_iff, List.mem_range]
  intro i hi
  have h : (((List.range 6144).map fun i => ({ slot := 2048 + i, gen := 1 } : Task)).any fun t => t.slot == 2048 + i) = true :=
    List.any_eq_true.2 ⟨_, List.mem_map.2 ⟨i, List.mem_range.2 hi, rfl⟩, beq_self_eq_true _⟩
  simp only [h, if_true]

/-- The device with 256 tasks that wait for a flag, and a spawn that would be one more. -/
def tWaitsFull : State := tSch fun c => { c with
  tasks := (List.range 256).map fun i => { slot := 3000 + i, gen := 1, flagWait := some 3 }
  ports := upd c.ports 0 fun p => { p with desc := leBytes 30 0 ++ leBytes 2 3 ++ leBytes 32 1 } }

/-- TasksSpawnMatchAndEnd: the flag waits are all taken, and one is free. -/
theorem wit_flag_waits :
    freeSlot tWaitsFull = some 2048 ∧ spawnFieldsOk (nth tWaitsFull.sch.ports 0 {}).desc = true ∧
    (spawnedTask (nth tWaitsFull.sch.ports 0 {}).desc 2048 (nextGen tWaitsFull 2048) (portTask tWaitsFull 0)).flagWait.isSome = true ∧
    256 ≤ (tWaitsFull.sch.tasks.filter fun q => q.flagWait.isSome).length ∧
    ((tSch fun c => { c with tasks := tWaitsFull.sch.tasks.drop 1 }).sch.tasks.filter fun q => q.flagWait.isSome).length < 256 := by
  decide +kernel

/-- TasksSpawnMatchAndEnd: an operand for a task that no longer waits, a running task that is cancelled, and links whose task is
there, in the matching store and not. -/
theorem wit_task_forms :
    (let f : Task → Task := fun k => { k with matching := true, nOperands := 4, st := .ready }
     taskAt (tTasks f) (2048 : BitVec 13).toNat (1 : Byte).toNat = some (tTask f) ∧ (tTask f).matching = true ∧
       (3 : BitVec 2).toNat < (tTask f).nOperands ∧ (tTask f).st ≠ .waiting) ∧
    (let f : Task → Task := fun k => { k with st := .running, thread := some 9 }
     taskAt (tTasks f) 2048 1 = some (tTask f) ∧ agentKeeper (tTasks f) (.thread 0) = true ∧ (tTask f).st = .running ∧
       (tTask f).pour = none ∧ (tTask f).thread = some 9 ∧ (threadAt (tTasks f) 9).async = []) ∧
    (∀ m ∈ [true, false],
      let k := tTask fun k => { k with matching := m }
      let l : LinkWork := ⟨2048, 1, 1, 0, 7, (2049, 1), 5000000⟩
      let s := tSch fun c => { c with tasks := [k], links := [l] }
      s.sch.links = [l] ∧ s.sch.linkAt ≠ some (now s) ∧ l.dueAt ≤ now s ∧ now (tTsc 4999999 s) < l.dueAt ∧ taskAt s l.slot l.gen = some k ∧ Ecc.clean ≠ .uncorrectable) ∧
    tUp.sch.links = [] ∧ (nth tUp.sch.ports 0 {}).task = none ∧ freeSlot tUp ≠ none := by decide +kernel

/-- TasksSpawnMatchAndEnd: a descriptor in order and one that is not; a running task that ends; a waiting task whose first
and whose last operand comes; a slot without a task; a ready task; links that are next, of a source with and without another
link, and one handled in this ECLK. -/
theorem wit_tasks :
    (let s := tSch fun c => { c with ports := upd c.ports 0 fun p => { p with desc := tDesc } }
     freeSlot s = some 2048 ∧ spawnFieldsOk (nth s.sch.ports 0 {}).desc = true ∧
       (spawnedTask (nth s.sch.ports 0 {}).desc 2048 (nextGen s 2048) (portTask s 0)).flagWait = none) ∧
    spawnFieldsOk (nth (tSch fun c => { c with ports := upd c.ports 0 fun p => { p with desc := leBytes 64 1 } }).sch.ports 0
      {}).desc = false ∧
    (let k := tTask fun k => { k with st := .running, thread := some 9 }
     let s := tSch fun c => { c with tasks := [k], ports := upd c.ports 9 fun p => { p with task := some (2048, 1) } }
     (nth s.sch.ports 9 {}).task = some ((2048 : BitVec 13).toNat, (1 : Byte).toNat) ∧ taskAt s 2048 1 = some k ∧
       (2 : BitVec 2).toNat < 3 ∧ k.pour = none ∧ k.links = [] ∧ k.st = .running ∧ k.thread = some 9) ∧
    (let f : Task → Task := fun k => { k with matching := true, nOperands := 4 }
     taskAt (tTasks f) (2048 : BitVec 13).toNat (1 : Byte).toNat = some (tTask f) ∧ (tTask f).matching = true ∧
       (3 : BitVec 2).toNat < (tTask f).nOperands ∧ (tTask f).st = .waiting ∧
       (tTask f).operands.any (fun o => o.1 == 3) = false ∧ matchUsed (tTasks f) < 2048 ∧
       (tTask f).operands.length + 1 ≠ (tTask f).nOperands) ∧
    (let f : Task → Task := fun k => { k with matching := true, nOperands := 1 }
     taskAt (tTasks f) 2048 1 = some (tTask f) ∧ (tTask f).operands.length + 1 = (tTask f).nOperands ∧
       (tTask f).started = true ∧ (tTask f).poisoned = false ∧ matchUsed (tTasks f) < 2048) ∧
    taskAt tUp (0x1FFF : BitVec 13).toNat 0 = none ∧ agentKeeper tUp (.thread 0) = true ∧ agentKeeper tUp .host = false ∧
    (let f : Task → Task := fun k => { k with st := .ready }
     taskAt (tTasks f) 2048 1 = some (tTask f) ∧ agentKeeper (tTasks f) (.thread 0) = true ∧ (tTask f).st = .ready ∧
       (tTask f).pour = none ∧ (tTask f).links = [] ∧ (tTask f).thread = none) ∧
    (let l : LinkWork := ⟨5, 0, 1, 0, 7, (2048, 1), 5000000⟩
     let s := tSch fun c => { c with links := [l] }
     let r := tSch fun c => { c with links := [l, l], linkAt := some 4999999 }
     s.sch.links = [l] ∧ s.sch.linkAt ≠ some (now s) ∧ l.dueAt ≤ now s ∧ taskAt s l.slot l.gen = none ∧
       (([] : List LinkWork).any fun q => q.source == l.source) = false ∧
       r.sch.links = [l, l] ∧ r.sch.linkAt ≠ some (now r) ∧ ([l].any fun q => q.source == l.source) = true ∧
       taskAt r l.slot l.gen = none ∧ (tSch fun c => { c with links := [l], linkAt := some 5000000 }).sch.linkAt =
         some (now (tSch fun c => { c with links := [l], linkAt := some 5000000 }))) := by decide +kernel

/-- The device with thread 9 running in task mode. -/
def tRunning : State := updThread 9 (fun th => { th with st := .running }) tUp

/-- The device with an idle thread 255 and a ready task of group 3. -/
def tReady : State :=
  updThread 255 (fun th => { th with st := .idle }) (tTasks fun k => { k with st := .ready, group := 3, waitFrom := 4999999 })

/-- The device with a running task that a ready one of group 0 may pre-empt. -/
def tPreempt : State :=
  let v : Task := { slot := 2050, gen := 1, st := .running, group := 3, ctx := 1, thread := some 9 }
  let k := tTask fun k => { k with st := .ready, waitFrom := 4999999 }
  tSch fun c => { c with tasks := [k, v], ports := upd c.ports 9 fun p => { p with task := some (2050, 1) } }

/-- TasksDeliveredAndRegionsLocked: an idle thread for the chosen group's task; no idle thread, with a victim and without; a
region that is not locked and one that is; keeper firmware, the host and a running task-mode thread. -/
theorem wit_delivery :
    (let s := tReady
     let cands := (List.range 16).filter fun g => (firstTask s g).isSome && decide (groupRunning s g < groupLimit s g)
     s.sch.deliveredAt ≠ some (now s) ∧ coresRun s = true ∧ cands = [3] ∧ pickIdle s = some 255 ∧ (chooseGroup s cands).1 = some 3 ∧
       (firstTask s 3).isSome = true ∧ 255 < s.rsr.threads.length) ∧
    (let s := tPreempt
     let cands := (List.range 16).filter fun g => (firstTask s g).isSome && decide (groupRunning s g < groupLimit s g)
     s.sch.deliveredAt ≠ some (now s) ∧ coresRun s = true ∧ pickIdle s = none ∧ (pickVictim s).map Task.thread = some (some 9) ∧
       (chooseGroup s (cands.filter fun g => (groupAt s g).preempt &&
         decide (groupWeight s ((pickVictim s).getD default).group < groupWeight s g))).1 = some 0 ∧
       (firstTask s 0).isSome = true) ∧
    pickIdle (tTasks id) = none ∧ pickVictim (tTasks id) = none ∧
    (tSch fun c => { c with deliveredAt := some 5000000 }).sch.deliveredAt =
      some (now (tSch fun c => { c with deliveredAt := some 5000000 })) ∧
    coresRun State.reset = false ∧ agentKeeper tUp (.thread 0) = true ∧ agentKeeper tUp .host = false ∧
    (let s := tRunning
     threadKeeper s (9 : Fin 256).val = false ∧ (threadAt s 9).st = .running) ∧
    tUp.fwl.regions.length = 64 ∧ (nth tUp.fwl.regions (63 : Fin 64).val {}).lock = false ∧ tUp.fwl.old = none ∧
    (nth (upd tUp.fwl.regions 63 fun q => { q with lock := true }) 63 {}).lock = true := by decide +kernel

/-! ### Runner DMA -/

/-- The device with channel 31 changed. -/
def tCh (f : DmaCh → DmaCh) : State := updCh 31 f tUp

/-- The device with the Runner changed. -/
def tDma (f : Dma → Dma) (s : State) : State := { s with dma := f s.dma }

/-- RunnerCommands: a channel that is free, owned, at work, a ring, and in error; a recorded error; agents that may and may
not. -/
theorem wit_runner_commands :
    agentKeeperOrHost tUp .host = true ∧ (chAt (tCh fun c => { c with owned := true }) 31).owned = true ∧
    (chAt tUp 31).owned = false ∧ (chAt tUp 31).st = .idle ∧ tUp.dma.stopped = false ∧ (chAt tUp 31).ring = false ∧
    (chAt (tCh fun c => { c with st := .running, ring := true }) 31).st = .running ∧ DmaSt.running ≠ .idle ∧
    (chAt (tCh fun c => { c with st := .running, ring := true }) 31).ring = true ∧
    (chAt (tCh fun c => { c with st := .error }) 31).st = .error ∧ (chAt tUp 31).st ≠ .error ∧
    agentKeeper tUp (.thread 0) = true ∧ (tDma (fun d => { d with errValid := true }) tUp).dma.errValid = true ∧
    tUp.dma.errValid = false ∧ (tUp.dma.chs.any fun c => c.st == .error) = false ∧ agentKeeper tUp .host = false ∧
    agentKeeperOrHost tUp (.thread 9) = false := by decide

/-- RunnerCommands: a start while the mode changes and one while Runner has stopped; a channel whose tickets fit; an owned ring, at
work and idle; a channel that halted. -/
theorem wit_runner_more :
    changing tUp = false ∧ changing (tMode (some { tTrans .watch .run with startedAt := some 4000000 }) .run) = true ∧
    (tDma (fun d => { d with stopped := true }) tUp).dma.stopped = true ∧
    tUp.dma.chs.length = 32 ∧ (chAt tUp 31).serves = none ∧ canFit tUp (classCost (cfgClass (chAt tUp 31))) = true ∧
    (let s := tCh fun c => { c with owned := true, ring := true, st := .running }
     (chAt s 31).owned = true ∧ (chAt s 31).ring = true ∧ (chAt s 31).st ≠ .idle) ∧
    (let s := tCh fun c => { c with owned := true, ring := true }
     (chAt s 31).owned = true ∧ (chAt s 31).ring = true ∧ (chAt s 31).st = .idle) ∧
    (chAt (tCh fun c => { c with st := .halted }) 31).st = .halted ∧
    (chAt (tCh fun c => { c with st := .waitGrant }) 31).st ≠ .idle ∧ (chAt (tCh fun c => { c with st := .waitGrant }) 31).st ≠ .error ∧
    ((tCh fun c => { c with st := .error }).dma.chs.any fun c => c.st == .error) = true := by decide

/-- RunnerCommands: no channel of the device is halted. -/
theorem wit_none_halted : ∀ k, (chAt tUp k).st ≠ .halted := by
  intro k
  have h : ∀ c ∈ tUp.dma.chs, c.st ≠ .halted := by decide
  by_cases hk : k < tUp.dma.chs.length
  · simp only [chAt, nth, List.getD_eq_getElem?_getD, List.getElem?_eq_getElem hk, Option.getD_some]
    exact h _ (List.getElem_mem hk)
  · simp only [chAt, nth, List.getD_eq_getElem?_getD, List.getElem?_eq_none (Nat.le_of_not_lt hk), Option.getD_none]
    decide

/-- A descriptor of 64 bytes. -/
def tDescr : Descriptor := ⟨0x20000000, 0x20001000, 0x20002000, 64, 0, 0⟩

/-- A paused channel whose producer word reads a level. -/
def tPaused (level at_ : Nat) : State :=
  let mem := tUp.mem.write 0x20000000 (leBytes 4 level)
  updCh 31 (fun c => { c with st := .paused, pollAt := at_, hi := 5, prod := 0x20000000 }) { tUp with mem := mem }

/-- RunnerWorks: a burst of 16 beats and one of 15; a descriptor moved and one short of it; producer words at the upper
mark, below it, out of step and at no address; the first bus error and a further one, an uncorrectable word among them; a
posted write; an idle channel and one in error; a datapath without a channel. -/
theorem wit_runner_works :
    (let d : Datapath := { ch := some 31, beats := 16 }
     let s := tDma (fun x => { x with paths := [d, {}] }) (tCh fun c => { c with st := .running })
     (nth s.dma.paths (0 : Fin 2).val {}).ch = some (31 : Fin 32).val ∧ burstOver s (nth s.dma.paths 0 {}) 31 = true ∧
       s.dma.stopped = false) ∧
    (let d : Datapath := { ch := some 31, beats := 15 }
     let s := tDma (fun x => { x with paths := [d, {}] }) (tCh fun c => { c with st := .running, cur := some tDescr })
     (nth s.dma.paths (0 : Fin 2).val {}).ch = some (31 : Fin 32).val ∧ burstOver s (nth s.dma.paths 0 {}) 31 = false) ∧
    (let s := tCh fun c => { c with st := .running, cur := some tDescr, bytes := 64 }
     (chAt s 31).cur = some tDescr ∧ (chAt s 31).bytes = tDescr.len ∧ (chAt s 31).buffer = [] ∧ (chAt s 31).st = .running ∧
       s.dma.stopped = false ∧ (chAt s 31).ring = false) ∧
    (let s := tCh fun c => { c with st := .running, cur := some tDescr, bytes := 64, ring := true }
     (chAt s 31).ring = true ∧ dmaHeld (31 : Fin 32).val (tDescr.addr + 0x14) 12 s = false) ∧
    (chAt (tCh fun c => { c with cur := some tDescr, bytes := 63 }) 31).bytes < tDescr.len ∧ (chAt tUp 31).cur = none ∧
    (∀ q ∈ [(5, true), (4, false)], ∃ u, readLevel 31 (tPaused q.1 5000000) = (.ok q.1, u) ∧
      ((chAt (tPaused q.1 5000000) 31).hi.toNat ≤ q.1 ↔ q.2 = true)) ∧
    (chAt (tPaused 5 5000000) 31).st = .paused ∧ (chAt (tPaused 5 5000000) 31).pollAt ≤ now (tPaused 5 5000000) ∧
    (∃ u, readLevel 31 (tPaused (2 ^ 31) 5000000) = (.ok (2 ^ 31), u)) ∧
    now (tPaused 5 5000001) < (chAt (tPaused 5 5000001) 31).pollAt ∧
    (let s := tCh fun c => { c with st := .running }
     s.sys.inReset = false ∧ (chAt s 31).st = .running ∧ s.dma.stopped = false ∧
       (tDma (fun d => { d with stopped := true }) s).dma.stopped = true) ∧
    (∃ k u, readLevel 31 (updCh 31 (fun c => { c with prod := 0x3000000000 }) (tPaused 5 5000000)) = (.error k, u)) ∧
    (let s := tDma (fun d => { d with stopped := true }) (tCh fun c => { c with st := .running })
     s.sys.inReset = false ∧ (chAt s 31).st = .running ∧ s.dma.stopped = true ∧ BusErrorKind.firewall ≠ .uncorrectable ∧
       s.asy.state = .normal ∧ 6 ≤ s.sys.step.toNat) ∧
    (nth tUp.dma.paths 0 {}).ch = none ∧ (chAt (tCh fun c => { c with postedOpen := [7, 8] }) 31).postedOpen = 7 :: [8] ∧
    (chAt (tCh fun c => { c with st := .running }) 31).st ≠ .idle ∧ (chAt (tCh fun c => { c with st := .error }) 31).st = .error ∧
    (∀ k, onPath (tCh fun c => { c with st := .running }) k = false) ∧ (chAt tUp 31).postedOpen = [] ∧
    (chAt tUp 31).st = .idle :=
  ⟨by decide, by decide, by decide, by decide, by decide, by decide,
    fun q hq => ⟨_, admitted_of (by revert q; decide), by revert q; decide⟩, by decide, by decide,
    ⟨_, admitted_of (by decide)⟩, by decide, by decide, refused_of (by decide), by decide, by decide, by decide, by decide,
    by decide, fun _ => rfl, by decide, by decide⟩

/-! ### The Assayer and the periodic tests -/

/-- The record of a clear zone as a candidate shows it. -/
def tRecord : SepRecord := { zoneId := 21, pairId := 1, dist := clearDist, origin := 4900000, seq := 4 }

/-- A pattern with one record, of one zone, whose candidates lie at the base of Crucible. -/
def tJudge : Pattern :=
  { graphs := [⟨0, 2, 1000000, 1, 0, 1, 64, 64, 1000⟩]
    nodes := [⟨7, 0, 10, 1, 0, 0, 0, 0x50, 0xFFFF, 0⟩]
    bufs := [⟨9, 0, 0, 0x20000000, 4096, 0xFFFFFFFF, 0⟩]
    witness := [⟨21, 1, 0, 0, 8, 8, 0, 0, 0, 0, 0⟩]
    data := leBytes 0x20 0 ++ leBytes 2 9 ++ leBytes 0x2E 0 }

/-- The pour of that record. -/
def tRecordPour : Pour := { ref := ⟨0, 4⟩, pairDone := true, fixedOrigin := some 4900000 }

/-- What was announced for it. -/
def tAnnounce : Announce := ⟨⟨0, 4⟩, 1, [21], 4900000, 14400000, false, false⟩

/-- What the Witness says of it: the zone is empty. -/
def tWitness : WitnessView := ⟨⟨0, 4⟩, [⟨none, none⟩], 4900000⟩

/-- The device with the pour handed to the Assayer. -/
def tHanded : State :=
  let s := tPat (fun p => { p with active := some tJudge }) tUp
  let s := tAsy (fun a => { a with handed := [tRecordPour], announced := [tAnnounce], witness := [tWitness] }) s
  { s with mem := s.mem.write 0x20000000 tRecord.bytes }

/-- AssayerJudges: a burst that is due and one that is not; a pour without a Witness result; a pour whose candidate passes
every check. -/
theorem wit_judges :
    assayerRuns tUp = true ∧ tUp.asy.beats = 0 ∧
    (let s := tAsy (fun a => { a with beats := 1, lastBurst := 3800001 }) tUp
     s.asy.beats ≠ 0 ∧ s.clock.watch < s.asy.lastBurst + Config.oneMs) ∧
    (let g : GraphRec := ⟨0, 2, 1000000, 1, 0, 1, 64, 64, 1000⟩
     let s := tAsy (fun a => { a with witness := [] }) tHanded
     assayerRuns s = true ∧ anyPour s (PourRef.mk (0 : Fin 8).val (4 : Word32).toNat) = some tRecordPour ∧
       graphOf (patternOf s tRecordPour) 0 = some g ∧ g.pairId ≠ 0xFF ∧ (g.triggerKind = 0 → tRecordPour.pairDone = true) ∧
       (s.asy.witness.any fun v => v.ref == PourRef.mk 0 4) = false ∧ s.ret.s2Held = false ∧ s2Now s = false ∧
       Ecc.clean ≠ .uncorrectable) ∧
    (let s := tHanded
     (s.asy.handed.find? fun x => x.ref == PourRef.mk (0 : Fin 8).val (4 : Word32).toNat) = some tRecordPour ∧
       (s.asy.announced.find? fun x => x.ref == PourRef.mk 0 4) = some tAnnounce ∧
       (s.asy.witness.find? fun x => x.ref == PourRef.mk 0 4) = some tWitness ∧ tAnnounce.settled = false ∧
       (zonesOf (patternOf s tRecordPour) tAnnounce.pair).length = 1 ∧
       (judgeAll s (patternOf s tRecordPour) tRecordPour.ref tAnnounce.pair (originOf (patternOf s tRecordPour) tRecordPour)
         (zonesOf (patternOf s tRecordPour) tAnnounce.pair) tWitness).1 = none) := by decide +kernel

/-- A batch of one record that waits since an ECLK. -/
def tBatch (since : Nat) : Batch := ⟨⟨0, 4⟩, 1, 3000000, since, 2000000, [tRecord], [], [], [], false⟩

/-- The device with that batch, and so many entries on both channels. -/
def tQueued (since n : Nat) : State :=
  let s := tAsy (fun a => { a with batches := [tBatch since] }) tUp
  { s with sfp := { s.sfp with chA := { s.sfp.chA with queue := List.replicate n tRecord },
                               chB := { s.sfp.chB with queue := List.replicate n tRecord } } }

/-- BatchesReleased: the last room and none; an origin at its ceiling and beyond it; S1, and WATCH; a wait of 1 ms and one ECLK
less; the tick of a millisecond, with nothing missing and with one announcement whose age has passed. -/
theorem wit_batches :
    releasesRecords (tQueued 3800000 767) = true ∧ releaseCounts (tQueued 3800000 767) = true ∧ (tQueued 3800000 767).asy.batches = [tBatch 3800000] ∧
    (tQueued 3800000 767).asy.state = .normal ∧ roomFor (tQueued 3800000 767) (tBatch 3800000).records.length = true ∧
    now (tQueued 3800000 767) ≤ (tBatch 3800000).origin + (tBatch 3800000).ceiling ∧
    (tBatch 3800000).origin + (tBatch 3800000).ceiling < now (tTsc 5000001 (tQueued 3800000 767)) ∧
    roomFor (tQueued 3800000 768) (tBatch 3800000).records.length = false ∧ tUp.asy.batches = [] ∧
    (let s := tAsy (fun a => { a with state := .s1 }) (tQueued 3800000 767)
     releasesRecords s = true ∧ s.asy.batches = [tBatch 3800000] ∧ s.asy.state = .s1 ∧ roomFor s 1 = true) ∧
    releasesRecords (tPwr (fun p => { p with cur := .watch }) tUp) = false ∧
    releaseCounts (tMode (some { tTrans .watch .run with startedAt := some 4000000 }) .run) = false ∧
    6 ≤ (tQueued 3800000 768).sys.step.toNat ∧ (tQueued 3800000 768).asy.state = .normal ∧
    ((tQueued 3800000 768).asy.batches.find? fun b => !b.stalled && !roomFor (tQueued 3800000 768) b.records.length &&
        decide (b.waitSince + Config.oneMs ≤ now (tQueued 3800000 768))) = some (tBatch 3800000) ∧
    ((tQueued 3800001 768).asy.batches.find? fun b => !b.stalled && !roomFor (tQueued 3800001 768) b.records.length &&
        decide (b.waitSince + Config.oneMs ≤ now (tQueued 3800001 768))) = none ∧
    assayerRuns tUp = true ∧ assayerRuns State.reset = false ∧ now (tTsc 6000000 tUp) % Config.oneMs = 0 ∧ now tUp % Config.oneMs ≠ 0 ∧
    (let s := tTsc 6000000 tUp
     (s.asy.announced.filter fun a => !a.settled && !a.zoneIds.isEmpty && decide (a.origin + a.ceiling ≤ now s)) = []) ∧
    (let a : Announce := { tAnnounce with ceiling := 1100000 }
     let s := tTsc 6000000 (tAsy (fun x => { x with announced := [a] }) tUp)
     assayerRuns s = true ∧
       (s.asy.announced.filter fun a => !a.settled && !a.zoneIds.isEmpty && decide (a.origin + a.ceiling ≤ now s)) = [a]) := by
  decide +kernel

/-- The device with S2 entries at watch times. -/
def tEntries (ts : List Nat) : State := { tUp with ret := { tUp.ret with s2Times := ts } }

/-- R36: entries younger than 60 minutes less the tolerance count. -/
theorem counting_young {s : State} (h : ∀ t ∈ s.ret.s2Times, s.clock.watch < t + (Config.sixtyMinutes - Config.sixtyMinutes / 100)) :
    s2Counting s = s.ret.s2Times :=
  List.filter_eq_self.2 fun t ht =>
    decide_eq_true (Nat.lt_of_lt_of_le (h t ht) (Nat.add_le_add_left (watchSpan_ge _ t) t))

/-- R36: entries older than 60 minutes and the tolerance do not. -/
theorem counting_old {s : State}
    (h : ∀ t ∈ s.ret.s2Times, t + (Config.sixtyMinutes + Config.sixtyMinutes / 100 + 6) ≤ s.clock.watch) :
    s2Counting s = [] :=
  List.filter_eq_nil_iff.2 fun t ht => by simpa using watchSpan_passed (h t ht)

/-- SafeStatesEndAndCount: an exit that is ready, in RUN, and one that is not, in normal operation and in a transition; two entries
that count and one, and two that no longer do; a device that is held, with its event logged and not. -/
theorem wit_safe_states :
    (let s := tAsy (fun a => { a with state := .s1, exitReady := true }) tUp
     s.asy.state = .s1 ∧ s.asy.exitReady = true ∧ releaseCounts s = true) ∧
    tUp.asy.exitReady = false ∧ tUp.asy.state ≠ .s1 ∧
    releaseCounts (tMode (some { tTrans .watch .run with startedAt := some 4000000 }) .run) = false ∧
    (tEntries [1, 2]).ret.s2Held = false ∧ s2Now (tEntries [1, 2]) = false ∧ 2 ≤ (s2Counting (tEntries [1, 2])).length ∧
    (s2Counting (tEntries [1])).length < 2 ∧
    (s2Counting (tWatch (8 + Config.sixtyMinutes + Config.sixtyMinutes / 100) (tEntries [1, 2]))).length < 2 ∧
    (∀ logged, let s : State := { tUp with ret := { tUp.ret with s2Held := true, s2Logged := logged } }
      s.ret.s2Held = true ∧ s.ret.s2Logged = logged) := by
  rw [counting_young (s := tEntries [1, 2]) (by decide), counting_young (s := tEntries [1]) (by decide),
    counting_old (by decide)]
  decide

/-- The device with the rotation begun at ECLK 0 and the pyramid class changed. -/
def tClass (f : ClassTest → ClassTest) : State :=
  let s := tVen (tVenCmd 4999489)
  { s with tst := { s.tst with rotationAt := some 0, classes := upd s.tst.classes 0 f } }

/-- UnitsTestedInRotation: a class that may begin a test; a test at its end and one ECLK before; a target that holds its
command at the forcing point and before; a unit without a pass for 8 ms and one ECLK less; a token at its deadline and
before; a failed unit; keeper firmware and others. -/
theorem wit_units :
    (let s := tClass id
     (classAt s (classIndex .pyramid)).unit = some (2 : Fin 35).val ∧ s.tst.failed.contains 2 = false ∧ rotating s = true ∧
       classEnabled s 0 = true ∧ (classAt s 0).running = false ∧ (classAt s 0).target = none ∧ paced s 0 = true ∧
       classIndex .pyramid < s.tst.classes.length ∧ s.tst.inject = []) ∧
    rotating tUp = false ∧ (classAt tUp 0).running = false ∧ (classAt tUp 0).target = none ∧ commandOf tUp 34 = none ∧
    (let s := tClass fun c => { c with running := true, testAt := some 4856000 }
     (classAt s 0).running = true ∧ (classAt s 0).testAt = some 4856000 ∧ 4856000 + testLength 0 ≤ now s ∧
       now (tTsc 4999999 s) < 4856000 + testLength 0) ∧
    (let s := tClass fun c => { c with target := some (0, 7), testAt := some 1856000 }
     (classAt s 0).target = some (0, 7) ∧ logicalOf s 0 = some 0 ∧
       (nth s.ven.insts 0 {}).cmd = some (tVenCmd 4999489) ∧ (tVenCmd 4999489).stop = none ∧ TestClass.pyramid ≠ .neural ∧
       forcePoint s 0 ≤ now s ∧ now (tTsc 4999999 s) < forcePoint s 0) ∧
    (let s := tTsc 9600000 (tClass id)
     unitEnabled s (34 : Fin 35).val = true ∧ s.tst.failed.contains 34 = false ∧ s.tst.stale.contains 34 = false ∧
       rotating s = true ∧ staleFrom s 34 + rotationSpan ≤ now s ∧ s.asy.state = .normal ∧ 6 ≤ s.sys.step.toNat ∧ commandPour s 34 = none ∧
       now (tTsc 9599999 s) < staleFrom s 34 + rotationSpan) ∧
    (let s := tTsc 9600000 (tClass id)
     unitEnabled s (0 : Fin 35).val = true ∧ s.tst.failed.contains 0 = false ∧ s.tst.stale.contains 0 = false ∧
       staleFrom s 0 + rotationSpan ≤ now s ∧ commandPour s 0 = some ⟨0, 5⟩) ∧
    (let s := tTsc 5000256 (tClass id)
     commandOf s (0 : Fin 35).val = some (⟨0, 5⟩, 2) ∧ pourAt s ⟨0, 5⟩ = some (tPour .running) ∧
       absDeadline (active s) (tPour .running) 2 + 256 ≤ now s ∧
       now (tTsc 5000255 s) < absDeadline (active s) (tPour .running) 2 + 256) ∧
    tUp.tst.failed.contains (0 : Fin 35).val = false ∧ tUp.sys.inReset = false ∧
    ({ tUp with tst := { tUp.tst with failed := [3] } } : State).tst.failed.contains (3 : Fin 35).val = true ∧
    agentKeeper tUp (.thread 0) = true ∧ agentKeeper tUp .host = false := by decide

/-- UnitsTestedInRotation: a test passes with the class's golden signature, the right status and the right cycles. -/
theorem wit_test_passes (cls : TestClass) : testPassed cls ⟨Config.goldenSignature cls, true, true⟩ false = true := by
  simp [testPassed]

/-! ### The flask, trace and the ports -/

/-- Chip 1 of a flask, its link 0 to chip 0 changed. -/
def tChip1 (f : Link → Link) : State :=
  tSys (fun y => { y with flaskId := 1 }) (tLnk (fun l => { l with aligned := true, links := upd l.links 0 f }) tUp)

/-- What a training attempt finds. -/
def tTrain (lanes : BitVec 8) (peer : BitVec 2) : TrainInputs := ⟨lanes, peer, 0, false, none⟩

/-- LinksTrainAndReport: a link that may train, with each outcome, and one that may not; retries at their times; residuals on
both sides of 19 WCLK; chips with a trained link and without. -/
theorem wit_links :
    (let s := tChip1 id
     mayTrain s (0 : Fin 3).val = true ∧ cabled s 0 = true ∧ 0 < s.lnk.links.length ∧
       (linkAt s 0).trainFrom + 1440000 ≤ now s ∧
       (tTrain 0x0F 0).lanes.toNat % 16 = 15 ∧ (tTrain 0x0F 0).peerIndex.toNat = farChip s 0 ∧ s.lnk.aligned = true ∧
       (tTrain 0xF7 0).lanes.toNat % 16 ≠ 15 ∧ (tTrain 0x0F 2).peerIndex.toNat ≠ farChip s 0 ∧ trainedLinks s = []) ∧
    (let s := tChip1 fun k => { k with trained := true, peer := 0 }
     mayTrain s 0 = false ∧ everyMs s.lnk.residAt s = true ∧ everyMs s.lnk.statusAt s = true ∧ trainedLinks s = [(0 : Fin 3).val] ∧ s.lnk.aligned = true ∧ referenceChip s ≠ chipIndex s ∧
       (608 : Int).natAbs ≤ 608 ∧ 608 < (-609 : Int).natAbs ∧ holdsFlaskGraph s = false ∧
       (0 : Fin 4).val ≠ chipIndex s ∧ (linkAt s (linkTo (chipIndex s) (0 : Fin 4).val)).trained = true ∧
       (linkAt s 0).trained = true ∧ (linkAt s (2 : Fin 3).val).trained = false) ∧
    (let k : Link := { waiting := true, attempts := 4 }
     (linkAt (tChip1 fun _ => k) 0).waiting = true ∧ 4 ≤ (linkAt (tChip1 fun _ => k) 0).attempts ∧
       (linkAt (tChip1 fun _ => k) 0).slowRetry = false) ∧
    (let k : Link := { waiting := true, attempts := 3, failedAt := 3800000 }
     let s := tChip1 fun _ => k
     (linkAt s 0).attempts < 4 ∧ (linkAt s 0).slowRetry = false ∧ (linkAt s 0).failedAt + 1200000 ≤ now s) ∧
    (let k : Link := { waiting := true, attempts := 15, slowRetry := true, failedAt := 0 }
     let s := tTsc 120000000 (tChip1 fun _ => k)
     (linkAt s 0).slowRetry = true ∧ (linkAt s 0).failedAt + 120000000 ≤ now s) := by decide

/-- LinksTrainAndReport: links whose retry is not due, that do not wait, or whose attempt runs; a residual and a status within
the last ms; a residual where a flask graph is held, and chips that
measure none; a peer that is this chip, and one that no trained link reaches. -/
theorem wit_links_wait :
    (let s := tChip1 fun _ => { waiting := true, attempts := 3, failedAt := 3800001 }
     (linkAt s 0).attempts < 4 ∧ (linkAt s 0).slowRetry = false ∧ now s < (linkAt s 0).failedAt + 1200000) ∧
    (let s := tTsc 119999999 (tChip1 fun _ => { waiting := true, attempts := 15, slowRetry := true })
     (linkAt s 0).slowRetry = true ∧ now s < (linkAt s 0).failedAt + 120000000) ∧
    (let s := tChip1 fun k => { k with trainFrom := 3560001 }
     now s < (linkAt s 0).trainFrom + 1440000) ∧
    (let s := tLnk (fun l => { l with residAt := some 3800001, statusAt := some 3800001 }) tUp
     everyMs s.lnk.residAt s = false ∧ everyMs s.lnk.statusAt s = false) ∧
    (linkAt tUp 0).waiting = false ∧ mayTrain (tChip1 fun k => { k with trained := true, peer := 0 }) 0 = false ∧
    (let s := tPat (fun p => { p with active := some (tNet 1) }) (tChip1 fun k => { k with trained := true })
     s.lnk.aligned = true ∧ referenceChip s ≠ chipIndex s ∧ 608 < (609 : Int).natAbs ∧ holdsFlaskGraph s = true ∧
       s.asy.state = .normal ∧ 6 ≤ s.sys.step.toNat) ∧
    tUp.lnk.aligned = false ∧ (1 : Fin 4).val = chipIndex (tChip1 id) ∧
    (linkAt (tChip1 id) (linkTo (chipIndex (tChip1 id)) (0 : Fin 4).val)).trained = false := by decide

/-- A pattern whose record needs a buffer on chip 0. -/
def tRemote : Pattern :=
  { tJudge with
    hdr := { (default : Header) with flaskSize := 0 }
    edges := [⟨2, 7, 9, 10, 0⟩]
    bufs := [⟨9, 2, 0, 0x20000000, 4096, 0xFFFFFFFF, 0⟩] }

/-- Chip 1 with its link to chip 0 trained, a pattern active and one pour in flight. -/
def tFlaskUp (p : Pattern) : State :=
  tFgs (fun f => { f with pours := [tPour .running] }) (tPat (fun x => { x with active := some p }) (tChip1 fun k =>
    { k with trained := true, lanes := 0xFF, grantHere := true }))

/-- A line for the split node of the net. -/
def tLine0 (chip : Fin 4) : ExchangeLine := ⟨0, 5, chip, 0, List.replicate 64 1, true, 1⟩

/-- FlaskEventsActOnPours: links that a record needs and does not need; lane groups of every kind; sets of flags known and
unknown, the last one and one beyond; a pour of a flask graph; a unit that served none; lines of a split node from a chip
that is reached and one that is not. -/
theorem wit_flask :
    (let s := tFlaskUp { tNet 0 with hdr := default }
     (linkAt s 0).trained = true ∧ (active s).hdr.flaskSize ≤ farChip s 0 ∧ recordUses (active s) (farChip s 0) = false ∧
       16 ≤ (linkAt s 0).lanes.toNat ∧ (linkAt s 0).grantHere = true ∧ (linkAt s 0).lanes.toNat / 16 = 15) ∧
    (let s := tFlaskUp tRemote
     (linkAt s 0).trained = true ∧ (active s).hdr.flaskSize ≤ farChip s 0 ∧ recordUses (active s) (farChip s 0) = true) ∧
    (let s := tFlaskUp (tNet 1)
     fromPeer s (0 : Fin 4).val = true ∧ flagOf (active s) 13 = none ∧ flagOf (active s) 11 = some ⟨11, 0xFFFF, 3, 1⟩ ∧
       persistent (active s) 11 = true ∧ flagValue (putFlag 11 0 2 s) 11 0 + 1 ≤ 3 ∧ 3 < flagValue (putFlag 11 0 3 s) 11 0 + 1 ∧
       pourOfOwner s (PourRef.mk (0 : Fin 8).val (5 : Word32).toNat) = some (tPour .running) ∧
       (tPour .running).aborted = none ∧
       (s.fgs.pours.any fun q => q.remoteUnits.contains (0, (34 : Fin 35).val)) = false ∧
       (s.asy.handed.any fun q => q.remoteUnits.contains (0, 34)) = false ∧
       (s.asy.batches.any fun b => b.remoteUnits.contains (0, 34)) = false ∧
       (splitNodes (active s))[(tLine0 0).q.val]?.bind (nodeOf (active s).nodes) = some tNeuralNode ∧
       s.fgs.pours = [tPour .running] ∧ (tPour .running).ref.slot = tNeuralNode.slot ∧
       ownerSeq s (tPour .running).ref = (tLine0 0).seq.toNat ∧ fromPeer s (tLine0 3).chip.val = false) := by decide

/-- FlaskEventsActOnPours: a link to a chip of the flask; links without a second lane group, and without its grant; a flag of one pour
set from outside, its last set and one beyond, and of no pour; a flag that a node here produces; a pour that is none of the
flask's. -/
theorem wit_flask_more :
    (let s := tFlaskUp (tNet 1)
     (linkAt s 0).trained = true ∧ farChip s 0 < (active s).hdr.flaskSize ∧ fromPeer s 0 = true ∧
       flagOf (active s) 10 = some ⟨10, 2, 3, 0⟩ ∧ 2 ≠ 0xFFFF ∧
       flagOf (active s) 12 = some ⟨12, 0xFFFF, 3, 0⟩ ∧ persistent (active s) 12 = false ∧
       (flagValue (putFlag 12 5 2 s) 12 (tPour .running).ref.seq + 1 ≤ 3) ∧
       3 < flagValue (putFlag 12 5 3 s) 12 (tPour .running).ref.seq + 1 ∧
       pourOfOwner s (PourRef.mk 0 6) = none) ∧
    (linkAt tUp 0).trained = false ∧ (linkAt tUp 0).lanes.toNat < 16 ∧ (linkAt tUp 0).grantHere = false ∧
    (linkAt tUp 0).lanes.toNat / 16 ≠ 15 ∧ fromPeer tUp 0 = false ∧ tUp.pat.pending = none ∧ tUp.lnk.announcedAt = none := by
  decide

/-- A pattern of a flask of two chips. -/
def tFlaskPattern : Pattern := { hdr := { (default : Header) with flaskSize := 2, flaskTag := 77 } }

/-- The device with that pattern pending and released, every tag reported. -/
def tAgreed : State :=
  tPat (fun x => { x with pending := some tFlaskPattern, active := some tDrawn, committed := true }) (tLnk (fun l =>
    { l with peerTags := [some 77, some 77, some 77, some 77] }) tUp)

/-- FlaskEventsActOnPours: a pattern of a flask that waits, released and held, with every tag reported; its announcement at
2.0 µs and one ECLK before. -/
theorem wit_flask_swap :
    tAgreed.pat.pending = some tFlaskPattern ∧ 2 ≤ tFlaskPattern.hdr.flaskSize ∧ tAgreed.pat.swapAt = none ∧
    tAgreed.lnk.announcedAt = none ∧ tAgreed.pat.committed = true ∧ tAgreed.pat.active.isSome = true ∧
    (∀ c ∈ peersOf tFlaskPattern tAgreed,
      nth tAgreed.lnk.peerTags c none = some (BitVec.ofNat 32 tFlaskPattern.hdr.flaskTag)) ∧
    (tPat (fun x => { x with committed := false }) tAgreed).pat.committed = false ∧
    (let r := tLnk (fun l => { l with announcedAt := some 4997600 }) tAgreed
     r.lnk.announcedAt = some 4997600 ∧ 4997600 + 2400 ≤ now r ∧ now (tTsc 4999999 r) < 4997600 + 2400) := by decide

/-- A trace record. -/
def tTrace : TraceRec := ⟨1, 0x104, 0, 2, 5, []⟩

/-- The device with Tap enabled, a ring of 4 KiB at the base of Crucible and so many records waiting since an ECLK. -/
def tTap (n at_ wr : Nat) : State := { tUp with tap := { tUp.tap with
  en := true, base := 0x20000000, log2 := 12, wr := BitVec.ofNat 26 wr, fifo := List.replicate n (tTrace, at_) } }

/-- TraceAndCounters: a ring with room, one that is full, one where the firewall denies Tap and one written in this ECLK; a record that has waited 64 ECLK and one that has waited less; a
ring that fits and none; a wrapped counter; a latched counter and one that is not; agents that may read and may not. -/
theorem wit_trace :
    (let s := tTap 3 5 124
     s.tap.fifo = (tTrace, 5) :: (tTrace, 5) :: [(tTrace, 5)] ∧ lineMayGo s = true ∧
       unitDenied s tapId .write (linePlace s) 64 = false ∧ placeOf s (s.tap.base.toNat + 32 * s.tap.wr.toNat) = .crucible) ∧
    (let s : State := { tTap 3 5 124 with tap := { (tTap 3 5 124).tap with base := 0x80001000 } }
     lineMayGo s = true ∧ unitDenied s tapId .write (linePlace s) 64 = true) ∧
    ringRoom (tTap 2 5 126) = false ∧ lineMayGo (tTap 2 5 126) = false ∧
    (let s : State := { tTap 3 5 124 with tap := { (tTap 3 5 124).tap with lineAt := some 5000000 } }
     s.tap.lineAt = some (now s) ∧ s.tap.lineAt.isSome = true) ∧
    (let s := tTap 1 4999936 0
     s.tap.fifo = [(tTrace, 4999936)] ∧ lineMayGo s = true ∧ 4999936 + 64 ≤ now s ∧ now (tTsc 4999999 s) < 4999936 + 64) ∧
    tUp.tap.lineAt = none ∧ bitAt (0 : Word32).toNat 0 = false ∧ bitAt (1 : Word32).toNat 0 = true ∧
    ringOk (tTap 0 0 0) = true ∧ ringOk { tTap 0 0 0 with tap := { (tTap 0 0 0).tap with log2 := 11 } } = false ∧
    (let s : State := { tUp with tap := { tUp.tap with glbs := upd tUp.tap.glbs 15 fun g => { g with wrapped := true } } }
     15 < s.tap.glbs.length ∧ (nth s.tap.glbs (15 : Fin 16).val {}).wrapped = true ∧ (nth s.tap.glbs 15 {}).irqEn = false) ∧
    mayReadCounter tUp .host (.global 15) = true ∧ mayReadCounter tUp (.peer 1 2) (.global 15) = false ∧
    (let s := tRunning
     mayReadCounter s (.thread 9) (.global 15) = false ∧ (threadAt s (9 : Fin 256).val).st = .running) ∧
    (counterValue tUp .time).1 = 5000000 ∧
    (let e : Latch := ⟨BitVec.ofNat 10 (agentId .host), .time, 7⟩
     let s : State := { tUp with tap := { tUp.tap with latches := [e] } }
     (s.tap.latches.find? fun e => e.id == BitVec.ofNat 10 (agentId .host) && e.ctr == .time).isSome = true) ∧
    (tUp.tap.latches.find? fun e => e.id == BitVec.ofNat 10 (agentId .host) && e.ctr == .time).isNone = true := by decide

/-- TraceAndCounters: Tap enabled and not, with and without a write of TAP_CTRL in this ECLK; a write that waits for the end of its
PCLK and none; a FIFO that does not hold one record; a counter that has not wrapped and whose selector is not open. -/
theorem wit_trace_more :
    (tapCtl (tTap 0 0 0)).1 = true ∧ ctlWritten (tTap 0 0 0) = false ∧ (tapCtl tUp).1 = false ∧
    (let s : State := { tTap 0 0 0 with tap := { (tTap 0 0 0).tap with oldCtl := some (5000000, true, 0) } }
     (tapCtl s).1 = true ∧ ctlWritten s = true) ∧
    (tTap 0 0 0).tap.fifo.length < 2 ∧ (tTap 0 0 0).tap.fifo.length ≠ 1 ∧
    tUp.held.filter (fun w => w.off == tapUnit) = [] ∧
    ({ tUp with held := [⟨tapUnit, 1, 1, false⟩] } : State).held.filter (fun w => w.off == tapUnit) ≠ [] ∧
    (nth tUp.tap.glbs (15 : Fin 16).val {}).wrapped = false ∧ selOpen (selNow tUp (nth tUp.tap.glbs 15 {})) = false := by decide

/-- A host whose link is up, BAR2 at the base of Crucible. -/
def tHost : State := tHif (fun h => { h with linkUp := true, bar2Base := 0x20000000 }) tUp

/-- A vector changed. -/
def tVector (f : MsixVec → MsixVec) : State := tHif (fun h => { h with vectors := upd h.vectors 63 f }) tUp

/-- HostReachesTheDevice: accesses of each shape, the last one of a BAR; the link down; an event to pop; vectors of every
kind; a register that may be written, one that may not by a task and one that may not by the host. -/
theorem wit_host :
    (tHost.hif.linkUp = true ∧ hifPowered tHost = true ∧ 0x0FFFFFFF + hostLen (.read 1) ≤ barSize .bar2 ∧
      hostShapeOk .bar0 2 4 = false ∧ hostShapeOk .bar2 0x3F 1 = true ∧
      (∃ u, checkAccess 0x1A0 false .read (barAddr tHost .bar2 0x3F) 1 false tHost = (.ok 0x2000003F, u) ∧
        placeOf u 0x2000003F = .crucible) ∧
      (∃ u, checkAccess 0x1A0 false .write (barAddr tHost .bar2 0x40) 64 false tHost = (.ok 0x20000040, u) ∧
        heldByOther u none 0x20000040 64 = false ∧ placeOf u 0x20000040 = .crucible)) ∧
    tUp.hif.linkUp = false ∧ hifPowered tUp = true ∧ tUp.hif.copyEn = false ∧
    (∀ run, let s : State := { tHif (fun h => { h with fifo := [0x0104, 0x1201], dropRun := run }) tUp with
        rcOld := List.replicate 14 0 ++ [2] }
     agentKeeperOrHost s .host = true ∧ s.hif.fifo = 0x0104 :: [0x1201] ∧ nth s.rcOld rcPopAt 0 = 1 + 1 ∧ s.hif.dropRun = run) ∧
    (nth tUp.hif.vectors (63 : Fin 64).val {}).masked = true ∧ (nth tUp.hif.vectors 63 {}).pba = false ∧
    63 < tUp.hif.vectors.length ∧
    (let s := tVector fun e => { e with pba := true }
     (nth s.hif.vectors 63 {}).masked = true ∧ (nth s.hif.vectors 63 {}).pba = true ∧
       (nth s.hif.vectors 63 {}).lastSent = none) ∧
    (let s := tVector fun e => { e with masked := false, waiting := true, lastSent := some 4998800 }
     (nth s.hif.vectors 63 {}).waiting = true ∧ (nth s.hif.vectors 63 {}).masked = false ∧
       (nth s.hif.vectors 63 {}).lastSent.getD 0 + 1200 ≤ s.clock.watch) ∧
    (nth tUp.hif.vectors 63 {}).waiting = false ∧
    (clocksRun tUp = true ∧ within (BitVec.ofNat 48 (regBase + 0x20000)).toNat regBase regSize = true ∧
      (BitVec.ofNat 48 (regBase + 0x20000)).toNat % 2 ^ (2 : BitVec 2).toNat = 0 ∧
      regBar (accOf tUp .host) true 0x20000 = none ∧ regBar (accOf tUp .host) true 0xB0000 = some .refused ∧
      regBar (accOf tUp (.thread 9)) true 0xB0000 = some .priv) :=
  ⟨⟨by decide, by decide, by decide, by decide, by decide, ⟨_, admitted_of (by decide), by decide⟩,
    ⟨_, admitted_of (by decide), by decide, by decide⟩⟩, by decide, by decide, by decide, by decide, by decide, by decide, by decide +kernel,
    by decide, by decide, by decide, by decide⟩

/-- HostReachesTheDevice: an access that is denied; accesses and resets that reach nothing; a FIFO without an event, and one whose
event came in this ECLK; agents that may not pop; vectors that are not masked or do not wait, and a wait that is not over;
writes that reach no register. -/
theorem wit_host_more :
    (∃ f u, checkAccess 0x1A0 false .read (barAddr (tHif (fun h => { h with bar2Base := 0x3000000000 }) tHost) .bar2 0) 1 false
      (tHif (fun h => { h with bar2Base := 0x3000000000 }) tHost) = (.error f, u)) ∧
    (hostShapeOk .bar2 0 1 = true ∧ hifPowered (tRails (fun r => { r with asy := false }) tUp) = false ∧
      barSize .bar2 < 0x10000000 + hostLen (.read 1) ∧ tUp.hif.fifo = [] ∧
      nth (tHif (fun h => { h with fifo := [0x0104] }) tUp).rcOld rcPopAt 0 = 0 ∧
      agentKeeperOrHost tUp (.thread 9) = false ∧
      (nth (tVector fun e => { e with masked := false }).hif.vectors (63 : Fin 64).val {}).masked = false ∧
      (nth (tVector fun e => { e with waiting := true }).hif.vectors 63 {}).masked = true ∧
      (let s := tVector fun e => { e with masked := false, waiting := true, lastSent := some 4998801 }
       (nth s.hif.vectors 63 {}).waiting = true ∧ (nth s.hif.vectors 63 {}).masked = false ∧
         s.clock.watch < (nth s.hif.vectors 63 {}).lastSent.getD 0 + 1200) ∧
      tHost.hif.linkUp = true ∧ clocksRun State.reset = false ∧
      within (BitVec.ofNat 48 (regBase + regSize)).toNat regBase regSize = false ∧
      (BitVec.ofNat 48 (regBase + 2)).toNat % 2 ^ (2 : BitVec 2).toNat ≠ 0) :=
  ⟨refused_of (by decide), by decide⟩

/-- A message of no record that a channel shows in a state of the safety machine. -/
def tMessage (safe : BitVec 2) : Message := ⟨{ channel := .b, safe := safe }, [], List.replicate 128 0⟩

/-- The device with channel B selected and a message on it. -/
def tSelected (safe : BitVec 2) : State := updChan tUp .b fun c => { c with selected := true, cur := some (tMessage safe) }

/-- SafetyMessagesTransferred: a channel that answers, selected and not, past step 6 and before it; a whole transfer, one of a
frozen message and one a byte short; 2 ms without a consumed message and one ECLK less; a channel that has been late. -/
theorem wit_safety_port :
    channelsAnswer tUp = true ∧ (chanOf tUp .b).selected = false ∧ 6 ≤ tUp.sys.step.toNat ∧
    (tSys (fun y => { y with step := 5 }) tUp).sys.step.toNat < 6 ∧
    channelsAnswer (tSys (fun y => { y with step := 5 }) tUp) = true ∧
    (chanOf (tSelected 0) .b).selected = true ∧ (chanOf (tSelected 0) .b).cur = some (tMessage 0) ∧
    (tMessage 0).bytes.length ≤ 128 ∧ (tMessage 0).hdr.safe ≠ 2 ∧ (tMessage 0).hdr.seq = (chanOf (tSelected 0) .b).msgSeq ∧
    (chanOf (tSelected 2) .b).cur = some (tMessage 2) ∧ (tMessage 2).hdr.safe = 2 ∧ 127 < (tMessage 0).bytes.length ∧
    (chanOf tUp .b).lateRaised = false ∧ (chanOf tUp .b).lastConsumed + 2400000 ≤ now (tTsc 2400000 tUp) ∧
    now (tTsc 2399999 tUp) < (chanOf tUp .b).lastConsumed + 2400000 ∧
    (chanOf (updChan tUp .b fun c => { c with lateRaised := true }) .b).lateRaised = true ∧ Channel.a ≠ .b := by decide +kernel

/-- SafetyMessagesTransferred: a message that is due and one that is not, before the Assayer firmware has started and in HOLD; a
transfer without a message; a message whose number has passed. -/
theorem wit_forming :
    (let s := updChan tUp .b fun c => { c with selected := true, forming := some (5000000, 0) }
     (chanOf s .b).forming = some (5000000, 0) ∧ 5000000 ≤ s.clock.watch ∧ (tWatch 4999999 s).clock.watch < 5000000 ∧
       channelsAnswer s = true ∧ assayerStarted s = true ∧ assayerStarted (tSys (fun y => { y with step := 5 }) s) = false ∧
       channelsAnswer (tSys (fun y => { y with step := 5 }) s) = true ∧
       channelsAnswer (tPwr (fun p => { p with cur := .hold }) s) = false ∧ (chanOf s .b).selected = true ∧
       (chanOf s .b).cur = none) ∧
    (let s := updChan (tSelected 0) .b fun c => { c with msgSeq := 1 }
     (chanOf s .b).selected = true ∧ (chanOf s .b).cur = some (tMessage 0) ∧ (tMessage 0).hdr.seq ≠ (chanOf s .b).msgSeq) := by
  decide

/-! ### Values from outside the model -/

/-- R466: the check value that the spec gives for CRC-32C, of the nine ASCII bytes "123456789". -/
theorem test_crc32c : crc32c [0x31, 0x32, 0x33, 0x34, 0x35, 0x36, 0x37, 0x38, 0x39] = 0xE3069283 := by decide +kernel

/-- PRESUMED (assumption 10): SHA-384 of the three bytes "abc", from FIPS 180-4's example. -/
theorem test_sha384 : sha384 [0x61, 0x62, 0x63] = ([0xCB, 0x00, 0x75, 0x3F, 0x45, 0xA3, 0x5E, 0x8B, 0xB5, 0xA0, 0x3D, 0x69,
    0x9A, 0xC6, 0x50, 0x07, 0x27, 0x2C, 0x32, 0xAB, 0x0E, 0xDE, 0xD1, 0x63, 0x1A, 0x8B, 0x60, 0x5A, 0x43, 0xFF, 0x5B, 0xED] ++
    [0x80, 0x86, 0x07, 0x2B, 0xA1, 0xE7, 0xCC, 0x23, 0x58, 0xBA, 0xEC, 0xA1, 0x34, 0xC8, 0x25, 0xA7]) := by decide +kernel

end Sys2Proof.Machine
end

section
/-! Releases of batches (R379, R380, R469), the wait for room (R469) and the age tick (R381). -/

namespace Sys2Proof.Machine

/-! ### What the host copy of an entry leaves unchanged -/

/-- The Assayer, the safety port, system control and power are as they were. -/
structure SafetySideKept (s t : State) : Prop where
  asy : t.asy = s.asy
  sfp : t.sfp = s.sfp
  sys : t.sys = s.sys
  pwr : t.pwr = s.pwr

theorem safetySideKept_refl (s : State) : SafetySideKept s s := ⟨rfl, rfl, rfl, rfl⟩

theorem safetySideKept_trans {s t u : State} (h : SafetySideKept s t) (k : SafetySideKept t u) : SafetySideKept s u :=
  ⟨k.asy.trans h.asy, k.sfp.trans h.sfp, k.sys.trans h.sys, k.pwr.trans h.pwr⟩

theorem safetySideKept_of_events {s t : State} (h : EventsOnly s t) : SafetySideKept s t := by
  obtain ⟨_, _, _, _, _, _, _, _, _, _, _, _, _, _, _, _, _, _, _, _, _, rfl⟩ := h
  exact ⟨rfl, rfl, rfl, rfl⟩

/-- R461: the host copy of an entry writes the host interface and raises events. -/
theorem hostCopy_kept (r : SepRecord) (s : State) : SafetySideKept s (hostCopy r s) := by
  have onlyHif (h : Hif) : SafetySideKept s { s with hif := h } := ⟨rfl, rfl, rfl, rfl⟩
  by_cases he : s.hif.copyEn = true
  · unfold hostCopy
    rw [he, if_neg (by decide)]
    extract_lets l size head tail
    split
    · exact safetySideKept_trans (onlyHif _) (safetySideKept_of_events (raise_events ..))
    · exact safetySideKept_trans (onlyHif _) (safetySideKept_of_events (signalMsix_events ..))
  · unfold hostCopy
    rw [if_pos (by simpa using he)]
    exact safetySideKept_refl s

theorem hostCopies_kept (rs : List SepRecord) (s : State) : SafetySideKept s (rs.foldl (fun s r => hostCopy r s) s) := by
  induction rs generalizing s with
  | nil => exact safetySideKept_refl s
  | cons r rs ih => exact safetySideKept_trans (hostCopy_kept r s) (ih _)

/-- R379, R469: a batch goes to the end of both queues. -/
theorem pushRecords_kept (rs : List SepRecord) (s : State) :
    SafetySideKept { s with sfp := { s.sfp with
      chA := { s.sfp.chA with queue := s.sfp.chA.queue ++ rs },
      chB := { s.sfp.chB with queue := s.sfp.chB.queue ++ rs } } } (pushRecords rs s) := hostCopies_kept rs _

/-! ### A release -/

/-- R379, R472, R105: a release of now makes S1 ready to end. -/
def releaseEndsS1 (s : State) : Bool := s1MayEnd s && releaseCounts s

/-- R380: the status bits that a release of now sets in its records. -/
def releaseStatus (s : State) : Byte :=
  if s.asy.state == .s1 && !releaseEndsS1 s then stValid ||| stDegraded else stValid

/-- R379: the records of a batch as a release of now puts them in the queues. -/
def releasedRecords (b : Batch) (s : State) : List SepRecord :=
  b.records.map fun r => { r with status := r.status ||| releaseStatus s, release := now s }

/-- R379, R380, R472: what a release leaves of the safety port, the Assayer's state and memory. -/
structure BatchReleased (b : Batch) (s t : State) : Prop where
  queueA : t.sfp.chA.queue = s.sfp.chA.queue ++ releasedRecords b s
  queueB : t.sfp.chB.queue = s.sfp.chB.queue ++ releasedRecords b s
  releasedA : t.sfp.chA.released = (s.sfp.chA.released || s.asy.state == .normal && releaseCounts s)
  releasedB : t.sfp.chB.released = (s.sfp.chB.released || s.asy.state == .normal && releaseCounts s)
  exitReady : t.asy.exitReady = (s.asy.exitReady || releaseEndsS1 s)
  state : t.asy.state = s.asy.state
  memory : t.mem = s.mem

theorem releaseCounts_congr {s t : State} (hp : t.pwr = s.pwr) (hr : t.sys.ready = s.sys.ready) :
    releaseCounts t = releaseCounts s := by
  simp only [releaseCounts, leavingRun, hp, hr]

/-- R382, R378, R472: what the Assayer notes of a release whose records are in the queues; the Bool says that it ends S1. -/
def noteRelease (b : Batch) (ends : Bool) (u : State) : State :=
  let u := recordHistory b (ledgerBatch b u)
  let u := { u with sys := { u.sys with phase := if u.sys.phase = 1 then 3 else u.sys.phase } }
  { u with asy := { u.asy with
    ageMax := max u.asy.ageMax (min (now u - b.origin) (2 ^ 32 - 1)), exitReady := u.asy.exitReady || ends } }

/-- R382: the entry of a released pour changes the ledger alone. -/
theorem ledgerBatch_frame (b : Batch) (u : State) :
    ∃ l, ledgerBatch b u = { u with asy := { u.asy with ledger := l } } := ⟨_, rfl⟩

/-- The Assayer's notes of a release: the start's phase, the ledger, the zones' history, the greatest age and whether S1 may
end. -/
theorem noteRelease_frame (b : Batch) (ends : Bool) (u : State) : ∃ p l h m, noteRelease b ends u = { u with
    sys := { u.sys with phase := p },
    asy := { u.asy with ledger := l, history := h, ageMax := m, exitReady := u.asy.exitReady || ends } } := by
  obtain ⟨l, hl⟩ := ledgerBatch_frame b u
  unfold noteRelease
  rw [hl]
  exact ⟨_, l, _, _, rfl⟩

section
variable (b : Batch) (ends : Bool) (u : State)

@[simp] theorem noteRelease_sfp : (noteRelease b ends u).sfp = u.sfp := by
  obtain ⟨_, _, _, _, h⟩ := noteRelease_frame b ends u
  rw [h]

@[simp] theorem noteRelease_state : (noteRelease b ends u).asy.state = u.asy.state := by
  obtain ⟨_, _, _, _, h⟩ := noteRelease_frame b ends u
  rw [h]

@[simp] theorem noteRelease_batches : (noteRelease b ends u).asy.batches = u.asy.batches := by
  obtain ⟨_, _, _, _, h⟩ := noteRelease_frame b ends u
  rw [h]

@[simp] theorem noteRelease_exitReady : (noteRelease b ends u).asy.exitReady = (u.asy.exitReady || ends) := by
  obtain ⟨_, _, _, _, h⟩ := noteRelease_frame b ends u
  rw [h]

@[simp] theorem noteRelease_counts : releaseCounts (noteRelease b ends u) = releaseCounts u := by
  obtain ⟨_, _, _, _, h⟩ := noteRelease_frame b ends u
  rw [h]
  exact releaseCounts_congr rfl rfl

end

@[simp] theorem pushRecords_asy (rs : List SepRecord) (s : State) : (pushRecords rs s).asy = s.asy :=
  (pushRecords_kept rs s).asy

@[simp] theorem pushRecords_counts (rs : List SepRecord) (s : State) :
    releaseCounts (pushRecords rs s) = releaseCounts s :=
  releaseCounts_congr (pushRecords_kept rs s).pwr (congrArg Sys.ready (pushRecords_kept rs s).sys)

/-- R472: a release that opens the channels is noted in both. -/
def openChannels (opens : Bool) (u : State) : State :=
  { u with sfp := { u.sfp with
    chA := { u.sfp.chA with released := u.sfp.chA.released || opens },
    chB := { u.sfp.chB with released := u.sfp.chB.released || opens } } }

theorem openChannels_false (u : State) : openChannels false u = u := by simp [openChannels]

@[simp] theorem openChannels_asy (opens : Bool) (u : State) : (openChannels opens u).asy = u.asy := rfl

/-- R379, R472: a release in its parts: the queues, the Assayer's notes and, in normal operation, the channels. -/
theorem releaseBatch_eq (b : Batch) (s : State) : releaseBatch b s =
    openChannels (s.asy.state == .normal && releaseCounts s)
      (noteRelease b (releaseEndsS1 s) (pushRecords (releasedRecords b s) s)) := by
  have hparts (w : State) (hw : w = noteRelease b (releaseEndsS1 s) (pushRecords (releasedRecords b s) s)) :
      releaseBatch b s = if w.asy.state == .normal && releaseCounts w
        then { w with sfp := { w.sfp with
          chA := { w.sfp.chA with released := true }, chB := { w.sfp.chB with released := true } } }
        else w := by subst hw; rfl
  rw [hparts _ rfl, noteRelease_state, noteRelease_counts, pushRecords_asy, pushRecords_counts]
  split
  next h => rw [h]; simp [openChannels]
  next h => rw [Bool.eq_false_iff.2 h, openChannels_false]

theorem releaseBatch_batches (b : Batch) (s : State) : (releaseBatch b s).asy.batches = s.asy.batches := by
  simp [releaseBatch_eq]

/-- R379, R380, R472: a release puts the records in both queues and, in normal operation, opens the channels where it
counts. -/
theorem releaseBatch_releases (b : Batch) (s : State) : BatchReleased b s (releaseBatch b s) := by
  have hsfp := (pushRecords_kept (releasedRecords b s) s).sfp
  exact {
    queueA := by simp [releaseBatch_eq, openChannels, hsfp]
    queueB := by simp [releaseBatch_eq, openChannels, hsfp]
    releasedA := by simp [releaseBatch_eq, openChannels, hsfp]
    releasedB := by simp [releaseBatch_eq, openChannels, hsfp]
    exitReady := by simp [releaseBatch_eq]
    state := by simp [releaseBatch_eq]
    memory := releaseBatch_mem b s }

theorem releaseStatus_normal {s : State} (h : s.asy.state = .normal) : releaseStatus s = stValid := by
  rw [releaseStatus, h]; rfl

theorem releaseStatus_s1 {s : State} (h : s.asy.state = .s1) :
    releaseStatus s = if (s1MayEnd s && releaseCounts s) = true then stValid else stValid ||| stDegraded := by
  rw [releaseStatus, releaseEndsS1, h]
  cases s1MayEnd s && releaseCounts s <;> rfl

/-- What a release leaves, as seen before its batch left the waiting ones and with the lines driven after it. -/
theorem batchReleased_driven {b : Batch} {bs : List Batch} {s t : State}
    (h : BatchReleased b { s with asy := { s.asy with batches := bs } } t) : BatchReleased b s (driveLines t) where
  queueA := h.queueA
  queueB := h.queueB
  releasedA := h.releasedA
  releasedB := h.releasedB
  exitReady := h.exitReady
  state := h.state
  memory := h.memory

/-! ### The command of a release -/

theorem exec_batchRelease_none {s : State} (hb : s.asy.batches = []) : exec .batchRelease s = .next s := by
  show execBatchRelease s = _
  rw [execBatchRelease, hb]

theorem exec_batchRelease_waits {s : State}
    (hw : releasesRecords s = false ∨ ∃ b bs, s.asy.batches = b :: bs ∧ roomFor s b.records.length = false) :
    exec .batchRelease s = .next s := by
  cases hb : s.asy.batches with
  | nil => exact exec_batchRelease_none hb
  | cons b bs =>
    show execBatchRelease s = _
    rw [execBatchRelease, hb]
    refine if_pos ?_
    rcases hw with hr | ⟨c, cs, hc, hroom⟩
    · simp [hr]
    · obtain ⟨rfl, rfl⟩ := List.cons.inj (hb.symm.trans hc)
      simp [hroom]

section
variable {b : Batch} {bs : List Batch} {s : State} (hr : releasesRecords s = true) (hb : s.asy.batches = b :: bs)
  (hroom : roomFor s b.records.length = true)
include hr hb hroom

theorem exec_batchRelease_takes : exec .batchRelease s = .next (driveLines
    (if b.origin + b.ceiling < now s then lateBatch b { s with asy := { s.asy with batches := bs } }
      else releaseBatch b { s with asy := { s.asy with batches := bs } })) := by
  show execBatchRelease s = _
  rw [execBatchRelease, hb]
  exact if_neg (by simp [hr, hroom])

theorem exec_batchRelease_late (hage : b.origin + b.ceiling < now s) : exec .batchRelease s =
    .next (driveLines (lateBatch b { s with asy := { s.asy with batches := bs } })) := by
  rw [exec_batchRelease_takes hr hb hroom, if_pos hage]

theorem exec_batchRelease_releases (hage : now s ≤ b.origin + b.ceiling) :
    ∃ t, exec .batchRelease s = .next t ∧ t.asy.batches = bs ∧ BatchReleased b s t := by
  rw [exec_batchRelease_takes hr hb hroom, if_neg (by omega)]
  exact ⟨_, rfl, releaseBatch_batches .., batchReleased_driven (releaseBatch_releases ..)⟩

end

/-! ### The wait for room -/

theorem enterS1_batches (code : EventCode) (s : State) : (enterS1 code s).asy.batches = s.asy.batches := by
  unfold enterS1
  split
  · rfl
  · split
    · rw [raise_asy]; rfl
    · rfl
    · rfl

theorem detectS1_batches (code : EventCode) (pairs : BitVec 4) (s : State) :
    (detectS1 code pairs s).asy.batches = s.asy.batches := by
  obtain ⟨_, _, _, hl, -⟩ := logFault_frame code pairs (raise code s)
  rw [detectS1, enterS1_batches, hl]
  exact congrArg Asy.batches (raise_asy ..)

theorem stallInForce_detectS1 (code : EventCode) (pairs : BitVec 4) (s : State) :
    stallInForce (detectS1 code pairs s) = stallInForce s := by
  rw [stallInForce, detectS1_batches, stallInForce]

theorem stallInForce_driveLines (s : State) : stallInForce (driveLines s) = stallInForce s := rfl

/-- S1 keeps both lines inactive when they are driven. -/
theorem s1Entered_driven {code : EventCode} {pairs : BitVec 4} {s t : State} (h : S1Entered code pairs s t) :
    S1Entered code pairs s (driveLines t) where
  state := h.state
  detected := h.detected
  faultCode := h.faultCode
  faultCount := h.faultCount
  faultPairs := h.faultPairs
  lines := by
    have inactive (c : SafetyCh) : lineActive t c = false := by rw [lineActive, h.state]; rfl
    exact ⟨inactive t.sfp.chA, inactive t.sfp.chB⟩
  running := h.running
  raised := h.raised
  memory := h.memory

/-- An entry to S1 does not depend on the batches that wait. -/
theorem s1Entered_of_batches {code : EventCode} {pairs : BitVec 4} {bs : List Batch} {s t : State}
    (h : S1Entered code pairs { s with asy := { s.asy with batches := bs } } t) : S1Entered code pairs s t :=
  ⟨h.state, h.detected, h.faultCode, h.faultCount, h.faultPairs, h.lines, h.running, h.raised, h.memory⟩

/-- A change that gives q, made at the first element of p, leaves an element of q. -/
theorem any_updFirst {α : Type} {p q : α → Bool} {f : α → α} (hf : ∀ a, q (f a) = true) {l : List α} {a : α}
    (ha : a ∈ l) (hp : p a = true) : (updFirst p f l).any q = true := by
  induction l with
  | nil => cases ha
  | cons c l ih =>
    unfold updFirst
    split
    next => rw [List.any_cons, hf, Bool.true_or]
    next hc =>
      have hl : a ∈ l := (List.mem_cons.1 ha).resolve_left fun e => hc (e ▸ hp)
      rw [List.any_cons, ih hl, Bool.or_true]

/-- R469: the batch has waited 1 ms for room, and SFP_QUEUE_STALL has not been raised for it. -/
def stallDue (s : State) (b : Batch) : Bool :=
  !b.stalled && !roomFor s b.records.length && decide (b.waitSince + Config.oneMs ≤ now s)

theorem exec_queueStall_none {s : State} (h : s.asy.batches.find? (stallDue s) = none) :
    exec .queueStall s = .next s := by
  show execQueueStall s = _
  unfold stallDue at h
  rw [execQueueStall, h]

theorem exec_queueStall_some {s : State} {b : Batch} (h : s.asy.batches.find? (stallDue s) = some b) :
    exec .queueStall s = .next (driveLines (detectS1 0x1213 (pairBits [b.pair]) { s with asy := { s.asy with
      batches := updFirst (fun c => c.ref == b.ref) (fun c => { c with stalled := true }) s.asy.batches } })) := by
  show execQueueStall s = _
  unfold stallDue at h
  rw [execQueueStall, h]

/-- R469: a stall is an S1 detection of the batch's pair, and is in force. -/
theorem exec_queueStall_enters {s : State} {b : Batch} (h : s.asy.batches.find? (stallDue s) = some b)
    (hn : s.asy.state = .normal) (h6 : 6 ≤ s.sys.step.toNat) :
    ∃ t, exec .queueStall s = .next t ∧ S1Entered 0x1213 (pairBits [b.pair]) s t ∧ stallInForce t = true := by
  refine ⟨_, exec_queueStall_some h, s1Entered_driven (s1Entered_of_batches (detectS1_enters _ _ _ hn h6)), ?_⟩
  rw [stallInForce_driveLines, stallInForce_detectS1]
  refine any_updFirst ?_ (List.mem_of_find?_eq_some h) (beq_self_eq_true b.ref)
  exact fun _ => rfl

/-! ### The age tick -/

/-- R381: the announcements whose age has passed and that are still open. -/
def overdue (s : State) : List Announce :=
  s.asy.announced.filter fun a => !a.settled && !a.zoneIds.isEmpty && decide (a.origin + a.ceiling ≤ now s)

theorem exec_ageTick_runs {s : State} (hr : assayerRuns s = true) (ht : now s % Config.oneMs = 0) :
    exec .ageTick s = .next (pruneAnnounced ((overdue s).foldl (fun u a => declareMissing a u) s)) := by
  show execAgeTick s = _
  rw [execAgeTick, if_neg (by simp [hr, ht])]
  rfl

theorem exec_ageTick_idle {s : State} (h : now s % Config.oneMs ≠ 0 ∨ assayerRuns s = false) :
    exec .ageTick s = .next s := by
  show execAgeTick s = _
  refine if_pos ?_
  rcases h with ht | hr
  · simp [ht]
  · simp [hr]

/-! ### The statement -/

/-- Settles O53: a release leaves what `BatchReleased` says, in normal operation and in S1; every other clause is the command's
own case. -/
theorem batchesReleased : Obligations.BatchesReleased := by
  intro s
  refine ⟨fun b bs hr hb => ⟨fun hn hroom hage => ?normal, fun st hs hroom hage hst => ?s1,
      fun hroom hage => exec_batchRelease_late hr hb hroom hage,
      fun hroom => exec_batchRelease_waits (.inr ⟨b, bs, hb, hroom⟩)⟩,
    fun hr => exec_batchRelease_waits (.inl hr),
    fun hb => ⟨exec_batchRelease_none hb, exec_queueStall_none (by rw [hb]; rfl)⟩,
    fun due hdue => ⟨fun b hb hn h6 => exec_queueStall_enters (hdue.trans hb) hn h6,
      fun hd => exec_queueStall_none (hdue.trans hd)⟩,
    fun hr ht due hdue => ⟨?tick, fun hd => ?nothing⟩, exec_ageTick_idle⟩
  case normal =>
    obtain ⟨t, he, hbs, h⟩ := exec_batchRelease_releases hr hb hroom hage
    have hq := releaseStatus_normal hn
    have hopen : (s.asy.state == .normal && releaseCounts s) = releaseCounts s := by rw [hn]; rfl
    refine ⟨t, he, hbs, hq ▸ h.queueA, hq ▸ h.queueB, fun hc => ?_, fun hc => ?_, h.state.trans hn, h.memory⟩
    · rw [h.releasedA, h.releasedB, hopen, hc, Bool.or_true, Bool.or_true]
      exact ⟨rfl, rfl⟩
    · rw [h.releasedA, h.releasedB, hopen, hc, Bool.or_false, Bool.or_false]
      exact ⟨rfl, rfl⟩
  case s1 =>
    obtain ⟨t, he, hbs, h⟩ := exec_batchRelease_releases hr hb hroom hage
    have hq := (releaseStatus_s1 hs).trans hst.symm
    refine ⟨t, he, hbs, hq ▸ h.queueA, hq ▸ h.queueB, h.exitReady, ?_, h.state.trans hs, h.memory⟩
    rw [h.releasedA, hs]
    exact Bool.or_false _
  case tick =>
    rw [hdue]
    exact exec_ageTick_runs hr ht
  case nothing =>
    rw [exec_ageTick_runs hr ht, overdue, ← hdue, hd]
    rfl

end Sys2Proof.Machine
end

section
/-! Writes of the Ladle ceiling and the ceiling that rules (R88). -/

namespace Sys2Proof.Machine

/-! ### The ceiling that rules -/

/-- R88: in the ECLK of an accepted write the old ceiling rules. -/
theorem ceilingNow_eq_old {s : State} {c : Nat} (h : s.ldl.oldCeil = some (now s, c)) : ceilingNow s = c := by
  simp only [ceilingNow, h, if_true]

/-- R88: in every other ECLK the active ceiling rules. -/
theorem ceilingNow_eq_activeCeil {s : State} {n c : Nat} (h : s.ldl.oldCeil = some (n, c)) (hn : n ≠ now s) :
    ceilingNow s = s.ldl.activeCeil := by
  simp only [ceilingNow, h, if_neg hn]

/-! ### A write -/

/-- The loaded patterns: the active one and one that is pending. -/
def PatternLoaded (s : State) (p : Pattern) : Prop := s.pat.active = some p ∨ s.pat.pending = some p

theorem mem_loadedPatterns {s : State} {p : Pattern} :
    p ∈ [s.pat.active, s.pat.pending].filterMap id ↔ PatternLoaded s p := by
  simp [PatternLoaded, eq_comm]

/-- R88: what an accepted write leaves. Outside RUN only the register changes. -/
def ceilingTaken (v : Nat) (s : State) : State :=
  if s.pwr.cur = .run then
    { s with ldl := { s.ldl with ceil := v, oldCeil := some (now s, ceilingNow s), activeCeil := v } }
  else { s with ldl := { s.ldl with ceil := v } }

theorem writeCeiling_out_of_range {v : Nat} (h : v < 320 ∨ 960 < v) (s : State) : writeCeiling v s = raise 0x0301 s :=
  if_pos h

theorem writeCeiling_below_pattern {v : Nat} {s : State} {p : Pattern} (hlo : 320 ≤ v) (hhi : v ≤ 960)
    (hp : PatternLoaded s p) (hv : v < peakDraw p s.ldl.standing) : writeCeiling v s = raise 0x0302 s := by
  have hany : ([s.pat.active, s.pat.pending].filterMap id).any (fun p => decide (v < peakDraw p s.ldl.standing)) = true :=
    List.any_eq_true.mpr ⟨p, mem_loadedPatterns.mpr hp, decide_eq_true hv⟩
  rw [writeCeiling, if_neg (by omega)]
  exact if_pos hany

theorem writeCeiling_taken {v : Nat} {s : State} (hlo : 320 ≤ v) (hhi : v ≤ 960)
    (hp : ∀ p, PatternLoaded s p → peakDraw p s.ldl.standing ≤ v) : writeCeiling v s = ceilingTaken v s := by
  have hany : ¬ ([s.pat.active, s.pat.pending].filterMap id).any
      (fun p => decide (v < peakDraw p s.ldl.standing)) = true := fun h => by
    obtain ⟨p, hmem, hv⟩ := List.any_eq_true.mp h
    exact absurd (of_decide_eq_true hv) (hp p (mem_loadedPatterns.mp hmem)).not_gt
  rw [writeCeiling, if_neg (by omega)]
  refine (if_neg hany).trans ?_
  by_cases hrun : s.pwr.cur = .run
  · simp [ceilingTaken, hrun]
  · simp [ceilingTaken, hrun]

/-! ### The head of the queue -/

/-- R76, R88: a head that does not fit under the ceiling that rules is not due. -/
theorem grantDue_eq_false_of_over {s : State} {r : Request} (h : ceilingNow s < grantedSum s + r.tickets) :
    grantDue s r = false := by
  rw [grantDue, decide_eq_false h.not_ge, Bool.and_false, Bool.false_and]

/-- R76: a head that can fit at some time and is not due waits. -/
theorem exec_ladleGrant_waits {s : State} {r : Request} (hr : queueHead s.ldl.queue = some r)
    (hf : canFit s r.tickets = true) (hd : grantDue s r = false) : exec .ladleGrant s = .next s := by
  show execLadleGrant s = _
  rw [execLadleGrant, hr]
  dsimp only
  rw [hf, hd]
  rfl

/-! ### The statement -/

/-- R88: the command is the write of the register, whoever sends it. -/
theorem exec_ladleCeilingWrite (who : Agent) (v : BitVec 10) (s : State) :
    exec (.ladleCeilingWrite who v) s = .next (writeCeiling v.toNat s) := rfl

/-- Settles O23: the write is ignored out of range and below a loaded pattern's peak, and else taken; the head waits while
the ceiling that rules has no room for it. -/
theorem ladleCeilingWritten : Obligations.LadleCeilingWritten := by
  intro s who v
  rw [exec_ladleCeilingWrite]
  refine ⟨fun h => ?range, fun p hp hlo hhi hv => ?pattern, fun hlo hhi hp => ?taken, fun r hr hf hover => ?waits⟩
  case range => rw [writeCeiling_out_of_range h]
  case pattern => rw [writeCeiling_below_pattern hlo hhi hp hv]
  case taken =>
    rw [writeCeiling_taken hlo hhi hp]
    refine ⟨fun hrun => ?_, fun hrun => by rw [ceilingTaken, if_neg hrun]⟩
    rw [ceilingTaken, if_pos hrun]
    exact ⟨_, rfl, rfl, ceilingNow_eq_old rfl, fun n hn => ceilingNow_eq_activeCeil rfl hn.symm⟩
  case waits => exact exec_ladleGrant_waits hr hf (grantDue_eq_false_of_over hover)

end Sys2Proof.Machine
end

section
/-! The start sequence: the self-test, the boot source and the wait for the doorbell (R98, R100, R103, R106, R499). -/

namespace Sys2Proof.Machine

/-! ### The lines before step 6 -/

theorem atStep_early {n : Nat} (h : n < 6) (s : State) : (atStep n s).sys.step.toNat < 6 := by
  show n % 16 < 6
  omega

/-- R103, R472: neither SAFE line is driven active before step 6 or outside normal operation. -/
theorem linesDropped_driveLines {s : State} (h : s.sys.step.toNat < 6 ∨ s.asy.state ≠ .normal) :
    linesDropped (driveLines s) := by
  have inactive (c : SafetyCh) : lineActive s c = false := by
    rcases h with h6 | hn
    · rw [lineActive, decide_eq_false (by omega), Bool.and_false]
    · simp [lineActive, hn]
  exact ⟨inactive s.sfp.chA, inactive s.sfp.chB⟩

/-- R104: FAULT_N is asserted before step 6, and in S2. -/
theorem driveLines_faultN {s : State} (h : s.sys.step.toNat < 6 ∨ s.asy.state = .s2) :
    (driveLines s).sfp.faultN = true := by
  show faultAsserted s = true
  rcases h with h6 | h2
  · simp [faultAsserted, h6]
  · simp [faultAsserted, h2]

/-! ### A start that stops -/

theorem raiseBootFail_sys (code : EventCode) (s : State) :
    (raiseBootFail code s).sys = { s.sys with failed := true, failCode := code, fetchWait := none } :=
  congrArg (fun y : Sys => { y with failed := true, failCode := code, fetchWait := none }) (raise_sys code s)

/-- R104, R113: what a start leaves that stops with a code before step 6. -/
structure StartStopped (code : EventCode) (s t : State) : Prop where
  sys : t.sys = { s.sys with failed := true, failCode := code, fetchWait := none }
  faultN : t.sfp.faultN = true
  lines : linesDropped t
  memory : t.mem = s.mem

theorem startStopped_raiseBootFail (code : EventCode) {s : State} (h6 : s.sys.step.toNat < 6) :
    StartStopped code s (driveLines (raiseBootFail code s)) := by
  have hsys := raiseBootFail_sys code s
  have hearly : (raiseBootFail code s).sys.step.toNat < 6 := by rw [hsys]; exact h6
  exact ⟨hsys, driveLines_faultN (.inl hearly), linesDropped_driveLines (.inl hearly), raiseBootFail_mem code s⟩

/-! ### The self-test and the boot source -/

section
variable {inp : StartInputs}

/-- R114: a failed self-test is a detection that calls for S2. -/
theorem startSelfTest_failed (h : inp.mismatchReported = false ∨ inp.romCrcOk = false) (s : State) :
    startSelfTest inp s = detectS2 0x0406 (atStep 3 s) := by
  refine if_pos ?_
  rcases h with h | h <;> simp [h]

/-- R106: an uncorrectable fuse error is a boot failure. -/
theorem startSelfTest_fuses (hm : inp.mismatchReported = true) (hc : inp.romCrcOk = true) (hf : inp.fuseEccOk = false)
    (s : State) : startSelfTest inp s = raiseBootFail 0x0407 (atStep 3 s) := by
  simp [startSelfTest, hm, hc, hf]

theorem startSelfTest_passed (hm : inp.mismatchReported = true) (hc : inp.romCrcOk = true) (hf : inp.fuseEccOk = true)
    (s : State) : startSelfTest inp s = startStaging inp (atStep 4 (atStep 3 s)) := by
  simp [startSelfTest, hm, hc, hf]

/-- R103: step 5, with the DRAM as it was found. -/
def atStaging (inp : StartInputs) (s : State) : State :=
  atStep 5 { s with sys := { s.sys with dramUnits := inp.dramUnits.val } }

/-- R98: a boot source that no rule names is a boot failure. -/
theorem startStaging_unknown_source (h : 2 ≤ inp.bootSel.toNat) (s : State) :
    startStaging inp s = raiseBootFail 0x0103 (atStaging inp s) := if_pos h

/-- R98, R100: the host source waits for the doorbell when a staged image cannot be read whole. -/
theorem startStaging_waits (h0 : inp.bootSel = 0) (hb : inp.badReads ≠ []) {s : State} (hd : s.sys.doorbell = false) :
    startStaging inp s = waitDoorbell inp (atStaging inp s) := by
  simp [startStaging, atStaging, atStep, h0, hb, hd]

end

/-! ### The command -/

theorem mayStart_s2Held {s : State} (h : mayStart s = true) : s.ret.s2Held = false := by
  simp only [mayStart, Bool.and_eq_true, Bool.not_eq_true'] at h
  obtain ⟨⟨⟨-, hheld⟩, -⟩, -⟩ := h
  exact hheld

theorem exec_startSequence_runs {s : State} (h : mayStart s = true) (inp : StartInputs) :
    exec (.startSequence inp) s = .next (driveLines (startSelfTest inp (releaseReset inp s))) := if_pos h

theorem exec_startSequence_idle {s : State} (h : mayStart s = false) (inp : StartInputs) :
    exec (.startSequence inp) s = .next s := if_neg (by rw [h]; decide)

/-- R33, R114: the self-test's detection is an entry to S2 of its own: reset is released by then, so it joins no entry of
its ACLK. -/
theorem failed_selfTest_enters_s2 {s : State} (h : mayStart s = true) {inp : StartInputs}
    (hf : inp.mismatchReported = false ∨ inp.romCrcOk = false) :
    S2Entered 0x0406 (atStep 3 (releaseReset inp s)) (startSelfTest inp (releaseReset inp s)) := by
  have hheld := mayStart_s2Held h
  rw [startSelfTest_failed hf]
  exact detectS2_enters _ _ hheld rfl

/-! ### The statement -/

/-- Settles O27: each clause is the branch of the self-test or of the boot source that its inputs take, with the lines driven
after it; the failed self-test is an entry to S2. -/
theorem startSequenceRuns : Obligations.StartSequenceRuns := by
  intro s inp h
  rw [exec_startSequence_runs h]
  refine ⟨fun hm hc hf h0 hb hd => ?waits, fun hbad => ?selfTest, fun hm hc hf => ?fuses, fun hm hc hf h2 => ?source,
    fun r hr => exec_startSequence_idle hr inp⟩
  case waits =>
    have hbell : (atStep 4 (atStep 3 (releaseReset inp s))).sys.doorbell = false := hd
    rw [startSelfTest_passed hm hc hf, startStaging_waits h0 hb hbell]
    have early (u : State) : (waitDoorbell inp (atStaging inp u)).sys.step.toNat < 6 :=
      atStep_early (n := 5) (by decide) u
    exact ⟨_, rfl, rfl, rfl, rfl, rfl, h0, rfl, rfl, driveLines_faultN (.inl (early _)),
      linesDropped_driveLines (.inl (early _)), rfl, rfl, rfl⟩
  case selfTest =>
    have e := failed_selfTest_enters_s2 h hbad
    have hn : (startSelfTest inp (releaseReset inp s)).asy.state ≠ .normal := by rw [e.state]; decide
    exact ⟨_, rfl, e.state, e.inReset, e.counted, driveLines_faultN (.inr e.state), linesDropped_driveLines (.inr hn),
      fun hd => ⟨e.faultCode hd, e.raised hd⟩⟩
  case fuses =>
    rw [startSelfTest_fuses hm hc hf]
    obtain ⟨hsys, hfault, hlines, hmem⟩ := startStopped_raiseBootFail 0x0407
      (atStep_early (n := 3) (by decide) (releaseReset inp s))
    exact ⟨_, rfl, by rw [hsys], by rw [hsys], by rw [hsys]; rfl, by rw [hsys]; rfl, hfault, hlines, hmem⟩
  case source =>
    rw [startSelfTest_passed hm hc hf, startStaging_unknown_source h2]
    obtain ⟨hsys, hfault, hlines, hmem⟩ := startStopped_raiseBootFail 0x0103
      (s := atStaging inp (atStep 4 (atStep 3 (releaseReset inp s)))) (atStep_early (n := 5) (by decide) _)
    exact ⟨_, rfl, by rw [hsys], by rw [hsys], by rw [hsys]; rfl, hfault, hlines, hmem⟩

end Sys2Proof.Machine
end

section
/-! What every reset leaves of scheduler, device flags and links (R96, R308, R436). -/

namespace Sys2Proof.Machine

/-- R96: the states that a reset leaves, the one after power-on among them. -/
def AfterReset (s : State) : Prop :=
  s = State.reset ∨ (∃ r, s = coldReset r) ∨ ∃ cause r, s = warmReset cause r

/-- R96: no reset keeps anything of the scheduler, of the sequencer with its flags or of the links, whatever its kind, its
causes and the state before it. -/
theorem AfterReset.units_eq_reset {s : State} (h : AfterReset s) :
    s.sch = State.reset.sch ∧ s.fgs = State.reset.fgs ∧ s.lnk = State.reset.lnk := by
  obtain rfl | ⟨r, rfl⟩ | ⟨cause, r, rfl⟩ := h
  case inl => exact ⟨rfl, rfl, rfl⟩
  case inr.inl => exact ⟨rfl, rfl, rfl⟩
  case inr.inr => exact ⟨rfl, rfl, rfl⟩

theorem reset_links_untrained {k : Machine.Link} (h : k ∈ State.reset.lnk.links) : k.trained = false := by
  rw [List.eq_of_mem_replicate (n := 3) (a := ({} : Machine.Link)) h]

theorem reset_devFlags_zero {v : Nat} (h : v ∈ State.reset.fgs.devFlags) : v = 0 :=
  List.eq_of_mem_replicate (n := 64) h

/-- R104: in reset the block drives neither SAFE line. -/
theorem reset_linesDropped : linesDropped State.reset := ⟨rfl, rfl⟩

/-- Settles O3: the fields of `State.reset` are as given; the scheduler, the flags and the links of every other reset are
those of `State.reset`, whose links and flags are lists of one value each. -/
theorem resetState : Obligations.ResetState := by
  refine ⟨rfl, rfl, rfl, rfl, rfl, reset_linesDropped, rfl, rfl, rfl, rfl, rfl, rfl, rfl, fun s hs => ?_⟩
  obtain ⟨hsch, hfgs, hlnk⟩ := AfterReset.units_eq_reset hs
  rw [hsch, hfgs, hlnk]
  exact ⟨rfl, rfl, fun _ => reset_links_untrained, fun _ => reset_devFlags_zero, rfl, rfl, rfl, rfl⟩

end Sys2Proof.Machine
end

section
/-! The Assayer's heartbeat (R369), the Witness result of a pour (R375 to R377), its judgement (R378, R379) and the
uncorrectable errors in what they read (R389). -/

namespace Sys2Proof.Machine

/-! ### The heartbeat -/

/-- R369: a burst comes 1 ms after the last; the first may come sooner. -/
def burstDue (s : State) : Prop := s.asy.beats = 0 ∨ s.asy.lastBurst + Config.oneMs ≤ s.clock.watch

section
variable {s : State} (hr : assayerRuns s = true)
include hr

/-- R369: a burst that is due is judged by its checks. -/
theorem exec_heartbeatBurst_due (h : burstDue s) :
    exec (.heartbeatBurst .exact) s = .next (passBurst s) ∧
      exec (.heartbeatBurst .wrong) s = .next (detectS2 0x0E02 s) := by
  have hg : ¬ (!assayerRuns s || decide (s.asy.beats ≠ 0 ∧ s.clock.watch < s.asy.lastBurst + Config.oneMs)) = true := by
    have hwait : ¬ (s.asy.beats ≠ 0 ∧ s.clock.watch < s.asy.lastBurst + Config.oneMs) := fun ⟨hn, hlt⟩ =>
      h.elim hn (Nat.not_le.2 hlt)
    simp only [hr, decide_eq_false hwait, Bool.not_true, Bool.or_false, Bool.false_eq_true, not_false_eq_true]
  exact ⟨if_neg hg, if_neg hg⟩

/-- R369: a burst that is wrong enters S2. -/
theorem exec_heartbeatBurst_wrong_enters (h : burstDue s) (hh : s.ret.s2Held = false) (hn : s2Now s = false) :
    ∃ t, exec (.heartbeatBurst .wrong) s = .next t ∧ S2Entered 0x0E02 s t :=
  ⟨_, (exec_heartbeatBurst_due hr h).2, detectS2_enters 0x0E02 s hh hn⟩

end

theorem exec_heartbeatBurst_early {s : State} (h0 : s.asy.beats ≠ 0)
    (hlt : s.clock.watch < s.asy.lastBurst + Config.oneMs) (how : BurstReport) :
    exec (.heartbeatBurst how) s = .next s :=
  if_pos (by rw [decide_eq_true ⟨h0, hlt⟩, Bool.or_true])

/-! ### The Witness result -/

section
variable {s : State} {slot : Fin 8} {seq : Word32} {q : Pour} {g : GraphRec} (hr : assayerRuns s = true)
  (hq : anyPour s (PourRef.mk slot.val seq.toNat) = some q) (hg : graphOf (patternOf s q) slot.val = some g)
  (hp : g.pairId ≠ 0xFF) (hdone : g.triggerKind = 0 → q.pairDone = true)
  (hnew : (s.asy.witness.any fun v => v.ref == PourRef.mk slot.val seq.toNat) = false)
include hr hq hg hp hdone hnew

/-- R375 to R377: a pour of a pair, its frames complete, that has no Witness result yet gets one, unless the Witness buffers
show an uncorrectable error. -/
theorem exec_witnessResult_open (ecc : Ecc) : exec (.witnessResult slot seq ecc) s =
    if ecc = .uncorrectable then .next (detectS2 0x0E03 s)
    else .next { noteEcc ecc s with asy := { (noteEcc ecc s).asy with
      witness := (witnessView (noteEcc ecc s) (patternOf s q) q g.pairId :: (noteEcc ecc s).asy.witness).take 64 } } := by
  have hcam : (decide (g.triggerKind = 0) && !q.pairDone) = false := by
    by_cases hk : g.triggerKind = 0
    · rw [hdone hk, Bool.not_true, Bool.and_false]
    · rw [decide_eq_false hk, Bool.false_and]
  show execWitnessResult slot seq ecc s = _
  simp only [execWitnessResult, hq, hg]
  exact if_neg (by simp [hr, hp, hcam, hnew])

/-- R389: an uncorrectable error in the Witness buffers enters S2. -/
theorem exec_witnessResult_uncorrectable (hh : s.ret.s2Held = false) (hn : s2Now s = false) :
    ∃ t, exec (.witnessResult slot seq .uncorrectable) s = .next t ∧ S2Entered 0x0E03 s t :=
  ⟨_, exec_witnessResult_open hr hq hg hp hdone hnew .uncorrectable, detectS2_enters 0x0E03 s hh hn⟩

end

/-! ### The judgement -/

section
variable {s : State} {slot : Fin 8} {seq : Word32} {q : Pour} {a : Announce} {v : WitnessView}
  (hr : assayerRuns s = true)
  (hq : (s.asy.handed.find? fun x => x.ref == PourRef.mk slot.val seq.toNat) = some q)
  (ha : (s.asy.announced.find? fun x => x.ref == PourRef.mk slot.val seq.toNat) = some a)
  (hv : (s.asy.witness.find? fun x => x.ref == PourRef.mk slot.val seq.toNat) = some v) (hopen : a.settled = false)
include hr hq ha hv hopen

/-- R378: a pour that was handed over, announced and seen by the Witness is judged, unless what the Assayer reads for it
shows an uncorrectable error. -/
theorem exec_asyJudgePour_open (ecc : Ecc) : exec (.asyJudgePour slot seq ecc) s =
    if ecc = .uncorrectable then .next (detectS2 0x0E03 s) else .next (judgePour q a v (noteEcc ecc s)) := by
  show execAsyJudgePour slot seq ecc s = _
  simp only [execAsyJudgePour, hq, ha, hv]
  exact if_neg (by simp [hr, hopen])

/-- R389: an uncorrectable error in the Assayer's SRAM or in the ledger enters S2. -/
theorem exec_asyJudgePour_uncorrectable (hh : s.ret.s2Held = false) (hn : s2Now s = false) :
    ∃ t, exec (.asyJudgePour slot seq .uncorrectable) s = .next t ∧ S2Entered 0x0E03 s t :=
  ⟨_, exec_asyJudgePour_open hr hq ha hv hopen .uncorrectable, detectS2_enters 0x0E03 s hh hn⟩

end

/-- R378: the first candidate of a pour that fails, with its check; none when all pass. -/
def firstFailure (q : Pour) (a : Announce) (v : WitnessView) (s : State) : Option (Nat × Nat) :=
  (judgeAll s (patternOf s q) q.ref a.pair (originOf (patternOf s q) q) (zonesOf (patternOf s q) a.pair) v).1

/-- R379: what a pour whose candidates pass leaves: its batch waits behind the others, the pour is no longer handed over and
its announcement is settled; the safe state, the queues and memory are as they were. -/
structure PourPassed (q : Pour) (a : Announce) (b : Batch) (s t : State) : Prop where
  batches : t.asy.batches = s.asy.batches ++ [b]
  ref : b.ref = q.ref
  pair : b.pair = a.pair
  ceiling : b.ceiling = a.ceiling
  waitSince : b.waitSince = now s
  records : b.records.length = (zonesOf (patternOf s q) a.pair).length
  handed : t.asy.handed = s.asy.handed.filter fun x => x.ref != q.ref
  announced : t.asy.announced = updFirst (fun c => c.ref == q.ref) (fun c => { c with settled := true }) s.asy.announced
  state : t.asy.state = s.asy.state
  memory : t.mem = s.mem
  sfp : t.sfp = s.sfp

theorem length_candidateRecords (s : State) (p : Pattern) (r : PourRef) (zones : Nat) (skipped : Bool) :
    (candidateRecords s p r zones skipped).length = zones := by
  rw [candidateRecords, List.length_map, List.length_range]

/-- R378, R379: judging a pour without a failure makes its batch. -/
theorem judgePour_passes {q : Pour} {a : Announce} {v : WitnessView} {s : State} (h : firstFailure q a v s = none) :
    ∃ b, PourPassed q a b s (judgePour q a v s) := by
  unfold firstFailure at h
  rw [judgePour]
  dsimp only
  rw [h]
  exact ⟨_, rfl, rfl, rfl, rfl, rfl, length_candidateRecords .., rfl, rfl, rfl, rfl, rfl⟩

/-- The pour that was judged is no longer handed over. -/
theorem PourPassed.not_handed {q : Pour} {a : Announce} {b : Batch} {s t : State} (h : PourPassed q a b s t) :
    ∀ x ∈ t.asy.handed, x.ref ≠ q.ref := by
  intro x hx
  rw [h.handed] at hx
  exact bne_iff_ne.1 (List.mem_filter.1 hx).2

/-! ### The statement -/

/-- Settles O52: each command that may act does what its report says, an uncorrectable error or a wrong burst is an S2
detection, and a judgement without a failure leaves what `PourPassed` says. -/
theorem assayerJudges : Obligations.AssayerJudges := by
  intro s slot seq q a v hr
  refine ⟨fun hdue => (exec_heartbeatBurst_due hr hdue).1, exec_heartbeatBurst_wrong_enters hr,
    exec_heartbeatBurst_early, fun g hq hg hp hdone hnew => ⟨fun ecc u hecc hu => ?witness,
      exec_witnessResult_uncorrectable hr hq hg hp hdone hnew⟩,
    fun hq ha hv hopen => ⟨fun ecc hecc => ?judged, fun hpass => ?passed,
      exec_asyJudgePour_uncorrectable hr hq ha hv hopen⟩⟩
  case witness =>
    rw [exec_witnessResult_open hr hq hg hp hdone hnew, if_neg hecc, hu]
  case judged =>
    rw [exec_asyJudgePour_open hr hq ha hv hopen, if_neg hecc]
  case passed =>
    obtain ⟨b, h⟩ := judgePour_passes hpass
    exact ⟨_, b, exec_asyJudgePour_open hr hq ha hv hopen .clean, h.batches, h.ref, h.pair, h.ceiling, h.waitSince,
      h.records, h.not_handed, h.state, h.memory, h.sfp⟩

end Sys2Proof.Machine
end

section
/-! Tap's lines in its ring (R439, R441 to R443, R454), the writes of TAP_CTRL (R452, R453, R515) and the counters' overflow
and snapshot reads (R447 to R449). -/

namespace Sys2Proof.Machine

/-! ### The bytes of a line -/

theorem length_leBytes (n v : Nat) : (leBytes n v).length = n := by
  induction n generalizing v with
  | zero => rfl
  | succ n ih => rw [leBytes, List.length_cons, ih]

theorem length_sliceBytes (bs : List Byte) (o n : Nat) : (sliceBytes bs o n).length = n := by
  have hgot : ((bs.drop o).take n).length ≤ n := List.length_take_le ..
  rw [sliceBytes, List.length_append, List.length_replicate]
  omega

/-- R439: a record has 32 bytes. -/
theorem TraceRec.length_bytes (chip : Nat) (r : TraceRec) : (TraceRec.bytes chip r).length = 32 := by
  simp only [TraceRec.bytes, List.length_append, length_leBytes, length_sliceBytes]

/-- R442: the bytes of a line of two records. -/
def lineBytes (a b : TraceRec) (s : State) : List Byte := TraceRec.bytes (chipIndex s) a ++ TraceRec.bytes (chipIndex s) b

theorem length_lineBytes (a b : TraceRec) (s : State) : (lineBytes a b s).length = 64 := by
  rw [lineBytes, List.length_append, TraceRec.length_bytes, TraceRec.length_bytes]

/-! ### A line goes to the ring -/

/-- R441, R442: a ring without room, or a line of this ECLK, keeps the next one back. -/
theorem lineMayGo_eq_false {s : State} (h : ringRoom s = false ∨ s.tap.lineAt = some (now s)) : lineMayGo s = false := by
  rcases h with hroom | hline
  · rw [lineMayGo, hroom]; rfl
  · rw [lineMayGo, hline, bne_self_eq_false, Bool.and_false, Bool.false_and]

/-- R337: whether a unit is denied does not depend on Tap. -/
theorem unitDenied_tap (s : State) (p : Tap) (id : Nat) (acc : Access) (a n : Nat) :
    unitDenied { s with tap := p } id acc a n = unitDenied s id acc a n := rfl

/-- A write to Crucible or DRAM writes memory. -/
theorem physWrite_mem_stored {s : State} {a : Nat} (h : placeOf s a = .crucible ∨ placeOf s a = .dram) (bs : List Byte) :
    (physWrite s a bs).mem = s.mem.write a bs := by
  rcases h with h | h <;> simp only [physWrite, h, clearResv_mem]

theorem physWrite_tap (s : State) (a : Nat) (bs : List Byte) : (physWrite s a bs).tap = s.tap := by
  unfold physWrite
  split <;> rfl

/-- R441, R442: the records of this ECLK's line have left the FIFO, and the ring's write index has moved on. -/
def lineTaken (rest : List (TraceRec × Nat)) (s : State) : State :=
  { s with tap := { s.tap with
      lineAt := some (now s), fifo := rest, wr := BitVec.ofNat 26 ((s.tap.wr.toNat + 2) % ringRecords s) } }

theorem lineTaken_mem (rest : List (TraceRec × Nat)) (s : State) : (lineTaken rest s).mem = s.mem := rfl

section
variable {s : State} (a b : TraceRec) (rest : List (TraceRec × Nat))

/-- R443, R454: a line that the firewall denies is a write error. -/
theorem writeLine_denied (h : unitDenied s tapId .write (linePlace s) 64 = true) : writeLine a b rest s =
    tapError (reportDenied tapId .write (linePlace s) 64 { s with tap := { s.tap with lineAt := some (now s) } }) :=
  if_pos ((unitDenied_tap ..).trans h)

/-- R442: a line that is admitted is taken and written. -/
theorem writeLine_admitted (h : unitDenied s tapId .write (linePlace s) 64 = false) : writeLine a b rest s =
    physWrite (lineTaken rest s) (linePlace s) (lineBytes a b s) :=
  if_neg (by rw [unitDenied_tap, h]; decide)

/-- R441, R442: what a line in the ring leaves: its records are gone from the FIFO, its 64 bytes are in memory, and no other
byte is changed. -/
structure LineWritten (s t : State) : Prop where
  fifo : t.tap.fifo = rest
  wr : t.tap.wr = BitVec.ofNat 26 ((s.tap.wr.toNat + 2) % ringRecords s)
  memory : t.mem = s.mem.write (linePlace s) (lineBytes a b s)
  others : ∀ x, x < linePlace s ∨ linePlace s + 64 ≤ x → t.mem.readByte x = s.mem.readByte x

theorem writeLine_written (h : unitDenied s tapId .write (linePlace s) 64 = false)
    (hp : placeOf s (linePlace s) = .crucible ∨ placeOf s (linePlace s) = .dram) :
    LineWritten a b rest s (writeLine a b rest s) := by
  have htap := physWrite_tap (lineTaken rest s) (linePlace s) (lineBytes a b s)
  have hmem := physWrite_mem_stored (s := lineTaken rest s) hp (lineBytes a b s)
  rw [lineTaken_mem] at hmem
  rw [writeLine_admitted a b rest h]
  refine ⟨by rw [htap]; rfl, by rw [htap]; rfl, hmem, fun x hx => ?_⟩
  rw [hmem]
  exact Mem.readByte_write_other _ _ _ (by rwa [length_lineBytes])

end

/-- R454: records that the FIFO gives uncorrectable join the drop run, or open one. -/
theorem fifoError_joins (rest : List (TraceRec × Nat)) (s : State) : fifoError rest s =
    raise 0x1103 { s with tap := { s.tap with
      fifo := rest, run := some ((s.tap.run.map fun r => (r.1 + 2, r.2)).getD (2, now s)) } } := by
  unfold fifoError dropTrace
  cases hrun : s.tap.run <;> rfl

/-! ### The commands of Tap's lines -/

section
variable {s : State} {a b : TraceRec × Nat} {rest : List (TraceRec × Nat)}

theorem exec_tapLineWrite_pair (hf : s.tap.fifo = a :: b :: rest) (ecc : Ecc) : exec (.tapLineWrite ecc) s =
    if !lineMayGo s then .next s
    else if ecc = .uncorrectable then .next (fifoError rest s)
    else .next (writeLine a.1 b.1 rest (noteEcc ecc s)) := by
  show execTapLineWrite ecc s = _
  simp only [execTapLineWrite, hf]

theorem exec_tapLineWrite_waits (hf : s.tap.fifo = a :: b :: rest) (h : lineMayGo s = false) (ecc : Ecc) :
    exec (.tapLineWrite ecc) s = .next s := by
  rw [exec_tapLineWrite_pair hf, h]; rfl

theorem exec_tapLineWrite_clean (hf : s.tap.fifo = a :: b :: rest) (h : lineMayGo s = true) :
    exec (.tapLineWrite .clean) s = .next (writeLine a.1 b.1 rest s) := by
  rw [exec_tapLineWrite_pair hf, h]; rfl

theorem exec_tapLineWrite_uncorrectable (hf : s.tap.fifo = a :: b :: rest) (h : lineMayGo s = true) :
    exec (.tapLineWrite .uncorrectable) s = .next (fifoError rest s) := by
  rw [exec_tapLineWrite_pair hf, h]; rfl

theorem exec_tapPad_single (hf : s.tap.fifo = [a]) : exec .tapPad s =
    if decide (a.2 + 64 ≤ now s) && lineMayGo s then .next (writeLine a.1 (padRecord s) [] s) else .next s := by
  show execTapPad s = _
  simp only [execTapPad, hf]

end

/-- R441: less than two records make no line of two. -/
theorem exec_tapLineWrite_short {s : State} (h : s.tap.fifo.length < 2) (ecc : Ecc) :
    exec (.tapLineWrite ecc) s = .next s := by
  show execTapLineWrite ecc s = _
  unfold execTapLineWrite
  split
  next hf => rw [hf, List.length_cons, List.length_cons] at h; omega
  next => rfl

/-- R441: a pad goes with a record that is alone, on a line that may go. -/
theorem exec_tapPad_idle {s : State} (h : s.tap.fifo.length ≠ 1 ∨ lineMayGo s = false) : exec .tapPad s = .next s := by
  show execTapPad s = _
  unfold execTapPad
  split
  next a hf =>
    have hgo : lineMayGo s = false := h.resolve_left fun hn => hn (by rw [hf]; rfl)
    rw [hgo, Bool.and_false]; rfl
  next => rfl

/-! ### Write errors -/

/-- R454: a write error turns tracing off, unless TAP_CTRL is written in its ECLK. -/
theorem tapError_stops {s : State} (h : ctlWritten s = false) : tapError s = raise 0x1102 { s with tap := { s.tap with
    en := false, oldCtl := none, error := true, fifo := [], run := none } } := by
  rw [tapError, h]; rfl

/-- R13: a write of TAP_CTRL in the ECLK of a write error stands. -/
theorem tapError_after_write {s : State} (h : ctlWritten s = true) : tapError s = raise 0x1102 { s with
    tap := { s.tap with error := true, fifo := [], run := none } } := by
  rw [tapError, h]; rfl

theorem exec_tapWriteError_taken {s : State} (h : (tapCtl s).1 = true ∨ s.tap.lineAt.isSome = true) :
    exec .tapWriteError s = .next (tapError s) := if_pos ((Bool.or_eq_true ..).mpr h)

theorem exec_tapWriteError_idle {s : State} (hc : (tapCtl s).1 = false) (hl : s.tap.lineAt = none) :
    exec .tapWriteError s = .next s := if_neg (by rw [hc, hl]; decide)

/-! ### Writes of TAP_CTRL -/

/-- R452: a write that enables nothing, or on a ring that fits, gives the fields; the ones before rule to the ECLK's end. -/
theorem writeTapCtl_taken {v : Nat} {s : State} (h : bitAt v 0 = false ∨ s.tap.en = true ∨ ringOk s = true) :
    writeTapCtl v s = { s with tap := { s.tap with
      en := bitAt v 0, src := BitVec.ofNat 6 (bits v 8 6), oldCtl := some (now s, (tapCtl s).1, (tapCtl s).2) } } := by
  refine if_neg ?_
  rcases h with h | h | h <;> simp [h]

/-- R452: Tap stays off when its ring does not fit. -/
theorem writeTapCtl_refused {v : Nat} {s : State} (hv : bitAt v 0 = true) (he : s.tap.en = false) (hr : ringOk s = false) :
    (writeTapCtl v s).tap.en = false := by
  have hrefuse : writeTapCtl v s = raise 0x1104 { s with tap := { s.tap with
      src := BitVec.ofNat 6 (bits v 8 6), oldCtl := some (now s, (tapCtl s).1, (tapCtl s).2) } } :=
    if_pos (by rw [hv, he, hr]; rfl)
  rw [hrefuse, raise_tap_en, he]

section
variable {s : State}

theorem exec_tapCtrlWrite_none (hl : s.held.filter (fun w => w.off == tapUnit) = []) :
    exec (.tapCtrlWrite none none) s = .next s := by
  show execTapCtrlWrite none none s = _
  unfold execTapCtrlWrite
  rw [hl]; rfl

/-- R453: without a waiting write, keeper firmware's write is taken whatever the others write. -/
theorem exec_tapCtrlWrite_keeper (hl : s.held.filter (fun w => w.off == tapUnit) = []) (v : Word32) (h : Option Word32) :
    exec (.tapCtrlWrite (some v) h) s = .next (writeTapCtl v.toNat s) := by
  show execTapCtrlWrite (some v) h s = _
  unfold execTapCtrlWrite
  rw [hl]; rfl

theorem exec_tapCtrlWrite_host (hl : s.held.filter (fun w => w.off == tapUnit) = []) (v : Word32) :
    exec (.tapCtrlWrite none (some v)) s = .next (writeTapCtl v.toNat s) := by
  show execTapCtrlWrite none (some v) s = _
  unfold execTapCtrlWrite
  rw [hl]; rfl

/-- R515: with waiting writes, all those of the PCLK are taken together, keeper firmware's fields first. -/
theorem exec_tapCtrlWrite_held (k h : Option Word32) {l : List HeldWrite}
    (hl : s.held.filter (fun w => w.off == tapUnit) = l) (hne : l ≠ []) :
    exec (.tapCtrlWrite k h) s = .next (writeTapCtl (heldValue (flagNat s.tap.en + put 8 6 s.tap.src.toNat)
      (keeperFirst ctlFields (l ++ (k.map fun v => HeldWrite.mk tapUnit v.toNat (2 ^ 32 - 1) true).toList ++
        (h.map fun v => HeldWrite.mk tapUnit v.toNat (2 ^ 32 - 1) false).toList))) (dropHeld tapUnit s)) := by
  obtain ⟨w, ws, rfl⟩ := List.exists_cons_of_ne_nil hne
  show execTapCtrlWrite k h s = _
  unfold execTapCtrlWrite
  rw [hl]

end

/-! ### Overflow of a global counter -/

/-- R448: the counter's wrap has become its overflow flag. -/
def notedWrap (g : Fin 16) (s : State) : State :=
  { s with
    tap := { s.tap with glbs := upd s.tap.glbs g.val fun c => { c with wrapped := false, ovf := true } }
    cyc := { s.cyc with wraps := g.val :: s.cyc.wraps } }

theorem exec_ctrOverflow_wrapped {s : State} {g : Fin 16} (h : (nth s.tap.glbs g.val {}).wrapped = true) :
    exec (.ctrOverflow g) s = .next (if (nth s.tap.glbs g.val {}).irqEn
      then signalMsix (raise 0x1110 (notedWrap g s)) 17 else raise 0x1110 (notedWrap g s)) :=
  if_pos (by rw [h, Bool.true_or])

theorem exec_ctrOverflow_idle {s : State} {g : Fin 16} (hw : (nth s.tap.glbs g.val {}).wrapped = false)
    (ho : selOpen (selNow s (nth s.tap.glbs g.val {})) = false) : exec (.ctrOverflow g) s = .next s :=
  if_neg (by rw [hw, ho]; decide)

/-- R459: CTR_OVERFLOW sends no message of its own. -/
theorem raise_overflow_posted (s : State) : (raise 0x1110 s).hif.posted = s.hif.posted := by
  show (pushFifo (noteSet 0x1110 (markEvt s 0x1110)) 0x1110).hif.posted = _
  unfold pushFifo
  split <;> rfl

/-! ### Snapshot reads -/

/-- A live value leaves everything but the model's count of free values. -/
theorem counterValue_frame (s : State) (c : CounterName) : ∃ n, (counterValue s c).2 = { s with draws := n } := by
  cases c with
  | global g =>
    unfold counterValue
    dsimp only
    split
    · exact ⟨_, rfl⟩
    · exact ⟨s.draws, rfl⟩
  | sourceCmd | sourceBusy | sourceErr | time => exact ⟨s.draws, rfl⟩

section
variable {s : State} {who : Agent} {c : CounterName}

/-- R449: the low word is the live one, and the reader's latch takes the whole value. -/
theorem ctrReadLow_latches {v : Word64} {u : State} (h : counterValue s c = (v, u)) (id : Nat) : ctrReadLow id c s =
    (v &&& 0xFFFFFFFF, { u with tap := { u.tap with latches := takeLatch (BitVec.ofNat 10 id) c v u.tap.latches } }) := by
  simp only [ctrReadLow, h]

theorem exec_ctrReadLow_taken (h : mayReadCounter s who c = true) : exec (.ctrReadLow who c) s =
    .next { (ctrReadLow (agentId who) c s).2 with tap := { (ctrReadLow (agentId who) c s).2.tap with
      readValue := (ctrReadLow (agentId who) c s).1 } } := if_pos h

theorem exec_ctrReadHigh_taken (h : mayReadCounter s who c = true) : exec (.ctrReadHigh who c) s =
    .next { (ctrReadHigh (agentId who) c s).2 with tap := { (ctrReadHigh (agentId who) c s).2.tap with
      readValue := (ctrReadHigh (agentId who) c s).1 } } := if_pos h

/-- R449: the high word comes from the reader's latch of that counter, which it gives back. -/
theorem ctrReadHigh_latched {id : Nat} {e : Latch}
    (h : (s.tap.latches.find? fun e => e.id == BitVec.ofNat 10 id && e.ctr == c) = some e) : ctrReadHigh id c s =
    (e.value >>> 32, { s with tap := { s.tap with
      latches := s.tap.latches.filter fun q => q.id != BitVec.ofNat 10 id } }) := by
  simp only [ctrReadHigh, h]

/-- R449: without a latch the high word is the live one, and an event says so. -/
theorem ctrReadHigh_live {id : Nat}
    (h : (s.tap.latches.find? fun e => e.id == BitVec.ofNat 10 id && e.ctr == c) = none) : ctrReadHigh id c s =
    ((counterValue s c).1 >>> 32, raise 0x1111 (counterValue s c).2) := by
  simp only [ctrReadHigh, h]

/-- R447: a read that is not allowed is refused. -/
theorem exec_ctrRead_refused (h : mayReadCounter s who c = false) :
    exec (.ctrReadLow who c) s = .next (refuseRsr who s) ∧ exec (.ctrReadHigh who c) s = .next (refuseRsr who s) :=
  ⟨if_neg (by rw [h]; decide), if_neg (by rw [h]; decide)⟩

end

theorem refuseRsr_other {who : Agent} (h : ∀ q : Fin 256, who ≠ .thread q) (s : State) : refuseRsr who s = s := by
  cases who with
  | thread q => exact absurd rfl (h q)
  | _ => rfl

/-- R267: a running thread that is refused takes PRIV. -/
theorem refuseRsr_running {q : Fin 256} {s : State} (h : (threadAt s q.val).st = .running) :
    refuseRsr (.thread q) s = fault q.val 0x02 0 0 s := if_pos (beq_iff_eq.mpr h)

/-! ### The statement -/

/-- Settles O58: each clause is the branch that its command takes; an admitted line leaves what `LineWritten` says, and taking
a counter's live value leaves every field of Tap alone. -/
theorem traceAndCounters : Obligations.TraceAndCounters := by
  intro s
  refine ⟨fun a b rest hf => ⟨fun hgo => ⟨fun hok hp => ?written, fun u hden hu => ?denied, ?uncorrectable⟩,
      fun ecc hgo => exec_tapLineWrite_waits hf hgo ecc⟩,
    lineMayGo_eq_false, fun ecc h => exec_tapLineWrite_short h ecc, exec_tapPad_idle,
    fun a hf hgo => ⟨fun hlate => ?padded, fun hearly => ?unpadded⟩,
    fun h => ⟨fun hw => ?stopped, fun hw => ?kept⟩, exec_tapWriteError_idle,
    fun k h l hl => ⟨fun hnil hk hh => ?noWrite, exec_tapCtrlWrite_held k h hl⟩,
    fun v h hl => ⟨?either, fun hok => ?taken, fun hv he hr => ?refused⟩,
    fun g hg hw => ?overflow, fun g => exec_ctrOverflow_idle,
    fun who c v u hmay hval => ⟨?low, fun e he => ?latched, fun hnone => ?live⟩,
    fun who c hmay hwho => ?other, fun q c hmay hrun => ?thread⟩
  case written =>
    obtain ⟨hfifo, hwr, hmem, hothers⟩ := writeLine_written a.1 b.1 rest hok hp
    exact ⟨_, exec_tapLineWrite_clean hf hgo, hfifo, hwr, hmem, hothers⟩
  case denied =>
    rw [exec_tapLineWrite_clean hf hgo, writeLine_denied _ _ _ hden, hu]
  case uncorrectable =>
    rw [exec_tapLineWrite_uncorrectable hf hgo, fifoError_joins]
  case padded =>
    rw [exec_tapPad_single hf, hgo, decide_eq_true hlate]; rfl
  case unpadded =>
    rw [exec_tapPad_single hf, decide_eq_false (Nat.not_le.2 hearly)]; rfl
  case stopped =>
    rw [exec_tapWriteError_taken h, tapError_stops hw]
  case kept =>
    rw [exec_tapWriteError_taken h, tapError_after_write hw]
  case noWrite =>
    subst hnil hk hh
    exact exec_tapCtrlWrite_none hl
  case either =>
    rw [exec_tapCtrlWrite_keeper hl, exec_tapCtrlWrite_host hl]
  case taken =>
    rw [exec_tapCtrlWrite_keeper hl, writeTapCtl_taken hok]
  case refused =>
    exact ⟨_, exec_tapCtrlWrite_keeper hl v h, writeTapCtl_refused hv he hr, writeTapCtl_mem ..⟩
  case overflow =>
    refine ⟨_, raise 0x1110 (notedWrap g s), exec_ctrOverflow_wrapped hw, rfl, ?_, raise_overflow_posted _, raise_mem ..⟩
    rw [raise_tap_glbs]
    exact nth_upd_same _ _ hg
  case low =>
    obtain ⟨n, hn⟩ := counterValue_frame s c
    rw [hval] at hn
    subst hn
    rw [exec_ctrReadLow_taken hmay, ctrReadLow_latches hval]
    exact ⟨_, rfl, rfl, rfl, rfl, rfl, rfl⟩
  case latched =>
    rw [exec_ctrReadHigh_taken hmay, ctrReadHigh_latched he]
  case live =>
    refine ⟨_, exec_ctrReadHigh_taken hmay, ?_, ctrReadHigh_mem ..⟩
    rw [ctrReadHigh_live hnone, hval]
  case other =>
    obtain ⟨hlow, hhigh⟩ := exec_ctrRead_refused hmay
    rw [hlow, hhigh, refuseRsr_other hwho]
    exact ⟨rfl, rfl⟩
  case thread =>
    rw [← refuseRsr_running hrun]
    exact exec_ctrRead_refused hmay

end Sys2Proof.Machine
end

section
/-! Transfers on the safety channels (R462, R463, R468, R474, R476) and the gap without a consumed message (R471). -/

namespace Sys2Proof.Machine

/-! ### A safety channel changed -/

section
variable (s : State) (ch : Channel) (f g : SafetyCh → SafetyCh)

@[simp] theorem chanOf_updChan_same : chanOf (updChan s ch f) ch = f (chanOf s ch) := by
  cases ch with
  | a => rfl
  | b => rfl

theorem updChan_updChan : updChan (updChan s ch f) ch g = updChan s ch fun c => g (f c) := by
  cases ch with
  | a => rfl
  | b => rfl

@[simp] theorem now_updChan : now (updChan s ch f) = now s := by
  cases ch with
  | a => rfl
  | b => rfl

variable {s ch f g}

theorem chanOf_updChan_of_ne {c : Channel} (h : c ≠ ch) : chanOf (updChan s ch f) c = chanOf s c := by
  match c, ch, h with
  | .a, .b, _ => rfl
  | .b, .a, _ => rfl
  | .a, .a, h => exact absurd rfl h
  | .b, .b, h => exact absurd rfl h

/-- Only what a change makes of the channel as it stands counts. -/
theorem updChan_congr (h : f (chanOf s ch) = g (chanOf s ch)) : updChan s ch f = updChan s ch g := by
  cases ch with
  | a => exact congrArg (fun c => { s with sfp := { s.sfp with chA := c } }) h
  | b => exact congrArg (fun c => { s with sfp := { s.sfp with chB := c } }) h

end

/-! ### The message of a transfer -/

section
variable {s : State} {ch : Channel}

/-- R61, R471: in HOLD and OFF, and without VDD_ASY, a transfer has no message. -/
theorem messageFor_silent (h : channelsAnswer s = false) (n : Nat) : messageFor s ch n = none := by
  simp only [messageFor, h, Bool.not_false, if_true]

/-- R476: without the Assayer firmware the message is the frozen one. -/
theorem messageFor_frozen (h : channelsAnswer s = true) (ha : assayerStarted s = false) (n : Nat) :
    messageFor s ch n = (chanOf s ch).frozen := by
  simp only [messageFor, h, ha, Bool.not_true, Bool.false_eq_true, if_false]

theorem messageFor_live (h : channelsAnswer s = true) (ha : assayerStarted s = true) (n : Nat) :
    messageFor s ch n = some (formMessage s ch n) := by
  simp only [messageFor, h, ha, Bool.not_true, Bool.false_eq_true, if_false, if_true]

variable {t n : Nat} (h : (chanOf s ch).forming = some (t, n))
include h

theorem formDue_waits (ht : s.clock.watch < t) : formDue ch s = s := by
  simp only [formDue, h]
  exact if_pos ht

/-- R462, R469, R474: at its time the message is formed, and a live one shows a lost notice. -/
theorem formDue_forms (ht : t ≤ s.clock.watch) : formDue ch s = updChan s ch fun c => { c with
    forming := none, cur := messageFor s ch n, formed := c.formed || (channelsAnswer s && assayerStarted s),
    noticeLost := c.noticeLost && !(channelsAnswer s && assayerStarted s) } := by
  simp only [formDue, h]
  exact if_neg (Nat.not_lt.2 ht)

end

/-! ### The end of a transfer -/

/-- R462: CS_N is high, and no message stands. -/
def endTransfer (c : SafetyCh) : SafetyCh := { c with selected := false, forming := none, cur := none }

/-- R468, R469: a message has been cut short; a lost notice that it showed is to be shown again. -/
def cutMessage (m : Message) (c : SafetyCh) : SafetyCh :=
  { c with trunc := satAdd 32 c.trunc 1, noticeLost := c.noticeLost || m.hdr.noticeLost }

/-- R468: a message that carries the channel's number moves it on and takes its records out of the queue. -/
theorem consumeMessage_current {m : Message} {c : SafetyCh} (hs : m.hdr.safe ≠ 2) (hq : m.hdr.seq = c.msgSeq) (t : Nat) :
    consumeMessage m t c = { c with
      lastConsumed := t, lateRaised := false, lastSeq := m.hdr.seq,
      msgSeq := c.msgSeq + 1, queue := c.queue.drop m.records.length } := by
  have hf : (m.hdr.safe == 2 || m.hdr.seq != c.msgSeq) = false := by
    rw [beq_eq_false_iff_ne.2 hs, hq, bne_self_eq_false, Bool.or_self]
  simp only [consumeMessage, hf, Bool.false_eq_true, if_false]

/-- R476: a frozen or a stale message is consumed and advances nothing. -/
theorem consumeMessage_stale {m : Message} {c : SafetyCh} (h : m.hdr.safe = 2 ∨ m.hdr.seq ≠ c.msgSeq) (t : Nat) :
    consumeMessage m t c = { c with lastConsumed := t, lateRaised := false, lastSeq := m.hdr.seq } := by
  have hf : (m.hdr.safe == 2 || m.hdr.seq != c.msgSeq) = true := by simpa using h
  simp only [consumeMessage, hf, if_true]

/-! ### The commands of a channel -/

section
variable {s : State} {ch : Channel}

theorem exec_spiCsFall_selects (h : (chanOf s ch).selected = false) : exec (.spiCsFall ch) s =
    .next (updChan s ch fun c => { c with
      selected := true, forming := some (6 * (s.clock.watch / 6 + 2), queuedBefore s (chanOf s ch)) }) :=
  if_neg (by rw [h]; decide)

theorem exec_spiCsFall_idle (h : (chanOf s ch).selected = true) : exec (.spiCsFall ch) s = .next s := if_pos h

theorem exec_spiCsRise_idle (h : (chanOf s ch).selected = false) (bytes : Nat) : exec (.spiCsRise ch bytes) s = .next s :=
  if_pos (by rw [h]; rfl)

/-- R462: the rise of CS_N ends a transfer without a message. -/
theorem exec_spiCsRise_silent (h : (chanOf s ch).selected = true) (hm : (chanOf s ch).cur = none) (bytes : Nat) :
    exec (.spiCsRise ch bytes) s = .next (updChan s ch endTransfer) := by
  show execSpiCsRise ch bytes s = _
  simp only [execSpiCsRise, h, hm, Bool.not_true, Bool.false_eq_true, if_false]
  rfl

variable {m : Message} {bytes : Nat} (h : (chanOf s ch).selected = true) (hm : (chanOf s ch).cur = some m)
include h hm

/-- R468: what becomes of a message turns on the bytes that were clocked. -/
theorem exec_spiCsRise_message : exec (.spiCsRise ch bytes) s = if m.bytes.length ≤ bytes
    then .next (updChan s ch fun c => consumeMessage m (now s) (endTransfer c))
    else .next (raise 0x1211 (updChan s ch fun c => cutMessage m (endTransfer c))) := by
  show execSpiCsRise ch bytes s = _
  simp only [execSpiCsRise, h, hm, Bool.not_true, Bool.false_eq_true, if_false, updChan_updChan, now_updChan]
  rfl

theorem exec_spiCsRise_whole (hb : m.bytes.length ≤ bytes) : exec (.spiCsRise ch bytes) s =
    .next (updChan s ch fun c => consumeMessage m (now s) (endTransfer c)) := by
  rw [exec_spiCsRise_message h hm, if_pos hb]

theorem exec_spiCsRise_short (hb : bytes < m.bytes.length) : exec (.spiCsRise ch bytes) s =
    .next (raise 0x1211 (updChan s ch fun c => cutMessage m (endTransfer c))) := by
  rw [exec_spiCsRise_message h hm, if_neg (Nat.not_le.2 hb)]

end

section
variable {s : State} {ch : Channel}

/-- R471: the gap counts on a channel that answers, with the Assayer firmware started, and is raised once. -/
theorem exec_sfpPollLate_idle (h : (chanOf s ch).lateRaised = true ∨ channelsAnswer s = false ∨ assayerStarted s = false) :
    exec (.sfpPollLate ch) s = .next s := by
  refine if_neg ?_
  rcases h with h | h | h
  · simp [h]
  · simp [h]
  · simp [h]

theorem exec_sfpPollLate_early (h : now s < (chanOf s ch).lastConsumed + 2400000) :
    exec (.sfpPollLate ch) s = .next s :=
  if_neg (by rw [decide_eq_false (Nat.not_le.2 h), Bool.and_false]; decide)

theorem exec_sfpPollLate_raises (hc : channelsAnswer s = true) (ha : assayerStarted s = true)
    (hl : (chanOf s ch).lateRaised = false) (h : (chanOf s ch).lastConsumed + 2400000 ≤ now s) :
    exec (.sfpPollLate ch) s = .next (raise 0x1212 (updChan s ch fun c => { c with lateRaised := true })) :=
  if_pos (by rw [hc, ha, hl, decide_eq_true h]; rfl)

end

/-! ### The statement -/

/-- Settles O60: each clause is the branch that its command takes; whether a whole message advances the channel turns on the
number that the channel has when the message is consumed. -/
theorem safetyMessagesTransferred : Obligations.SafetyMessagesTransferred := by
  intro s ch
  refine ⟨exec_spiCsFall_selects, exec_spiCsFall_idle,
    fun t n hf => ⟨formDue_waits hf, fun ht => ?formed⟩,
    exec_spiCsRise_silent,
    fun m bytes hsel hm => ⟨fun hb hs hq => ?current, fun hb hstale => ?stale, exec_spiCsRise_short hsel hm⟩,
    exec_spiCsRise_idle,
    fun hc ha hl => ⟨exec_sfpPollLate_raises hc ha hl, exec_sfpPollLate_early⟩,
    exec_sfpPollLate_idle, fun c hne f => chanOf_updChan_of_ne hne⟩
  case formed =>
    rw [formDue_forms hf ht, chanOf_updChan_same]
    exact ⟨fun hc => messageFor_silent hc n, fun hc ha => messageFor_frozen hc ha n,
      fun hc ha => ⟨messageFor_live hc ha n, by simp [hc, ha]⟩, rfl, rfl⟩
  case current =>
    rw [exec_spiCsRise_whole hsel hm hb]
    exact congrArg Host.Outcome.next (updChan_congr (consumeMessage_current (c := endTransfer (chanOf s ch)) hs hq (now s)))
  case stale =>
    rw [exec_spiCsRise_whole hsel hm hb]
    exact congrArg Host.Outcome.next (updChan_congr (consumeMessage_stale (c := endTransfer (chanOf s ch)) hstale (now s)))

end Sys2Proof.Machine
end

section
/-! The detections that enter S2 (R34, R58, R60, R368, R369, R384, R434, R464, R473, R496, R504). -/

namespace Sys2Proof.Machine

/-! ### An entry to S2 by a command -/

/-- What a detection notes first of the clocks and of the rails is no part of what its entry to S2 leaves. -/
theorem detectS2_enters_noted (code : EventCode) (s : State) (pwr : Pwr) (rails : Rails) (h : s.ret.s2Held = false)
    (hn : s2Now s = false) : S2Entered code s (detectS2 code { s with pwr := pwr, rails := rails }) :=
  have he := detectS2_enters code { s with pwr := pwr, rails := rails } h hn
  s2Entered_congr he rfl rfl rfl rfl rfl rfl he.raised

/-! ### The commands of the detections -/

/-- R60, R74: a rail is monitored while VDD_ASY stands; VDD_CORE is so once it has come up, and outside its mask. -/
def RailMonitored (s : State) : MonitoredRail → Prop
  | .asy => s.rails.asy = true
  | .core => s.rails.asy = true ∧ s.rails.core = true ∧ s.rails.coreMasked = false ∧ s.sys.powerUpFailed = false

/-- R60: the event of a rail that is outside its limits. -/
def supplyCode : MonitoredRail → EventCode
  | .core => 0x0230
  | .asy => 0x0231

section
variable {s : State}

/-- R58, R74: the lock detector is watched while the PLL is up. -/
theorem exec_pllUnlock_detects (h : pllUp s = true) : exec .pllUnlock s =
    .next (detectS2 0x0220 { s with pwr := { s.pwr with pllLock := false } }) := if_pos h

/-- R56, R74: REFCLK is watched while the PLL is up, and all through a HOLD exit. -/
theorem exec_refclkLost_detects (h : pllUp s = true ∨ s.rails.asy = true ∧ holdExiting s = true) : exec .refclkLost s =
    .next (detectS2 0x0221 { s with pwr := { s.pwr with refOk := false } }) :=
  if_pos (by simpa using h)

/-- R60, R491: a monitored rail outside its limits for more than 2.0 µs is detected. -/
theorem exec_supplyExcursion_detects {rail : MonitoredRail} {mv eclk : Nat} (hm : RailMonitored s rail)
    (hbad : railBad rail mv = true) (hlong : 2400 < eclk) :
    exec (.supplyExcursion rail mv eclk) s = .next (detectS2 (supplyCode rail) s) := by
  have hl := decide_eq_true hlong
  cases rail with
  | asy =>
    have hasy : s.rails.asy = true := hm
    exact if_pos (by rw [hasy, hbad, hl]; rfl)
  | core =>
    obtain ⟨hasy, hcore, hmask, hfail⟩ := hm
    exact if_pos (by rw [hasy, hcore, hmask, hfail, hbad, hl]; rfl)

/-- R496: VDD_IO is watched while VDD_ASY stands. -/
theorem exec_vddIoLow_detects (h : s.rails.asy = true) : exec .vddIoLow s =
    .next (detectS2 0x1215 { s with rails := { s.rails with io := false } }) := if_pos h

/-- R504: the second of two readings above 115 °C in a row trips. -/
theorem exec_tempTrip_detects (ha : s.rails.asy = true) (h : 2 ≤ s.pwr.hotRun) :
    exec .tempTrip s = .next (detectS2 0x0233 s) :=
  if_pos (by rw [ha, decide_eq_true h]; rfl)

/-- R74: a HOLD exit gives VDD_CORE 10 ms to return. -/
theorem exec_holdCoreTimeout_detects (ha : s.rails.asy = true) (hx : holdExiting s = true) (hc : s.rails.core = false)
    (h : s.rails.holdFellAt + Config.watchSpan 12000000 s.rails.holdFellAt ≤ s.clock.watch) :
    exec .holdCoreTimeout s = .next (detectS2 0x0230 s) :=
  if_pos (by rw [ha, hx, hc, decide_eq_true h]; rfl)

theorem exec_asyLockstep_detects (h : assayerRuns s = true) : exec .asyLockstep s = .next (detectS2 0x0E01 s) := if_pos h

/-- R369: the Assayer firmware has 1.2 ms for its next heartbeat burst. -/
theorem exec_heartbeatMissed_detects (hr : assayerRuns s = true)
    (h : s.asy.lastBurst + Config.watchSpan 1440000 s.asy.lastBurst ≤ s.clock.watch) :
    exec .heartbeatMissed s = .next (detectS2 0x0E02 s) :=
  if_pos (by rw [hr, decide_eq_true h]; rfl)

/-- R434: the eighth drifting residual in a row loses the reference time. -/
theorem exec_lnkTimeLost_detects (h : 8 ≤ s.lnk.driftRun) : exec .lnkTimeLost s = .next (detectS2 0x1007 s) := if_pos h

/-- R473: the pads are compared while their supply stands. -/
theorem exec_sfpLineStuck_detects (ha : s.rails.asy = true) (hio : s.rails.io = true) (line : SafetyLine) :
    exec (.sfpLineStuck line) s = .next (detectS2 0x1215 s) :=
  if_pos (by rw [ha, hio]; rfl)

end

/-! ### The statement -/

/-- Settles O11: each command, where its condition holds, is a detection that calls for S2, of the state as it was or with the
lost clock or supply noted in it, and every such detection enters S2. -/
theorem detectionsEnterS2 : Obligations.DetectionsEnterS2 := by
  intro s hheld hnow
  have enters (code : EventCode) : S2Entered code s (detectS2 code s) := detectS2_enters code s hheld hnow
  have entersNoted (code : EventCode) (pwr : Pwr) (rails : Rails) :
      S2Entered code s (detectS2 code { s with pwr := pwr, rails := rails }) :=
    detectS2_enters_noted code s pwr rails hheld hnow
  exact ⟨
    fun h => ⟨_, exec_pllUnlock_detects h, entersNoted 0x0220 _ _⟩,
    fun h => ⟨_, exec_refclkLost_detects h, entersNoted 0x0221 _ _⟩,
    fun _ _ ha hmv hlong => ⟨_, exec_supplyExcursion_detects (rail := .asy) ha (decide_eq_true hmv) hlong, enters 0x0231⟩,
    fun _ _ ha hc hmask hfail hmv hlong =>
      ⟨_, exec_supplyExcursion_detects (rail := .core) ⟨ha, hc, hmask, hfail⟩ (decide_eq_true hmv) hlong, enters 0x0230⟩,
    fun ha => ⟨_, exec_vddIoLow_detects ha, entersNoted 0x1215 _ _⟩,
    fun ha h => ⟨_, exec_tempTrip_detects ha h, enters 0x0233⟩,
    fun ha hx hc h => ⟨_, exec_holdCoreTimeout_detects ha hx hc h, enters 0x0230⟩,
    fun h => ⟨_, exec_asyLockstep_detects h, enters 0x0E01⟩,
    fun hr h => ⟨_, exec_heartbeatMissed_detects hr h, enters 0x0E02⟩,
    fun hr h => exec_heartbeatBurst_wrong_enters hr h hheld hnow,
    fun h => ⟨_, exec_lnkTimeLost_detects h, enters 0x1007⟩,
    fun line ha hio => ⟨_, exec_sfpLineStuck_detects ha hio line, enters 0x1215⟩⟩

end Sys2Proof.Machine
end

section
/-! The Riser words (R271): fields of a word that lie side by side join, and a field of joined parts is one of them. -/

namespace Sys2Proof.Machine

/-! ### From the word to the instruction and back -/

/-- Two fields side by side are one field. -/
theorem field_join (w : Word32) {hi lo m n : Nat} (h : hi = lo + n) :
    field w hi m ++ field w lo n = field w lo (m + n) :=
  BitVec.extractLsb'_append_extractLsb'_eq_extractLsb' h

theorem field_whole (w : Word32) : field w 0 32 = w := BitVec.extractLsb'_eq_self

/-- The op field is the op that the decoder compares it with. -/
theorem field_op {w : Word32} {k : BitVec 6} (h : (field w 26 6).toNat = k.toNat) : k = field w 26 6 :=
  (BitVec.eq_of_toNat_eq h).symm

/-- R271: a word with no bit set where its form has none. -/
theorem listed_of_reserved {c : Prop} [Decidable c] {r : RiserWord} {i : Instr}
    (h : (if c then .illegal else r) = .listed i) : ¬c ∧ r = .listed i := by
  by_cases hc : c
  · rw [if_pos hc] at h; cases h
  · exact ⟨hc, by rwa [if_neg hc] at h⟩

theorem ite_cases {α : Type} {c : Prop} [Decidable c] {a b x : α} (h : (if c then a else b) = x) :
    c ∧ a = x ∨ ¬c ∧ b = x := by
  by_cases hc : c
  · exact .inl ⟨hc, by rwa [if_pos hc] at h⟩
  · exact .inr ⟨hc, by rwa [if_neg hc] at h⟩

theorem bit_eq_zero {b : BitVec 1} (h : b ≠ 1) : b = 0 := by
  revert b; decide

/-- Reserved fields that are 0, as the decoder tests them. -/
theorem eq_zero_of_not_ne {n : Nat} {x : BitVec n} (h : ¬x ≠ 0) : 0 = x := (Decidable.not_not.1 h).symm

/-- A word's encoding is the word when its parts are the word's fields side by side. -/
theorem encodes_whole {w v : Word32} {i : Instr} (he : encodeRiser i = some v) (hv : v = field w 0 32) :
    encodeRiser i = some w := by
  rw [he, hv, field_whole]

/-- Settles O4: each instruction's encoding joins the fields that the decoder took, with the fields that it found 0. -/
theorem riserWordOfInstruction : Obligations.RiserWordOfInstruction := by
  intro t w i h
  unfold decodeRiser at h
  dsimp only at h
  rcases ite_cases h with ⟨op, h⟩ | ⟨-, h⟩
  · obtain ⟨-, ⟨⟩⟩ := listed_of_reserved h
    refine encodes_whole rfl ?_
    rw [field_op (k := 0x10) op]
    simp only [field_join]
  rcases ite_cases h with ⟨op, ⟨⟩⟩ | ⟨-, h⟩
  · refine encodes_whole rfl ?_
    rw [field_op (k := 0x11) op]
    simp only [field_join]
  rcases ite_cases h with ⟨op, h⟩ | ⟨-, h⟩
  · obtain ⟨hz, h⟩ := listed_of_reserved h
    rcases ite_cases h with ⟨hb, ⟨⟩⟩ | ⟨hb, ⟨⟩⟩
    · refine encodes_whole rfl ?_
      rw [field_op (k := 0x12) op, eq_zero_of_not_ne hz, ← hb]
      simp only [field_join]
    · refine encodes_whole rfl ?_
      rw [field_op (k := 0x12) op, show (0 : BitVec 21) = field w 20 1 ++ field w 0 20 by
        rw [bit_eq_zero hb, ← eq_zero_of_not_ne hz]; rfl]
      simp only [field_join]
  rcases ite_cases h with ⟨op, h⟩ | ⟨-, h⟩
  · obtain ⟨hz, ⟨⟩⟩ := listed_of_reserved h
    refine encodes_whole rfl ?_
    rw [field_op (k := 0x14) op, eq_zero_of_not_ne fun hn => hz (.inl hn)]
    simp only [field_join]
  rcases ite_cases h with ⟨op, h⟩ | ⟨-, h⟩
  · obtain ⟨hz, ⟨⟩⟩ := listed_of_reserved h
    refine encodes_whole rfl ?_
    rw [field_op (k := 0x18) op, eq_zero_of_not_ne hz]
    simp only [field_join]
  rcases ite_cases h with ⟨op, ⟨⟩⟩ | ⟨-, h⟩
  · refine encodes_whole rfl ?_
    rw [field_op (k := 0x20) op]
    simp only [field_join]
  rcases ite_cases h with ⟨op, ⟨⟩⟩ | ⟨-, h⟩
  · refine encodes_whole rfl ?_
    rw [field_op (k := 0x21) op]
    simp only [field_join]
  rcases ite_cases h with ⟨op, h⟩ | ⟨-, h⟩
  · obtain ⟨hz, ⟨⟩⟩ := listed_of_reserved h
    refine encodes_whole rfl ?_
    rw [field_op (k := 0x30) op, eq_zero_of_not_ne hz]
    simp only [field_join]
  rcases ite_cases h with ⟨op, h⟩ | ⟨-, h⟩
  · obtain ⟨hz, ⟨⟩⟩ := listed_of_reserved h
    refine encodes_whole rfl ?_
    rw [field_op (k := 0x31) op, eq_zero_of_not_ne hz]
    simp only [field_join]
  rcases ite_cases h with ⟨op, h⟩ | ⟨-, h⟩
  · obtain ⟨hz, ⟨⟩⟩ := listed_of_reserved h
    refine encodes_whole rfl ?_
    rw [field_op (k := 0x38) op, eq_zero_of_not_ne hz]
    simp only [field_join]
  rcases ite_cases h with ⟨op, h⟩ | ⟨-, h⟩
  · obtain ⟨hz, ⟨⟩⟩ := listed_of_reserved h
    refine encodes_whole rfl ?_
    rw [field_op (k := 0x39) op, eq_zero_of_not_ne hz]
    simp only [field_join]
  rcases ite_cases h with ⟨op, h⟩ | ⟨-, h⟩
  · obtain ⟨hz, ⟨⟩⟩ := listed_of_reserved h
    refine encodes_whole rfl ?_
    rw [field_op (k := 0x3A) op, eq_zero_of_not_ne hz]
    simp only [field_join]
  rcases ite_cases h with ⟨op, h⟩ | ⟨-, h⟩
  · obtain ⟨hz, ⟨⟩⟩ := listed_of_reserved h
    refine encodes_whole rfl ?_
    rw [field_op (k := 0x3B) op, eq_zero_of_not_ne hz]
    simp only [field_join]
  cases h

/-! ### From the instruction to the word and back -/

section
variable {a b c d e : Nat} (x : BitVec a) (y : BitVec b) (z : BitVec c) (u : BitVec d) (v : BitVec e)

/-- A field of the high part of two joined parts. -/
theorem extract_high (k n : Nat) : (x ++ y).extractLsb' (k + b) n = x.extractLsb' k n := by
  rw [BitVec.extractLsb'_append_eq_of_le (Nat.le_add_left ..), Nat.add_sub_cancel]

theorem parts_two : (x ++ y).extractLsb' b a = x ∧ (x ++ y).extractLsb' 0 b = y :=
  ⟨BitVec.extractLsb'_append_eq_left, BitVec.extractLsb'_append_eq_right⟩

theorem parts_three : (x ++ y ++ z).extractLsb' (b + c) a = x ∧ (x ++ y ++ z).extractLsb' c b = y ∧
    (x ++ y ++ z).extractLsb' 0 c = z := by
  obtain ⟨hx, hy⟩ := parts_two x y
  refine ⟨(extract_high _ z b a).trans hx, ?_, (parts_two _ z).2⟩
  simpa only [Nat.zero_add, hy] using extract_high (x ++ y) z 0 b

theorem parts_four : (x ++ y ++ z ++ u).extractLsb' (b + c + d) a = x ∧ (x ++ y ++ z ++ u).extractLsb' (c + d) b = y ∧
    (x ++ y ++ z ++ u).extractLsb' d c = z ∧ (x ++ y ++ z ++ u).extractLsb' 0 d = u := by
  obtain ⟨hx, hy, hz⟩ := parts_three x y z
  refine ⟨(extract_high _ u _ a).trans hx, (extract_high _ u _ b).trans hy, ?_, (parts_two _ u).2⟩
  simpa only [Nat.zero_add, hz] using extract_high (x ++ y ++ z) u 0 c

theorem parts_five : (x ++ y ++ z ++ u ++ v).extractLsb' (b + c + d + e) a = x ∧
    (x ++ y ++ z ++ u ++ v).extractLsb' (c + d + e) b = y ∧ (x ++ y ++ z ++ u ++ v).extractLsb' (d + e) c = z ∧
    (x ++ y ++ z ++ u ++ v).extractLsb' e d = u ∧ (x ++ y ++ z ++ u ++ v).extractLsb' 0 e = v := by
  obtain ⟨hx, hy, hz, hu⟩ := parts_four x y z u
  refine ⟨(extract_high _ v _ a).trans hx, (extract_high _ v _ b).trans hy, (extract_high _ v _ c).trans hz, ?_,
    (parts_two _ v).2⟩
  simpa only [Nat.zero_add, hu] using extract_high (x ++ y ++ z ++ u) v 0 d

end

section
variable (t : Fin 256) {w : Word32}

/-- R271: the decoder's answer by the op field, one form each. -/
theorem decodeRiser_bcc (op : field w 26 6 = 0x10) (hc : field w 23 3 ≠ 7) :
    decodeRiser t w = .listed (.bcc t (field w 23 3) (field w 18 5) (field w 13 5) (field w 0 13)) := by
  have hc' : field w 23 3 ≠ 7#3 := hc
  simp [decodeRiser, op, hc']

theorem decodeRiser_bal (op : field w 26 6 = 0x11) : decodeRiser t w = .listed (.bal t (field w 0 26)) := by
  simp [decodeRiser, op]

theorem decodeRiser_jr (op : field w 26 6 = 0x12) (hz : field w 0 20 = 0) (hb : field w 20 1 = 0) :
    decodeRiser t w = .listed (.jr t (field w 21 5)) := by
  simp [decodeRiser, op, hz, hb]

theorem decodeRiser_jalr (op : field w 26 6 = 0x12) (hz : field w 0 20 = 0) (hb : field w 20 1 = 1) :
    decodeRiser t w = .listed (.jalr t (field w 21 5)) := by
  simp [decodeRiser, op, hz, hb]

theorem decodeRiser_loopn (op : field w 26 6 = 0x14) (hz : field w 0 4 = 0) (hl : field w 4 16 ≠ 0) :
    decodeRiser t w = .listed (.loopn t (field w 25 1) (field w 20 5) (field w 4 16)) := by
  have hl' : field w 4 16 ≠ 0#16 := hl
  simp [decodeRiser, op, hz, hl']

theorem decodeRiser_mode (op : field w 26 6 = 0x18) (hz : field w 1 25 = 0) :
    decodeRiser t w = .listed (.mode t (field w 0 1)) := by
  simp [decodeRiser, op, hz]

theorem decodeRiser_resld (op : field w 26 6 = 0x20) :
    decodeRiser t w = .listed (.resld t (field w 21 5) (field w 16 5) (field w 0 16) .clean) := by
  simp [decodeRiser, op]

theorem decodeRiser_condst (op : field w 26 6 = 0x21) :
    decodeRiser t w = .listed (.condst t (field w 21 5) (field w 16 5) (field w 11 5) (field w 0 11) .clean) := by
  simp [decodeRiser, op]

theorem decodeRiser_sealStores (op : field w 26 6 = 0x30) (hz : field w 0 26 = 0) :
    decodeRiser t w = .listed (.sealStores t) := by
  simp [decodeRiser, op, hz]

theorem decodeRiser_ioseal (op : field w 26 6 = 0x31) (hz : field w 0 26 = 0) :
    decodeRiser t w = .listed (.ioseal t) := by
  simp [decodeRiser, op, hz]

theorem decodeRiser_trap (op : field w 26 6 = 0x38) (hz : field w 16 10 = 0) :
    decodeRiser t w = .listed (.trap t (field w 0 16)) := by
  simp [decodeRiser, op, hz]

theorem decodeRiser_xret (op : field w 26 6 = 0x39) (hz : field w 0 26 = 0) : decodeRiser t w = .listed (.xret t) := by
  simp [decodeRiser, op, hz]

theorem decodeRiser_mfs (op : field w 26 6 = 0x3A) (hz : field w 0 16 = 0) :
    decodeRiser t w = .listed (.mfs t (field w 21 5) (field w 16 5)) := by
  simp [decodeRiser, op, hz]

theorem decodeRiser_mts (op : field w 26 6 = 0x3B) (hz : field w 0 16 = 0) :
    decodeRiser t w = .listed (.mts t (field w 16 5) (field w 21 5)) := by
  simp [decodeRiser, op, hz]

end

/-- An instruction reads back when the decoder takes it from the word that encodes it. -/
theorem reads_back {t : Fin 256} {i j : Instr} {w : Word32} (he : encodeRiser i = some w)
    (hd : decodeRiser t w = .listed j) (hj : j = i) : (encodeRiser i).map (decodeRiser t) = some (.listed i) := by
  rw [he, Option.map_some, hd, hj]

/-- Settles O5: the decoder's fields of each encoding are the parts that the encoding joined. -/
theorem riserInstructionOfWord : Obligations.RiserInstructionOfWord := by
  intro t
  refine ⟨fun cond ga gb off hc => ?bcc, fun off => ?bal, fun gs => ?jr, fun gs => ?jalr, fun lvl gs len hl => ?loopn,
    fun m => ?mode, fun gd ga off => ?resld, fun gs ga gd off => ?condst, ?sealStores, ?ioseal,
      fun code => ?trap, ?xret,
    fun gd sr => ?mfs, fun sr gs => ?mts⟩
  case bcc =>
    obtain ⟨op, hcond, ha, hb, ho⟩ := parts_five (0x10 : BitVec 6) cond ga gb off
    exact reads_back rfl (decodeRiser_bcc t op (ne_of_eq_of_ne hcond hc))
      (congr (congr (congr (congrArg (Instr.bcc t) hcond) ha) hb) ho)
  case bal =>
    obtain ⟨op, ho⟩ := parts_two (0x11 : BitVec 6) off
    exact reads_back rfl (decodeRiser_bal t op) (congrArg (Instr.bal t) ho)
  case jr =>
    have low {lo n : Nat} (h : lo + n ≤ 21) : ((0x12 : BitVec 6) ++ gs ++ (0 : BitVec 21)).extractLsb' lo n = 0 :=
      (BitVec.extractLsb'_append_eq_of_add_le h).trans BitVec.extractLsb'_zero
    obtain ⟨op, hs, -⟩ := parts_three (0x12 : BitVec 6) gs (0 : BitVec 21)
    exact reads_back rfl (decodeRiser_jr t op (low (by decide)) (low (by decide))) (congrArg (Instr.jr t) hs)
  case jalr =>
    obtain ⟨op, hs, hb, hz⟩ := parts_four (0x12 : BitVec 6) gs (1 : BitVec 1) (0 : BitVec 20)
    exact reads_back rfl (decodeRiser_jalr t op hz hb) (congrArg (Instr.jalr t) hs)
  case loopn =>
    obtain ⟨op, hlvl, hs, hlen, hz⟩ := parts_five (0x14 : BitVec 6) lvl gs len (0 : BitVec 4)
    exact reads_back rfl (decodeRiser_loopn t op hz (ne_of_eq_of_ne hlen hl))
      (congr (congr (congrArg (Instr.loopn t) hlvl) hs) hlen)
  case mode =>
    obtain ⟨op, hz, hm⟩ := parts_three (0x18 : BitVec 6) (0 : BitVec 25) m
    exact reads_back rfl (decodeRiser_mode t op hz) (congrArg (Instr.mode t) hm)
  case resld =>
    obtain ⟨op, hd, ha, ho⟩ := parts_four (0x20 : BitVec 6) gd ga off
    exact reads_back rfl (decodeRiser_resld t op)
      (congr (congr (congr (congrArg (Instr.resld t) hd) ha) ho) rfl)
  case condst =>
    obtain ⟨op, hs, ha, hd, ho⟩ := parts_five (0x21 : BitVec 6) gs ga gd off
    exact reads_back rfl (decodeRiser_condst t op)
      (congr (congr (congr (congr (congrArg (Instr.condst t) hs) ha) hd) ho) rfl)
  case sealStores =>
    obtain ⟨op, hz⟩ := parts_two (0x30 : BitVec 6) (0 : BitVec 26)
    exact reads_back rfl (decodeRiser_sealStores t op hz) rfl
  case ioseal =>
    obtain ⟨op, hz⟩ := parts_two (0x31 : BitVec 6) (0 : BitVec 26)
    exact reads_back rfl (decodeRiser_ioseal t op hz) rfl
  case trap =>
    obtain ⟨op, hz, hcode⟩ := parts_three (0x38 : BitVec 6) (0 : BitVec 10) code
    exact reads_back rfl (decodeRiser_trap t op hz) (congrArg (Instr.trap t) hcode)
  case xret =>
    obtain ⟨op, hz⟩ := parts_two (0x39 : BitVec 6) (0 : BitVec 26)
    exact reads_back rfl (decodeRiser_xret t op hz) rfl
  case mfs =>
    obtain ⟨op, hd, hr, hz⟩ := parts_four (0x3A : BitVec 6) gd sr (0 : BitVec 16)
    exact reads_back rfl (decodeRiser_mfs t op hz) (congr (congrArg (Instr.mfs t) hd) hr)
  case mts =>
    obtain ⟨op, hs, hr, hz⟩ := parts_four (0x3B : BitVec 6) gs sr (0 : BitVec 16)
    exact reads_back rfl (decodeRiser_mts t op hz) (congr (congrArg (Instr.mts t) hr) hs)

end Sys2Proof.Machine
end

section
/-! What every step keeps: the memory's canonical form (R329) and the justification of the safety lines (R472). -/

namespace Sys2Proof.Machine

/-- Every command keeps the memory's canonical form: each by the law of its meaning. -/
theorem exec_wf (i : Instr) (s : State) (h : s.mem.wf = true) : outWf (exec i s) := by
  cases i with
  | vddAsyPowerOn => exact execVddAsyPowerOn_wf s h
  | vddAsyLoss vddIoPresent => exact execVddAsyLoss_wf vddIoPresent s h
  | vddCorePowerOn => exact execVddCorePowerOn_wf s h
  | rstNPulse lowEclk => exact execRstNPulse_wf lowEclk s h
  | pmicEnAssert => exact execPmicEnAssert_wf s h
  | powerUpTimeout => exact execPowerUpTimeout_wf s h
  | startSequence inp => exact execStartSequence_wf inp s h
  | bootDoorbell who => exact execBootDoorbell_wf who s h
  | fetchTimeout => exact execFetchTimeout_wf s h
  | sysReady => exact execSysReady_wf s h
  | softReset who => exact execSoftReset_wf who s h
  | pllUnlock => exact execPllUnlock_wf s h
  | refclkLost => exact execRefclkLost_wf s h
  | clockMonitorWindow counts => exact execClockMonitorWindow_wf counts s h
  | supplyExcursion rail millivolts eclk => exact execSupplyExcursion_wf rail millivolts eclk s h
  | vddIoLow => exact execVddIoLow_wf s h
  | tempSample celsius => exact execTempSample_wf celsius s h
  | tempTrip => exact execTempTrip_wf s h
  | pwrModeRequest keeper host => exact execPwrModeRequest_wf keeper host s h
  | modeTransitionStart => exact execModeTransitionStart_wf s h
  | modeTransitionComplete => exact execModeTransitionComplete_wf s h
  | holdWakeTimer => exact execHoldWakeTimer_wf s h
  | vddCoreMonRearm => exact execVddCoreMonRearm_wf s h
  | holdCoreTimeout => exact execHoldCoreTimeout_wf s h
  | ladleGrant => exact execLadleGrant_wf s h
  | ladleRampEnd id => exact execLadleRampEnd_wf id s h
  | ladleCeilingWrite who ceiling => exact execLadleCeilingWrite_wf who ceiling s h
  | tloadGo who n tickets hold => exact execTloadGo_wf who n tickets hold s h
  | tloadStop who n => exact execTloadStop_wf who n s h
  | tloadHoldEnd n => exact execTloadHoldEnd_wf n s h
  | currentMonitorWindow measured32 => exact execCurrentMonitorWindow_wf measured32 s h
  | ldlOverrun => exact execLdlOverrun_wf s h
  | ldlUnfreeze => exact execLdlUnfreeze_wf s h
  | ldlUnderrun => exact execLdlUnderrun_wf s h
  | fuseUnlock who => exact execFuseUnlock_wf who s h
  | fuseWriteKey who slot usage => exact execFuseWriteKey_wf who slot usage s h
  | fuseRevokeSlot who slot => exact execFuseRevokeSlot_wf who slot s h
  | fuseAdvanceAsySvn who => exact execFuseAdvanceAsySvn_wf who s h
  | fuseAdvanceKprSvn who => exact execFuseAdvanceKprSvn_wf who s h
  | fuseDecommission who => exact execFuseDecommission_wf who s h
  | fuseProgDone readBackOk => exact execFuseProgDone_wf readBackOk s h
  | attGo keeper host => exact execAttGo_wf keeper host s h
  | attDone => exact execAttDone_wf s h
  | patternLoad keeper host reads => exact execPatternLoad_wf keeper host reads s h
  | patternLoaded => exact execPatternLoaded_wf s h
  | swapCommit who => exact execSwapCommit_wf who s h
  | swapPoint => exact execSwapPoint_wf s h
  | triggersAccepted => exact execTriggersAccepted_wf s h
  | swapDrainTimeout => exact execSwapDrainTimeout_wf s h
  | csiLaneSync p => exact execCsiLaneSync_wf p s h
  | csiFrameStart p vc hdr => exact execCsiFrameStart_wf p vc hdr s h
  | csiFrameEnd p vc hdr => exact execCsiFrameEnd_wf p vc hdr s h
  | csiLineStart p vc hdr => exact execCsiLineStart_wf p vc hdr s h
  | csiLineEnd p vc hdr => exact execCsiLineEnd_wf p vc hdr s h
  | csiPixelRow p vc dt hdr crcOk payload => exact execCsiPixelRow_wf p vc dt hdr crcOk payload s h
  | csiEmbeddedData p vc pkt => exact execCsiEmbeddedData_wf p vc pkt s h
  | csiUserData p vc kind pkt => exact execCsiUserData_wf p vc kind pkt s h
  | csiGenericShort pkt => exact execCsiGenericShort_wf pkt s h
  | csiUnsupportedPacket pkt dt => exact execCsiUnsupportedPacket_wf pkt dt s h
  | csiLineTimeout p => exact execCsiLineTimeout_wf p s h
  | csiFrameLate p => exact execCsiFrameLate_wf p s h
  | csiPhySyncLost p => exact execCsiPhySyncLost_wf p s h
  | ispBandFlag p => exact execIspBandFlag_wf p s h
  | csiPairLost pair => exact execCsiPairLost_wf pair s h
  | ispTestResult p sig => exact execIspTestResult_wf p sig s h
  | ispTestStale p => exact execIspTestStale_wf p s h
  | venCommandEnd k how view => exact execVenCommandEnd_wf k how view s h
  | fgsTimerTrigger slot => exact execFgsTimerTrigger_wf slot s h
  | ageOriginReturn slot seq => exact execAgeOriginReturn_wf slot seq s h
  | fgsNodeSelect ecc => exact execFgsNodeSelect_wf ecc s h
  | engineFlagSet node flag seq => exact execEngineFlagSet_wf node flag seq s h
  | fgsDeadline slot seq node => exact execFgsDeadline_wf slot seq node s h
  | pourRetire slot seq => exact execPourRetire_wf slot seq s h
  | fgsAbortWrite who mask => exact execFgsAbortWrite_wf who mask s h
  | fgsDrain who on => exact execFgsDrain_wf who on s h
  | fgsGraphLost slot => exact execFgsGraphLost_wf slot s h
  | neuTileEnd a how => exact execNeuTileEnd_wf a how s h
  | neuLayerBarrier node seq view => exact execNeuLayerBarrier_wf node seq view s h
  | bcc t cond ga gb off => exact execBcc_wf t cond ga gb off s h
  | bal t off => exact execBal_wf t off s h
  | jr t gs => exact execJr_wf t gs s h
  | jalr t gs => exact execJalr_wf t gs s h
  | loopn t lvl gs len => exact execLoopn_wf t lvl gs len s h
  | mode t m => exact execMode_wf t m s h
  | resld t gd ga off ecc => exact execResld_wf t gd ga off ecc s h
  | condst t gs ga gd off ecc => exact execCondst_wf t gs ga gd off ecc s h
  | sealStores t => exact execSealStores_wf t s h
  | ioseal t => exact execIoseal_wf t s h
  | trap t code => exact execTrap_wf t code s h
  | xret t => exact execXret_wf t s h
  | mfs t gd sr => exact execMfs_wf t gd sr s h
  | mts t sr gs => exact execMts_wf t sr gs s h
  | load t gd addr size ecc => exact execLoad_wf t gd addr size ecc s h
  | store t gs addr size => exact execStore_wf t gs addr size s h
  | ordinaryInstruction t op => exact execOrdinaryInstruction_wf t op s h
  | asyncDeliveryTaken t => exact execAsyncDeliveryTaken_wf t s h
  | threadRelease who word mask => exact execThreadRelease_wf who word mask s h
  | threadReset who t => exact execThreadReset_wf who t s h
  | spawn t => exact execSpawn_wf t s h
  | taskEnd t status ecc => exact execTaskEnd_wf t status ecc s h
  | successorLink ecc => exact execSuccessorLink_wf ecc s h
  | operandSend t slot index gen value ecc => exact execOperandSend_wf t slot index gen value ecc s h
  | schCancel who slot gen => exact execSchCancel_wf who slot gen s h
  | schDelivery ecc => exact execSchDelivery_wf ecc s h
  | loadReturn t peerData => exact execLoadReturn_wf t peerData s h
  | storeVisible t ecc => exact execStoreVisible_wf t ecc s h
  | writeResponse t reply => exact execWriteResponse_wf t reply s h
  | reservationLapse t => exact execReservationLapse_wf t s h
  | reservationHoldEnd granule => exact execReservationHoldEnd_wf granule s h
  | flagSet t flag => exact execFlagSet_wf t flag s h
  | flagAdd t flag value => exact execFlagAdd_wf t flag value s h
  | peerAccess chip k op addr bytes data ecc => exact execPeerAccess_wf chip k op addr bytes data ecc s h
  | xltInv who ctx everything => exact execXltInv_wf who ctx everything s h
  | xltInvDone => exact execXltInvDone_wf s h
  | fwlLock who r => exact execFwlLock_wf who r s h
  | dmaStart who ch => exact execDmaStart_wf who ch s h
  | dmaDoorbell who ch => exact execDmaDoorbell_wf who ch s h
  | dmaStop who ch => exact execDmaStop_wf who ch s h
  | dmaClearErr who ch => exact execDmaClearErr_wf who ch s h
  | dmaResume who => exact execDmaResume_wf who s h
  | dmaBurstEnd dp => exact execDmaBurstEnd_wf dp s h
  | dmaDescComplete ch => exact execDmaDescComplete_wf ch s h
  | dmaPacePoll ch => exact execDmaPacePoll_wf ch s h
  | dmaBusError ch kind isWrite addr onPosted => exact execDmaBusError_wf ch kind isWrite addr onPosted s h
  | asyLockstep => exact execAsyLockstep_wf s h
  | s2Repeat => exact execS2Repeat_wf s h
  | s2CountExpire => exact execS2CountExpire_wf s h
  | heartbeatBurst report => exact execHeartbeatBurst_wf report s h
  | heartbeatMissed => exact execHeartbeatMissed_wf s h
  | witnessResult slot seq ecc => exact execWitnessResult_wf slot seq ecc s h
  | asyJudgePour slot seq ecc => exact execAsyJudgePour_wf slot seq ecc s h
  | batchRelease => exact execBatchRelease_wf s h
  | queueStall => exact execQueueStall_wf s h
  | ageTick => exact execAgeTick_wf s h
  | s1Exit => exact execS1Exit_wf s h
  | testStart cls => exact execTestStart_wf cls s h
  | testScore cls res => exact execTestScore_wf cls res s h
  | handoverForced cls => exact execHandoverForced_wf cls s h
  | testStale u => exact execTestStale_wf u s h
  | tokenTimeout u => exact execTokenTimeout_wf u s h
  | tstInjectSignature who u => exact execTstInjectSignature_wf who u s h
  | tstInjectParity who u => exact execTstInjectParity_wf who u s h
  | tstInjectView who u => exact execTstInjectView_wf who u s h
  | linkTrainAttempt l inp => exact execLinkTrainAttempt_wf l inp s h
  | linkTrainRetry l => exact execLinkTrainRetry_wf l s h
  | residualMeasure offsetSum => exact execResidualMeasure_wf offsetSum s h
  | lnkTimeLost => exact execLnkTimeLost_wf s h
  | peerStatusSend => exact execPeerStatusSend_wf s h
  | peerStatusReceive chip state pendingTag swapped => exact execPeerStatusReceive_wf chip state pendingTag swapped s h
  | flitReplay l => exact execFlitReplay_wf l s h
  | linkDown l => exact execLinkDown_wf l s h
  | laneGroup1Lost l => exact execLaneGroup1Lost_wf l s h
  | remoteFlagSet chip flag slot seq origin => exact execRemoteFlagSet_wf chip flag slot seq origin s h
  | xchgLine line => exact execXchgLine_wf line s h
  | peerAbort chip slot seq => exact execPeerAbort_wf chip slot seq s h
  | flaskSwapAnnounce => exact execFlaskSwapAnnounce_wf s h
  | flaskSwapTake => exact execFlaskSwapTake_wf s h
  | remoteUnitFailed chip u => exact execRemoteUnitFailed_wf chip u s h
  | tapCtrlWrite keeper host => exact execTapCtrlWrite_wf keeper host s h
  | tapLineWrite ecc => exact execTapLineWrite_wf ecc s h
  | tapPad => exact execTapPad_wf s h
  | tapWriteError => exact execTapWriteError_wf s h
  | ctrOverflow g => exact execCtrOverflow_wf g s h
  | ctrReadLow who ctr => exact execCtrReadLow_wf who ctr s h
  | ctrReadHigh who ctr => exact execCtrReadHigh_wf who ctr s h
  | hostAccess bar offset op ecc => exact execHostAccess_wf bar offset op ecc s h
  | hostReset kind => exact execHostReset_wf kind s h
  | evtPop who => exact execEvtPop_wf who s h
  | msixPendingSend v => exact execMsixPendingSend_wf v s h
  | msixUnmask v => exact execMsixUnmask_wf v s h
  | spiCsFall ch => exact execSpiCsFall_wf ch s h
  | spiCsRise ch bytes => exact execSpiCsRise_wf ch bytes s h
  | sfpPollLate ch => exact execSfpPollLate_wf ch s h
  | sfpLineStuck line => exact execSfpLineStuck_wf line s h
  | registerWrite who addr size value => exact execRegisterWrite_wf who addr size value s h
  | crucibleScrub addr => exact execCrucibleScrub_wf addr s h
  | healthSidebandFault u => exact execHealthSidebandFault_wf u s h
  | neuArrayStopped node seq => exact execNeuArrayStopped_wf node seq s h
  | laneGroupIdle l => exact execLaneGroupIdle_wf l s h
  | laneGroup1Join l => exact execLaneGroup1Join_wf l s h
  | pcieLinkTrained speed width => exact execPcieLinkTrained_wf speed width s h

/-- Every command keeps the safety lines justified: each by the law of its meaning. -/
theorem exec_lines (i : Instr) (s : State) (h : LineInv s) : outLines (exec i s) := by
  cases i with
  | vddAsyPowerOn => exact execVddAsyPowerOn_lines s h
  | vddAsyLoss vddIoPresent => exact execVddAsyLoss_lines vddIoPresent s h
  | vddCorePowerOn => exact execVddCorePowerOn_lines s h
  | rstNPulse lowEclk => exact execRstNPulse_lines lowEclk s h
  | pmicEnAssert => exact execPmicEnAssert_lines s h
  | powerUpTimeout => exact execPowerUpTimeout_lines s h
  | startSequence inp => exact execStartSequence_lines inp s h
  | bootDoorbell who => exact execBootDoorbell_lines who s h
  | fetchTimeout => exact execFetchTimeout_lines s h
  | sysReady => exact execSysReady_lines s h
  | softReset who => exact execSoftReset_lines who s h
  | pllUnlock => exact execPllUnlock_lines s h
  | refclkLost => exact execRefclkLost_lines s h
  | clockMonitorWindow counts => exact execClockMonitorWindow_lines counts s h
  | supplyExcursion rail millivolts eclk => exact execSupplyExcursion_lines rail millivolts eclk s h
  | vddIoLow => exact execVddIoLow_lines s h
  | tempSample celsius => exact execTempSample_lines celsius s h
  | tempTrip => exact execTempTrip_lines s h
  | pwrModeRequest keeper host => exact execPwrModeRequest_lines keeper host s h
  | modeTransitionStart => exact execModeTransitionStart_lines s h
  | modeTransitionComplete => exact execModeTransitionComplete_lines s h
  | holdWakeTimer => exact execHoldWakeTimer_lines s h
  | vddCoreMonRearm => exact execVddCoreMonRearm_lines s h
  | holdCoreTimeout => exact execHoldCoreTimeout_lines s h
  | ladleGrant => exact execLadleGrant_lines s h
  | ladleRampEnd id => exact execLadleRampEnd_lines id s h
  | ladleCeilingWrite who ceiling => exact execLadleCeilingWrite_lines who ceiling s h
  | tloadGo who n tickets hold => exact execTloadGo_lines who n tickets hold s h
  | tloadStop who n => exact execTloadStop_lines who n s h
  | tloadHoldEnd n => exact execTloadHoldEnd_lines n s h
  | currentMonitorWindow measured32 => exact execCurrentMonitorWindow_lines measured32 s h
  | ldlOverrun => exact execLdlOverrun_lines s h
  | ldlUnfreeze => exact execLdlUnfreeze_lines s h
  | ldlUnderrun => exact execLdlUnderrun_lines s h
  | fuseUnlock who => exact execFuseUnlock_lines who s h
  | fuseWriteKey who slot usage => exact execFuseWriteKey_lines who slot usage s h
  | fuseRevokeSlot who slot => exact execFuseRevokeSlot_lines who slot s h
  | fuseAdvanceAsySvn who => exact execFuseAdvanceAsySvn_lines who s h
  | fuseAdvanceKprSvn who => exact execFuseAdvanceKprSvn_lines who s h
  | fuseDecommission who => exact execFuseDecommission_lines who s h
  | fuseProgDone readBackOk => exact execFuseProgDone_lines readBackOk s h
  | attGo keeper host => exact execAttGo_lines keeper host s h
  | attDone => exact execAttDone_lines s h
  | patternLoad keeper host reads => exact execPatternLoad_lines keeper host reads s h
  | patternLoaded => exact execPatternLoaded_lines s h
  | swapCommit who => exact execSwapCommit_lines who s h
  | swapPoint => exact execSwapPoint_lines s h
  | triggersAccepted => exact execTriggersAccepted_lines s h
  | swapDrainTimeout => exact execSwapDrainTimeout_lines s h
  | csiLaneSync p => exact execCsiLaneSync_lines p s h
  | csiFrameStart p vc hdr => exact execCsiFrameStart_lines p vc hdr s h
  | csiFrameEnd p vc hdr => exact execCsiFrameEnd_lines p vc hdr s h
  | csiLineStart p vc hdr => exact execCsiLineStart_lines p vc hdr s h
  | csiLineEnd p vc hdr => exact execCsiLineEnd_lines p vc hdr s h
  | csiPixelRow p vc dt hdr crcOk payload => exact execCsiPixelRow_lines p vc dt hdr crcOk payload s h
  | csiEmbeddedData p vc pkt => exact execCsiEmbeddedData_lines p vc pkt s h
  | csiUserData p vc kind pkt => exact execCsiUserData_lines p vc kind pkt s h
  | csiGenericShort pkt => exact execCsiGenericShort_lines pkt s h
  | csiUnsupportedPacket pkt dt => exact execCsiUnsupportedPacket_lines pkt dt s h
  | csiLineTimeout p => exact execCsiLineTimeout_lines p s h
  | csiFrameLate p => exact execCsiFrameLate_lines p s h
  | csiPhySyncLost p => exact execCsiPhySyncLost_lines p s h
  | ispBandFlag p => exact execIspBandFlag_lines p s h
  | csiPairLost pair => exact execCsiPairLost_lines pair s h
  | ispTestResult p sig => exact execIspTestResult_lines p sig s h
  | ispTestStale p => exact execIspTestStale_lines p s h
  | venCommandEnd k how view => exact execVenCommandEnd_lines k how view s h
  | fgsTimerTrigger slot => exact execFgsTimerTrigger_lines slot s h
  | ageOriginReturn slot seq => exact execAgeOriginReturn_lines slot seq s h
  | fgsNodeSelect ecc => exact execFgsNodeSelect_lines ecc s h
  | engineFlagSet node flag seq => exact execEngineFlagSet_lines node flag seq s h
  | fgsDeadline slot seq node => exact execFgsDeadline_lines slot seq node s h
  | pourRetire slot seq => exact execPourRetire_lines slot seq s h
  | fgsAbortWrite who mask => exact execFgsAbortWrite_lines who mask s h
  | fgsDrain who on => exact execFgsDrain_lines who on s h
  | fgsGraphLost slot => exact execFgsGraphLost_lines slot s h
  | neuTileEnd a how => exact execNeuTileEnd_lines a how s h
  | neuLayerBarrier node seq view => exact execNeuLayerBarrier_lines node seq view s h
  | bcc t cond ga gb off => exact execBcc_lines t cond ga gb off s h
  | bal t off => exact execBal_lines t off s h
  | jr t gs => exact execJr_lines t gs s h
  | jalr t gs => exact execJalr_lines t gs s h
  | loopn t lvl gs len => exact execLoopn_lines t lvl gs len s h
  | mode t m => exact execMode_lines t m s h
  | resld t gd ga off ecc => exact execResld_lines t gd ga off ecc s h
  | condst t gs ga gd off ecc => exact execCondst_lines t gs ga gd off ecc s h
  | sealStores t => exact execSealStores_lines t s h
  | ioseal t => exact execIoseal_lines t s h
  | trap t code => exact execTrap_lines t code s h
  | xret t => exact execXret_lines t s h
  | mfs t gd sr => exact execMfs_lines t gd sr s h
  | mts t sr gs => exact execMts_lines t sr gs s h
  | load t gd addr size ecc => exact execLoad_lines t gd addr size ecc s h
  | store t gs addr size => exact execStore_lines t gs addr size s h
  | ordinaryInstruction t op => exact execOrdinaryInstruction_lines t op s h
  | asyncDeliveryTaken t => exact execAsyncDeliveryTaken_lines t s h
  | threadRelease who word mask => exact execThreadRelease_lines who word mask s h
  | threadReset who t => exact execThreadReset_lines who t s h
  | spawn t => exact execSpawn_lines t s h
  | taskEnd t status ecc => exact execTaskEnd_lines t status ecc s h
  | successorLink ecc => exact execSuccessorLink_lines ecc s h
  | operandSend t slot index gen value ecc => exact execOperandSend_lines t slot index gen value ecc s h
  | schCancel who slot gen => exact execSchCancel_lines who slot gen s h
  | schDelivery ecc => exact execSchDelivery_lines ecc s h
  | loadReturn t peerData => exact execLoadReturn_lines t peerData s h
  | storeVisible t ecc => exact execStoreVisible_lines t ecc s h
  | writeResponse t reply => exact execWriteResponse_lines t reply s h
  | reservationLapse t => exact execReservationLapse_lines t s h
  | reservationHoldEnd granule => exact execReservationHoldEnd_lines granule s h
  | flagSet t flag => exact execFlagSet_lines t flag s h
  | flagAdd t flag value => exact execFlagAdd_lines t flag value s h
  | peerAccess chip k op addr bytes data ecc => exact execPeerAccess_lines chip k op addr bytes data ecc s h
  | xltInv who ctx everything => exact execXltInv_lines who ctx everything s h
  | xltInvDone => exact execXltInvDone_lines s h
  | fwlLock who r => exact execFwlLock_lines who r s h
  | dmaStart who ch => exact execDmaStart_lines who ch s h
  | dmaDoorbell who ch => exact execDmaDoorbell_lines who ch s h
  | dmaStop who ch => exact execDmaStop_lines who ch s h
  | dmaClearErr who ch => exact execDmaClearErr_lines who ch s h
  | dmaResume who => exact execDmaResume_lines who s h
  | dmaBurstEnd dp => exact execDmaBurstEnd_lines dp s h
  | dmaDescComplete ch => exact execDmaDescComplete_lines ch s h
  | dmaPacePoll ch => exact execDmaPacePoll_lines ch s h
  | dmaBusError ch kind isWrite addr onPosted => exact execDmaBusError_lines ch kind isWrite addr onPosted s h
  | asyLockstep => exact execAsyLockstep_lines s h
  | s2Repeat => exact execS2Repeat_lines s h
  | s2CountExpire => exact execS2CountExpire_lines s h
  | heartbeatBurst report => exact execHeartbeatBurst_lines report s h
  | heartbeatMissed => exact execHeartbeatMissed_lines s h
  | witnessResult slot seq ecc => exact execWitnessResult_lines slot seq ecc s h
  | asyJudgePour slot seq ecc => exact execAsyJudgePour_lines slot seq ecc s h
  | batchRelease => exact execBatchRelease_lines s h
  | queueStall => exact execQueueStall_lines s h
  | ageTick => exact execAgeTick_lines s h
  | s1Exit => exact execS1Exit_lines s h
  | testStart cls => exact execTestStart_lines cls s h
  | testScore cls res => exact execTestScore_lines cls res s h
  | handoverForced cls => exact execHandoverForced_lines cls s h
  | testStale u => exact execTestStale_lines u s h
  | tokenTimeout u => exact execTokenTimeout_lines u s h
  | tstInjectSignature who u => exact execTstInjectSignature_lines who u s h
  | tstInjectParity who u => exact execTstInjectParity_lines who u s h
  | tstInjectView who u => exact execTstInjectView_lines who u s h
  | linkTrainAttempt l inp => exact execLinkTrainAttempt_lines l inp s h
  | linkTrainRetry l => exact execLinkTrainRetry_lines l s h
  | residualMeasure offsetSum => exact execResidualMeasure_lines offsetSum s h
  | lnkTimeLost => exact execLnkTimeLost_lines s h
  | peerStatusSend => exact execPeerStatusSend_lines s h
  | peerStatusReceive chip state pendingTag swapped =>
    exact execPeerStatusReceive_lines chip state pendingTag swapped s h
  | flitReplay l => exact execFlitReplay_lines l s h
  | linkDown l => exact execLinkDown_lines l s h
  | laneGroup1Lost l => exact execLaneGroup1Lost_lines l s h
  | remoteFlagSet chip flag slot seq origin => exact execRemoteFlagSet_lines chip flag slot seq origin s h
  | xchgLine line => exact execXchgLine_lines line s h
  | peerAbort chip slot seq => exact execPeerAbort_lines chip slot seq s h
  | flaskSwapAnnounce => exact execFlaskSwapAnnounce_lines s h
  | flaskSwapTake => exact execFlaskSwapTake_lines s h
  | remoteUnitFailed chip u => exact execRemoteUnitFailed_lines chip u s h
  | tapCtrlWrite keeper host => exact execTapCtrlWrite_lines keeper host s h
  | tapLineWrite ecc => exact execTapLineWrite_lines ecc s h
  | tapPad => exact execTapPad_lines s h
  | tapWriteError => exact execTapWriteError_lines s h
  | ctrOverflow g => exact execCtrOverflow_lines g s h
  | ctrReadLow who ctr => exact execCtrReadLow_lines who ctr s h
  | ctrReadHigh who ctr => exact execCtrReadHigh_lines who ctr s h
  | hostAccess bar offset op ecc => exact execHostAccess_lines bar offset op ecc s h
  | hostReset kind => exact execHostReset_lines kind s h
  | evtPop who => exact execEvtPop_lines who s h
  | msixPendingSend v => exact execMsixPendingSend_lines v s h
  | msixUnmask v => exact execMsixUnmask_lines v s h
  | spiCsFall ch => exact execSpiCsFall_lines ch s h
  | spiCsRise ch bytes => exact execSpiCsRise_lines ch bytes s h
  | sfpPollLate ch => exact execSfpPollLate_lines ch s h
  | sfpLineStuck line => exact execSfpLineStuck_lines line s h
  | registerWrite who addr size value => exact execRegisterWrite_lines who addr size value s h
  | crucibleScrub addr => exact execCrucibleScrub_lines addr s h
  | healthSidebandFault u => exact execHealthSidebandFault_lines u s h
  | neuArrayStopped node seq => exact execNeuArrayStopped_lines node seq s h
  | laneGroupIdle l => exact execLaneGroupIdle_lines l s h
  | laneGroup1Join l => exact execLaneGroup1Join_lines l s h
  | pcieLinkTrained speed width => exact execPcieLinkTrained_lines speed width s h

theorem step_empty {s : State} (h : s.pending = []) : step s = .next (tick s) := by
  rw [step, h]

theorem step_front {s : State} {c : Instr} {rest : List Instr} (h : s.pending = c :: rest) :
    step s = exec c { s with pending := rest } := by
  rw [step, h]

/-- Settles O6: an ECLK and every command keep the form, and the queue is no part of it. -/
theorem stepKeepsMemoryCanonical : Obligations.StepKeepsMemoryCanonical := by
  intro s t h hstep
  cases hq : s.pending with
  | nil =>
    rw [step_empty hq] at hstep
    cases hstep
    exact tick_wf s h
  | cons c rest =>
    rw [step_front hq] at hstep
    exact outWf_next (exec_wf c { s with pending := rest } h) hstep

/-- Settles O7: an ECLK and every command keep the lines justified, and the queue is no part of what they read. -/
theorem stepKeepsLinesJustified : Obligations.StepKeepsLinesJustified := by
  intro s t h hstep
  have hs : LineInv s := (lineInv_iff s).2 h
  cases hq : s.pending with
  | nil =>
    rw [step_empty hq] at hstep
    cases hstep
    exact (lineInv_iff _).1 (tick_lines s hs)
  | cons c rest =>
    rw [step_front hq] at hstep
    exact (lineInv_iff _).1 (outLines_next (exec_lines c { s with pending := rest } hs) hstep)

end Sys2Proof.Machine
end

section
/-! No run stops: every command answers a next state on each of its paths. -/

namespace Sys2Proof.Machine

/-- The outcome is a next state. -/
def Answers (o : Host.Outcome State Fault Refusal) : Prop := ∃ u, o = .next u

theorem answers_done (s : State) : Answers (done s) := ⟨s, rfl⟩

theorem answers_ite {c : Prop} [Decidable c] {x y : Host.Outcome State Fault Refusal} (hx : Answers x)
    (hy : Answers y) :
    Answers (if c then x else y) := by
  split <;> assumption

/-- Each path through a command's meaning ends in `done`. -/
theorem exec_answers (i : Instr) (s : State) : Answers (exec i s) := by
  cases i
  all_goals delta exec
  all_goals dsimp only
  all_goals
    delta execVddAsyPowerOn execVddAsyLoss execVddCorePowerOn execRstNPulse execPmicEnAssert execPowerUpTimeout
      execStartSequence execBootDoorbell execFetchTimeout execSysReady execSoftReset execPllUnlock
      execRefclkLost execClockMonitorWindow execSupplyExcursion execVddIoLow execTempSample execTempTrip
      execPwrModeRequest execModeTransitionStart execModeTransitionComplete execHoldWakeTimer
      execVddCoreMonRearm execHoldCoreTimeout execLadleGrant execLadleRampEnd execLadleCeilingWrite execTloadGo
      execTloadStop execTloadHoldEnd execCurrentMonitorWindow execLdlOverrun execLdlUnfreeze execLdlUnderrun
      execFuseUnlock execFuseWriteKey execFuseRevokeSlot execFuseAdvanceAsySvn execFuseAdvanceKprSvn
      execFuseDecommission execFuseProgDone execAttGo execAttDone execPatternLoad execPatternLoaded
      execSwapCommit execSwapPoint execTriggersAccepted execSwapDrainTimeout execCsiLaneSync execCsiFrameStart
      execCsiFrameEnd execCsiLineStart execCsiLineEnd execCsiPixelRow execCsiEmbeddedData execCsiUserData
      execCsiGenericShort execCsiUnsupportedPacket execCsiLineTimeout execCsiFrameLate execCsiPhySyncLost
      execIspBandFlag execCsiPairLost execIspTestResult execIspTestStale execVenCommandEnd execFgsTimerTrigger
      execAgeOriginReturn execFgsNodeSelect execEngineFlagSet execFgsDeadline execPourRetire execFgsAbortWrite
      execFgsDrain execFgsGraphLost execNeuTileEnd execNeuLayerBarrier execBcc execBal execJr execJalr execLoopn
      execMode execResld execCondst execSealStores execIoseal execTrap execXret execMfs execMts execLoad
      execStore execOrdinaryInstruction execAsyncDeliveryTaken execThreadRelease execThreadReset execSpawn
      execTaskEnd execSuccessorLink execOperandSend execSchCancel execSchDelivery execLoadReturn
      execStoreVisible execWriteResponse execReservationLapse execReservationHoldEnd execFlagSet execFlagAdd
      execPeerAccess execXltInv execXltInvDone execFwlLock execDmaStart execDmaDoorbell execDmaStop
      execDmaClearErr execDmaResume execDmaBurstEnd execDmaDescComplete execDmaPacePoll execDmaBusError
      execAsyLockstep execS2Repeat execS2CountExpire execHeartbeatBurst execHeartbeatMissed execWitnessResult
      execAsyJudgePour execBatchRelease execQueueStall execAgeTick execS1Exit execTestStart execTestScore
      execHandoverForced execTestStale execTokenTimeout execTstInjectSignature execTstInjectParity
      execTstInjectView execLinkTrainAttempt execLinkTrainRetry execResidualMeasure execLnkTimeLost
      execPeerStatusSend execPeerStatusReceive execFlitReplay execLinkDown execLaneGroup1Lost execRemoteFlagSet
      execXchgLine execPeerAbort execFlaskSwapAnnounce execFlaskSwapTake execRemoteUnitFailed execTapCtrlWrite
      execTapLineWrite execTapPad execTapWriteError execCtrOverflow execCtrReadLow execCtrReadHigh
      execHostAccess execHostReset execEvtPop execMsixPendingSend execMsixUnmask execSpiCsFall execSpiCsRise
      execSfpPollLate execSfpLineStuck execRegisterWrite execCrucibleScrub execHealthSidebandFault
      execNeuArrayStopped execLaneGroupIdle execLaneGroup1Join execPcieLinkTrained fuseBy
  all_goals
    repeat' first
      | with_reducible exact answers_done _
      | with_reducible refine answers_ite ?_ ?_
      | split
      | dsimp only

theorem step_answers (s : State) : Answers (step s) := by
  cases hq : s.pending with
  | nil => exact ⟨tick s, step_empty hq⟩
  | cons c rest => rw [step_front hq]; exact exec_answers c _

/-- Settles O9: whatever state a run reaches, its step answers. -/
theorem everyRunIsSafe : Obligations.EveryRunIsSafe := fun _ t _ => step_answers t

end Sys2Proof.Machine
end

section
/-! Raised events (R460), the monitors (R56 to R58, R504, R505) and the sources of the warm resets (R96, R97, R505). -/

namespace Sys2Proof.Machine

/-! ### Events -/

/-- Settles O10: the event FIFO by `raise_queue`, every other field by the frame of `raise`. -/
theorem raisedEventEntersFifo : Obligations.RaisedEventEntersFifo := by
  intro code s
  obtain ⟨hfifo, hlost, hrun⟩ := raise_queue code s
  refine ⟨fun h => ?room, fun h => ?full, raise_mem .., raise_asy .., raise_ret .., raise_sfp .., raise_sys ..,
    raise_pwr .., raise_fuses .., raise_tst .., raise_cams .., raise_idn .., raise_pending .., raise_clock ..⟩
  case room =>
    rw [if_pos h] at hfifo hlost hrun
    exact ⟨hfifo, hlost, hrun⟩
  case full =>
    rw [if_neg (Nat.not_lt.2 h)] at hfifo hlost hrun
    exact ⟨hfifo, hlost, hrun⟩

/-! ### Further detections of an ACLK -/

/-- R48: a detection leaves the watch oscillator's time. -/
theorem detectS2_watch (code : EventCode) (s : State) : (detectS2 code s).clock.watch = s.clock.watch := by
  obtain ⟨_, _, _, hl, -⟩ := logFault_frame code 0 (raise code s)
  have hr : (raise code s).clock.watch = s.clock.watch := congrArg Clock.watch (raise_clock code s)
  unfold detectS2
  rw [hl]
  split
  · rfl
  · dsimp only
    split <;> exact hr

/-- R48: what a further detection of the ACLK of an S2 entry adds to that entry. -/
structure DetectionJoins (s t : State) (n : Nat) : Prop where
  asy : t.asy = s.asy
  sys : t.sys = s.sys
  watch : t.clock.watch = s.clock.watch
  counted : t.ret.s2Times = s.ret.s2Times
  faultCount : t.ret.faultCount = s.ret.faultCount + BitVec.ofNat 8 n

theorem s2Now_joins {s t : State} {n : Nat} (h : DetectionJoins s t n) (hs : s2Now s = true) : s2Now t = true := by
  rw [← hs]
  simp only [s2Now, h.sys, h.watch, h.counted]

theorem detectS2_joins (code : EventCode) {s : State} (h : s2Now s = true) : DetectionJoins s (detectS2 code s) 1 := by
  obtain ⟨_, _, _, hl, -⟩ := logFault_frame code 0 (raise code s)
  have hr := raise_ret code s
  have hnow (u : State) (hs : u.sys = (raise code s).sys) (hc : u.clock = (raise code s).clock)
      (ht : u.ret.s2Times = (raise code s).ret.s2Times) : s2Now u = true := by
    rw [s2Now_congr (hs.trans (raise_sys ..)) (hc.trans (raise_clock ..)) (ht.trans (by rw [hr])), h]
  have ht : (detectS2 code s).ret.s2Times = (raise code s).ret.s2Times ∧
      (detectS2 code s).ret.faultCount = (raise code s).ret.faultCount + 1 ∧
      (detectS2 code s).asy = (raise code s).asy ∧ (detectS2 code s).sys = (raise code s).sys := by
    unfold detectS2
    rw [hl, h, if_neg (by simp)]
    dsimp only
    split
    · exact ⟨rfl, rfl, rfl, rfl⟩
    next hc => exact absurd (hnow _ rfl rfl rfl) hc
  obtain ⟨htimes, hcount, hasy, hsys⟩ := ht
  exact ⟨hasy.trans (raise_asy ..), hsys.trans (raise_sys ..), detectS2_watch .., by rw [htimes, hr],
    by rw [hcount, hr]; rfl⟩

theorem count_succ (a : BitVec 8) (n : Nat) : a + 1 + BitVec.ofNat 8 n = a + BitVec.ofNat 8 (n + 1) := by
  rw [BitVec.add_assoc, Nat.add_comm, BitVec.ofNat_add]
  rfl

theorem detectAll_joins (cs : List EventCode) {s : State} (h : s2Now s = true) :
    DetectionJoins s (cs.foldl (fun s c => detectS2 c s) s) cs.length := by
  induction cs generalizing s with
  | nil => exact ⟨rfl, rfl, rfl, rfl, (BitVec.add_zero _).symm⟩
  | cons c cs ih =>
    have h1 := detectS2_joins c h
    have h2 := ih (s2Now_joins h1 h)
    refine ⟨h2.asy.trans h1.asy, h2.sys.trans h1.sys, h2.watch.trans h1.watch, h2.counted.trans h1.counted, ?_⟩
    rw [List.foldl_cons, h2.faultCount, h1.faultCount, List.length_cons]
    exact count_succ ..

/-- R97, R48: an entry to S2 is one of the ACLK in which it comes. -/
theorem s2Now_entered {code : EventCode} {s t : State} (h : S2Entered code s t) (hw : t.clock.watch = s.clock.watch) :
    s2Now t = true := by
  rw [s2Now, h.inReset, h.counted, List.getLast?_concat, hw]
  exact beq_self_eq_true _

/-! ### A window of the clock monitor -/

/-- The clock status that a window leaves. -/
def windowNoted (counts : ClockCounts) (s : State) : State :=
  { s with pwr := { s.pwr with
      windowAt := some s.clock.watch, pclkCount := BitVec.ofNat 18 counts.pclk, refOk := countOk counts.refclk 38400,
      monOk := (monitorCodes counts).isEmpty } }

theorem exec_clockMonitorWindow_due {counts : ClockCounts} {s : State} (hp : pllUp s = true) (hd : windowDue s = true) :
    exec (.clockMonitorWindow counts) s =
      .next ((monitorCodes counts).foldl (fun s c => detectS2 c s) (windowNoted counts s)) :=
  if_neg (by simp [hp, hd])

theorem exec_clockMonitorWindow_early {counts : ClockCounts} {s : State} (hd : windowDue s = false) :
    exec (.clockMonitorWindow counts) s = .next s :=
  if_pos (by simp [hd])

/-- R56: a window without an event has counted REFCLK within its limits. -/
theorem countOk_of_noCodes {counts : ClockCounts} (h : monitorCodes counts = []) :
    countOk counts.refclk 38400 = true := by
  unfold monitorCodes at h
  have h1 := (List.append_eq_nil_iff.1 (List.append_eq_nil_iff.1 h).1).1
  by_contra hc
  rw [if_neg hc] at h1
  cases h1

theorem windowNoted_ok {counts : ClockCounts} (s : State) (h : monitorCodes counts = []) :
    windowNoted counts s = { s with pwr := { s.pwr with
      windowAt := some s.clock.watch, pclkCount := BitVec.ofNat 18 counts.pclk, refOk := true, monOk := true } } := by
  rw [windowNoted, countOk_of_noCodes h, h]
  rfl

/-! ### A temperature reading -/

/-- What PWR_TEMP and the run of hot readings are after a reading. -/
def tempNoted (c : BitVec 9) (s : State) : State :=
  { s with pwr := { s.pwr with
      tempAt := some s.clock.watch, temp := c,
      tempPeak := if s.pwr.tempPeak.toInt < c.toInt then c else s.pwr.tempPeak,
      hotRun := if 115 < c.toInt then s.pwr.hotRun + 1 else 0 } }

theorem exec_tempSample_due {c : BitVec 9} {s : State} (ha : s.rails.asy = true) (hd : tempDue s = true) :
    exec (.tempSample c) s = .next (if 105 < c.toInt
      then raise 0x0232 { tempNoted c s with pwr := { (tempNoted c s).pwr with tempHigh := true } }
      else tempNoted c s) := by
  refine (if_neg (by simp [ha, hd])).trans ?_
  dsimp only
  split <;> rfl

/-- Settles O12: a window's first event enters S2 and the others join that entry; a reading is above 105 °C or not. -/
theorem monitorsRead : Obligations.MonitorsRead := by
  intro s
  refine ⟨fun counts hp hd => ⟨fun hc => ?within, fun c hc hheld hnow => ?one, fun c cs hc hheld hnow => ?several⟩,
    fun counts hd => exec_clockMonitorWindow_early hd, fun c ha hd => ⟨fun hc => ?cool, fun hc => ?hot⟩,
    fun c h => if_pos (by rcases h with h | h <;> simp [h])⟩
  case within =>
    rw [exec_clockMonitorWindow_due hp hd, hc, ← windowNoted_ok s hc]
    rfl
  case one =>
    rw [exec_clockMonitorWindow_due hp hd, hc]
    exact ⟨_, rfl, detectS2_enters_noted c s (windowNoted counts s).pwr s.rails hheld hnow⟩
  case several =>
    have h1 : S2Entered c s (detectS2 c (windowNoted counts s)) :=
      detectS2_enters_noted c s (windowNoted counts s).pwr s.rails hheld hnow
    have h2 := detectAll_joins cs (s2Now_entered h1 (detectS2_watch c (windowNoted counts s)))
    rw [exec_clockMonitorWindow_due hp hd, hc]
    refine ⟨_, rfl, (congrArg Asy.state h2.asy).trans h1.state, (congrArg Sys.inReset h2.sys).trans h1.inReset,
      h2.counted.trans h1.counted, ?_⟩
    rw [List.foldl_cons, h2.faultCount, h1.faultCount, List.length_cons]
    exact count_succ ..
  case cool =>
    have h115 : ¬115 < c.toInt := by omega
    rw [exec_tempSample_due ha hd, if_neg (by omega), tempNoted, if_neg h115]
  case hot =>
    rw [exec_tempSample_due ha hd, if_pos hc]
    rfl

/-! ### The warm resets -/

/-- The rails are no part of what a warm reset leaves. -/
theorem warmReset_of_rails {cause : BitVec 6} {s t : State} (r : Rails) (h : WarmReset cause s t) :
    WarmReset cause s { t with rails := r } :=
  ⟨h.queue, h.inReset, h.step, h.cause, h.tsc, h.watch, h.fuses, h.retained, h.memory, h.lines, h.faultN, h.pairs⟩

/-- R67: a reset out of OFF also empties the safety channels. -/
theorem offExit_warm (s : State) : WarmReset 0x04 s (offExit s) where
  queue := rfl
  inReset := rfl
  step := rfl
  cause := rfl
  tsc := rfl
  watch := rfl
  fuses := (warmReset_warm 0x04 s).fuses
  retained := ⟨rfl, rfl, rfl, rfl, rfl⟩
  memory := (warmReset_warm 0x04 s).memory
  lines := ⟨rfl, rfl⟩
  faultN := rfl
  pairs := rfl

theorem exec_rstNPulse_short {low : Nat} (s : State) (h : low < 1200) : exec (.rstNPulse low) s = .next s :=
  if_pos (.inl h)

theorem exec_rstNPulse_off {low : Nat} {s : State} (h : 1200 ≤ low) (ha : s.rails.asy = true) (hc : s.pwr.cur = .off) :
    exec (.rstNPulse low) s = .next (offExit s) := by
  refine (if_neg (by simp [ha, Nat.not_lt.2 h])).trans ?_
  rw [hc]

theorem exec_rstNPulse_resets {low : Nat} {s : State} (h : 1200 ≤ low) (ha : s.rails.asy = true)
    (hh : s.pwr.cur ≠ .hold) (ho : s.pwr.cur ≠ .off) :
    exec (.rstNPulse low) s = .next (driveLines (warmReset 0x04 s)) := by
  refine (if_neg (by simp [ha, Nat.not_lt.2 h])).trans ?_
  split
  · exact absurd ‹_› hh
  · exact absurd ‹_› ho
  · rfl

theorem exec_softReset_resets {who : Agent} {s : State}
    (h : agentKeeper s who = true ∧ clocksRun s = true ∨ resetNow s = true ∧ keptMode s who = true) :
    exec (.softReset who) s = .next (driveLines (warmReset 0x10 s)) :=
  if_pos (by simpa using h)

theorem exec_softReset_ignored {who : Agent} {s : State} (hk : agentKeeper s who = false)
    (hm : keptMode s who = false) :
    exec (.softReset who) s = .next s :=
  if_neg (by simp [hk, hm])

theorem exec_vddCorePowerOn_again {s : State} (ha : s.rails.asy = true) (hc : s.rails.core = true) :
    exec .vddCorePowerOn s = .next (coreUp (driveLines (warmReset 0x02 s))) :=
  (if_neg (by simp [ha])).trans (if_pos hc)

/-- Settles O14: each source is a warm reset with its cause, and OFF and VDD_CORE change the rails besides. -/
theorem warmResetsByTheirSources : Obligations.WarmResetsByTheirSources := by
  intro s
  exact ⟨
    fun _ h ha hh ho => ⟨_, exec_rstNPulse_resets h ha hh ho, warmReset_warm ..⟩,
    fun _ h => exec_rstNPulse_short s h,
    fun _ hk hr => ⟨_, exec_softReset_resets (.inl ⟨hk, hr⟩), warmReset_warm ..⟩,
    fun _ hm hr => ⟨_, exec_softReset_resets (.inr ⟨hr, hm⟩), warmReset_warm ..⟩,
    fun _ => exec_softReset_ignored,
    fun _ h ha hc => ⟨_, exec_rstNPulse_off h ha hc, offExit_warm s, rfl, rfl⟩,
    fun ha hc => ⟨_, exec_vddCorePowerOn_again ha hc, warmReset_of_rails _ (warmReset_warm ..), rfl⟩⟩

end Sys2Proof.Machine
end

section
/-! A change into TRIM drains the Runners (R62, R91): the ring entry of a channel that it stops takes its result
(R362). -/

namespace Sys2Proof.Machine

/-- A device that asks for TRIM from RUN, with a configuration that R62 accepts, while a software channel works on a
ring entry in Crucible. -/
def ringTrim : State :=
  let s := tPwr (fun p => { p with trimCeil := 800, trimArrays := 16 }) (tMode (some (tTrans .trim .run)) .run)
  { s with dma := { s.dma with
      chs := [{ ring := true, st := .running, cur := some ⟨crucibleBase, 0, 0, 0, 0, 0⟩ }] } }

theorem ringTrim_starts :
    exec .modeTransitionStart ringTrim = .next (startChange (tTrans .trim .run) ringTrim) := rfl

/-- R362: the result 4 stands in the ring entry, where the memory was empty. -/
theorem ringTrim_result : (startChange (tTrans .trim .run) ringTrim).mem.cells = [(crucibleBase + 0x18, 4)] := by
  decide +kernel

/-- Refutes O18: a change into TRIM out of RUN stops a software channel in its ring entry, and so writes memory. -/
theorem not_modeTransitionStarts : ¬ Obligations.ModeTransitionStarts := by
  intro h
  obtain ⟨c, hc⟩ := Option.isSome_iff_exists.1 (show (trimAccepted ringTrim).isSome = true by decide)
  obtain ⟨-, -, -, htrim, -⟩ := h ringTrim (tTrans .trim .run) (by decide) rfl rfl (by decide)
  obtain ⟨u, hu, -, -, hmem, -⟩ := htrim c rfl rfl hc
  have hu' : startChange (tTrans .trim .run) ringTrim = u := Host.Outcome.next.inj (ringTrim_starts.symm.trans hu)
  have hcells := ringTrim_result
  rw [hu', hmem] at hcells
  exact List.cons_ne_nil _ _ hcells.symm

end Sys2Proof.Machine
end

section
/-! The ends of mode transitions (R61, R64 to R68, R79, R500, R501). -/

namespace Sys2Proof.Machine

/-! ### What the presence detector and a mode request write -/

theorem eventsOnly_withPwr {s t : State} (h : EventsOnly s t) (p : Pwr) :
    EventsOnly { s with pwr := p } { t with pwr := p } := by
  obtain ⟨_, _, _, _, _, _, _, _, _, _, _, _, _, _, _, _, _, _, _, _, _, rfl⟩ := h
  exact ⟨_, _, _, _, _, _, _, _, _, _, _, _, _, _, _, _, _, _, _, _, _, rfl⟩

/-- t differs from s at most in the power registers, the mode apart, and in what events write. -/
def PowerEventsOnly (s t : State) : Prop := ∃ p : Pwr, p.cur = s.pwr.cur ∧ EventsOnly { s with pwr := p } t

theorem powerEvents_of_pwr (s : State) {p : Pwr} (h : p.cur = s.pwr.cur) : PowerEventsOnly s { s with pwr := p } :=
  ⟨p, h, eventsOnly_refl _⟩

theorem powerEvents_refl (s : State) : PowerEventsOnly s s := powerEvents_of_pwr s rfl

theorem powerEvents_raise (code : EventCode) (s : State) : PowerEventsOnly s (raise code s) :=
  ⟨s.pwr, rfl, raise_events code s⟩

theorem powerEvents_trans {s t u : State} (h : PowerEventsOnly s t) (k : PowerEventsOnly t u) :
    PowerEventsOnly s u := by
  obtain ⟨p, hp, he⟩ := h
  obtain ⟨q, hq, hk⟩ := k
  have hcur : t.pwr.cur = p.cur := by
    obtain ⟨_, _, _, _, _, _, _, _, _, _, _, _, _, _, _, _, _, _, _, _, _, rfl⟩ := he
    rfl
  exact ⟨q, hq.trans (hcur.trans hp), eventsOnly_trans (eventsOnly_withPwr he q) hk⟩

theorem powerEvents_after {s t : State} {p : Pwr} (h : PowerEventsOnly { s with pwr := p } t) (hp : p.cur = s.pwr.cur) :
    PowerEventsOnly s t := powerEvents_trans (powerEvents_of_pwr s hp) h

/-- The fields that a mode's completion is asked for. -/
structure ModeFieldsKept (s t : State) : Prop where
  cur : t.pwr.cur = s.pwr.cur
  sys : t.sys = s.sys
  tst : t.tst = s.tst
  asy : t.asy = s.asy
  ceiling : t.ldl.activeCeil = s.ldl.activeCeil
  standing : t.ldl.standing = s.ldl.standing
  rails : t.rails = s.rails
  fuses : t.fuses = s.fuses
  mem : t.mem = s.mem

theorem powerEvents_kept {s t : State} (h : PowerEventsOnly s t) : ModeFieldsKept s t := by
  obtain ⟨p, hp, _, _, _, _, _, _, _, _, _, _, _, _, _, _, _, _, _, _, _, _, _, rfl⟩ := h
  exact ⟨hp, rfl, rfl, rfl, rfl, rfl, rfl, rfl, rfl⟩

theorem requestMode_powerEvents (m : PowerMode) (s : State) : PowerEventsOnly s (requestMode m s) := by
  unfold requestMode
  split
  · dsimp only
    split
    · refine powerEvents_trans (powerEvents_raise 0x0203 s) (powerEvents_of_pwr _ ?_)
      rfl
    · exact powerEvents_of_pwr _ rfl
  · split
    · exact powerEvents_refl s
    · exact powerEvents_of_pwr _ rfl

theorem joinWindow_powerEvents (ev : Bool) (s : State) : PowerEventsOnly s (joinWindow ev s) := by
  unfold joinWindow
  dsimp only
  split
  · split
    · exact powerEvents_after (powerEvents_trans (powerEvents_raise ..) (requestMode_powerEvents ..)) rfl
    · exact powerEvents_after (powerEvents_raise ..) rfl
  · exact powerEvents_of_pwr _ rfl

theorem presenceFrame_powerEvents (f : CellFrame) (s : State) : PowerEventsOnly s (presenceFrame f s) :=
  powerEvents_after (joinWindow_powerEvents ..) rfl

theorem foldl_powerEvents {α : Type} {f : State → α → State} (hf : ∀ s a, PowerEventsOnly s (f s a)) (l : List α)
    (s : State) : PowerEventsOnly s (l.foldl f s) := by
  induction l generalizing s with
  | nil => exact powerEvents_refl s
  | cons a l ih => exact powerEvents_trans (hf s a) (ih _)

/-- R70: what the presence detector carries over a return to RUN. -/
theorem carryOver_powerEvents (s : State) : PowerEventsOnly s (carryOver s) := by
  unfold carryOver
  dsimp only
  split
  · refine powerEvents_after (foldl_powerEvents (fun u f => ?_) _ _) rfl
    cases f with
    | some f => exact presenceFrame_powerEvents f u
    | none => exact joinWindow_powerEvents false u
  · split
    · exact powerEvents_after (powerEvents_raise ..) rfl
    · exact powerEvents_of_pwr s rfl

theorem startPending_powerEvents (s : State) : PowerEventsOnly s (startPending s) := by
  unfold startPending
  split
  · split
    · exact powerEvents_after (requestMode_powerEvents ..) rfl
    · exact powerEvents_refl s
  · exact powerEvents_refl s

theorem startPending_none {s : State} (h : s.pwr.pend = none) : startPending s = s := by
  rw [startPending, h]

theorem discardPending_none {s : State} (m : PowerMode) (h : s.pwr.pend = none) : discardPending m s = s := by
  rw [discardPending, h]
  exact if_neg (by simp)

/-! ### The new mode -/

/-- R65, R61: the mode with its ceiling and standing grant, before what its own entry does. -/
def modeSet (t : Transition) (s : State) : State :=
  let b := budgetOf t.target (t.trim.getD {}) s
  noteWindow { s with
    pwr := { s.pwr with cur := t.target, trans := none, trimNow := t.trim.getD {} }
    ldl := { s.ldl with standing := b.1, activeCeil := b.2, oldCeil := none } }

/-- R61: WATCH powers down the receivers but one, and the presence detector begins anew. -/
def enterWatch (t : Transition) (s : State) : State :=
  let s := sleepCams (fun p => p == s.pwr.pipe.toNat && t.source != .hold) s
  { s with pwr := { s.pwr with window := 0, count := 0, reference := none, heldFrames := [], carried := false,
                               pllLock := true } }

section
variable {t : Transition} (s : State)

theorem applyMode_watch (h : t.target = .watch) : applyMode t s = enterWatch t (modeSet t s) := by
  unfold applyMode enterWatch modeSet
  rw [h]

theorem applyMode_hold (h : t.target = .hold) : applyMode t s = enterHold (modeSet t s) := by
  unfold applyMode modeSet
  rw [h]

theorem applyMode_off (h : t.target = .off) : applyMode t s = enterOff (modeSet t s) := by
  unfold applyMode modeSet
  rw [h]

theorem applyMode_run (h : t.target = .run) : applyMode t s =
    if quiet t.source then returnToRun t.source (modeSet t s) else modeSet t s := by
  unfold applyMode modeSet
  rw [h]

end

theorem quiet_lines {s : State} {m : PowerMode} (h : (driveLines s).pwr.cur = m) (hq : quiet m = true) :
    linesDropped (driveLines s) := by
  have hm : s.pwr.cur = m := h
  have inactive (c : SafetyCh) : lineActive s c = false := by
    unfold lineActive
    cases m <;> simp_all [quiet]
  exact ⟨inactive s.sfp.chA, inactive s.sfp.chB⟩

/-! ### The command -/

section
variable {s : State} {t : Transition} {a : Nat} (ht : s.pwr.trans = some t) (ha : t.startedAt = some a)
include ht ha

theorem exec_modeTransitionComplete_early
    (h : s.clock.watch < latencyFrom t a + latency t.source t.target ∨ t.source = .hold ∧ s.rails.core = false) :
    exec .modeTransitionComplete s = .next s := by
  show execModeTransitionComplete s = _
  simp only [execModeTransitionComplete, ht, ha]
  rw [if_pos h]

theorem exec_modeTransitionComplete_due
    (h : ¬(s.clock.watch < latencyFrom t a + latency t.source t.target ∨ t.source = .hold ∧ s.rails.core = false)) :
    exec .modeTransitionComplete s = .next (driveLines (startPending
      (let r := resolveExit t (if t.source = .hold then reverify (phyBack t s) else s)
       applyMode r.1 (discardPending r.1.target (raise 0x0201 r.2))))) := by
  show execModeTransitionComplete s = _
  simp only [execModeTransitionComplete, ht, ha]
  rw [if_neg h]

/-- A change out of RUN, TRIM or WATCH, with no request waiting. -/
theorem exec_modeTransitionComplete_awake (hp : s.pwr.pend = none) (hs : t.source ≠ .hold)
    (h : latencyFrom t a + latency t.source t.target ≤ s.clock.watch) :
    exec .modeTransitionComplete s = .next (driveLines (startPending (applyMode t (raise 0x0201 s)))) := by
  rw [exec_modeTransitionComplete_due ht ha (by simp [hs, Nat.not_lt.2 h]), if_neg hs, resolveExit,
    if_neg (fun hc => hs hc.1)]
  dsimp only
  rw [discardPending_none _ (by rw [raise_pwr, hp])]

end

/-- R64, R66: what the check of the pattern at a HOLD exit leaves. -/
theorem reverify_kept (s : State) : (reverify s).pwr = s.pwr ∧ (reverify s).rails = s.rails ∧
    (reverify s).ldl.ceil = s.ldl.ceil ∧ (reverify s).mem = s.mem := by
  unfold reverify
  split
  · exact ⟨rfl, rfl, rfl, rfl⟩
  · split
    · exact ⟨rfl, rfl, rfl, rfl⟩
    · simp [setHw, markHw]

/-- R61, R79: what a mode's entry leaves of the mode, the budget and the lines. -/
structure ModeEntered (m : PowerMode) (standing ceiling : Nat) (s t : State) : Prop where
  cur : t.pwr.cur = m
  trans : t.pwr.trans = none
  standing : t.ldl.standing = standing
  ceiling : t.ldl.activeCeil = ceiling
  asy : t.asy = s.asy
  fuses : t.fuses = s.fuses
  mem : m ≠ .off → t.mem = s.mem

section
variable {t : Transition} (s : State)

theorem watch_entered (h : t.target = .watch) :
    ModeEntered .watch 28 40 s (driveLines (enterWatch t (modeSet t s))) :=
  ⟨h, rfl, congrArg (fun m => (budgetOf m (t.trim.getD {}) s).1) h,
    congrArg (fun m => (budgetOf m (t.trim.getD {}) s).2) h,
    rfl, rfl, fun _ => rfl⟩

theorem run_entered (h : t.target = .run) :
    ModeEntered .run (standingWith 0x1F s) s.ldl.ceil s (driveLines (modeSet t s)) :=
  ⟨h, rfl, congrArg (fun m => (budgetOf m (t.trim.getD {}) s).1) h,
    congrArg (fun m => (budgetOf m (t.trim.getD {}) s).2) h,
    rfl, rfl, fun _ => rfl⟩

theorem hold_entered (h : t.target = .hold) : ModeEntered .hold 0 0 s (driveLines (enterHold (modeSet t s))) :=
  ⟨h, rfl, congrArg (fun m => (budgetOf m (t.trim.getD {}) s).1) h,
    congrArg (fun m => (budgetOf m (t.trim.getD {}) s).2) h,
    rfl, rfl, fun _ => rfl⟩

theorem off_entered (h : t.target = .off) : ModeEntered .off 0 0 s (driveLines (enterOff (modeSet t s))) :=
  ⟨h, rfl, congrArg (fun m => (budgetOf m (t.trim.getD {}) s).1) h,
    congrArg (fun m => (budgetOf m (t.trim.getD {}) s).2) h,
    rfl, rfl, fun hn => absurd rfl hn⟩

end

/-- R64, R68: what a return to RUN leaves, whatever its source. -/
structure ReturnedToRun (s t : State) : Prop where
  cur : t.pwr.cur = .run
  ready : t.sys.ready = false
  rotation : t.tst.rotationAt = some (now s)
  ceiling : t.ldl.activeCeil = s.ldl.ceil
  mem : t.mem = s.mem

/-- A return to RUN out of WATCH carries the presence detector over. -/
theorem returnToRun_watch {t : Transition} {s : State} (htg : t.target = .run) (hsr : t.source = .watch) :
    ReturnedToRun s (driveLines (startPending (applyMode t s))) := by
  rw [applyMode_run s htg, hsr, if_pos (by decide)]
  have hcarry := powerEvents_kept (powerEvents_trans (carryOver_powerEvents { modeSet t s with
    sys := { (modeSet t s).sys with ready := false }
    tst := { (modeSet t s).tst with rotationAt := some (now s) }
    lnk := { (modeSet t s).lnk with links := (modeSet t s).lnk.links.map fun k => { k with trainFrom := now s } } })
    (startPending_powerEvents _))
  exact {
    cur := hcarry.cur.trans htg
    ready := congrArg Sys.ready hcarry.sys
    rotation := congrArg Tst.rotationAt hcarry.tst
    ceiling := hcarry.ceiling.trans (by show (budgetOf t.target _ s).2 = _; rw [htg]; rfl)
    mem := hcarry.mem }

/-- A return to RUN out of HOLD. -/
theorem returnToRun_hold {t : Transition} (s : State) (htg : t.target = .run) :
    ReturnedToRun s (driveLines (returnToRun .hold (modeSet t s))) :=
  ⟨htg, rfl, rfl, congrArg (fun m => (budgetOf m (t.trim.getD {}) s).2) htg, rfl⟩

theorem returnToRun_hold_rails (t : Transition) (s : State) :
    (driveLines (returnToRun .hold (modeSet t s))).pwr.trans = none ∧
    (driveLines (returnToRun .hold (modeSet t s))).pwr.pllLock = true ∧
    (driveLines (returnToRun .hold (modeSet t s))).rails = s.rails := ⟨rfl, rfl, rfl⟩

theorem returnToRun_hold_pend (t : Transition) (s : State) :
    (returnToRun .hold (modeSet t s)).pwr.pend = s.pwr.pend := rfl

/-- Settles O19: the command's branch by source and target, and what each mode's entry writes. -/
theorem modeTransitionCompletes : Obligations.ModeTransitionCompletes := by
  intro s t a ht ha hp
  have pend : (modeSet t (raise 0x0201 s)).pwr.pend = none := by
    show (raise 0x0201 s).pwr.pend = none
    rw [raise_pwr, hp]
  refine ⟨fun htg hsr hl => ?watch, fun htg hsr hl => ?run, fun htg hsr hl => ?hold, fun htg hsr hl => ?off,
    fun htg hsr hl => ?fromWatch, fun htg hsr hc hl => ?fromHold,
    fun h => exec_modeTransitionComplete_early ht ha (.inl h)⟩
  case watch =>
    refine ⟨_, exec_modeTransitionComplete_awake ht ha hp (by simp [hsr])
      (by simpa [latencyFrom, latency, hsr, htg] using hl), ?_⟩
    rw [applyMode_watch _ htg, startPending_none (by exact pend)]
    obtain ⟨hcur, htrans, hstand, hceil, hasy, -, hmem⟩ := watch_entered (raise 0x0201 s) htg
    exact ⟨hcur, htrans, hstand, hceil, quiet_lines hcur rfl, (hmem (by decide)).trans (raise_mem ..),
      hasy.trans (raise_asy ..)⟩
  case run =>
    refine ⟨_, exec_modeTransitionComplete_awake ht ha hp (by simp [hsr])
      (by simpa [latencyFrom, latency, hsr, htg] using hl), ?_⟩
    rw [applyMode_run _ htg, hsr, if_neg (by decide), startPending_none pend]
    obtain ⟨hcur, htrans, -, hceil, hasy, -, hmem⟩ := run_entered (raise 0x0201 s) htg
    exact ⟨hcur, htrans, hceil.trans (raise_ldl_ceil ..), (hmem (by decide)).trans (raise_mem ..),
      hasy.trans (raise_asy ..)⟩
  case hold =>
    refine ⟨_, exec_modeTransitionComplete_awake ht ha hp (by simp [hsr])
      (by simpa [latencyFrom, latency, hsr, htg] using hl), ?_⟩
    rw [applyMode_hold _ htg, startPending_none (by exact pend)]
    obtain ⟨hcur, htrans, -, hceil, -, -, hmem⟩ := hold_entered (raise 0x0201 s) htg
    exact ⟨hcur, htrans, rfl, rfl, hceil, quiet_lines hcur rfl, (hmem (by decide)).trans (raise_mem ..)⟩
  case off =>
    refine ⟨_, exec_modeTransitionComplete_awake ht ha hp (by simp [hsr])
      (by simpa [latencyFrom, latency, hsr, htg] using hl), ?_⟩
    rw [applyMode_off _ htg, startPending_none (by exact pend)]
    obtain ⟨hcur, htrans, -, -, -, hfuses, -⟩ := off_entered (raise 0x0201 s) htg
    exact ⟨hcur, htrans, rfl, rfl, quiet_lines hcur rfl, hfuses.trans (raise_fuses ..)⟩
  case fromWatch =>
    refine ⟨_, exec_modeTransitionComplete_awake ht ha hp (by simp [hsr])
      (by simpa [latencyFrom, latency, hsr, htg] using hl), ?_⟩
    obtain ⟨hcur, hready, hrot, hceil, hmem⟩ := returnToRun_watch (s := raise 0x0201 s) htg hsr
    exact ⟨hcur, hready, hrot.trans (congrArg (fun c => some (Clock.tsc c)) (raise_clock ..)),
      hceil.trans (raise_ldl_ceil ..), hmem.trans (raise_mem ..)⟩
  case fromHold =>
    obtain ⟨hpwr, hrails, hldl, hmem⟩ := reverify_kept (phyBack t s)
    have hphy : phyBack t s = { s with rails := { s.rails with phy := true } } := if_pos hsr
    refine ⟨_, exec_modeTransitionComplete_due ht ha ?_, ?_⟩
    · simp [latencyFrom, latency, hsr, hc, hl]
    rw [if_pos hsr, resolveExit, if_neg (by simp [htg])]
    dsimp only
    have hpend : (raise 0x0201 (reverify (phyBack t s))).pwr.pend = none := by
      rw [raise_pwr, hpwr, hphy]
      exact hp
    rw [discardPending_none _ hpend, applyMode_run _ htg, hsr, if_pos (by decide),
      startPending_none (by rw [returnToRun_hold_pend, hpend])]
    obtain ⟨hcur, hready, -, hceil, hmem'⟩ := returnToRun_hold (raise 0x0201 (reverify (phyBack t s))) htg
    obtain ⟨htrans, hlock, hrails'⟩ := returnToRun_hold_rails t (raise 0x0201 (reverify (phyBack t s)))
    refine ⟨hcur, htrans, hlock, ?_, hready, ?_, ?_⟩
    · rw [hrails', raise_rails, hrails, hphy]
    · rw [hceil, raise_ldl_ceil, hldl, hphy]
    · rw [hmem', raise_mem, hmem, hphy]

end Sys2Proof.Machine
end

section
/-! Ladle's grants (R76, R77, R84, R85), the test loads (R86, R87, R91) and the current monitor (R92 to R94). -/

namespace Sys2Proof.Machine

/-! ### A grant -/

section
variable {s : State} {r : Request} (hq : queueHead s.ldl.queue = some r) (hf : canFit s r.tickets = true)
include hq hf

theorem exec_ladleGrant_takes (hd : grantDue s r = true) :
    exec .ladleGrant s = .next (countSel 6 r.tickets (takeGrant r s)) := by
  show execLadleGrant s = _
  rw [execLadleGrant, hq]
  dsimp only
  rw [if_neg (by simp [hf]), if_pos hd]

end

/-- The grant that a request is given now. -/
def newGrant (r : Request) (s : State) : Grant :=
  { id := r.id, tickets := r.tickets, grantedAt := now s, rampEnd := now s + 30 * r.tickets, begun := false,
    serves := r.serves }

/-- R76, R77, R85: what the grant of the head writes: Ladle alone. -/
theorem takeGrant_frame (r : Request) (s : State) : ∃ loads w m p, takeGrant r s = { s with ldl := { s.ldl with
    queue := s.ldl.queue.filter fun q => q.id != r.id,
    grants := (grantsNow s).filter (fun g => g.id != r.id) ++ [newGrant r s],
    lastGrant := some (now s), lastRampEnd := now s + 30 * r.tickets, loads := loads, waitMax := w, maxGranted := m,
    winPours := p } } := by
  unfold takeGrant noteWindow
  dsimp only
  split <;> exact ⟨_, _, _, _, rfl⟩

/-- Settles O20: the grant of the head, and a frozen Ladle. -/
theorem ladleGrants : Obligations.LadleGrants := by
  intro s r hq hf
  refine ⟨fun hd => ?granted, fun hz => exec_ladleGrant_waits hq hf (by simp [grantDue, hz])⟩
  obtain ⟨loads, w, m, p, hg⟩ := takeGrant_frame r s
  refine ⟨_, newGrant r s, exec_ladleGrant_takes hq hf hd, ?_⟩
  rw [hg]
  refine ⟨List.mem_append_right _ (List.mem_singleton_self _), rfl, rfl, rfl, rfl, rfl, fun q hmem => ?_, rfl, rfl, rfl,
    rfl, rfl, rfl⟩
  simpa using (List.mem_filter.1 hmem).2

/-! ### The test loads -/

section
variable {s : State} {who : Agent} {n : Fin 2}

/-- The registers of a load after a go. -/
def loadSet (n : Fin 2) (tickets : BitVec 8) (hold : BitVec 16) (s : State) : State :=
  { s with ldl := { s.ldl with loads := upd s.ldl.loads n.val fun l => { l with tickets := tickets, hold := hold } } }

theorem exec_tloadGo_denied (h : agentKeeper s who = false) (tickets : BitVec 8) (hold : BitVec 16) :
    exec (.tloadGo who n tickets hold) s = .next s := if_neg (by simp [h])

theorem exec_tloadStop_denied (h : agentKeeper s who = false) : exec (.tloadStop who n) s = .next s :=
  if_neg (by simp [h])

theorem exec_tloadGo_goes (h : agentKeeper s who = true) (tickets : BitVec 8) (hold : BitVec 16) :
    exec (.tloadGo who n tickets hold) s = .next (goLoad n.val tickets.toNat hold.toNat s) := if_pos h

theorem goLoad_eq (tickets : BitVec 8) (hold : BitVec 16) : goLoad n.val tickets.toNat hold.toNat s =
    if (loadPhase s n.val == .idle && !changing s) = true then
      let r := ladleRequest (loadId n.val) 2 none (max 1 tickets.toNat) none (loadSet n tickets hold s)
      if r.2 then
        { r.1 with ldl := { r.1.ldl with loads := upd r.1.ldl.loads n.val fun l =>
          { l with phase := .queued, runHold := 1200 * max 1 hold.toNat } } }
      else r.1
    else loadSet n tickets hold s := by
  unfold goLoad
  simp only [BitVec.ofNat_toNat, BitVec.setWidth_eq]
  cases loadPhase s n.val == .idle && !changing s <;> rfl

theorem exec_tloadGo_busy (h : agentKeeper s who = true) (hb : loadPhase s n.val ≠ .idle ∨ changing s = true)
    (tickets : BitVec 8) (hold : BitVec 16) :
    exec (.tloadGo who n tickets hold) s = .next (loadSet n tickets hold s) := by
  rw [exec_tloadGo_goes h, goLoad_eq, if_neg (by rcases hb with hb | hb <;> simp [hb])]

/-- R86: a go of an idle load outside a mode change. -/
theorem exec_tloadGo_idle (h : agentKeeper s who = true) (hi : loadPhase s n.val = .idle) (hc : changing s = false)
    (tickets : BitVec 8) (hold : BitVec 16) : exec (.tloadGo who n tickets hold) s = .next (
      let r := ladleRequest (loadId n.val) 2 none (max 1 tickets.toNat) none (loadSet n tickets hold s)
      if r.2 then
        { r.1 with ldl := { r.1.ldl with loads := upd r.1.ldl.loads n.val fun l =>
          { l with phase := .queued, runHold := 1200 * max 1 hold.toNat } } }
      else r.1) := by
  rw [exec_tloadGo_goes h, goLoad_eq, if_pos (by simp [hi, hc])]

theorem exec_tloadStop_stops (h : agentKeeper s who = true) (hb : loadPhase s n.val ≠ .idle) :
    exec (.tloadStop who n) s = .next (stopLoad n.val s) := if_pos (by simp [h, hb])

theorem exec_tloadStop_idle (h : loadPhase s n.val = .idle) : exec (.tloadStop who n) s = .next s :=
  if_neg (by simp [h])

end

/-- A load that is not idle stands among the loads. -/
theorem load_inRange {s : State} {n : Nat} (h : (nth s.ldl.loads n {}).phase ≠ .idle) : n < s.ldl.loads.length := by
  rcases Nat.lt_or_ge n s.ldl.loads.length with a | a
  · exact a
  · exact absurd (by simp [nth, List.getD_eq_getElem?_getD, a]) h

/-- R89: a stop writes Ladle's queue, its grants and the end of the last ramp. -/
theorem ladleStop_frame (id : Nat) (andBegun : Bool) (s : State) : ∃ gs e, ladleStop id andBegun s =
    { s with ldl := { s.ldl with queue := s.ldl.queue.filter (fun r => r.id != id), grants := gs, lastRampEnd := e } } ∧
    (s.ldl.grants = [] → gs = []) ∧ (andBegun = true → ∀ g ∈ gs, g.id = id → g.relAt.isSome = true) := by
  unfold ladleStop withdrawRequest
  dsimp only
  split
  next hn =>
    refine ⟨_, _, rfl, fun he => he, fun _ g hg hid => ?_⟩
    have := List.find?_eq_none.1 hn g hg
    simpa [hid, Option.isSome_iff_ne_none] using this
  next g hg =>
    split
    next hb => exact ⟨_, _, rfl, fun he => he, fun ha => absurd hb (by simp [ha])⟩
    next =>
      refine ⟨_, _, rfl, fun he => by rw [he]; rfl, fun _ k hk hid => ?_⟩
      obtain ⟨h, -, rfl⟩ := List.mem_map.1 hk
      by_cases hh : h.id = id ∧ h.relAt = none
      · rw [if_pos hh]
        rfl
      · rw [if_neg hh] at hid ⊢
        exact Option.isSome_iff_ne_none.2 fun hr => hh ⟨hid, hr⟩

/-- R86: the phase that a stop leaves. -/
def stopPhase (now : Nat) : LoadPhase → LoadPhase
  | .idle => .idle
  | .queued => .idle
  | .stopping t => .stopping t
  | _ => .stopping (now + 1)

theorem stopLoad_eq (n : Nat) (s : State) : stopLoad n s =
    { ladleStop (loadId n) true s with ldl := { (ladleStop (loadId n) true s).ldl with
        loads := upd (ladleStop (loadId n) true s).ldl.loads n
          fun l => { l with phase := stopPhase (now s) l.phase } } } := by
  unfold stopLoad
  dsimp only
  refine congrArg (fun f => { ladleStop (loadId n) true s with ldl := { (ladleStop (loadId n) true s).ldl with
        loads := upd (ladleStop (loadId n) true s).ldl.loads n f } }) (funext fun l => ?_)
  cases l.phase <;> rfl

/-- R86, R89: what a stop of a busy load leaves. -/
theorem stopLoad_leaves {n : Nat} {s : State} (h : (nth s.ldl.loads n {}).phase ≠ .idle) :
    (nth (stopLoad n s).ldl.loads n {}).phase = stopPhase (now s) (nth s.ldl.loads n {}).phase ∧
    (stopLoad n s).ldl.queue = s.ldl.queue.filter (fun r => r.id != loadId n) ∧
    (s.ldl.grants = [] → (stopLoad n s).ldl.grants = []) ∧
    (∀ g ∈ (stopLoad n s).ldl.grants, g.id = loadId n → g.relAt.isSome = true) ∧
    (stopLoad n s).mem = s.mem ∧ (stopLoad n s).hif = s.hif ∧ (stopLoad n s).asy = s.asy := by
  obtain ⟨gs, e, hs, hnil, hrel⟩ := ladleStop_frame (loadId n) true s
  rw [stopLoad_eq, hs]
  exact ⟨congrArg TestLoad.phase (nth_upd_same _ {} (load_inRange h)), rfl, hnil, hrel rfl, rfl, rfl, rfl⟩

theorem loadPhase_busy {s : State} {n : Nat} {p : LoadPhase} (h : (nth s.ldl.loads n {}).phase = p)
    (hs : ∀ t, p ≠ .stopping t) : loadPhase s n = p := by
  unfold loadPhase
  rw [h]
  split
  · exact absurd rfl (hs _)
  · rfl

theorem exec_tloadHoldEnd_ends {s : State} {n : Fin 2} {e : Nat} (h : (nth s.ldl.loads n.val {}).phase = .drawing e)
    (he : e ≤ now s) : exec (.tloadHoldEnd n) s = .next { s with ldl := { s.ldl with
      queue := s.ldl.queue.filter (fun r => r.id != loadId n.val),
      grants := s.ldl.grants.filter (fun g => g.id != loadId n.val),
      loads := upd s.ldl.loads n.val (fun l => { l with phase := .idle }) } } := by
  show execTloadHoldEnd n s = _
  rw [execTloadHoldEnd, h]
  exact if_pos he

theorem exec_tloadHoldEnd_early {s : State} {n : Fin 2} {e : Nat} (h : (nth s.ldl.loads n.val {}).phase = .drawing e)
    (he : now s < e) : exec (.tloadHoldEnd n) s = .next s := by
  show execTloadHoldEnd n s = _
  rw [execTloadHoldEnd, h]
  exact if_neg (Nat.not_le.2 he)

/-- Settles O24: a go by what the load does and whether its request can fit, a stop by the load's phase. -/
theorem testLoadsRun : Obligations.TestLoadsRun := by
  intro s n who tickets hold
  refine ⟨fun h => ⟨exec_tloadGo_denied h .., exec_tloadStop_denied h⟩, fun h hi hc hf => ?requests,
    fun h hi hc hf => ?refused, fun h hb => exec_tloadGo_busy h hb .., fun h hp hg => ?queued, fun e h hp => ?drawing,
    fun _ => exec_tloadStop_idle, fun e => exec_tloadHoldEnd_ends, fun e => exec_tloadHoldEnd_early⟩
  case requests =>
    rw [exec_tloadGo_idle h hi hc]
    have hf' : canFit (loadSet n tickets hold s) (max 1 tickets.toNat) = true := hf
    simp only [ladleRequest, hf', if_true]
    exact ⟨_, rfl, rfl, rfl, rfl, rfl, rfl⟩
  case refused =>
    rw [exec_tloadGo_idle h hi hc]
    have hf' : ¬canFit (loadSet n tickets hold s) (max 1 tickets.toNat) = true := by
      exact Bool.eq_false_iff.1 hf
    simp only [ladleRequest, hf', Bool.false_eq_true, if_false]
    rfl
  case queued =>
    obtain ⟨hph, hq, hgr, -, hmem, hhif, hasy⟩ := stopLoad_leaves (s := s) (n := n.val) (by rw [hp]; decide)
    rw [hp] at hph
    refine ⟨_, exec_tloadStop_stops h ?_, hq, loadPhase_busy hph (by simp), hgr hg, hmem, hhif, hasy⟩
    rw [loadPhase_busy hp (by simp)]
    decide
  case drawing =>
    obtain ⟨p, hp', hne, hstop, hstops⟩ : ∃ p, (nth s.ldl.loads n.val {}).phase = p ∧ p ≠ .idle ∧
        (∀ t, p ≠ .stopping t) ∧ stopPhase (now s) p = .stopping (now s + 1) := by
      rcases hp with hp | hp
      · exact ⟨_, hp, by simp, by simp, rfl⟩
      · exact ⟨_, hp, by simp, by simp, rfl⟩
    obtain ⟨hph, -, -, hrel, hmem, hhif, hasy⟩ := stopLoad_leaves (s := s) (n := n.val) (by rw [hp']; exact hne)
    refine ⟨_, exec_tloadStop_stops h ?_, ?_, hrel, hmem, hhif, hasy⟩
    · rw [loadPhase_busy hp' hstop]
      exact hne
    · rw [hph, hp', hstops]

/-! ### The current monitor -/

theorem exec_currentMonitorWindow_early {s : State} {m : Nat} (h : now s % 1200 ≠ 0 ∨ s.ldl.windowAt = some (now s)) :
    exec (.currentMonitorWindow m) s = .next s := if_pos h

/-- Settles O25: the end of a window by whether the current is above the allowance and below half the granted sum. -/
theorem currentWindowMeasured : Obligations.CurrentWindowMeasured := by
  refine ⟨fun s m ht hw => ?_, fun s m h => exec_currentMonitorWindow_early h⟩
  refine ⟨_, if_neg (by simp [ht, hw]), rfl, rfl, rfl, Nat.zero_max _, fun h => ?above, fun h => ?within,
    fun h hg => ?below, fun h => ?notBelow, rfl, rfl, rfl, rfl, rfl, rfl⟩
  case above => exact if_pos (decide_eq_true h)
  case within => exact if_neg (by simpa using h)
  case below => exact if_pos (decide_eq_true ⟨h, hg⟩)
  case notBelow => exact if_neg (by simp only [decide_eq_true_eq]; omega)

/-! ### Overrun and underrun -/

/-- What Ladle notes of an overrun. -/
def overrunNoted (s : State) : State :=
  { s with ldl := { s.ldl with frozen := true, overRaised := true, withinRun := 0 } }

theorem exec_ldlOverrun_acts {s : State} (hr : s.ldl.overRaised = false) (hw : monWindows s ≤ s.ldl.overRun) :
    exec .ldlOverrun s = .next (s.ldl.exposed.foldl (fun u r => invalidatePour r u)
      (detectS1 0x0320 (pairBits (pairsOf s s.ldl.exposed)) (overrunNoted s))) :=
  if_pos (by simp [hr, hw])

theorem exec_ldlOverrun_none {s : State} (h : s.ldl.overRaised = true ∨ s.ldl.overRun < monWindows s) :
    exec .ldlOverrun s = .next s :=
  if_neg (by rcases h with h | h <;> simp [h])

/-- What Ladle has noted is no part of what an entry to S1 leaves. -/
theorem s1Entered_of_ldl {code : EventCode} {pairs : BitVec 4} {l : Ldl} {s t : State}
    (h : S1Entered code pairs { s with ldl := l } t) : S1Entered code pairs s t :=
  ⟨h.state, h.detected, h.faultCode, h.faultCount, h.faultPairs, h.lines, h.running, h.raised, h.memory⟩

/-- A detection leaves Ladle's grants, its queue and its freeze. -/
theorem enterS1_ldl (code : EventCode) (s : State) :
    (enterS1 code s).ldl.frozen = s.ldl.frozen ∧ (enterS1 code s).ldl.queue = s.ldl.queue := by
  unfold enterS1
  split
  · exact ⟨rfl, rfl⟩
  · split
    · rw [raise_ldl_frozen, raise_ldl_queue]
      exact ⟨rfl, rfl⟩
    · exact ⟨rfl, rfl⟩
    · exact ⟨rfl, rfl⟩

theorem detectS1_ldl (code : EventCode) (pairs : BitVec 4) (s : State) :
    (detectS1 code pairs s).ldl.frozen = s.ldl.frozen ∧ (detectS1 code pairs s).ldl.queue = s.ldl.queue := by
  obtain ⟨_, _, _, hl, -⟩ := logFault_frame code pairs (raise code s)
  obtain ⟨hf, hq⟩ := enterS1_ldl code (logFault code pairs (raise code s))
  rw [detectS1, hf, hq, hl]
  exact ⟨raise_ldl_frozen .., raise_ldl_queue ..⟩

/-- Settles O26: an overrun is an S1 detection of the exposed pours' pairs, of the state with the freeze noted. -/
theorem currentRunsAct : Obligations.CurrentRunsAct := by
  intro s
  refine ⟨fun hr hw he hn h6 => ?enters, exec_ldlOverrun_acts, exec_ldlOverrun_none,
    fun hf hw => if_pos (by simp [hf, hw]), fun h8 hr => if_pos (by simp [h8, hr]),
    fun h8 => if_neg (by simp [Nat.not_le.2 h8])⟩
  have hx := exec_ldlOverrun_acts hr hw
  have hpairs : pairBits (pairsOf s []) = 0 := rfl
  rw [he, hpairs, List.foldl_nil] at hx
  obtain ⟨hf, hq⟩ := detectS1_ldl 0x0320 0 (overrunNoted s)
  exact ⟨_, hx, s1Entered_of_ldl (detectS1_enters 0x0320 0 (overrunNoted s) hn h6), hf, hq⟩

end Sys2Proof.Machine
end

section
/-! Fuse operations (R106 to R109) and attestation (R107, R110 to R112, R515). -/

namespace Sys2Proof.Machine

/-! ### Fuse operations -/

section
variable {s : State} {who : Agent} (hw : agentKeeperOrHost s who = true) (hc : clocksRun s = true)
include hw hc

theorem exec_fuseUnlock_arms : exec (.fuseUnlock who) s = .next { s with idn := { s.idn with unlock := 2 } } :=
  if_pos (by simp [hw, hc])

theorem fuseBy_starts (op : FuseOp) : fuseBy who op s = .next (startFuse op s) := if_pos (by simp [hw, hc])

/-- R108: an armed operation starts behind those in progress. -/
theorem fuseBy_armed {op : FuseOp} (hf : fuseFree s = true) (ho : fuseSlotOk s op = true) :
    fuseBy who op s = .next { s with
      idn := { s.idn with unlock := 0, fuseOps := s.idn.fuseOps ++ [(op, now s)] } } := by
  rw [fuseBy_starts hw hc, startFuse, hf, ho]
  rfl

theorem fuseBy_refused {op : FuseOp} (h : (fuseFree s && fuseSlotOk s op) = false) :
    fuseBy who op s = .next (raise 0x0411 (setHw .fuseError { s with idn := { s.idn with unlock := 0 } })) := by
  rw [fuseBy_starts hw hc, startFuse, h]
  rfl

end

theorem fuseFree_of {s : State} (hu : s.idn.unlock = 2) (hp : s.fgs.pours = []) (ha : s.idn.att = none) :
    fuseFree s = true := by
  simp [fuseFree, hu, hp, ha]

theorem fuseFree_false {s : State} (h : s.idn.unlock ≠ 2 ∨ s.fgs.pours ≠ [] ∨ s.idn.att ≠ none) :
    fuseFree s = false := by
  rcases h with h | h | h
  · simp [fuseFree, h]
  · simp [fuseFree, h]
  · simp [fuseFree, Option.isSome_iff_ne_none.2 h]

/-- Settles O29: every operation by the one rule of `startFuse`. -/
theorem fuseOperationsStart : Obligations.FuseOperationsStart := by
  intro s who slot usage hw hc
  refine ⟨exec_fuseUnlock_arms hw hc, fun hu hp ha => ?armed, fun h c hmem => ?refused, fun t ht => ?others⟩
  case armed =>
    have hf := fuseFree_of hu hp ha
    exact ⟨fun hn hz => fuseBy_armed hw hc hf (by simp only [fuseSlotOk, hn, hz]; rfl),
      fun ho => fuseBy_armed hw hc hf ho, fun ho => fuseBy_refused hw hc (by rw [ho, Bool.and_false]),
      fuseBy_armed hw hc hf rfl, fuseBy_armed hw hc hf rfl, fuseBy_armed hw hc hf rfl⟩
  case refused =>
    have hr (op : FuseOp) := fuseBy_refused hw hc (op := op) (by rw [fuseFree_false h, Bool.false_and])
    simp only [List.mem_cons, List.not_mem_nil, or_false] at hmem
    rcases hmem with rfl | rfl | rfl | rfl | rfl <;> exact hr _
  case others =>
    have ha : agentKeeperOrHost s (.thread t) = false := ht
    exact ⟨if_neg (by simp [ha]), if_neg (by simp [ha])⟩

/-! ### The end of programming -/

/-- R109: programming undoes nothing of the seed, the serial number and the version fuses. -/
theorem programFuses_keeps (op : FuseOp) (ok : Bool) (s : State) :
    (programFuses op ok s).seed = s.fuses.seed ∧ (programFuses op ok s).serial = s.fuses.serial ∧
    s.fuses.asySvn ≤ (programFuses op ok s).asySvn ∧ s.fuses.kprSvn ≤ (programFuses op ok s).kprSvn := by
  cases op with
  | writeKey slot usage h => exact ⟨rfl, rfl, Nat.le_refl _, Nat.le_refl _⟩
  | revoke slot => cases ok <;> exact ⟨rfl, rfl, Nat.le_refl _, Nat.le_refl _⟩
  | advanceAsy => cases ok <;> exact ⟨rfl, rfl, by simp [programFuses], Nat.le_refl _⟩
  | advanceKpr => cases ok <;> exact ⟨rfl, rfl, Nat.le_refl _, by simp [programFuses]⟩
  | decommission => cases ok <;> exact ⟨rfl, rfl, Nat.le_refl _, Nat.le_refl _⟩

theorem programFuses_revokes {slot : Fin 4} {s : State} (h : slot.val < s.fuses.slots.length) :
    (nth (programFuses (.revoke slot) true s).slots slot.val {}).revoked = true :=
  congrArg KeySlot.revoked (nth_upd_same (fun k : KeySlot => { k with revoked := true }) {} h)

/-- R109: without a good read-back only a key changes the fuses. -/
theorem programFuses_failed {op : FuseOp} (h : ∀ slot u k, op ≠ .writeKey slot u k) (s : State) :
    programFuses op false s = s.fuses := by
  cases op with
  | writeKey slot usage k => exact absurd rfl (h slot usage k)
  | revoke slot => rfl
  | advanceAsy => rfl
  | advanceKpr => rfl
  | decommission => rfl

/-- The state when programming has ended, before its events. -/
def fuseProgrammed (op : FuseOp) (rest : List (FuseOp × Nat)) (ok : Bool) (s : State) : State :=
  setHw .fuseDone { s with fuses := programFuses op ok s, idn := { s.idn with fuseOps := rest } }

section
variable {s : State} {op : FuseOp} {at_ : Nat} {rest : List (FuseOp × Nat)} (hops : s.idn.fuseOps = (op, at_) :: rest)
  (ok : Bool)
include hops

theorem exec_fuseProgDone_early (h : now s < at_ + 2400000) : exec (.fuseProgDone ok) s = .next s := by
  show execFuseProgDone ok s = _
  rw [execFuseProgDone, hops]
  exact if_pos h

theorem exec_fuseProgDone_ends (h : at_ + 2400000 ≤ now s) : exec (.fuseProgDone ok) s = .next (
    if ok then raise 0x0410 (fuseProgrammed op rest ok s)
    else raise 0x0414 (setHw .fuseError (fuseProgrammed op rest ok s))) := by
  show execFuseProgDone ok s = _
  rw [execFuseProgDone, hops]
  exact if_neg (Nat.not_lt.2 h)

/-- R108: what the end of programming leaves. -/
theorem exec_fuseProgDone_leaves (h : at_ + 2400000 ≤ now s) : ∃ t, exec (.fuseProgDone ok) s = .next t ∧
    t.fuses = programFuses op ok s ∧
    t.idn = { s.idn with fuseOps := rest, fuseDone := true, fuseError := s.idn.fuseError || !ok } ∧
    t.mem = s.mem ∧ t.sys = s.sys ∧ t.asy = s.asy := by
  refine ⟨_, exec_fuseProgDone_ends hops ok h, ?_⟩
  cases ok with
  | true =>
    rw [if_pos rfl, raise_fuses, raise_idn, raise_mem, raise_sys, raise_asy]
    exact ⟨rfl, by rw [Bool.not_true, Bool.or_false]; rfl, rfl, rfl, rfl⟩
  | false =>
    rw [if_neg (by decide), raise_fuses, raise_idn, raise_mem, raise_sys, raise_asy]
    exact ⟨rfl, by rw [Bool.not_false, Bool.or_true]; rfl, rfl, rfl, rfl⟩

end

/-- Settles O30: the fuses are those of `programFuses`, which undoes nothing. -/
theorem fuseProgrammingEnds : Obligations.FuseProgrammingEnds := by
  intro s op at_ rest ok hops
  refine ⟨fun h => ?_, exec_fuseProgDone_early hops ok⟩
  obtain ⟨t, he, hf, hidn, hmem, hsys, hasy⟩ := exec_fuseProgDone_leaves hops ok h
  obtain ⟨hseed, hserial, hsvn, hkpr⟩ := programFuses_keeps op ok s
  refine ⟨t, he, hf, hidn, ?_⟩
  rw [hf]
  refine ⟨hseed, hserial, hsvn, hkpr, fun slot ho hok hlt => ?_, fun ho hok => ?_, fun hok ho => ?_, hmem, hsys, hasy⟩
  · rw [ho, hok]
    exact programFuses_revokes hlt
  · rw [ho, hok]
    rfl
  · rw [hok]
    exact programFuses_failed ho s

/-! ### Attestation -/

/-- Without a waiting write of a unit there is none to drop. -/
theorem dropHeld_none {s : State} {off : Nat} (h : ∀ b, heldAt s off b = []) : dropHeld off s = s := by
  have hl : s.held.filter (fun w => w.off != off) = s.held := by
    refine List.filter_eq_self.2 fun w hw => ?_
    have hn := List.filter_eq_nil_iff.1 (h w.keeper) w hw
    simpa using hn
  unfold dropHeld
  rw [hl]

/-- R108: the state of a go: the unlock sequence is broken. -/
def goTaken (s : State) : State := { s with idn := { s.idn with unlock := 0 } }

/-- R111: the report's bytes and its signature. -/
def signedReport (j : AttJob) (s : State) : List Byte :=
  reportBody j s ++ sliceBytes (Config.attestationSignature s.fuses.seed (sha384 (reportBody j s)) s.draws) 0 96

/-- The state when a report has been written, before its events. -/
def reportWritten (j : AttJob) (s : State) : State :=
  { s with idn := { s.idn with att := none, attBuf := signedReport j s }, draws := s.draws + 1 }

theorem setHw_attDone_idn (s : State) : (setHw .attDone s).idn = { s.idn with attDone := true } := rfl

section
variable {s : State} (hr : assayerRuns s = true) (hheld : ∀ b, heldAt s attUnit b = [])
include hr hheld

theorem takeGo_one {keeper host : Bool} (h : (keeper || host) = true) : takeGo keeper host s =
    if (keeper && host) = true then raise 0x0413 (startReport (goTaken s)) else startReport (goTaken s) := by
  have hd : dropHeld attUnit (goTaken s) = goTaken s := dropHeld_none hheld
  unfold takeGo
  simp only [hheld, List.isEmpty_nil, Bool.not_true, Bool.or_false, hr, h, Bool.false_eq_true, if_false,
    if_true]
  rw [show ({ s with idn := { s.idn with unlock := 0 } } : State) = goTaken s from rfl, hd]

theorem exec_attGo_keeper : exec (.attGo true false) s = .next (startReport (goTaken s)) :=
  congrArg Host.Outcome.next (takeGo_one hr hheld rfl)

theorem exec_attGo_host : exec (.attGo false true) s = .next (startReport (goTaken s)) :=
  congrArg Host.Outcome.next (takeGo_one hr hheld rfl)

theorem exec_attGo_both : exec (.attGo true true) s = .next (raise 0x0413 (startReport (goTaken s))) :=
  congrArg Host.Outcome.next (takeGo_one hr hheld rfl)

omit hheld in
theorem exec_attDone_ends {j : AttJob} (hj : s.idn.att = some j) :
    exec .attDone s = .next (raise 0x0412 (setHw .attDone (reportWritten j s))) := by
  show execAttDone s = _
  rw [execAttDone, hj]
  exact if_neg (by simp [hr])

end

theorem exec_attGo_idle {s : State} (h : assayerRuns s = false) (k host : Bool) : exec (.attGo k host) s = .next s := by
  show done (takeGo k host s) = _
  unfold takeGo
  rw [h]
  rfl

/-- Settles O31: a go by what the lifecycle, the identity and the report in progress let it do. -/
theorem attestationRuns : Obligations.AttestationRuns := by
  intro s hr hheld
  have hgo := exec_attGo_keeper hr hheld
  refine ⟨fun hl hi ha => ?taken, fun hl hi ha => ?busy, fun hl hi => ?mismatch, fun hl => ?decommissioned,
    (exec_attGo_host hr hheld).trans hgo.symm, ⟨_, hgo, exec_attGo_both hr hheld⟩,
      fun r k h hn => exec_attGo_idle hn k h,
    fun j hj => ?ended⟩
  case taken =>
    rw [hgo, startReport, if_neg (by exact hl), if_neg (by simp [goTaken, hi]), if_neg (by simp [goTaken, ha])]
    rfl
  case busy =>
    rw [hgo, startReport, if_neg (by exact hl), if_neg (by simp [goTaken, hi]), if_pos (by exact ha)]
    rfl
  case mismatch =>
    rw [hgo, startReport, if_neg (by exact hl), if_pos (by exact hi)]
    rfl
  case decommissioned =>
    rw [hgo, startReport, if_pos (by exact hl)]
    rfl
  case ended =>
    refine ⟨_, exec_attDone_ends hr hj, ?_⟩
    rw [raise_idn, raise_draws, raise_fuses, raise_mem, raise_sys, setHw_attDone_idn]
    exact ⟨rfl, rfl, rfl, rfl, rfl, rfl, rfl⟩

end Sys2Proof.Machine
end

section
/-! What follows a start: the doorbell, the staged images, the fetch's time-out and readiness (R14, R98 to R105). -/

namespace Sys2Proof.Machine

/-! ### What the checks of an image depend on -/

section
variable {s t : State} (hm : t.mem = s.mem)
include hm

theorem stagedLayout_congr : stagedLayout t = stagedLayout s := by rw [stagedLayout, stagedLayout, hm]

theorem imagePlace_congr (i : Nat) : imagePlace i t = imagePlace i s := by
  rw [imagePlace, imagePlace, stagedLayout_congr hm]

theorem imageId_congr (place : Nat) : imageId place t = imageId place s := by rw [imageId, imageId, hm]

theorem imageCheck_congr (hf : t.fuses = s.fuses) (i place : Nat) : imageCheck i place t = imageCheck i place s := by
  rw [imageCheck, imageCheck, hm, hf]

end

/-! ### Detections leave system control and the fuses -/

/-- System control and the fuses are as they were. -/
def SysFusesKept (s t : State) : Prop := t.sys = s.sys ∧ t.fuses = s.fuses

theorem sysFusesKept_trans {s t u : State} (h : SysFusesKept s t) (k : SysFusesKept t u) : SysFusesKept s u :=
  ⟨k.1.trans h.1, k.2.trans h.2⟩

theorem raise_sysFuses (code : EventCode) (s : State) : SysFusesKept s (raise code s) := ⟨raise_sys .., raise_fuses ..⟩

theorem driveLines_sysFuses (s : State) : SysFusesKept s (driveLines s) := ⟨rfl, rfl⟩

theorem enterS1_sysFuses (code : EventCode) (s : State) : SysFusesKept s (enterS1 code s) := by
  unfold enterS1
  split
  · exact ⟨rfl, rfl⟩
  · split
    · exact raise_sysFuses ..
    · exact ⟨rfl, rfl⟩
    · exact ⟨rfl, rfl⟩

theorem detectS1_sysFuses (code : EventCode) (pairs : BitVec 4) (s : State) :
    SysFusesKept s (detectS1 code pairs s) := by
  obtain ⟨_, _, _, hl, -⟩ := logFault_frame code pairs (raise code s)
  refine sysFusesKept_trans (raise_sysFuses code s) (sysFusesKept_trans ?_ (enterS1_sysFuses code _))
  rw [hl]
  exact ⟨rfl, rfl⟩

theorem heldDetections_sysFuses (cs : List EventCode) (s : State) :
    SysFusesKept s (cs.foldl (fun s c => enterS1 c s) s) := by
  induction cs generalizing s with
  | nil => exact ⟨rfl, rfl⟩
  | cons c cs ih => exact sysFusesKept_trans (enterS1_sysFuses c s) (ih _)

theorem markParamBad_sysFuses (p : Pattern) (s : State) : SysFusesKept s (markParamBad p s) := by
  unfold markParamBad
  split <;> exact ⟨rfl, rfl⟩

/-- R132, R142: the judgement of a pattern is PAT's. -/
theorem judgePattern_sysFuses (bs : List Byte) (len : Option Nat) (area : Option AreaFault) (s : State) :
    SysFusesKept s (judgePattern bs len area s) := by
  have reject (c : EventCode) (u : State) : SysFusesKept u (rejectLoad c u) := raise_sysFuses c (rejectState c u)
  unfold judgePattern
  split
  · exact detectS1_sysFuses 0x0504 0 (rejectState 0x0504 s)
  · split
    · exact sysFusesKept_trans (markParamBad_sysFuses ..) (reject ..)
    · exact reject ..
  · exact ⟨rfl, rfl⟩

/-! ### What the steps from 6 on keep -/

/-- The doorbell, the end of the fetch, the Assayer image's svn and the fuses are as they were. -/
structure FirmwareKept (s t : State) : Prop where
  doorbell : t.sys.doorbell = s.sys.doorbell
  fetchEnded : t.sys.fetchEnded = s.sys.fetchEnded
  asyFwSvn : t.sys.asyFwSvn = s.sys.asyFwSvn
  fuses : t.fuses = s.fuses

theorem firmwareKept_trans {s t u : State} (h : FirmwareKept s t) (k : FirmwareKept t u) : FirmwareKept s u :=
  ⟨k.doorbell.trans h.doorbell, k.fetchEnded.trans h.fetchEnded, k.asyFwSvn.trans h.asyFwSvn, k.fuses.trans h.fuses⟩

theorem firmwareKept_of_sysFuses {s t : State} (h : SysFusesKept s t) : FirmwareKept s t :=
  ⟨by rw [h.1], by rw [h.1], by rw [h.1], h.2⟩

theorem firmwareKept_raise (code : EventCode) (s : State) : FirmwareKept s (raise code s) :=
  firmwareKept_of_sysFuses (raise_sysFuses code s)

/-- R113: the image has been fetched once more already. -/
def fetchedAgain (i : Nat) (u : State) : Bool := if i = 0 then u.sys.refetched.1 else u.sys.refetched.2

/-- R113: the image is fetched once more. -/
def noteRefetch (i : Nat) (u : State) : State :=
  { u with sys := { u.sys with refetched := if i = 0 then (true, u.sys.refetched.2) else (u.sys.refetched.1, true) } }

/-- R113: what follows the event of an image that fails its checks. -/
def imageFailed (i : Nat) (inp : StartInputs) (c : EventCode) (u : State) : Bool × State :=
  if fetchedAgain i u then (false, bootFail c u)
  else if (noteRefetch i u).sys.source = 1 then
    match imageCheck i (imagePlace i (fetchImage inp.flash i (noteRefetch i u)))
      (fetchImage inp.flash i (noteRefetch i u)) with
    | none => (true, fetchImage inp.flash i (noteRefetch i u))
    | some c => (false, raiseBootFail c (fetchImage inp.flash i (noteRefetch i u)))
  else (false, waitDoorbell inp (noteRefetch i u))

theorem verifyImage_accepts {i : Nat} {s : State} (inp : StartInputs) (h : imageCheck i (imagePlace i s) s = none) :
    verifyImage i inp s = (true, s) := by
  rw [verifyImage, h]

theorem verifyImage_rejects {i : Nat} {s : State} {c : EventCode} (inp : StartInputs)
    (h : imageCheck i (imagePlace i s) s = some c) : verifyImage i inp s = imageFailed i inp c (raise c s) := by
  rw [verifyImage, h]
  rfl

theorem raiseBootFail_kept (c : EventCode) (u : State) :
    FirmwareKept u (raiseBootFail c u) ∧ (raiseBootFail c u).sys.step = u.sys.step := by
  have hb : FirmwareKept (raise c u) (raiseBootFail c u) := ⟨rfl, rfl, rfl, rfl⟩
  refine ⟨firmwareKept_trans (firmwareKept_raise c u) hb, ?_⟩
  show (raise c u).sys.step = _
  rw [raise_sys]

theorem imageFailed_kept (i : Nat) (inp : StartInputs) (c : EventCode) (u : State) :
    FirmwareKept u (imageFailed i inp c u).2 ∧ (imageFailed i inp c u).2.sys.step = u.sys.step := by
  unfold imageFailed
  split
  · exact ⟨⟨rfl, rfl, rfl, rfl⟩, rfl⟩
  split
  · have hf : FirmwareKept u (fetchImage inp.flash i (noteRefetch i u)) := ⟨rfl, rfl, rfl, rfl⟩
    split
    · exact ⟨hf, rfl⟩
    next c' _ =>
      obtain ⟨hk, hs⟩ := raiseBootFail_kept c' (fetchImage inp.flash i (noteRefetch i u))
      exact ⟨firmwareKept_trans hf hk, hs⟩
  · exact ⟨⟨rfl, rfl, rfl, rfl⟩, rfl⟩

/-- R113: a verification keeps the step that it is made in. -/
theorem verifyImage_kept (i : Nat) (inp : StartInputs) (s : State) :
    FirmwareKept s (verifyImage i inp s).2 ∧ (verifyImage i inp s).2.sys.step = s.sys.step := by
  cases h : imageCheck i (imagePlace i s) s with
  | none =>
    rw [verifyImage_accepts inp h]
    exact ⟨⟨rfl, rfl, rfl, rfl⟩, rfl⟩
  | some c =>
    rw [verifyImage_rejects inp h]
    obtain ⟨hk, hs⟩ := imageFailed_kept i inp c (raise c s)
    exact ⟨firmwareKept_trans (firmwareKept_raise c s) hk, hs.trans (by rw [raise_sys])⟩

/-- R103 step 9: the pattern area behind the keeper image. -/
def areaPlaced (s : State) : State :=
  let place := imagePlace 1 s
  let len := imageHeader + leAt (s.mem.read (stagingBase + place) imageHeader) 0xC 4
  let s := atStep 9 s
  { s with sys := { s.sys with step9At := now s, patternArea := stagingBase + alignUp (place + len) 4096 } }

/-- R103 step 9, R143: the staged start pattern, judged. -/
def patternJudged (inp : StartInputs) (s : State) : State :=
  judgePattern (areaBytes (areaPlaced s)) none inp.areaFault (areaPlaced s)

theorem startPattern_eq (inp : StartInputs) (s : State) : startPattern inp s =
    if (patternJudged inp s).pat.checked.isSome then patternJudged inp s
    else atStep 8 { patternJudged inp s with sys := { (patternJudged inp s).sys with phase := 2 } } := rfl

/-- R103 step 9: the start goes on at step 9, or completes at step 8 without a pattern. -/
theorem startPattern_kept (inp : StartInputs) (s : State) :
    FirmwareKept s (startPattern inp s) ∧ 7 ≤ (startPattern inp s).sys.step.toNat := by
  have hj : SysFusesKept (areaPlaced s) (patternJudged inp s) := judgePattern_sysFuses ..
  have ha : FirmwareKept s (areaPlaced s) := ⟨rfl, rfl, rfl, rfl⟩
  have hk : FirmwareKept s (patternJudged inp s) := firmwareKept_trans ha (firmwareKept_of_sysFuses hj)
  rw [startPattern_eq]
  split
  · refine ⟨hk, ?_⟩
    rw [hj.1]
    show 7 ≤ (9 : BitVec 4).toNat
    decide
  · refine ⟨⟨hk.doorbell, hk.fetchEnded, hk.asyFwSvn, hk.fuses⟩, ?_⟩
    show 7 ≤ (8 : BitVec 4).toNat
    decide

/-- R103 step 8: the keeper firmware runs and the first rotation begins. -/
def keeperRuns (s : State) : State :=
  let place := imagePlace 1 s
  let h := s.mem.read (stagingBase + place) imageHeader
  let id := imageId place s
  let thread := fun (t : Thread) => { t with pc := stagingBase + place + imageHeader + leAt h 0x10 4, branch := none }
  atStep 8 { s with
    sys := { s.sys with kprFwSvn := id.1, kprFwHash := id.2, provisioning := leAt h 5 1 == 0xFF }
    tst := { s.tst with rotationAt := some (now s) }
    rsr := { s.rsr with threads := upd s.rsr.threads 0 thread } }

theorem keeperRuns_kept (s : State) : FirmwareKept s (keeperRuns s) := ⟨rfl, rfl, rfl, rfl⟩

theorem startKeeper_eq (inp : StartInputs) (s : State) : startKeeper inp s =
    let r := verifyImage 1 inp (atStep 7 s)
    if !r.1 then r.2
    else if (keeperRuns r.2).sys.provisioning then
      { keeperRuns r.2 with sys := { (keeperRuns r.2).sys with phase := 2 } }
    else startPattern inp (keeperRuns r.2) := rfl

/-- R103 steps 7 and 8. -/
theorem startKeeper_kept (inp : StartInputs) (s : State) :
    FirmwareKept s (startKeeper inp s) ∧ 7 ≤ (startKeeper inp s).sys.step.toNat := by
  obtain ⟨hv, hstep⟩ := verifyImage_kept 1 inp (atStep 7 s)
  rw [startKeeper_eq]
  generalize verifyImage 1 inp (atStep 7 s) = r at hv hstep
  have hr : FirmwareKept s r.2 := ⟨hv.doorbell, hv.fetchEnded, hv.asyFwSvn, hv.fuses⟩
  have hk : FirmwareKept s (keeperRuns r.2) := firmwareKept_trans hr (keeperRuns_kept r.2)
  dsimp only
  split
  · refine ⟨hr, ?_⟩
    rw [hstep]
    show 7 ≤ (7 : BitVec 4).toNat
    decide
  split
  · exact ⟨⟨hk.doorbell, hk.fetchEnded, hk.asyFwSvn, hk.fuses⟩, by show 7 ≤ (8 : BitVec 4).toNat; decide⟩
  · obtain ⟨hp, h7⟩ := startPattern_kept inp (keeperRuns r.2)
    exact ⟨firmwareKept_trans hk hp, h7⟩

/-- R103 step 6: the Assayer firmware as it begins. -/
def assayerBegins (s : State) : State :=
  let id := imageId (imagePlace 0 s) s
  let chan := fun (c : SafetyCh) =>
    { c with msgSeq := 0, frozen := none, released := false, queue := [], cur := none, lastConsumed := now s }
  { s with
    sys := { s.sys with asyFwSvn := id.1, asyFwHash := id.2, identityOk := identityMatches s }
    asy := { s.asy with state := .normal, lastBurst := s.clock.watch }
    ret := { s.ret with heldS1 := [] }
    sfp := { s.sfp with chA := chan s.sfp.chA, chB := chan s.sfp.chB } }

/-- R110: an identity that does not match its certificate is an event. -/
def identityJudged (s : State) : State := if s.sys.identityOk then s else raise 0x0408 s

theorem startAssayer_eq (s : State) : startAssayer s = driveLines (s.ret.heldS1.reverse.foldl (fun s c => enterS1 c s)
    (identityJudged (assayerBegins s))) := rfl

theorem identityJudged_sysFuses (s : State) : SysFusesKept s (identityJudged s) := by
  unfold identityJudged
  split
  · exact ⟨rfl, rfl⟩
  · exact raise_sysFuses ..

/-- R103 step 6: the Assayer image that has started is the staged one. -/
theorem startAssayer_kept (s : State) : (startAssayer s).sys.doorbell = s.sys.doorbell ∧
    (startAssayer s).sys.fetchEnded = s.sys.fetchEnded ∧
    (startAssayer s).sys.asyFwSvn = (imageId (imagePlace 0 s) s).1 ∧ (startAssayer s).fuses = s.fuses := by
  have hk : SysFusesKept (assayerBegins s) (startAssayer s) := by
    rw [startAssayer_eq]
    exact sysFusesKept_trans (identityJudged_sysFuses (assayerBegins s))
      (sysFusesKept_trans (heldDetections_sysFuses s.ret.heldS1.reverse _) (driveLines_sysFuses _))
  rw [hk.1, hk.2]
  exact ⟨rfl, rfl, rfl, rfl⟩

/-! ### The Assayer image -/

/-- R103: what follows the verification of the Assayer image. -/
def assayerVerified (inp : StartInputs) (r : Bool × State) : State :=
  if !r.1 then r.2 else startKeeper inp (startAssayer r.2)

theorem startFirmware_eq (inp : StartInputs) (s : State) :
    startFirmware inp s = assayerVerified inp (verifyImage 0 inp (atStep 6 s)) := rfl

theorem assayerVerified_accepts (inp : StartInputs) (s : State) :
    assayerVerified inp (true, s) = startKeeper inp (startAssayer s) := if_neg Bool.false_ne_true

theorem assayerVerified_rejects {r : Bool × State} (inp : StartInputs) (h : r.1 = false) :
    assayerVerified inp r = r.2 := if_pos (by rw [h]; rfl)

theorem startFirmware_accepted {s : State} (inp : StartInputs) (h : imageCheck 0 (imagePlace 0 s) s = none) :
    startFirmware inp s = startKeeper inp (startAssayer (atStep 6 s)) := by
  have h6 : imageCheck 0 (imagePlace 0 (atStep 6 s)) (atStep 6 s) = none := by
    rw [imagePlace_congr (t := atStep 6 s) (s := s) rfl 0, imageCheck_congr (t := atStep 6 s) (s := s) rfl rfl]
    exact h
  rw [startFirmware_eq, verifyImage_accepts inp h6, assayerVerified_accepts]

/-- R100, R113: what an image that fails from the host source leaves. -/
structure HostImageFailed (c : EventCode) (u t : State) : Prop where
  step : t.sys.step = u.sys.step
  mem : t.mem = u.mem
  refetched : t.sys.refetched.1 = true
  first : u.sys.refetched.1 = false → t.sys.fetchWait = some (now u) ∧ t.sys.failed = u.sys.failed
  second : u.sys.refetched.1 = true → t.sys.fetchWait = none ∧ t.sys.failed = true ∧ t.sys.failCode = c

theorem imageFailed_host {u : State} (hs : u.sys.source = 0) (inp : StartInputs) (c : EventCode) :
    (imageFailed 0 inp c u).1 = false ∧ HostImageFailed c u (imageFailed 0 inp c u).2 := by
  have hsrc : ¬(noteRefetch 0 u).sys.source = 1 := by
    show ¬u.sys.source = 1
    rw [hs]
    decide
  cases hr : u.sys.refetched.1 with
  | true =>
    rw [imageFailed, if_pos (show fetchedAgain 0 u = true from hr)]
    exact ⟨rfl, rfl, rfl, hr, fun h => absurd (hr.symm.trans h) (by decide), fun _ => ⟨rfl, rfl, rfl⟩⟩
  | false =>
    rw [imageFailed, if_neg (show ¬fetchedAgain 0 u = true from Bool.eq_false_iff.1 hr), if_neg hsrc]
    exact ⟨rfl, rfl, rfl, rfl, fun _ => ⟨rfl, rfl⟩, fun h => absurd (hr.symm.trans h) (by decide)⟩

theorem startFirmware_rejected {s : State} {c : EventCode} (inp : StartInputs)
    (h : imageCheck 0 (imagePlace 0 s) s = some c) (hs : s.sys.source = 0) :
    HostImageFailed c (atStep 6 s) (startFirmware inp s) := by
  have hsys : (raise c (atStep 6 s)).sys = (atStep 6 s).sys := raise_sys ..
  obtain ⟨hf, hstep, hmem, href, hfirst, hsecond⟩ :=
    imageFailed_host (u := raise c (atStep 6 s)) (by rw [hsys]; exact hs) inp c
  have h6 : imageCheck 0 (imagePlace 0 (atStep 6 s)) (atStep 6 s) = some c := by
    rw [imagePlace_congr (t := atStep 6 s) (s := s) rfl 0, imageCheck_congr (t := atStep 6 s) (s := s) rfl rfl]
    exact h
  rw [startFirmware_eq, verifyImage_rejects inp h6, assayerVerified_rejects inp hf]
  rw [now, raise_clock, hsys] at hfirst
  rw [hsys] at hstep hsecond
  exact ⟨hstep, hmem.trans (raise_mem ..), href, hfirst, hsecond⟩

theorem startFirmware_kept (inp : StartInputs) (s : State) : (startFirmware inp s).sys.doorbell = s.sys.doorbell ∧
    (startFirmware inp s).sys.fetchEnded = s.sys.fetchEnded ∧ (startFirmware inp s).fuses = s.fuses := by
  obtain ⟨⟨vd, vf, -, vu⟩, -⟩ := verifyImage_kept 0 inp (atStep 6 s)
  rw [startFirmware_eq]
  generalize verifyImage 0 inp (atStep 6 s) = r at vd vf vu
  rw [assayerVerified]
  split
  · exact ⟨vd, vf, vu⟩
  · obtain ⟨ad, af, -, au⟩ := startAssayer_kept r.2
    obtain ⟨⟨kd, kf, -, ku⟩, -⟩ := startKeeper_kept inp (startAssayer r.2)
    exact ⟨kd.trans (ad.trans vd), kf.trans (af.trans vf), ku.trans (au.trans vu)⟩

/-! ### The doorbell -/

/-- The doorbell's bit, as it is noted. -/
def bellNoted (s : State) : State :=
  { s with sys := { s.sys with doorbell := true }, cyc := { s.cyc with bell := true } }

/-- The state in which a fetch has ended by the doorbell. -/
def bellEnds (s : State) : State := endFetch (bellNoted s)

theorem bellEnds_layout (s : State) : stagedLayout (bellEnds s) = stagedLayout s := stagedLayout_congr rfl

theorem bellEnds_place (i : Nat) (s : State) : imagePlace i (bellEnds s) = imagePlace i s := imagePlace_congr rfl i

theorem bellEnds_check (i place : Nat) (s : State) : imageCheck i place (bellEnds s) = imageCheck i place s :=
  imageCheck_congr rfl rfl i place

theorem bellEnds_id (place : Nat) (s : State) : imageId place (bellEnds s) = imageId place s := imageId_congr rfl place

section
variable {s : State} (who : Agent)

theorem exec_bootDoorbell_noted (hc : clocksRun s = true) (hw : s.sys.fetchWait = none) :
    exec (.bootDoorbell who) s = .next (bellNoted s) := by
  refine (if_pos hc).trans (congrArg Host.Outcome.next ?_)
  show (match s.sys.fetchWait, s.sys.startInputs with
    | some _, some inp => driveLines (if s.sys.step.toNat ≤ 6 then afterStaging inp (bellNoted s)
        else startKeeper inp (endFetch (bellNoted s)))
    | _, _ => bellNoted s) = bellNoted s
  rw [hw]

theorem exec_bootDoorbell_idle (hc : clocksRun s = false) : exec (.bootDoorbell who) s = .next s :=
  if_neg (by simp [hc])

theorem exec_bootDoorbell_waiting {inp : StartInputs} {w : Nat} (hc : clocksRun s = true)
    (hw : s.sys.fetchWait = some w) (hi : s.sys.startInputs = some inp) : exec (.bootDoorbell who) s =
      .next (driveLines (
      if s.sys.step.toNat ≤ 6 then afterStaging inp (bellNoted s) else startKeeper inp (bellEnds s))) := by
  refine (if_pos hc).trans (congrArg Host.Outcome.next ?_)
  show (match s.sys.fetchWait, s.sys.startInputs with
    | some _, some inp => driveLines (if s.sys.step.toNat ≤ 6 then afterStaging inp (bellNoted s)
        else startKeeper inp (endFetch (bellNoted s)))
    | _, _ => bellNoted s) = _
  rw [hw, hi]
  rfl

section
variable {inp : StartInputs} {w : Nat} (hc : clocksRun s = true) (hw : s.sys.fetchWait = some w)
  (hi : s.sys.startInputs = some inp)
include hc hw hi

/-- R99: images that exceed the region stop the start. -/
theorem exec_bootDoorbell_exceeds (h6 : s.sys.step.toNat ≤ 6) (hl : stagingSize < layoutEnd (stagedLayout s)) :
    exec (.bootDoorbell who) s = .next (driveLines (raiseBootFail 0x0105 (bellEnds s))) := by
  rw [exec_bootDoorbell_waiting who hc hw hi, if_pos h6]
  exact congrArg (fun t => Host.Outcome.next (driveLines t)) (if_pos (by rw [← bellEnds_layout] at hl; exact hl))

theorem exec_bootDoorbell_fits (h6 : s.sys.step.toNat ≤ 6) (hl : layoutEnd (stagedLayout s) ≤ stagingSize) :
    exec (.bootDoorbell who) s = .next (driveLines (startFirmware inp (bellEnds s))) := by
  rw [exec_bootDoorbell_waiting who hc hw hi, if_pos h6]
  exact congrArg (fun t => Host.Outcome.next (driveLines t))
    (if_neg (Nat.not_lt.2 (by rw [← bellEnds_layout] at hl; exact hl)))

theorem exec_bootDoorbell_keeper (h7 : s.sys.step = 7) :
    exec (.bootDoorbell who) s = .next (driveLines (startKeeper inp (bellEnds s))) := by
  rw [exec_bootDoorbell_waiting who hc hw hi, if_neg (by rw [h7]; decide)]

end

/-- R104: a start that has failed asserts FAULT_N. -/
theorem driveLines_failed {t : State} (h : t.sys.failed = true) : (driveLines t).sfp.faultN = true := by
  show faultAsserted t = true
  simp [faultAsserted, h]

end

/-! ### The time-out and readiness -/

section
variable {s : State}

theorem exec_fetchTimeout_raises {w : Nat} (hw : s.sys.fetchWait = some w) (hl : w + 1200000000 < now s)
    (ht : s.sys.fetchTimedOut = false) :
    exec .fetchTimeout s = .next (raise 0x0106 { s with sys := { s.sys with fetchTimedOut := true } }) := by
  show execFetchTimeout s = _
  rw [execFetchTimeout, hw]
  exact if_pos ⟨hl, ht⟩

theorem exec_fetchTimeout_waits {w : Nat} (hw : s.sys.fetchWait = some w)
    (h : s.sys.fetchTimedOut = true ∨ now s ≤ w + 1200000000) : exec .fetchTimeout s = .next s := by
  show execFetchTimeout s = _
  rw [execFetchTimeout, hw]
  refine if_neg fun hc => ?_
  rcases h with h | h
  · exact absurd hc.2 (by simp [h])
  · exact absurd hc.1 (Nat.not_lt.2 h)

theorem exec_fetchTimeout_none (hw : s.sys.fetchWait = none) : exec .fetchTimeout s = .next s := by
  show execFetchTimeout s = _
  rw [execFetchTimeout, hw]

/-- R68, R105: what readiness waits for. -/
def readyBlocked (s : State) (t : Nat) : Bool :=
  s.sys.ready || s.sys.inReset || s.sys.failed || !(s.pat.active.isSome || s.pat.pending.isSome) ||
    decide (now s < t + rotationSpan) || !rotationPassed s t || !(s.pwr.cur == .run || s.pwr.cur == .trim)

theorem exec_sysReady_blocked (h : ∀ t, s.tst.rotationAt = some t → readyBlocked s t = true) :
    exec .sysReady s = .next s := by
  show execSysReady s = _
  unfold execSysReady
  split
  next t ht => exact if_pos (h t ht)
  · rfl

theorem exec_sysReady_due {t : Nat} (ht : s.tst.rotationAt = some t) (h : readyBlocked s t = false) :
    exec .sysReady s = if s.sys.step = 9 ∧ s.sys.phase = 0 then
        .next (raise 0x0107 { s with sys := { s.sys with ready := true, step := 10, phase := 1 } })
      else .next { s with sys := { s.sys with ready := true } } := by
  show execSysReady s = _
  rw [execSysReady, ht]
  exact if_neg (Bool.eq_false_iff.1 h)

end

/-- Settles O28: a doorbell goes on with the staging or with the keeper image; readiness waits for what `readyBlocked`
lists. -/
theorem startGoesOn : Obligations.StartGoesOn := by
  intro s who
  refine ⟨exec_bootDoorbell_noted who, exec_bootDoorbell_idle who, fun inp w hc hw hi => ⟨fun h6 hl => ?exceeds,
      fun h6 hl => ?staged, fun h7 => ?keeper⟩, fun w => exec_fetchTimeout_raises, fun h => ?timedOut,
    fun w hw hl => exec_fetchTimeout_waits hw (.inr hl), fun r hr hl hp hpat hrdy hres hfail hcur => ?ready,
    fun r hr hl => exec_sysReady_blocked fun t ht => ?early, fun ha hp => exec_sysReady_blocked fun t ht => ?noPattern⟩
  case exceeds =>
    have hsys := raiseBootFail_sys 0x0105 (bellEnds s)
    refine ⟨_, exec_bootDoorbell_exceeds who hc hw hi h6 hl, ?_⟩
    rw [driveLines_failed (congrArg Sys.failed hsys), (driveLines_sysFuses _).1, hsys]
    exact ⟨rfl, rfl, rfl, rfl, rfl, rfl, raiseBootFail_mem ..⟩
  case staged =>
    obtain ⟨hd, hf, hu⟩ := startFirmware_kept inp (bellEnds s)
    refine ⟨_, exec_bootDoorbell_fits who hc hw hi h6 hl, ?_⟩
    obtain ⟨dsys, dfuses⟩ := driveLines_sysFuses (startFirmware inp (bellEnds s))
    rw [dsys, dfuses, driveLines_mem]
    refine ⟨hd, hf, hu, fun hok => ?_, fun c hbad hs => ?_⟩
    · rw [startFirmware_accepted inp (by rw [bellEnds_place, bellEnds_check, hok])]
      obtain ⟨hk, hstep⟩ := startKeeper_kept inp (startAssayer (atStep 6 (bellEnds s)))
      obtain ⟨-, -, hsvn, -⟩ := startAssayer_kept (atStep 6 (bellEnds s))
      rw [imagePlace_congr (t := atStep 6 (bellEnds s)) (s := s) rfl,
        imageId_congr (t := atStep 6 (bellEnds s)) (s := s) rfl] at hsvn
      exact ⟨hstep, hk.asyFwSvn.trans hsvn⟩
    · have hrej : imageCheck 0 (imagePlace 0 (bellEnds s)) (bellEnds s) = some c := by
        rw [bellEnds_place, bellEnds_check, hbad]
      have hsrc : (bellEnds s).sys.source = 0 := hs
      obtain ⟨hstep, hmem, href, hfirst, hsecond⟩ := startFirmware_rejected inp hrej hsrc
      exact ⟨hstep, hmem, href, hfirst, hsecond⟩
  case keeper =>
    obtain ⟨⟨hd, hf, hsvn, hu⟩, hstep⟩ := startKeeper_kept inp (bellEnds s)
    refine ⟨_, exec_bootDoorbell_keeper who hc hw hi h7, ?_⟩
    obtain ⟨dsys, dfuses⟩ := driveLines_sysFuses (startKeeper inp (bellEnds s))
    rw [dsys, dfuses]
    exact ⟨hstep, hd, hf, hsvn, hu⟩
  case timedOut =>
    cases hw : s.sys.fetchWait with
    | none => exact exec_fetchTimeout_none hw
    | some w =>
      refine exec_fetchTimeout_waits hw (.inl (h.resolve_right ?_))
      rw [hw]
      exact Option.some_ne_none w
  case ready =>
    have hb : readyBlocked s r = false := by
      have hpat' : (s.pat.active.isSome || s.pat.pending.isSome) = true := by simpa using hpat
      have hcur' : (s.pwr.cur == .run || s.pwr.cur == .trim) = true := by simpa using hcur
      have hspan : decide (now s < r + rotationSpan) = false := decide_eq_false (Nat.not_lt.2 hl)
      rw [readyBlocked, hrdy, hres, hfail, hpat', hp, hcur', hspan]
      rfl
    rw [exec_sysReady_due hr hb]
    refine ⟨fun h9 h0 => if_pos ⟨h9, h0⟩, fun h => if_neg fun hc => ?_⟩
    rcases h with h | h
    · exact h hc.1
    · exact h hc.2
  case early =>
    obtain rfl : r = t := Option.some.inj (hr.symm.trans ht)
    simp [readyBlocked, rotationSpan, hl]
  case noPattern => simp [readyBlocked, ha, hp]

end Sys2Proof.Machine
end

section
/-! The queue and its empty step, the rails, the ends of HOLD and S1, mode requests and Ladle's refusals: the
statements of tier 1 (R35, R36, R64 to R74, R77, R86, R87, R96, R498). -/

namespace Sys2Proof.Machine

/-! ### The queue and the empty step -/

/-- Settles O1: by the definition of a step on a queue with a front. -/
theorem stepRunsFrontCommand : Obligations.StepRunsFrontCommand := fun _ _ _ => step_front

theorem tick_stopped {s : State} (h : clocksRun s = false) : tick s = openCycle (formMessages (advanceWatch s)) := by
  rw [tick, if_neg (by rw [h]; exact Bool.false_ne_true)]

theorem tick_running {s : State} (h : clocksRun s = true) :
    tick s = openCycle (formMessages (settleRoles (flushStages (advanceTsc (advanceWatch (runUnits s)))))) := by
  rw [tick, if_pos h]

theorem openCycle_opens (s : State) : (openCycle s).cyc.sets = [] ∧ (openCycle s).cyc.bits = [] := by
  unfold openCycle
  dsimp only
  split <;> exact ⟨rfl, rfl⟩

/-- Settles O2: the empty step is `tick`, whose order is the statement's. -/
theorem emptyQueueIsOneEclk : Obligations.EmptyQueueIsOneEclk := by
  intro s hp
  obtain ⟨hsets, hbits⟩ := openCycle_opens s
  refine ⟨fun hc => ?_, fun hc => ?_, fun ha => ?_, fun ha => if_neg (by simp [ha]), hsets, hbits, rfl, rfl⟩
  · rw [step_empty hp, tick_stopped hc]
  · rw [step_empty hp, tick_running hc]
    rfl
  · rw [advanceWatch, if_pos ha]

/-- Settles O8: memory is empty and no line is active at reset, and a command that joins the queue changes neither. -/
theorem invariantsStart : Obligations.InvariantsStart :=
  ⟨rfl, ⟨fun h => absurd h (by decide), fun h => absurd h (by decide)⟩, fun _ _ => ⟨id, id⟩⟩

/-! ### The rails -/

theorem interruptFuse_none {s : State} (h : s.idn.fuseOps = []) : interruptFuse s = s.fuses := by
  rw [interruptFuse, h]
  rfl

/-- Settles O13: both commands begin with the cold reset. -/
theorem coldResetsByVddAsy : Obligations.ColdResetsByVddAsy := by
  intro s hf
  have hfuse := interruptFuse_none hf
  exact ⟨⟨_, rfl, hfuse, rfl, rfl, rfl, rfl, rfl, rfl, rfl, ⟨rfl, rfl⟩, rfl, rfl, rfl⟩,
    fun io => ⟨_, rfl, hfuse, rfl, rfl, rfl, rfl, rfl, rfl, ⟨rfl, rfl⟩, rfl⟩⟩

section
variable {s : State}

theorem exec_vddCorePowerOn_awaited (ha : s.rails.asy = true) (hc : s.rails.core = false) (hp : s.rails.pmicEn = true)
    (hh : s.rails.pmicHold = false) : exec .vddCorePowerOn s = .next (coreUp s) := by
  show execVddCorePowerOn s = _
  rw [execVddCorePowerOn, if_neg (by simp [ha]), if_neg (by simp [hc]), if_pos (by simp [hp, hh])]

theorem exec_pmicEnAssert_due (ha : s.rails.asy = true) (hr : s.sys.inReset = true) (hp : s.rails.pmicEn = false)
    (hd : s.rails.asyGoodAt + 240000 ≤ s.clock.watch) : exec .pmicEnAssert s =
      .next { s with rails := { s.rails with pmicEn := true, pmicEnAt := s.clock.watch } } :=
  if_pos (by simp [ha, hr, hp, Config.pmicEnDelay, hd])

/-- R498: the power-up has failed. -/
def powerUpLost (s : State) : State :=
  { s with sys := { s.sys with powerUpFailed := true }, ret := { s.ret with events := 0x0230 :: s.ret.events } }

theorem powerUpLost_asserts (s : State) : faultAsserted (powerUpLost s) = true := Bool.or_true _

theorem exec_powerUpTimeout_fails (ha : s.rails.asy = true) (hr : s.sys.inReset = true) (hp : s.rails.pmicEn = true)
    (hf : s.sys.powerUpFailed = false) (hu : railsUp s = false) (hd : s.rails.pmicEnAt + 24000000 ≤ s.clock.watch) :
    exec .powerUpTimeout s = .next (driveLines (powerUpLost s)) :=
  if_pos (by simp [ha, hr, hp, hf, hu, hd])

theorem exec_vddCoreMonRearm_rearms {since : Nat} (hs : since = max (s.rails.coreAt.getD 0) s.rails.holdFellAt)
    (hm : s.rails.coreMasked = true) (hh : s.rails.pmicHold = false) (hc : s.rails.core = true)
    (hd : since + Config.watchSpan 120000 since ≤ s.clock.watch) :
    exec .vddCoreMonRearm s = .next { s with rails := { s.rails with coreMasked := false } } := by
  subst hs
  exact if_pos (by simp [hm, hh, hc, hd])

end

/-- Settles O15: each step of the power-up under its conditions. -/
theorem powerUpSteps : Obligations.PowerUpSteps := by
  intro s
  refine ⟨exec_vddCorePowerOn_awaited, exec_pmicEnAssert_due, fun ha hr hp hf hl hd => ?_,
    fun since => exec_vddCoreMonRearm_rearms⟩
  have hu : railsUp s = false := by
    rcases hl with h | h | h <;> simp [railsUp, h]
  exact ⟨_, exec_powerUpTimeout_fails ha hr hp hf hu hd, rfl, powerUpLost_asserts s, rfl, rfl, rfl⟩

/-! ### HOLD -/

section
variable {s : State}

/-- The exit of HOLD to a mode has begun. -/
def holdEnding (m : PowerMode) (s : State) : State :=
  { s with
    rails := { s.rails with pmicHold := false, holdFellAt := s.clock.watch }
    pwr := { s.pwr with trans := some { target := m, source := .hold, requestedAt := s.clock.watch,
                                        startedAt := some s.clock.watch } } }

theorem holdExit_begins {m : PowerMode} (hc : s.pwr.cur = .hold) (ht : s.pwr.trans = none)
    (hm : s.pwr.holdExit = 0 ∧ m = .run ∨ s.pwr.holdExit = 1 ∧ m = .trim ∨ s.pwr.holdExit = 2 ∧ m = .watch) :
    holdExit s = holdEnding m s := by
  unfold holdExit
  rw [if_neg (by simp [hc, ht])]
  rcases hm with ⟨he, rfl⟩ | ⟨he, rfl⟩ | ⟨he, rfl⟩ <;> rw [he] <;> rfl

theorem exec_rstNPulse_hold {low : Nat} (h : 1200 ≤ low) (ha : s.rails.asy = true) (hc : s.pwr.cur = .hold) :
    exec (.rstNPulse low) s = .next (holdExit s) := by
  show execRstNPulse low s = _
  rw [execRstNPulse, if_neg (by simp [ha]; omega), hc]

theorem exec_holdWakeTimer_due (hc : s.pwr.cur = .hold) (hw : s.pwr.holdWake ≠ 0)
    (hd : s.pwr.holdAt + Config.watchSpan (s.pwr.holdWake.toNat * 1200000) s.pwr.holdAt ≤ s.clock.watch) :
    exec .holdWakeTimer s = .next (holdExit s) := by
  have hw' : (s.pwr.holdWake != 0) = true := bne_iff_ne.2 hw
  refine if_pos ?_
  rw [hc, hw', Config.oneMs, decide_eq_true hd]
  rfl

end

/-- Settles O16: the pulse and the wake timer begin the same exit. -/
theorem holdEnds : Obligations.HoldEnds := by
  intro s m hc ht hm
  have hx := holdExit_begins hc ht hm
  exact ⟨fun low h ha => (exec_rstNPulse_hold h ha hc).trans (congrArg Host.Outcome.next hx),
    fun hw hd => (exec_holdWakeTimer_due hc hw hd).trans (congrArg Host.Outcome.next hx)⟩

/-! ### Mode requests -/

theorem powerModeOf_reserved {k : BitVec 3} (h : 5 ≤ k.toNat) : powerModeOf k.toNat = none := by
  have : ∀ k : BitVec 3, 5 ≤ k.toNat → powerModeOf k.toNat = none := by decide
  exact this k h

section
variable {s : State}

theorem exec_pwrModeRequest_runs (h : clocksRun s = true) (a b : Option (BitVec 3)) : exec (.pwrModeRequest a b) s =
    .next (takeModeReq (a.orElse fun _ => heldMode s true) (b.orElse fun _ => heldMode s false)
      (dropHeld modeReqAt s)) :=
  if_neg (by simp [h])

theorem exec_pwrModeRequest_stopped (h : clocksRun s = false) (a b : Option (BitVec 3)) :
    exec (.pwrModeRequest a b) s = .next s := if_pos (by simp [h])

theorem heldMode_none (h : ∀ b, heldAt s modeReqAt b = []) (keeper : Bool) : heldMode s keeper = none := by
  rw [heldMode, h]
  rfl

/-- R515: with no write that waits, the requests of the command are those of the PCLK. -/
theorem exec_pwrModeRequest_alone (h : clocksRun s = true) (hn : ∀ b, heldAt s modeReqAt b = [])
    (a b : Option (BitVec 3)) : exec (.pwrModeRequest a b) s = .next (takeModeReq a b s) := by
  rw [exec_pwrModeRequest_runs h, heldMode_none hn, heldMode_none hn, dropHeld_none hn]
  cases a <;> cases b <;> rfl

theorem heldAt_dropHeld (off : Nat) (s : State) (b : Bool) : heldAt (dropHeld off s) off b = [] := by
  refine List.filter_eq_nil_iff.2 fun w hw => ?_
  have := (List.mem_filter.1 hw).2
  simp_all

/-- The code of PWR_MODE_REQ, as it is written. -/
def reqNoted (k : BitVec 3) (s : State) : State := { s with pwr := { s.pwr with modeReq := k } }

theorem writeModeReq_mode {k : BitVec 3} {m : PowerMode} (h : powerModeOf k.toNat = some m) :
    writeModeReq k s = requestMode m (reqNoted k s) := by
  rw [writeModeReq, h]
  rfl

theorem writeModeReq_reserved {k : BitVec 3} (h : 5 ≤ k.toNat) : writeModeReq k s = raise 0x0202 (reqNoted k s) := by
  rw [writeModeReq, powerModeOf_reserved h]
  rfl

theorem requestMode_begins {m : PowerMode} (ht : s.pwr.trans = none) (hm : m ≠ s.pwr.cur ∨ m = .trim) :
    requestMode m s = { s with pwr := { s.pwr with
      trans := some { target := m, source := s.pwr.cur, requestedAt := s.clock.watch } } } := by
  rw [requestMode, ht]
  exact if_neg fun h => hm.elim (fun hne => hne h.1) h.2

theorem requestMode_inForce {m : PowerMode} (ht : s.pwr.trans = none) (hm : m = s.pwr.cur) (hn : m ≠ .trim) :
    requestMode m s = s := by
  rw [requestMode, ht]
  exact if_pos ⟨hm, hn⟩

theorem requestMode_waits {m : PowerMode} (ht : s.pwr.trans.isSome = true) (hp : s.pwr.pend = none) :
    requestMode m s = { s with pwr := { s.pwr with pend := some m } } := by
  obtain ⟨t, ht⟩ := Option.isSome_iff_exists.1 ht
  rw [requestMode, ht]
  simp [hp]

end

/-- Settles O17: with no waiting write the requests are the command's own, and a write acts as `writeModeReq`. -/
theorem modeRequested : Obligations.ModeRequested := by
  intro s k m hc hn
  have alone := exec_pwrModeRequest_alone hc hn
  have keeper {u : State} (h : writeModeReq k s = u) : exec (.pwrModeRequest (some k) none) s = .next u :=
    (alone (some k) none).trans (congrArg Host.Outcome.next h)
  refine ⟨fun hm ht hne => keeper ((writeModeReq_mode hm).trans (requestMode_begins (s := reqNoted k s) ht hne)),
    fun hm ht he hn => keeper ((writeModeReq_mode hm).trans (requestMode_inForce (s := reqNoted k s) ht he hn)),
    fun hm ht hp => keeper ((writeModeReq_mode hm).trans (requestMode_waits (s := reqNoted k s) ht hp)),
    fun h5 => keeper (writeModeReq_reserved h5), ?_, fun h => ⟨_, alone (some k) none, alone (some k) (some h)⟩,
    fun r a b hr => exec_pwrModeRequest_stopped hr a b, fun r a b hr => ?_⟩
  · rw [alone, alone]
    rfl
  · rw [exec_pwrModeRequest_runs hr]
    exact (exec_pwrModeRequest_alone (s := dropHeld modeReqAt r) hr (heldAt_dropHeld modeReqAt r) _ _).symm

/-! ### Ladle -/

section
variable {s : State} {g : Grant}

theorem exec_ladleGrant_refuses {r : Request} (hr : queueHead s.ldl.queue = some r) (hf : canFit s r.tickets = false) :
    exec .ladleGrant s = .next (refuseHead r s) := by
  show execLadleGrant s = _
  rw [execLadleGrant, hr]
  exact if_pos (by simp [hf])

theorem exec_ladleGrant_empty (h : s.ldl.queue = []) : exec .ladleGrant s = .next s := by
  show execLadleGrant s = _
  rw [execLadleGrant, h]
  rfl

theorem exec_ladleRampEnd_early {id : BitVec 10}
    (hg : (s.ldl.grants.find? fun g => g.id == id.toNat && !g.begun && g.relAt.isNone) = some g)
      (hr : now s < g.rampEnd) :
    exec (.ladleRampEnd id) s = .next s := by
  show execLadleRampEnd id s = _
  rw [execLadleRampEnd, hg]
  exact if_pos hr

/-- R77: the grant of an identity has begun. -/
def grantBegun (id : Nat) (s : State) : State :=
  { s with ldl := { s.ldl with
      grants := updFirst (fun h => h.id == id && !h.begun) (fun h => { h with begun := true }) s.ldl.grants } }

theorem exec_ladleRampEnd_begins {id : BitVec 10}
    (hg : (s.ldl.grants.find? fun g => g.id == id.toNat && !g.begun && g.relAt.isNone) = some g)
      (hr : g.rampEnd ≤ now s) :
    exec (.ladleRampEnd id) s = .next (match holderOf id.toNat with
      | some (.channel ch) => preempt ch (beginHolder id.toNat (grantBegun id.toNat s))
      | _ => beginHolder id.toNat (grantBegun id.toNat s)) := by
  show execLadleRampEnd id s = _
  rw [execLadleRampEnd, hg]
  exact if_neg (Nat.not_lt.2 hr)

theorem holderOf_testLoad (n : Fin 2) : holderOf (0x175 + n.val) = some (.load n.val) := by
  revert n
  decide

end

/-- Settles O21: the head that cannot fit is refused, and a ramp that has not ended begins nothing. -/
theorem ladleRefusesAndWaits : Obligations.LadleRefusesAndWaits := fun _ =>
  ⟨fun _ => exec_ladleGrant_refuses, exec_ladleGrant_empty, fun _ _ => exec_ladleRampEnd_early⟩

/-- Settles O22: the requester of the identity is the test load. -/
theorem ladleRampEnds : Obligations.LadleRampEnds := by
  intro s n g hg hr
  have hid : (BitVec.ofNat 10 (0x175 + n.val)).toNat = 0x175 + n.val := by
    rw [BitVec.toNat_ofNat]
    omega
  rw [exec_ladleRampEnd_begins (by rw [hid]; exact hg) hr, hid, holderOf_testLoad, beginHolder, holderOf_testLoad]
  rfl

/-! ### The safe states -/

section
variable {s : State}

/-- R35: S1 has ended. -/
def s1Ended (s : State) : State :=
  { s with
    asy := { s.asy with state := .normal, exitReady := false },
    sfp := { s.sfp with faultPairs := 0, chA := { s.sfp.chA with released := true },
                        chB := { s.sfp.chB with released := true } } }

theorem exec_s1Exit_ends (hs : s.asy.state = .s1) (he : s.asy.exitReady = true) (hr : releaseCounts s = true) :
    exec .s1Exit s = .next (driveLines (raise 0x0E32 (s1Ended s))) :=
  if_pos (by simp [hs, he, hr])

theorem exec_s1Exit_stays (h : s.asy.exitReady = false ∨ s.asy.state ≠ .s1 ∨ releaseCounts s = false) :
    exec .s1Exit s = .next s := by
  refine if_neg fun hc => ?_
  simp only [Bool.and_eq_true, beq_iff_eq] at hc
  obtain ⟨⟨hs, he⟩, hr⟩ := hc
  rcases h with h | h | h
  · exact absurd (h.symm.trans he) (by decide)
  · exact h hs
  · exact absurd (h.symm.trans hr) (by decide)

/-- What the end of S1 leaves shows through the lines that are driven after it. -/
theorem s1Exit_kept {r : State} (ha : r.asy = (s1Ended s).asy) (hf : r.sfp = (s1Ended s).sfp) (hr : r.ret = s.ret)
    (hs : r.sys = s.sys) (hm : r.mem = s.mem) :
    (driveLines r).asy.state = .normal ∧ (driveLines r).asy.exitReady = false ∧ (driveLines r).sfp.faultPairs = 0 ∧
      (driveLines r).sfp.chA.released = true ∧ (driveLines r).sfp.chB.released = true ∧
      (driveLines r).sfp.chA.queue = s.sfp.chA.queue ∧ (driveLines r).asy.batches = s.asy.batches ∧
      (driveLines r).ret = s.ret ∧ (driveLines r).sys = s.sys ∧ (driveLines r).mem = s.mem :=
  ⟨congrArg Asy.state ha, congrArg Asy.exitReady ha, congrArg Sfp.faultPairs hf,
    congrArg (fun f : Sfp => f.chA.released) hf, congrArg (fun f : Sfp => f.chB.released) hf,
    (congrArg (fun f : Sfp => f.chA.queue) hf).trans rfl, (congrArg Asy.batches ha).trans rfl, hr, hs, hm⟩

/-- R36: the third entry of 60 minutes has been logged. -/
def holdLogged (s : State) : State :=
  { s with ret := { s.ret with s2Logged := true, events := 0x0E30 :: s.ret.events } }

theorem exec_s2Repeat_logs (hh : s.ret.s2Held = true) (hl : s.ret.s2Logged = false) :
    exec .s2Repeat s = .next (driveLines (raise 0x0E30 (holdLogged s))) :=
  if_neg (by simp [hh, hl])

theorem exec_s2Repeat_once (h : s.ret.s2Held = false ∨ s.ret.s2Logged = true) : exec .s2Repeat s = .next s :=
  if_pos (by rcases h with h | h <;> simp [h])

theorem exec_s2CountExpire_counts (h : s.ret.s2Held = false) :
    exec .s2CountExpire s = .next { s with ret := { s.ret with s2Times := s2Counting s } } :=
  if_neg (by simp [h])

theorem exec_s2CountExpire_held (h : s.ret.s2Held = true) : exec .s2CountExpire s = .next s := if_pos h

theorem faultAsserted_held (h : s.ret.s2Held = true) : faultAsserted s = true := by simp [faultAsserted, h]

theorem mayStart_held (h : s.ret.s2Held = true) : mayStart s = false := by simp [mayStart, h]

theorem s2Counting_congr {t : State} (hr : t.ret.s2Times = s.ret.s2Times) (hc : t.clock = s.clock) :
    s2Counting t = s2Counting s := by rw [s2Counting, s2Counting, hr, hc]

/-- R36: an S2 entry holds the device exactly when two earlier ones still count. -/
theorem detectS2_holdsThird (code : EventCode) (hh : s.ret.s2Held = false) (hn : s2Now s = false) :
    (detectS2 code s).ret.s2Held = decide (2 ≤ (s2Counting s).length) := by
  obtain ⟨fc, le, ff, hl, -⟩ := logFault_frame code 0 (raise code s)
  have counting (t : State) (a : t.ret.s2Times = (raise code s).ret.s2Times) (b : t.clock = (raise code s).clock) :
      s2Counting t = s2Counting s := s2Counting_congr (a.trans (by rw [raise_ret])) (b.trans (raise_clock ..))
  have notNow (t : State) (a : t.sys = (raise code s).sys) (b : t.clock = (raise code s).clock)
      (c : t.ret.s2Times = (raise code s).ret.s2Times) : s2Now t = false := by
    rw [s2Now_congr (a.trans (raise_sys ..)) (b.trans (raise_clock ..)) (c.trans (by rw [raise_ret])), hn]
  unfold detectS2
  rw [hh, hl]
  dsimp only
  rw [if_neg (by simp)]
  split
  · exact absurd ‹_› (Bool.eq_false_iff.1 (notNow _ rfl rfl rfl))
  · exact congrArg (fun l : List Nat => decide (2 ≤ l.length)) (counting _ rfl rfl)

end

/-- Settles O54: the exit of S1, the count of S2 entries at a detection, and its logging. -/
theorem safeStatesEndAndCount : Obligations.SafeStatesEndAndCount := by
  intro s
  refine ⟨fun hs he hr => ⟨_, exec_s1Exit_ends hs he hr, ?_⟩, exec_s1Exit_stays, fun code hh hn => ?_,
    fun hh => ⟨mayStart_held hh, faultAsserted_held hh⟩, fun hh hl => ⟨_, exec_s2Repeat_logs hh hl, ?_⟩,
    exec_s2Repeat_once, exec_s2CountExpire_counts, exec_s2CountExpire_held⟩
  · have hsfp : (raise 0x0E32 (s1Ended s)).sfp = (s1Ended s).sfp := raise_sfp ..
    have hasy : (raise 0x0E32 (s1Ended s)).asy = (s1Ended s).asy := raise_asy ..
    exact s1Exit_kept hasy hsfp (raise_ret ..) (raise_sys ..) (raise_mem ..)
  · rw [detectS2_holdsThird code hh hn, decide_eq_true_iff]
  · have hret : (raise 0x0E30 (holdLogged s)).ret = (holdLogged s).ret := raise_ret ..
    refine ⟨(congrArg Retained.s2Held hret).trans hh, congrArg Retained.s2Logged hret, congrArg Retained.events hret,
      raise_sys .., ?_, (congrArg Retained.s2Times hret).trans rfl, raise_mem ..⟩
    exact faultAsserted_held ((congrArg Retained.s2Held hret).trans hh)

end Sys2Proof.Machine
end

section
/-! Loads and swaps of patterns (R117, R132 to R143, R316, R415, R429, R483). -/

namespace Sys2Proof.Machine

/-! ### What a detection may write -/

/-- Everything but what events, the detections and the safe states of S1 write is as it was. -/
def DetectionOnly (s t : State) : Prop :=
  ∃ ret sfp asy hif cyc l p v f n ny r c x w d k g, t = { s with
    ret := ret, sfp := sfp, asy := asy, hif := hif, cyc := cyc,
    ldl := { s.ldl with evt := l }, pat := { s.pat with evt := p }, ven := { s.ven with evt := v },
    fgs := { s.fgs with evt := f }, neu := { s.neu with evt := n, layEvt := ny }, rsr := { s.rsr with evt := r },
    sch := { s.sch with evt := c }, xlt := { s.xlt with evt := x }, fwl := { s.fwl with evt := w },
    dma := { s.dma with evt := d }, lnk := { s.lnk with evt := k }, tap := { s.tap with evt := g } }

theorem detectionOnly_refl (s : State) : DetectionOnly s s :=
  ⟨_, _, _, _, _, _, _, _, _, _, _, _, _, _, _, _, _, _, rfl⟩

theorem detectionOnly_trans {s t u : State} (h : DetectionOnly s t) (k : DetectionOnly t u) : DetectionOnly s u := by
  obtain ⟨_, _, _, _, _, _, _, _, _, _, _, _, _, _, _, _, _, _, rfl⟩ := h
  obtain ⟨_, _, _, _, _, _, _, _, _, _, _, _, _, _, _, _, _, _, rfl⟩ := k
  exact ⟨_, _, _, _, _, _, _, _, _, _, _, _, _, _, _, _, _, _, rfl⟩

theorem detectionOnly_of_events {s t : State} (h : EventsOnly s t) : DetectionOnly s t := by
  obtain ⟨_, _, _, _, _, _, _, _, _, _, _, _, _, _, _, _, _, _, _, _, _, rfl⟩ := h
  exact ⟨_, _, _, _, _, _, _, _, _, _, _, _, _, _, _, _, _, _, rfl⟩

theorem enterS1_detectionOnly (code : EventCode) (s : State) : DetectionOnly s (enterS1 code s) := by
  unfold enterS1
  split
  · exact ⟨_, _, _, _, _, _, _, _, _, _, _, _, _, _, _, _, _, _, rfl⟩
  · split
    · refine detectionOnly_trans ?_ (detectionOnly_of_events (raise_events ..))
      exact ⟨_, _, _, _, _, _, _, _, _, _, _, _, _, _, _, _, _, _, rfl⟩
    · exact ⟨_, _, _, _, _, _, _, _, _, _, _, _, _, _, _, _, _, _, rfl⟩
    · exact ⟨_, _, _, _, _, _, _, _, _, _, _, _, _, _, _, _, _, _, rfl⟩

theorem logFault_detectionOnly (code : EventCode) (pairs : BitVec 4) (s : State) :
    DetectionOnly s (logFault code pairs s) := by
  obtain ⟨_, _, _, h, -⟩ := logFault_frame code pairs s
  rw [h]
  exact ⟨_, _, _, _, _, _, _, _, _, _, _, _, _, _, _, _, _, _, rfl⟩

theorem detectS1_detectionOnly (code : EventCode) (pairs : BitVec 4) (s : State) :
    DetectionOnly s (detectS1 code pairs s) :=
  detectionOnly_trans (detectionOnly_of_events (raise_events code s))
    (detectionOnly_trans (logFault_detectionOnly code pairs _) (enterS1_detectionOnly code _))

/-! ### A load -/

theorem detectS1_pat (code : EventCode) (pairs : BitVec 4) (s : State) :
    ∃ e, (detectS1 code pairs s).pat = { s.pat with evt := e } := by
  obtain ⟨_, _, _, _, _, _, e, _, _, _, _, _, _, _, _, _, _, _, h⟩ := detectS1_detectionOnly code pairs s
  exact ⟨e, congrArg State.pat h⟩

theorem raise_pat (code : EventCode) (s : State) : ∃ e, (raise code s).pat = { s.pat with evt := e } :=
  ⟨(raise code s).pat.evt, congrArg State.pat (raise_frame code s)⟩

/-- R142: PAT after a rejection. -/
def LoadRejected (c : EventCode) (t : State) : Prop := t.pat.checked = none ∧ t.pat.st = .idle ∧ t.pat.failCode = c

theorem rejectLoad_rejected (c : EventCode) (s : State) : LoadRejected c (rejectLoad c s) := by
  obtain ⟨e, h⟩ := raise_pat c (rejectState c s)
  rw [LoadRejected, rejectLoad, h]
  exact ⟨rfl, rfl, rfl⟩

theorem rejectEcc_rejected (s : State) : LoadRejected 0x0504 (rejectEcc s) := by
  obtain ⟨e, h⟩ := detectS1_pat 0x0504 0 (rejectState 0x0504 s)
  rw [LoadRejected, rejectEcc, h]
  exact ⟨rfl, rfl, rfl⟩

section
variable {s : State} {bs : List Byte} {len : Option Nat} {area : Option AreaFault}

theorem judgePattern_rejects {c : EventCode} (h : checkPattern s bs len (area.bind checkFault) = .error c) :
    LoadRejected c (judgePattern bs len area s) := by
  rw [judgePattern, h]
  split
  next hc => exact Except.error.inj hc ▸ rejectEcc_rejected s
  next hc => exact Except.error.inj hc ▸ rejectLoad_rejected ..
  next hc => cases hc

theorem judgePattern_accepts {p : Pattern} (h : checkPattern s bs len (area.bind checkFault) = .ok p) :
    judgePattern bs len area s =
      { s with pat := { s.pat with checked := some p, st := .parsing, initBad := area == some .copy } } := by
  rw [judgePattern, h]

/-- R132, R142: what the judgement of a pattern leaves in PAT. -/
theorem judgePattern_judged : match checkPattern s bs len (area.bind checkFault) with
    | .ok p => (judgePattern bs len area s).pat.checked = some p ∧ (judgePattern bs len area s).pat.st = .parsing ∧
        (judgePattern bs len area s).pat.initBad = (area == some .copy)
    | .error c => LoadRejected c (judgePattern bs len area s) := by
  cases h : checkPattern s bs len (area.bind checkFault) with
  | ok p =>
    rw [judgePattern_accepts h]
    exact ⟨rfl, rfl, rfl⟩
  | error c => exact judgePattern_rejects h

end

theorem loadGated_noteEcc (bs : List Byte) (ecc : Ecc) (s : State) : loadGated bs (noteEcc ecc s) = loadGated bs s := by
  unfold noteEcc
  split <;> rfl

section
variable {s : State} {ecc : Ecc} {area : Option AreaFault}

theorem requestLoad_busy (hb : patBusy s = true) : requestLoad ecc area s = refuseLoad 0x0502 s := if_pos hb

theorem requestLoad_hold (hb : patBusy s = false) (hc : s.pwr.cur = .hold) :
    requestLoad ecc area s = refuseLoad 0x0503 s := by
  rw [requestLoad, if_neg (by simp [hb]), if_pos hc]

/-- R134: the read of the pattern that a request names. -/
def loadRead (ecc : Ecc) (s : State) : Option (List Byte) × State :=
  readPages patId (ecc == .walkUncorrectable) (s.pat.len.toNat / 0x10000 + 2) s.pat.src.toNat s.pat.len.toNat s

variable (hb : patBusy s = false) (hc : s.pwr.cur ≠ .hold)
include hb hc

theorem requestLoad_free : requestLoad ecc area s = (match (loadRead ecc s).1, ecc with
    | none, _ => rejectLoad 0x0504 (loadRead ecc s).2
    | some _, .uncorrectable => rejectEcc (loadRead ecc s).2
    | some bs, _ =>
      if loadGated bs (noteEcc ecc (loadRead ecc s).2) then refuseLoad 0x0503 (noteEcc ecc (loadRead ecc s).2)
      else judgePattern bs (some s.pat.len.toNat) area (physWrite (noteEcc ecc (loadRead ecc s).2)
        (noteEcc ecc (loadRead ecc s).2).sys.patternArea (bs.take (areaRoom (noteEcc ecc (loadRead ecc s).2))))) := by
  rw [requestLoad, if_neg (by simp [hb]), if_neg hc]
  rfl

theorem requestLoad_unread {u : State} (hr : loadRead ecc s = (none, u)) :
    requestLoad ecc area s = rejectLoad 0x0504 u := by
  rw [requestLoad_free hb hc, hr]

theorem requestLoad_uncorrectable {bs : List Byte} {u : State} (hr : loadRead ecc s = (some bs, u))
    (he : ecc = .uncorrectable) : requestLoad ecc area s = rejectEcc u := by
  rw [requestLoad_free hb hc, hr, he]

theorem requestLoad_read {bs : List Byte} {u v : State} (hv : v = noteEcc ecc u) (hr : loadRead ecc s = (some bs, u))
    (he : ecc ≠ .uncorrectable) : requestLoad ecc area s = if loadGated bs u then refuseLoad 0x0503 v
      else judgePattern bs (some s.pat.len.toNat) area (physWrite v v.sys.patternArea (bs.take (areaRoom v))) := by
  rw [requestLoad_free hb hc, hr, ← loadGated_noteEcc bs ecc u, hv]
  cases ecc with
  | uncorrectable => exact absurd rfl he
  | clean => rfl
  | corrected => rfl
  | walkUncorrectable => rfl

end

/-- R132, R515: PAT hears a load request: while the clocks run, and in HOLD. -/
def loadHeard (s : State) : Bool := clocksRun s || s.pwr.cur == .hold && !s.sys.inReset

section
variable {s : State} {keeper host : Bool} {reads : LoadReads} (hn : ∀ b, heldAt s patUnit b = [])
  (hh : loadHeard s = true) (h8 : 8 ≤ s.sys.step.toNat)
include hn hh h8

theorem takeLoad_heard (h : (keeper || host) = true) : takeLoad keeper host reads.source reads.area s =
    if (keeper && host) = true then refuseLoad 0x0502 (requestLoad reads.source reads.area s)
    else requestLoad reads.source reads.area s := by
  have hc : (clocksRun s || s.pwr.cur == .hold && !s.sys.inReset) = true := hh
  unfold takeLoad
  simp only [hn, List.isEmpty_nil, Bool.not_true, Bool.or_false, hc, h, decide_eq_false (Nat.not_lt.2 h8),
    Bool.false_eq_true, if_false, dropHeld_none hn]

theorem exec_patternLoad_one (h : (keeper != host) = true) :
    exec (.patternLoad keeper host reads) s = .next (requestLoad reads.source reads.area s) := by
  refine congrArg Host.Outcome.next ((takeLoad_heard hn hh h8 ?_).trans (if_neg ?_)) <;>
    revert h <;> revert keeper host <;> decide

theorem exec_patternLoad_both : exec (.patternLoad true true reads) s =
    .next (refuseLoad 0x0502 (requestLoad reads.source reads.area s)) :=
  congrArg Host.Outcome.next ((takeLoad_heard hn hh h8 rfl).trans (if_pos rfl))

end

theorem exec_patternLoad_early {s : State} (keeper host : Bool) (reads : LoadReads) (h : s.sys.step.toNat < 8) :
    exec (.patternLoad keeper host reads) s = .next s :=
  congrArg Host.Outcome.next (if_pos (by simp [h]))

theorem clocksRun_awake {s : State} (h : clocksRun s = true) : s.pwr.cur ≠ .hold := by
  simp only [clocksRun, Bool.and_eq_true, bne_iff_ne] at h
  exact h.1.2

/-- Settles O32: one writer's request is `requestLoad`, whose read of the pattern decides. -/
theorem patternLoadJudged : Obligations.PatternLoadJudged := by
  rintro s keeper host reads n hc h8 hone hn rfl
  have hh : loadHeard s = true := by rw [loadHeard, hc]; rfl
  have hx := exec_patternLoad_one (reads := reads) hn hh h8 hone
  have ha := clocksRun_awake hc
  refine ⟨fun hb bs u v hv hr => ⟨fun he hg => ⟨_, hx, ?_⟩, fun he hg => hx.trans ?_, fun he => hx.trans ?_⟩,
    fun hb u hr => hx.trans ?_, fun hb => hx.trans (congrArg _ (requestLoad_busy hb)),
    ⟨_, hx, exec_patternLoad_both hn hh h8⟩, fun r hr hi h8 hn hb => ?_,
      fun r => exec_patternLoad_early keeper host reads⟩
  · rw [requestLoad_read hb ha hv hr he, if_neg (by simp [hg])]
    exact judgePattern_judged
  · rw [requestLoad_read hb ha hv hr he, if_pos hg]
  · rw [requestLoad_uncorrectable hb ha hr he]
  · rw [requestLoad_unread hb ha hr]
  · have hh : loadHeard r = true := by simp [loadHeard, hr, hi]
    rw [exec_patternLoad_one hn hh h8 hone, requestLoad_hold hb hr]

end Sys2Proof.Machine
end

section
/-! The end of a load, the commit, the swap point and what follows it (R117, R132, R135 to R137, R143, R316, R429,
R483). -/

namespace Sys2Proof.Machine

/-! ### The end of a load -/

/-- R135, R143: the swap of the loaded pattern is released at once: no hold_swap holds it, or it is the start
pattern. -/
def swapFree (s : State) : Bool := !s.pat.holdSwap || s.pat.active.isNone && s.sys.phase == 0

/-- R132 step 7: the pattern is pending. -/
def loadPending (p : Pattern) (s : State) : State :=
  { s with
    pat := { s.pat with checked := none, pending := some p, st := .pending, committed := swapFree s }
    lnk := { s.lnk with tagMismatch := false }
    sys := { s.sys with phase := if s.sys.phase = 2 ∧ s.sys.provisioning = false then 1 else s.sys.phase } }

theorem endLoad_empty {p : Pattern} (s : State) (h : initContent p = []) : endLoad p s =
    if (swapFree s && decide (p.hdr.flaskSize < 2)) = true then requestSwap (raise 0x0530 (loadPending p s))
    else raise 0x0530 (loadPending p s) := by
  rw [endLoad, h]
  rfl

section
variable {s : State} {p : Pattern} (hk : s.pat.checked = some p)
include hk

theorem exec_patternLoaded_bad (hb : s.pat.initBad = true) : exec .patternLoaded s = .next (rejectEcc s) := by
  show execPatternLoaded s = _
  rw [execPatternLoaded, hk]
  exact if_pos hb

theorem exec_patternLoaded_cut (hb : s.pat.initBad = false) (hs : startLoad s = true) (hl : linksUp s p = false) :
    exec .patternLoaded s = .next (rejectStart s) := by
  show execPatternLoaded s = _
  rw [execPatternLoaded, hk]
  exact (if_neg (by simp [hb])).trans (if_pos (by simp [hs, hl]))

theorem exec_patternLoaded_ends (hb : s.pat.initBad = false) (hl : startLoad s = false ∨ linksUp s p = true) :
    exec .patternLoaded s = .next (endLoad p s) := by
  show execPatternLoaded s = _
  rw [execPatternLoaded, hk]
  exact (if_neg (by simp [hb])).trans (if_neg (by rcases hl with h | h <;> simp [h]))

end

theorem exec_patternLoaded_none {s : State} (h : s.pat.checked = none) : exec .patternLoaded s = .next s := by
  show execPatternLoaded s = _
  rw [execPatternLoaded, h]

/-- R132, R460: what the pending pattern's event leaves of the load's end. -/
theorem loadPending_raised (p : Pattern) (s : State) : ∃ e, (raise 0x0530 (loadPending p s)).pat =
    { (loadPending p s).pat with evt := e } := raise_pat ..

/-! ### The commit -/

section
variable {s : State} {who : Agent}

theorem exec_swapCommit_denied (h : agentKeeperOrHost s who = false) : exec (.swapCommit who) s = .next s :=
  if_neg (by simp [h])

theorem exec_swapCommit_ignored (h : s.pat.pending = none ∨ s.pat.committed = true ∨ s.pat.swapAt.isSome = true) :
    exec (.swapCommit who) s = .next s := by
  have hc : commitSwap s = s := by
    unfold commitSwap
    split
    next p hp =>
      refine if_pos ?_
      rcases h with h | h | h
      · exact nomatch hp.symm.trans h
      · simp [h]
      · simp [h]
    · rfl
  show execSwapCommit who s = _
  rw [execSwapCommit, hc]
  exact ite_self ..

/-- R135: the commit is noted. -/
def swapCommitted (s : State) : State := { s with pat := { s.pat with committed := true } }

theorem exec_swapCommit_releases {p : Pattern} (ha : agentKeeperOrHost s who = true) (hp : s.pat.pending = some p)
    (hc : s.pat.committed = false) (hs : s.pat.swapAt = none) : exec (.swapCommit who) s =
      .next (if p.hdr.flaskSize < 2 then requestSwap (swapCommitted s) else swapCommitted s) := by
  have hcom : commitSwap s = if p.hdr.flaskSize < 2 then requestSwap (swapCommitted s) else swapCommitted s := by
    rw [commitSwap, hp]
    exact if_neg (by simp [hc, hs])
  rw [← hcom]
  exact if_pos ha

end

/-- Settles O33: the end of a load is `loadPending` with its event, then the swap's request where it is released. -/
theorem patternPends : Obligations.PatternPends := by
  intro s p
  refine ⟨fun hk hb hi hl => ⟨_, exec_patternLoaded_ends hk hb hl, ?ends⟩, exec_patternLoaded_bad,
    fun hk hb hs hl => ⟨_, exec_patternLoaded_cut hk hb hs hl, ?cut⟩, exec_patternLoaded_none,
    fun who ha hp hc hs => ⟨fun hf => ?alone, fun hf => ?flask⟩, fun who => exec_swapCommit_ignored,
    fun who => exec_swapCommit_denied⟩
  case ends =>
    obtain ⟨e, hpat⟩ := loadPending_raised p s
    have hfifo : s.hif.fifo.length < 256 → (raise 0x0530 (loadPending p s)).hif.fifo = s.hif.fifo ++ [0x0530] :=
      fun hf => (raise_queue 0x0530 (loadPending p s)).1.trans (if_pos hf)
    have hnow : now (raise 0x0530 (loadPending p s)) = now s := congrArg Clock.tsc (raise_clock ..)
    have hmem : (raise 0x0530 (loadPending p s)).mem = s.mem := raise_mem ..
    have hpours : (raise 0x0530 (loadPending p s)).fgs.pours = s.fgs.pours := raise_fgs_pours ..
    rw [endLoad_empty s hi]
    generalize raise 0x0530 (loadPending p s) = r at hpat hfifo hnow hmem hpours
    split
    next hfree =>
      obtain ⟨hfree, hsize⟩ : swapFree s = true ∧ p.hdr.flaskSize < 2 := by simpa using hfree
      rw [requestSwap, hpat, hnow]
      refine ⟨rfl, rfl, rfl, hmem, hpours, hfifo, fun hh ha => ?_, fun _ _ => ⟨rfl, rfl⟩, fun _ _ _ _ => ⟨rfl, rfl⟩,
        fun _ h2 => absurd hsize (Nat.not_lt.2 h2)⟩
      rw [swapFree, hh, Option.isNone_eq_false_iff.2 ha] at hfree
      exact nomatch hfree
    next hheld =>
      have hheld : swapFree s = true → 1 < p.hdr.flaskSize := by simpa using hheld
      rw [hpat]
      refine ⟨rfl, rfl, rfl, hmem, hpours, hfifo, fun hh ha => ⟨rfl, ?_, rfl⟩, fun hh hf => ?_, fun hh ha h0 hf => ?_,
        fun hh _ => ⟨rfl, ?_, rfl⟩⟩
      · show swapFree s = false
        rw [swapFree, hh, Option.isNone_eq_false_iff.2 ha]
        rfl
      · exact absurd hf (Nat.not_lt.2 (hheld (by simp [swapFree, hh])))
      · exact absurd hf (Nat.not_lt.2 (hheld (by simp [swapFree, ha, h0])))
      · show swapFree s = true
        simp [swapFree, hh]
  case cut =>
    obtain ⟨hchecked, -, hcode⟩ := rejectLoad_rejected 0x100C s
    exact ⟨rfl, rfl, hchecked, hcode, raise_mem ..⟩
  case alone =>
    rw [exec_swapCommit_releases ha hp hc hs, if_pos hf]
    rfl
  case flask =>
    rw [exec_swapCommit_releases ha hp hc hs, if_neg (Nat.not_lt.2 hf)]
    rfl

/-! ### The swap point -/

/-- R135: the pattern is active, the former one is the previous one, and triggers wait. -/
def swapActive (p : Pattern) (s : State) : State :=
  { s with pat := { s.pat with
      active := some p, previous := s.pat.active, pending := none, swapAt := none, st := .swapping,
      acceptAt := some (now s + 2400) } }

/-- R117, R135, R316, R388: what the units take at the swap point. -/
def swapUnits (p : Pattern) (s : State) : State :=
  bindChannels p (swapRiser p (swapFgs (swapAsy s.pat.active p (swapCams p (swapActive p s)))))

theorem swapIn_empty {p : Pattern} (s : State) (h : initContent p = []) :
    swapIn p s = raise 0x0531 (swapUnits p s) := by
  have h0 : ceilDiv (sumNat ([] : List Nat)) 8 = 0 := by decide
  rw [swapIn, h]
  simp only [List.filter_nil, List.map_nil, List.foldl_nil, h0]
  rfl

/-- R367: a pattern without Runner nodes stops no channel. -/
theorem bindChannels_none {p : Pattern} (h : (p.nodes.filter fun n => n.cls == 7) = []) (s : State) :
    ∃ chs, bindChannels p s = { s with dma := { s.dma with chs := chs } } := by
  rw [bindChannels, h]
  exact ⟨_, rfl⟩

section
variable {s : State} {a : Nat}

theorem exec_swapPoint_comes {p : Pattern} (hs : s.pat.swapAt = some a) (hp : s.pat.pending = some p)
    (hf : s.fgs.pours = []) (hw : swapFirst s = true) : exec .swapPoint s = .next (swapIn p s) := by
  show execSwapPoint s = _
  rw [execSwapPoint, hs, hp]
  exact if_pos (by simp [hf, hw])

theorem exec_swapPoint_waits (h : s.fgs.pours ≠ [] ∨ swapFirst s = false) : exec .swapPoint s = .next s := by
  show execSwapPoint s = _
  unfold execSwapPoint
  split
  · refine if_neg ?_
    rcases h with h | h <;> simp [h]
  · rfl

/-- R136: the state in which a swap has ended. -/
def swapEnds (s : State) : PatState := if s.pat.st = .swapping then .idle else s.pat.st

theorem exec_triggersAccepted_early (ha : s.pat.acceptAt = some a) (h : now s < a ∨ peersSwapped s = false) :
    exec .triggersAccepted s = .next s := by
  show execTriggersAccepted s = _
  rw [execTriggersAccepted, ha]
  exact if_pos (by rcases h with h | h <;> simp [h])

theorem exec_triggersAccepted_next (ha : s.pat.acceptAt = some a) (hd : a ≤ now s) (hp : peersSwapped s = true)
    (hs : s.pat.swapAt.isSome = true) : exec .triggersAccepted s =
      .next { s with pat := { s.pat with acceptAt := none, previous := none, st := swapEnds s } } := by
  show execTriggersAccepted s = _
  rw [execTriggersAccepted, ha]
  exact (if_neg (by simp [Nat.not_lt.2 hd, hp])).trans (if_pos hs)

theorem exec_triggersAccepted_ends (ha : s.pat.acceptAt = some a) (hd : a ≤ now s) (hp : peersSwapped s = true)
    (hs : s.pat.swapAt = none) (hq : s.pat.deferred = []) : exec .triggersAccepted s =
      .next { s with pat := { s.pat with acceptAt := none, deferred := [], previous := none, st := swapEnds s } } := by
  show execTriggersAccepted s = _
  rw [execTriggersAccepted, ha]
  refine (if_neg (by simp [Nat.not_lt.2 hd, hp])).trans ((if_neg (by simp [hs])).trans ?_)
  rw [hq]
  rfl

/-- R137: the time that the pours in flight have from a swap's request. -/
def drainTime (s : State) : Nat := if s.pat.swapTmo = 0 then s.asy.ceiling else s.pat.swapTmo.toNat

theorem exec_swapDrainTimeout_early (hs : s.pat.swapAt = some a) (hd : now s < a + drainTime s) :
    exec .swapDrainTimeout s = .next s := by
  show execSwapDrainTimeout s = _
  rw [execSwapDrainTimeout, hs]
  refine if_pos ?_
  rw [Bool.or_eq_true]
  exact .inr (decide_eq_true hd)

theorem exec_swapDrainTimeout_aborts {q : Pour} (hs : s.pat.swapAt = some a) (hq : s.fgs.pours = [q])
    (ho : q.aborted = none) (hd : a + drainTime s ≤ now s) :
    exec .swapDrainTimeout s = .next (abortPour 0x0532 q.ref (raise 0x0532 s)) := by
  have hopen : s.fgs.pours.filter (fun q => q.aborted.isNone) = [q] := by simp [hq, ho]
  show execSwapDrainTimeout s = _
  rw [execSwapDrainTimeout, hs]
  dsimp only
  rw [hopen]
  refine if_neg ?_
  rw [List.isEmpty_cons, Bool.false_or, decide_eq_true_iff]
  exact Nat.not_lt.2 hd

end

/-- Settles O34: without init content the swap point is `swapUnits` with its event. -/
theorem swapPointComes : Obligations.SwapPointComes := by
  intro s p a
  refine ⟨fun hs hp hf hw hi h7 => ⟨_, exec_swapPoint_comes hs hp hf hw, ?comes⟩,
    fun hs hp => exec_swapPoint_comes hs hp,
    exec_swapPoint_waits, fun ha hd hp => ⟨exec_triggersAccepted_ends ha hd hp, exec_triggersAccepted_next ha hd hp⟩,
    exec_triggersAccepted_early, fun q hs hq ho => ⟨fun h0 hd => ?_, fun h0 hd => ?_, fun h0 hd => ?_⟩⟩
  case comes =>
    obtain ⟨chs, hb⟩ := bindChannels_none h7
      (swapRiser p (swapFgs (swapAsy s.pat.active p (swapCams p (swapActive p s)))))
    rw [swapIn_empty s hi, swapUnits, hb]
    rw [raise_pat_active, raise_pat_previous, raise_pat_pending, raise_pat_swapAt, raise_pat_acceptAt, raise_asy,
      raise_mem,
      raise_rsr_resvs, raise_rsr_holds, raise_fgs_flags]
    exact ⟨rfl, rfl, rfl, rfl, rfl, rfl, rfl, rfl, rfl, rfl⟩
  · exact exec_swapDrainTimeout_aborts hs hq ho (by rw [drainTime, if_neg h0]; exact hd)
  · exact exec_swapDrainTimeout_aborts hs hq ho (by rw [drainTime, if_pos h0]; exact hd)
  · exact exec_swapDrainTimeout_early hs (by rw [drainTime, if_neg h0]; exact hd)

end Sys2Proof.Machine
end

section
/-! Camera receivers: packets and line events of one receiver (R145, R147, R154, R157, R160, R162). -/

namespace Sys2Proof.Machine

/-! ### Trace writes -/

/-- Only the trace, the host interface's queues and what the ECLK keeps may differ. -/
def TraceOnly (s t : State) : Prop := ∃ tap hif cyc, t = { s with tap := tap, hif := hif, cyc := cyc }

theorem traceOnly_trans {s t u : State} (h : TraceOnly s t) (k : TraceOnly t u) : TraceOnly s u := by
  obtain ⟨_, _, _, rfl⟩ := h
  obtain ⟨_, _, _, rfl⟩ := k
  exact ⟨_, _, _, rfl⟩

theorem traceOnly_tap (s : State) (tap : Tap) : TraceOnly s { s with tap := tap } := ⟨_, _, _, rfl⟩

theorem pushFifo_traceOnly (s : State) (code : EventCode) : TraceOnly s (pushFifo s code) := by
  unfold pushFifo
  split <;> exact ⟨_, _, _, rfl⟩

theorem signalMsix_traceOnly (s : State) (v : Nat) : TraceOnly s (signalMsix s v) := by
  unfold signalMsix sendMsix
  dsimp only
  repeat' split
  all_goals exact ⟨_, _, _, rfl⟩

/-- R444: the event of a drop run sets a bit of the trace's own event register. -/
theorem raise_dropRun_traceOnly (s : State) : TraceOnly s (raise 0x1101 s) :=
  traceOnly_trans (t := noteSet 0x1101 (markEvt s 0x1101)) ⟨_, _, _, rfl⟩
    (traceOnly_trans (pushFifo_traceOnly ..) (signalMsix_traceOnly _ 17))

theorem endDropRun_traceOnly (s : State) : TraceOnly s (endDropRun s) := by
  unfold endDropRun
  split
  · exact ⟨_, _, _, rfl⟩
  · exact traceOnly_trans (traceOnly_tap ..) (raise_dropRun_traceOnly _)

theorem pushTrace_traceOnly (r : TraceRec) (s : State) : TraceOnly s (pushTrace r s) := by
  unfold pushTrace
  split
  · exact traceOnly_trans (endDropRun_traceOnly s) (traceOnly_tap ..)
  · exact ⟨_, _, _, rfl⟩

theorem traceSource_traceOnly (i : Nat) (kind : BitVec 3) (node seq : Nat) (payload : List Byte) (s : State) :
    TraceOnly s (traceSource i kind node seq payload s) := by
  unfold traceSource
  dsimp only
  split
  · exact pushTrace_traceOnly ..
  · exact ⟨_, _, _, rfl⟩

theorem beginSource_traceOnly (i node seq : Nat) (payload : List Byte) (s : State) :
    TraceOnly s (beginSource i node seq payload s) :=
  traceOnly_trans (traceOnly_tap ..) (traceSource_traceOnly ..)

theorem endSource_traceOnly (i node seq : Nat) (bad : Bool) (payload : List Byte) (s : State) :
    TraceOnly s (endSource i node seq bad payload s) :=
  traceOnly_trans (traceOnly_tap ..) (traceSource_traceOnly ..)

/-! ### The header of a packet -/

section
variable {s : State} {p : Nat}

theorem camRuns_inRange (h : camRuns s p = true) : p < s.cams.length := by
  refine camAt_mem fun hc => ?_
  rw [camRuns, hc] at h
  exact Bool.false_ne_true h

theorem camAt_heard (h : p < s.cams.length) : camAt (heard p s) p = { camAt s p with lastPacket := now s } :=
  camAt_updCam_same h

theorem heard_upd (f : Camera → Camera) :
    updCam p f (heard p s) = updCam p (fun c => f { c with lastPacket := now s }) s :=
  updCam_updCam ..

theorem vcOf_heard (h : p < s.cams.length) : vcOf (heard p s) p = vcOf s p := by
  rw [vcOf, camAt_heard h]
  rfl

/-- R157: a header that can be used keeps what the port follows. -/
theorem vcOf_headerCheck {hdr : HeaderEcc} (h : p < s.cams.length) (hf : hdr ≠ .failed) :
    vcOf (headerCheck p hdr s).2 p = vcOf s p := by
  cases hdr with
  | ok => rfl
  | fixed =>
    show vcOf (updCam p _ s) p = _
    rw [vcOf, camAt_updCam_same h]
    rfl
  | failed => exact absurd rfl hf

/-- R147, R157: a packet whose header failed or that follows another virtual channel is not taken. -/
theorem headerCheck_untaken {vc : BitVec 4} {hdr : HeaderEcc} (h : p < s.cams.length)
    (hn : vcOf s p ≠ some vc.toNat ∨ hdr = .failed) : ((headerCheck p hdr (heard p s)).1 &&
      vcOf (headerCheck p hdr (heard p s)).2 p == some vc.toNat) = false := by
  by_cases hf : hdr = .failed
  · rw [hf]
    rfl
  · have hlen : p < (heard p s).cams.length := by
      rw [heard, updCam, upd_length]
      exact h
    rw [vcOf_headerCheck hlen hf, vcOf_heard h, beq_eq_false_iff_ne.2 (hn.resolve_right hf), Bool.and_false]

theorem headerCheck_taken {vc : BitVec 4} (h : p < s.cams.length) (hv : vcOf s p = some vc.toNat) :
    ((headerCheck p .ok (heard p s)).1 && vcOf (headerCheck p .ok (heard p s)).2 p == some vc.toNat) = true := by
  show (true && vcOf (heard p s) p == some vc.toNat) = true
  rw [vcOf_heard h, hv]
  exact beq_self_eq_true _

theorem vcOf_frame {f : Frame} (hf : (camAt s p).frame = some f) : vcOf s p = some f.cfg.vc := by
  rw [vcOf, hf]
  rfl

theorem vcOf_port {k : IspCfg} (hf : (camAt s p).frame = none) (hk : (camAt s p).cfg = some k) :
    vcOf s p = some k.vc := by
  rw [vcOf, hf, hk]
  rfl

theorem camAt_frame_heard (h : p < s.cams.length) : (camAt (heard p s) p).frame = (camAt s p).frame := by
  rw [camAt_heard h]

theorem closeRow_closed {f : Frame} (hf : (camAt s p).frame = some f) (ho : f.openRow = none) : closeRow p s = s := by
  rw [closeRow, hf]
  dsimp only
  rw [ho]

end

/-! ### The packets as commands -/

section
variable {s : State} {p : Fin 8}

theorem exec_csiPhySyncLost_idle (h : camRuns s p.val = false) : exec (.csiPhySyncLost p) s = .next s :=
  if_pos (by simp [h])

theorem exec_csiFrameStart_idle (h : camRuns s p.val = false) (vc : BitVec 4) (hdr : HeaderEcc) :
    exec (.csiFrameStart p vc hdr) s = .next s := if_pos (by simp [h])

theorem exec_csiFrameEnd_idle (h : camRuns s p.val = false) (vc : BitVec 4) (hdr : HeaderEcc) :
    exec (.csiFrameEnd p vc hdr) s = .next s := if_pos (by simp [h])

theorem exec_csiGenericShort_idle (h : camRuns s p.val = false) (vc : BitVec 4) (hdr : HeaderEcc) :
    exec (.csiGenericShort ⟨p, vc, hdr⟩) s = .next s := if_pos (by simp [h])

variable (hr : camRuns s p.val = true)
include hr

theorem exec_csiPhySyncLost_between (hf : (camAt s p.val).frame = none) : exec (.csiPhySyncLost p) s =
    .next (updCam p.val (fun c => { c with sync := false, awaitFs := true, discarding := false, testAt := none })
      (raiseCamOnce p.val 0x0601 s)) := by
  refine (if_neg (by simp [hr])).trans (congrArg (fun u => Host.Outcome.next (updCam p.val _ u)) ?_)
  exact if_neg (by simp [hf])

theorem exec_csiPhySyncLost_within {f : Frame} (hf : (camAt s p.val).frame = some f) (ho : f.openRow = none) :
    exec (.csiPhySyncLost p) s = .next (updCam p.val
      (fun c => { c with sync := false, awaitFs := true, discarding := false, testAt := none })
      (closeFrame p.val (some 0x0601) s)) := by
  refine (if_neg (by simp [hr])).trans (congrArg (fun u => Host.Outcome.next (updCam p.val _ u)) ?_)
  rw [closeRow_closed hf ho]
  exact if_pos (by simp [hf])

section
variable {vc : BitVec 4} {hdr : HeaderEcc} (hn : vcOf s p.val ≠ some vc.toNat ∨ hdr = .failed)
include hn

theorem exec_csiGenericShort_untaken :
    exec (.csiGenericShort ⟨p, vc, hdr⟩) s = .next (headerCheck p.val hdr (heard p.val s)).2 :=
  (if_neg (by simp [hr])).trans (if_neg (Bool.eq_false_iff.1 (headerCheck_untaken (camRuns_inRange hr) hn)))

theorem exec_csiUnsupportedPacket_untaken (dt : BitVec 6) :
    exec (.csiUnsupportedPacket ⟨p, vc, hdr⟩ dt) s = .next (headerCheck p.val hdr (heard p.val s)).2 := by
  refine (if_neg (by simp [hr])).trans (if_neg ?_)
  rw [headerCheck_untaken (camRuns_inRange hr) hn]
  exact Bool.false_ne_true

theorem exec_csiLineStart_untaken :
    exec (.csiLineStart p vc hdr) s = .next (headerCheck p.val hdr (heard p.val s)).2 :=
  (if_neg (by simp [hr])).trans (if_neg (Bool.eq_false_iff.1 (headerCheck_untaken (camRuns_inRange hr) hn)))

theorem exec_csiLineEnd_untaken : exec (.csiLineEnd p vc hdr) s = .next (headerCheck p.val hdr (heard p.val s)).2 :=
  (if_neg (by simp [hr])).trans (if_neg (Bool.eq_false_iff.1 (headerCheck_untaken (camRuns_inRange hr) hn)))

theorem exec_csiFrameEnd_untaken : exec (.csiFrameEnd p vc hdr) s = .next (headerCheck p.val hdr (heard p.val s)).2 :=
  (if_neg (by simp [hr])).trans (if_neg (Bool.eq_false_iff.1 (headerCheck_untaken (camRuns_inRange hr) hn)))

end

section
variable {vc : BitVec 4} (hv : vcOf s p.val = some vc.toNat)
include hv

theorem exec_csiGenericShort_taken : exec (.csiGenericShort ⟨p, vc, .ok⟩) s =
    .next (updCam p.val (fun c => { c with shortCount := c.shortCount + 1, lastPacket := now s }) s) :=
  ((if_neg (by simp [hr])).trans (if_pos (headerCheck_taken (camRuns_inRange hr) hv))).trans
    (congrArg Host.Outcome.next (heard_upd _))

theorem exec_csiUnsupportedPacket_taken {dt : BitVec 6} (hd : acceptedType dt.toNat = false) :
    exec (.csiUnsupportedPacket ⟨p, vc, .ok⟩ dt) s = .next (discardType p.val (heard p.val s)) := by
  refine (if_neg (by simp [hr])).trans (if_pos ?_)
  rw [headerCheck_taken (camRuns_inRange hr) hv, hd]
  rfl

omit hv in
theorem exec_csiUnsupportedPacket_accepted {dt : BitVec 6} (hd : acceptedType dt.toNat = true) :
    exec (.csiUnsupportedPacket ⟨p, vc, .ok⟩ dt) s = .next (heard p.val s) := by
  refine (if_neg (by simp [hr])).trans (if_neg ?_)
  rw [hd, Bool.not_true, Bool.and_false]
  exact Bool.false_ne_true

theorem exec_csiLineStart_taken : exec (.csiLineStart p vc .ok) s =
    .next (updCam p.val (fun c => { c with frame := c.frame.map fun f => { f with openRow := some ([], 0) } })
      (closeRow p.val (heard p.val s))) :=
  (if_neg (by simp [hr])).trans (if_pos (headerCheck_taken (camRuns_inRange hr) hv))

theorem exec_csiLineEnd_taken : exec (.csiLineEnd p vc .ok) s = .next (closeRow p.val (heard p.val s)) :=
  (if_neg (by simp [hr])).trans (if_pos (headerCheck_taken (camRuns_inRange hr) hv))

end

theorem exec_csiFrameStart_taken {vc : BitVec 4} {k : IspCfg} (hk : (camAt s p.val).cfg = some k)
    (hv : k.vc = vc.toNat) : exec (.csiFrameStart p vc .ok) s = .next (startFrame p.val (heard p.val s)) := by
  refine (if_neg (by simp [hr])).trans (if_pos ?_)
  show (true && (camAt s p.val).cfg.map IspCfg.vc == some vc.toNat) = true
  rw [hk, ← hv]
  exact beq_self_eq_true _

end

/-! ### Types that are not taken, and rows -/

/-- R145: a packet of another type, as it is counted. -/
def typeCounted (p : Nat) (s : State) : State :=
  updCam p (fun c => { c with lastPacket := now s, cntDt := bump16 c.cntDt 1 }) s

section
variable {s : State} {p : Nat} (h : p < s.cams.length)
include h

theorem discardType_heard : discardType p (heard p s) =
    if (camAt s p).awaitFs = true then typeCounted p s else raiseCamOnce p 0x060A (typeCounted p s) := by
  have ht : updCam p (fun c => { c with cntDt := bump16 c.cntDt 1 }) (heard p s) = typeCounted p s := heard_upd _
  have ha : (camAt (typeCounted p s) p).awaitFs = (camAt s p).awaitFs := by rw [typeCounted, camAt_updCam_same h]
  rw [discardType, ht, frameEvent, ha]

theorem closeRow_heard_closed {f : Frame} (hf : (camAt s p).frame = some f) (ho : f.openRow = none) :
    closeRow p (heard p s) = heard p s :=
  closeRow_closed ((camAt_frame_heard h).trans hf) ho

/-- R154: a row that pixels came of is taken at the line end. -/
theorem closeRow_heard_open {f : Frame} {px : List Nat} (hf : (camAt s p).frame = some f)
    (ho : f.openRow = some (px, 0))
    (hp : px ≠ []) : closeRow p (heard p s) = takeRow p px 0 (updCam p (fun c => { c with
      lastPacket := now s, frame := some { f with openRow := none } }) s) := by
  have hf' : (camAt (heard p s) p).frame = some f := (camAt_frame_heard h).trans hf
  rw [closeRow, hf']
  dsimp only
  rw [ho]
  dsimp only
  rw [if_neg (by simpa using hp), heard_upd]
  congr 1
  refine updCam_congr ?_
  dsimp only
  rw [hf]
  rfl

end

/-! ### A frame start -/

section
variable {s : State} {p : Nat} {k : IspCfg}

/-- R154, R160: the frame start has been noted. -/
def startNoted (p : Nat) (s : State) : State :=
  updCam p
    (fun c => { c with
      awaitFs := false, discarding := false, testAt := none, lastFs := some (now s), raised := [] })
    (heard p s)

theorem halfRead_upd (f : Camera → Camera) (n : Nat) : halfRead? (updCam p f s) p n = halfRead? s p n := rfl

theorem startFrame_opens (h : p < s.cams.length) (hf : (camAt s p).frame = none) (hk : (camAt s p).cfg = some k)
    (ht : (camAt s p).testAt = none) (hh : halfRead? s p (camAt s p).frameCount = false) :
    startFrame p (heard p s) = updCam p (fun c => { c with nextLate := false }) (openFrame p k (startNoted p s)) := by
  have hc := camAt_heard h
  have hh' : halfRead? (startNoted p s) p (camAt s p).frameCount = false := hh
  have hfr : ¬(camAt (heard p s) p).frame.isSome = true := by simp [hc, hf]
  have hte : ¬(camAt (heard p s) p).testAt.isSome = true := by simp [hc, ht]
  have hcf : (camAt (heard p s) p).cfg = some k := by rw [hc, ← hk]
  have hct : (camAt (heard p s) p).frameCount = (camAt s p).frameCount := by rw [hc]
  unfold startFrame
  dsimp only
  rw [if_neg hfr, if_neg hte, hcf, hct]
  exact congrArg (updCam p _) (if_neg (Bool.eq_false_iff.1 hh'))

/-- R149, R160: the frame that opens at a frame start. -/
def openedFrame (p : Nat) (k : IspCfg) (s : State) : Frame :=
  { cfg := k, index := (camAt s p).frameCount, fsStamp := now s, late := (camAt s p).nextLate }

/-- The receiver in which a frame has opened. -/
def startedCam (p : Nat) (k : IspCfg) (s : State) (c : Camera) : Camera :=
  { c with
    lastPacket := now s, awaitFs := false, discarding := false, testAt := none, lastFs := some (now s), raised := [],
    frame := some (openedFrame p k s), frameCount := (c.frameCount + 1) % 2 ^ 32,
    half := (openedFrame p k s).index % 2, nextLate := false }

theorem openedFrame_noted (h : p < s.cams.length) : openedFrame p k (startNoted p s) = openedFrame p k s := by
  have hc : camAt (startNoted p s) p = { camAt s p with
      lastPacket := now s, awaitFs := false, discarding := false, testAt := none, lastFs := some (now s),
      raised := [] } := by
    rw [startNoted, heard_upd, camAt_updCam_same h]
  rw [openedFrame, hc]
  rfl

/-- R149, R154: a frame start that the port takes changes its receiver, the trace and its events. -/
theorem startFrame_traceOnly (h : p < s.cams.length) (hf : (camAt s p).frame = none) (hk : (camAt s p).cfg = some k)
    (ht : (camAt s p).testAt = none) (hh : halfRead? s p (camAt s p).frameCount = false) :
    TraceOnly (updCam p (startedCam p k s) s) (startFrame p (heard p s)) := by
  rw [startFrame_opens h hf hk ht hh]
  obtain ⟨tap, hif, cyc, ho⟩ : TraceOnly (updCam p (fun c => { c with
      frame := some (openedFrame p k (startNoted p s)), frameCount := (c.frameCount + 1) % 2 ^ 32,
      half := (openedFrame p k (startNoted p s)).index % 2, raised := [] }) (startNoted p s))
    (openFrame p k (startNoted p s)) := beginSource_traceOnly ..
  refine ⟨tap, hif, cyc, ?_⟩
  rw [ho, openedFrame_noted h]
  simp only [startNoted, heard, updCam, upd_upd]
  rfl

end

/-- Settles O35: each packet's header decides whether it is taken, and what is taken changes one receiver. -/
theorem receiverHearsPackets : Obligations.ReceiverHearsPackets := by
  intro s p
  refine ⟨fun h => if_pos h, fun h => if_neg (by simp [h]), fun hr => ⟨exec_csiPhySyncLost_between hr,
    fun f => exec_csiPhySyncLost_within hr, fun vc hv => ⟨exec_csiGenericShort_taken hr hv, fun dt hd ha => ?event,
      fun dt hd ha => ?silent, fun dt => exec_csiUnsupportedPacket_accepted hr⟩,
    fun vc hdr hn => ⟨exec_csiGenericShort_untaken hr hn, exec_csiUnsupportedPacket_untaken hr hn,
      exec_csiLineStart_untaken hr hn, exec_csiLineEnd_untaken hr hn, exec_csiFrameEnd_untaken hr hn⟩,
    fun vc k hk hv hf ht hh => ⟨_, openedFrame p.val k s, exec_csiFrameStart_taken hr hk hv, ?frameStart⟩,
    fun vc f hf hv ho => ?lineStart, fun vc f px hf hv ho hp => ?lineEnd⟩,
    fun hr => ⟨exec_csiPhySyncLost_idle hr, fun vc hdr => ⟨exec_csiFrameStart_idle hr vc hdr,
      exec_csiFrameEnd_idle hr vc hdr, exec_csiGenericShort_idle hr vc hdr⟩⟩⟩
  all_goals have hlen := camRuns_inRange hr
  case event =>
    rw [exec_csiUnsupportedPacket_taken hr hv hd, discardType_heard hlen, if_neg (by simp [ha])]
    rfl
  case silent =>
    rw [exec_csiUnsupportedPacket_taken hr hv hd, discardType_heard hlen, if_pos ha]
    rfl
  case frameStart =>
    obtain ⟨tap, hif, cyc, ho⟩ := startFrame_traceOnly hlen hf hk ht hh
    have hsame : camAt (startFrame p.val (heard p.val s)) p.val = startedCam p.val k s (camAt s p.val) := by
      rw [ho]
      exact camAt_updCam_same hlen
    rw [hsame]
    refine ⟨rfl, rfl, rfl, rfl, rfl, rfl, rfl, rfl, rfl, rfl, ?_⟩
    rw [ho]
    exact ⟨rfl, rfl, rfl, fun q hq => camAt_updCam_other hq⟩
  case lineStart =>
    have hf' : (camAt (heard p.val s) p.val).frame = some f := (camAt_frame_heard hlen).trans hf
    rw [exec_csiLineStart_taken hr ((vcOf_frame hf).trans (congrArg some hv)), closeRow_heard_closed hlen hf ho,
      heard_upd]
    refine congrArg Host.Outcome.next (updCam_congr ?_)
    dsimp only
    rw [hf]
    rfl
  case lineEnd =>
    rw [exec_csiLineEnd_taken hr ((vcOf_frame hf).trans (congrArg some hv)), closeRow_heard_open hlen hf ho hp]

end Sys2Proof.Machine
end

section
/-! Embedded data of a frame (R147, R149) whose buffer lies in the Assayer window: the write is an S2 detection (R336,
R341), and the reset that follows closes the frame. -/

namespace Sys2Proof.Machine

/-- An open frame whose embedded data goes to the Assayer window. -/
def assayerFrame : Frame := { cfg := { tCfg with emb := some (asyBase, 128) } }

/-- Receiver 7 with that frame open. -/
def embInAssayer : State := tCam (tOpen fun _ => assayerFrame)

/-- The device after a byte of embedded data. -/
def embTaken : State :=
  updCam 7 (fun c => { c with frame := c.frame.map fun f => { f with embOff := f.embOff + 1 } })
    (auxWrite 7 (asyBase, 128) 0 0 [1] (heard 7 embInAssayer))

theorem exec_csiEmbeddedData_assayer : exec (.csiEmbeddedData 7 3 ⟨.ok, true, [1]⟩) embInAssayer = .next embTaken := rfl

/-- R336, R341: the device is in reset, with no frame open. -/
theorem embTaken_reset : (camAt embTaken 7).frame.isNone = true := by decide +kernel

/-- Refutes O36: an embedded-data buffer in the Assayer window; its write enters S2, whose reset leaves no frame
open. -/
theorem not_frameDataTaken : ¬ Obligations.FrameDataTaken := by
  intro h
  obtain ⟨-, -, -, -, hemb, -⟩ := h embInAssayer 7 3 assayerFrame [1] true (by decide) rfl rfl
  obtain ⟨t, ht, hframe, -⟩ := hemb (asyBase, 128) rfl (by decide)
  have htaken : embTaken = t := Host.Outcome.next.inj (exec_csiEmbeddedData_assayer.symm.trans ht)
  have hnone := embTaken_reset
  rw [htaken] at hnone
  exact Option.some_ne_none _ (hframe.symm.trans (Option.isNone_iff_eq_none.1 hnone))

end Sys2Proof.Machine
end

section
/-! The ends of vision and Neural engine commands (R165, R166, R179, R237, R246, R249, R257, R259). -/

namespace Sys2Proof.Machine

/-! ### Vision engines -/

section
variable {s : State} {k : Fin 13} {c : VenCmd} {q : Pour} {p : Pattern} {n : NodeRec} {u : Nat}

theorem exec_venCommandEnd_idle (how : EngineEnd) (view : TokenView) (h : (nth s.ven.insts k.val {}).cmd = none) :
    exec (.venCommandEnd k how view) s = .next (idleToken k.val s) := by
  show execVenCommandEnd k how view s = _
  rw [execVenCommandEnd, h]

theorem exec_venCommandEnd_busy (how : EngineEnd) (view : TokenView) (hc : (nth s.ven.insts k.val {}).cmd = some c)
    (hq : venPour s c.pour = some (q, p)) (hn : nodeOf p.nodes c.node = some n)
    (hu : boundUnit s (n.cls - 1) k.val = some u) :
    exec (.venCommandEnd k how view) s = .next (venEnd k.val u c p q n how view s) := by
  show execVenCommandEnd k how view s = _
  rw [execVenCommandEnd, hc]
  dsimp only
  rw [hq]
  dsimp only
  rw [hn]
  dsimp only [Option.map_some, Option.getD_some]
  rw [hu]

theorem takeInjection_none (h : s.tst.inject = []) (u : Nat) (i : Injection) : takeInjection u i s = (false, s) := by
  rw [takeInjection, h]
  rfl

theorem injectedEnd_none (h : s.tst.inject = []) (u : Nat) (how : EngineEnd) :
    injectedEnd u how s = (how, false, s) := by
  rw [injectedEnd, takeInjection_none h]
  rfl

theorem injectedView_none (h : s.tst.inject = []) (u : Nat) : injectedView u s = (none, s) := by
  rw [injectedView, takeInjection_none h]
  rfl

theorem deniedEnd_admitted (h : venDenied s (unitId u) p q n = none) (how : EngineEnd) :
    deniedEnd u c p q n how s = (how, s) := by
  unfold deniedEnd
  split
  next ha => cases h.symm.trans ha
  · rfl

theorem stopOf_none (h : c.stop = none) : stopOf s p q n c = none := by
  rw [stopOf, h]
  exact if_neg Bool.false_ne_true

/-- R165, R166: a command that nothing has stopped, denied or injected a fault into ends once it has finished. -/
theorem venEnd_clean {view : TokenView} (hi : s.tst.inject = []) (hs : c.stop = none)
    (hd : venDenied s (unitId u) p q n = none)
      (hv : view.namesOther = none ∨ venFinished s p c q (venWhole s p q n) = false) :
    venEnd k.val u c p q n .ok view s = if venFinished s p c q (venWhole s p q n) then
      roleMoves (unitClass u)
        (leavePours (venTokenOut k.val u c n .ok (venWhole s p q n) true 0 view false s)) else s := by
  unfold venEnd
  rw [injectedEnd_none hi]
  dsimp only
  rw [deniedEnd_admitted hd]
  dsimp only
  rw [stopOf_none hs]
  dsimp only
  rw [injectedView_none hi]
  cases hf : venFinished s p c q (venWhole s p q n) with
  | false => rfl
  | true =>
    have hv := hv.resolve_right (by simp [hf])
    obtain ⟨other, side⟩ := view
    obtain rfl : other = none := hv
    rfl

theorem venFinished_early {w : VenPart} (h : now s < c.startedAt + 512) : venFinished s p c q w = false := by
  have hn : ¬c.startedAt + w.out.coarse + w.out.refine + 512 ≤ now s := by omega
  rw [venFinished, decide_eq_false hn, Bool.false_and]

end

/-! ### Neural commands -/

section
variable {s : State}

/-- The only command of the engine. -/
theorem neuAt_single {c : NeuCmd} (h : s.neu.cmds = [c]) : neuAt s c.pour c.node = some c := by
  rw [neuAt, h]
  simp

theorem updNeu_single {c : NeuCmd} (h : s.neu.cmds = [c]) (f : NeuCmd → NeuCmd) :
    updNeu c.pour c.node f s = { s with neu := { s.neu with cmds := [f c] } } := by
  rw [updNeu, h]
  simp [updFirst]

theorem neuAt_names {r : PourRef} {node : Nat} {c : NeuCmd} (h : neuAt s r node = some c) :
    c.pour = r ∧ c.node = node := by
  have := List.find?_some h
  simpa using this

/-- R240: what counting a result leaves of the engine's state, but for the events. -/
def resultCounted (c : NeuCmd) (t : TileResult) (s : State) : State :=
  updNeu c.pour c.node (fun d => { d with
      satRaised := d.satRaised || (decide (0 < t.sats) && !c.satRaised),
      fpRaised := d.fpRaised || (decide (0 < t.specials) && !c.fpRaised) })
    { s with neu := { s.neu with satCnt := satAdd 32 s.neu.satCnt t.sats, fpCnt := satAdd 32 s.neu.fpCnt t.specials } }

theorem countResult_events (c : NeuCmd) (t : TileResult) (s : State) :
    EventsOnly (resultCounted c t s) (countResult c t s) := by
  unfold countResult
  dsimp only
  refine eventsOnly_ite ?_ ?_
  · exact eventsOnly_trans (eventsOnly_ite (raise_events ..) (eventsOnly_refl _)) (raise_events ..)
  · exact eventsOnly_ite (raise_events ..) (eventsOnly_refl _)

end

/-! ### A tile -/

section
variable {s : State} {c : NeuCmd} {x : ArrayRun} {n : NodeRec} {l : Layer} {a u : Nat}

theorem countResult_single (hc : s.neu.cmds = [c]) (t : TileResult) :
    ∃ sat fp, (countResult c t s).neu.cmds = [{ c with satRaised := sat, fpRaised := fp }] := by
  obtain ⟨_, _, _, _, _, _, _, _, _, _, _, _, _, _, _, _, _, _, _, _, _, h⟩ := countResult_events c t s
  rw [h, resultCounted, updNeu_single (by exact hc)]
  exact ⟨_, _, rfl⟩

/-- R236, R240, R259: the state in which a tile's result has been counted. -/
def tileCounted (c : NeuCmd) (n : NodeRec) (l : Layer) (a u : Nat) (x : ArrayRun) (s : State) : State :=
  countResult c (tileResult (tileReader s u x) (active s) n l c.pour.seq (arrayPlace c a + x.tiles * c.arrays.length)) s

/-- R236, R259: the only array of the only command passes a tile to its output stage. -/
theorem passTile_single (hc : s.neu.cmds = [c]) (ha : c.arrays = [x]) (hx : x.array = a) :
    ∃ d y, (passTile c n l a u x s).neu.cmds = [d] ∧ d.arrays = [y] ∧ y.tiles = x.tiles + 1 ∧
      y.stages.length = x.stages.length + 1 ∧ d.physMask = setBit c.physMask (u - 18) ∧ d.layer = c.layer := by
  obtain ⟨sat, fp, hw⟩ : ∃ sat fp, (tileCounted c n l a u x s).neu.cmds =
    [{ c with satRaised := sat, fpRaised := fp }] :=
    countResult_single hc _
  unfold passTile
  dsimp only
  rw [← tileCounted]
  simp only [updNeu, updRun, hw, List.map_cons, List.map_nil, updAll, ha, hx, beq_self_eq_true, if_true, updFirst,
    Bool.and_self]
  exact ⟨_, _, rfl, rfl, rfl, List.length_append, rfl, rfl⟩

theorem passTile_keeps (c : NeuCmd) (n : NodeRec) (l : Layer) (a u : Nat) (x : ArrayRun) (s : State) :
    (passTile c n l a u x s).fgs.pours = s.fgs.pours ∧ (passTile c n l a u x s).ldl.grants = s.ldl.grants ∧
      (passTile c n l a u x s).neu.eccFix = s.neu.eccFix := by
  obtain ⟨_, _, _, _, _, _, _, _, _, _, _, _, _, _, _, _, _, _, _, _, _, h⟩ := countResult_events c
    (tileResult (tileReader s u x) (active s) n l c.pour.seq (arrayPlace c a + x.tiles * c.arrays.length)) s
  unfold passTile
  dsimp only
  rw [h]
  exact ⟨rfl, rfl, rfl⟩

/-- R237: the tile's corrected words are counted. -/
def tileEcc (k : Nat) (s : State) : State :=
  countSel 10 k { s with neu := { s.neu with eccFix := satAdd 32 s.neu.eccFix k } }

section
variable {a : Fin 16} (hc : s.neu.cmds = [c]) (ha : c.arrays = [x]) (hx : x.array = a.val)
  (hn : nodeOf (active s).nodes c.node = some n) (hu : arrayUnit s a.val = some u)
    (hl : layerNow (active s) n c = some l)
include hc ha hx hn hu hl

theorem exec_neuTileEnd_ok (k : Nat) : exec (.neuTileEnd a (.ok k)) s =
    if c.stop.isNone && tileReady s (active s) n l c a.val x then
      .next (endTile c n l a.val u x (.ok k) s) else .next s := by
  have hfc : s.neu.cmds.find? (fun c => c.arrays.any fun x => x.array == a.val) = some c := by simp [hc, ha, hx]
  have hfx : c.arrays.find? (fun x => x.array == a.val) = some x := by simp [ha, hx]
  show execNeuTileEnd a (.ok k) s = _
  rw [execNeuTileEnd, hfc]
  dsimp only
  rw [hn, hfx, hu]
  dsimp only
  rw [hl]

theorem exec_neuTileEnd_fault {how : TileEnd} (hh : ∀ e, how ≠ .ok e) (hb : x.begun = true) :
    exec (.neuTileEnd a how) s = .next (endTile c n l a.val u x how s) := by
  have hfc : s.neu.cmds.find? (fun c => c.arrays.any fun x => x.array == a.val) = some c := by simp [hc, ha, hx]
  have hfx : c.arrays.find? (fun x => x.array == a.val) = some x := by simp [ha, hx]
  show execNeuTileEnd a how s = _
  rw [execNeuTileEnd, hfc]
  dsimp only
  rw [hn, hfx, hu]
  dsimp only
  rw [hl]
  cases how with
  | ok e => exact absurd rfl (hh e)
  | memFault unc => exact if_pos hb
  | parity => exact if_pos hb
  | bufferEcc => exact if_pos hb

end

/-- R237: a tile that may read what it reads, and into which nothing is injected, is passed on. -/
theorem endTile_passes (hi : s.tst.inject = [])
    (hd : readDenied s (active s) l c.pour.seq (arrayPlace c a + x.tiles * c.arrays.length) (unitId u) = none)
      (k : Nat) :
    endTile c n l a u x (.ok k) s = passTile c n l a u x (tileEcc k s) := by
  have hd' : readDenied (tileEcc k s) (active (tileEcc k s)) l c.pour.seq (arrayPlace c a + x.tiles * c.arrays.length)
      (unitId u) = none := hd
  unfold endTile
  rw [takeInjection_none hi]
  dsimp only
  rw [if_neg Bool.false_ne_true]
  rw [← tileEcc, hd']

theorem tileReady_early (h : now s < x.nextAt + nclk (tileTime (active s) n l)) :
    tileReady s (active s) n l c a x = false := by
  rw [tileReady, decide_eq_false (Nat.not_le.2 h), Bool.and_false]

end

/-! ### Layer barriers -/

/-- Only what is sent to the peers differs. -/
def SentOnly (s t : State) : Prop := ∃ lnk, t = { s with lnk := lnk }

theorem sendLayer_sentOnly (p : Pattern) (n : NodeRec) (c : NeuCmd) (l : Layer) (s : State) :
    SentOnly s (sendLayer p n c l s) := by
  have fold (ps : List Nat) (f : Nat → List Nat) (s : State) :
      SentOnly s (ps.foldl (fun s i => sendPeer i (f i) s) s) := by
    induction ps generalizing s with
    | nil => exact ⟨_, rfl⟩
    | cons i ps ih =>
      obtain ⟨_, h⟩ := ih (sendPeer i (f i) s)
      exact ⟨_, h⟩
  unfold sendLayer
  split
  · split
    · exact ⟨_, rfl⟩
    · exact fold _ (fun _ => _) s
  · exact ⟨_, rfl⟩

/-- R237: the local barrier of a layer that the command has finished begins. -/
def barrierBegun (n : NodeRec) (c : NeuCmd) (s : State) : State :=
  if c.barrierAt.isNone && c.stop.isNone && layerFinished (active s) n c then
    match layerNow (active s) n c with
    | some l =>
      sendLayer (active s) n c l (updNeu c.pour c.node (fun c => { c with barrierAt := some (now s + 192) }) s)
    | none => s
  else s

theorem armBarrier_arms {s : State} {c : NeuCmd} {n : NodeRec} (hc : neuAt s c.pour c.node = some c)
    (hn : nodeOf (active s).nodes c.node = some n) : armBarrier c.pour c.node s =
      if c.exchangeAt.isNone && exchangeDone (barrierBegun n c s) (active s) n c then
        updNeu c.pour c.node (fun d => { d with exchangeAt := some (now (barrierBegun n c s)) }) (barrierBegun n c s)
      else barrierBegun n c s := by
  rw [armBarrier, hc, hn]
  rfl

theorem armBarrier_unknown {s : State} {c : NeuCmd} (hn : nodeOf (active s).nodes c.node = none) :
    armBarrier c.pour c.node s = s := by
  rw [armBarrier, hn]
  cases neuAt s c.pour c.node <;> rfl

/-- The only command has other times of its barrier; what is sent to the peers may differ. -/
def BarrierSet (c : NeuCmd) (s t : State) : Prop :=
  ∃ lnk b x, t = { s with lnk := lnk, neu := { s.neu with cmds := [{ c with barrierAt := b, exchangeAt := x }] } }

section
variable {s : State} {c : NeuCmd} {n : NodeRec} {l : Layer} (hc : s.neu.cmds = [c])
include hc

theorem barrierSet_refl : BarrierSet c s s := by
  refine ⟨s.lnk, c.barrierAt, c.exchangeAt, ?_⟩
  show s = { s with neu := { s.neu with cmds := [c] } }
  rw [← hc]

omit hc in
theorem barrierSet_exchange {t : State} (h : BarrierSet c s t) (e : Nat) :
    BarrierSet c s (updNeu c.pour c.node (fun d => { d with exchangeAt := some e }) t) := by
  obtain ⟨lnk, b, x, rfl⟩ := h
  exact ⟨lnk, b, some e, updNeu_single (c := { c with barrierAt := b, exchangeAt := x }) rfl _⟩

theorem barrierSet_ends (p : Pattern) (e : Nat) :
    BarrierSet c s (sendLayer p n c l (updNeu c.pour c.node (fun d => { d with barrierAt := some e }) s)) := by
  obtain ⟨lnk, h⟩ := sendLayer_sentOnly p n c l (updNeu c.pour c.node (fun d => { d with barrierAt := some e }) s)
  rw [h, updNeu_single hc]
  exact ⟨lnk, some e, c.exchangeAt, rfl⟩

theorem barrierBegun_barrierSet (n : NodeRec) : BarrierSet c s (barrierBegun n c s) := by
  unfold barrierBegun
  split
  · split
    · exact barrierSet_ends hc ..
    · exact barrierSet_refl hc
  · exact barrierSet_refl hc

theorem armBarrier_barrierSet : BarrierSet c s (armBarrier c.pour c.node s) := by
  cases hn : nodeOf (active s).nodes c.node with
  | none =>
    rw [armBarrier_unknown hn]
    exact barrierSet_refl hc
  | some n =>
    have hs := barrierBegun_barrierSet hc n
    rw [armBarrier_arms (neuAt_single hc) hn]
    generalize barrierBegun n c s = t at hs
    split
    · exact barrierSet_exchange hs _
    · exact hs

end

/-- Only Ladle's queue and events, the host interface's queues and what the ECLK keeps differ. -/
def RequestOnly (s t : State) : Prop := ∃ ldl hif cyc, t = { s with ldl := ldl, hif := hif, cyc := cyc }

theorem requestOnly_trans {s t u : State} (h : RequestOnly s t) (k : RequestOnly t u) : RequestOnly s u := by
  obtain ⟨_, _, _, rfl⟩ := h
  obtain ⟨_, _, _, rfl⟩ := k
  exact ⟨_, _, _, rfl⟩

theorem pushFifo_requestOnly (s : State) (code : EventCode) : RequestOnly s (pushFifo s code) := by
  unfold pushFifo
  split <;> exact ⟨_, _, _, rfl⟩

theorem signalMsix_requestOnly (s : State) (v : Nat) : RequestOnly s (signalMsix s v) := by
  unfold signalMsix sendMsix
  dsimp only
  repeat' split
  all_goals exact ⟨_, _, _, rfl⟩

/-- R87: the event of a refusal sets a bit of Ladle's own event register. -/
theorem raise_refused_requestOnly (s : State) : RequestOnly s (raise 0x0303 s) :=
  requestOnly_trans (t := noteSet 0x0303 (markEvt s 0x0303)) ⟨_, _, _, rfl⟩
    (requestOnly_trans (pushFifo_requestOnly ..) (signalMsix_requestOnly _ 3))

theorem requestGroup_requestOnly (l cls : Nat) (deadline : Option Nat) (serves : Option PourRef) (s : State) :
    RequestOnly s (requestGroup l cls deadline serves s) := by
  unfold requestGroup ladleRequest
  dsimp only
  split
  · exact ⟨_, _, _, rfl⟩
  · split
    · exact ⟨_, _, _, rfl⟩
    · exact raise_refused_requestOnly s

theorem openExchange_requestOnly (p : Pattern) (n : NodeRec) (c : NeuCmd) (s : State) :
    RequestOnly s (openExchange p n c s) := by
  have fold (ps : List Nat) (g : State → Nat → Nat) (d : Option Nat) (r : Option PourRef) (s : State) :
      RequestOnly s (ps.foldl (fun s i => requestGroup (g s i) 0 d r s) s) := by
    induction ps generalizing s with
    | nil => exact ⟨_, _, _, rfl⟩
    | cons i ps ih => exact requestOnly_trans (requestGroup_requestOnly ..) (ih _)
  unfold openExchange
  split
  · dsimp only
    split
    · exact ⟨_, _, _, rfl⟩
    · exact fold _ (fun s i => linkTo (chipIndex s) i) _ _ s
  · exact ⟨_, _, _, rfl⟩

/-- R237: the command at the start of its next layer. -/
def layerStarted (t : Nat) (c : NeuCmd) : NeuCmd :=
  { c with
    layer := c.layer + 1, barrierAt := none, exchangeAt := none,
    arrays := c.arrays.map fun x => { x with tiles := 0, filled := 0, nextAt := max x.nextAt t } }

section
variable {s : State} {c : NeuCmd} {n : NodeRec} {l : Layer} {view : TokenView}

/-- R237, R245: behind a layer that is not the last one the next one starts on every array. -/
theorem nextLayer_goesOn (hc : s.neu.cmds = [c]) (hn : c.node = n.nodeId)
    (hl : c.layer + 1 ≠ (layersOf (active s) n).length) :
    ∃ e, (nextLayer c.pour n view s).neu.cmds = [e] ∧ e.layer = c.layer + 1 ∧
      e.arrays = (layerStarted (now s) c).arrays ∧ (nextLayer c.pour n view s).mem = s.mem ∧
      (nextLayer c.pour n view s).ven = s.ven := by
  have hfound : neuAt s c.pour n.nodeId = some c := hn ▸ neuAt_single hc
  have hstart : updNeu c.pour n.nodeId (layerStarted (now s)) s =
      { s with neu := { s.neu with cmds := [layerStarted (now s) c] } } := hn ▸ updNeu_single hc _
  have hagain : neuAt (updNeu c.pour n.nodeId (layerStarted (now s)) s) c.pour n.nodeId =
    some (layerStarted (now s) c) := by
    rw [hstart, ← hn]
    exact neuAt_single (c := layerStarted (now s) c) rfl
  obtain ⟨ldl, hif, cyc, hopen⟩ := openExchange_requestOnly (active s) n (layerStarted (now s) c)
    (updNeu c.pour n.nodeId (layerStarted (now s)) s)
  have hnext : nextLayer c.pour n view s =
    armBarrier c.pour n.nodeId (openExchange (active s) n (layerStarted (now s) c)
      (updNeu c.pour n.nodeId (layerStarted (now s)) s)) := by
    rw [nextLayer, hfound]
    dsimp only
    rw [if_neg hl]
    show armBarrier c.pour n.nodeId (match neuAt (updNeu c.pour n.nodeId (layerStarted (now s)) s) c.pour n.nodeId with
      | some c => openExchange (active s) n c (updNeu _ _ (layerStarted (now s)) s)
      | none => _) = _
    rw [hagain]
  obtain ⟨lnk, b, x, harm⟩ := armBarrier_barrierSet (c := layerStarted (now s) c)
    (s := openExchange (active s) n (layerStarted (now s) c) (updNeu c.pour n.nodeId (layerStarted (now s)) s))
    (by rw [hopen, hstart])
  have hnode : (layerStarted (now s) c).node = n.nodeId := hn
  have hpour : (layerStarted (now s) c).pour = c.pour := rfl
  rw [hnode, hpour] at harm
  rw [hnext, harm, hopen, hstart]
  exact ⟨_, rfl, rfl, rfl, rfl, rfl⟩

theorem layerSums_none (h : l.split ≠ 2) : layerSums s c n l = {} := if_neg h

theorem countResult_empty (c : NeuCmd) (s : State) : countResult c {} s = resultCounted c {} s := rfl

theorem passBarrier_sumless (h : l.split ≠ 2) :
    passBarrier c n l view s = nextLayer c.pour n view (resultCounted c {} s) := by
  have hd : sumsDenied s c {} = none := by
    unfold sumsDenied
    split <;> rfl
  unfold passBarrier
  rw [layerSums_none h]
  dsimp only
  rw [hd]
  rfl

/-- R237: a barrier between two layers without sums. -/
theorem passBarrier_goesOn (hc : s.neu.cmds = [c]) (hn : c.node = n.nodeId) (h : l.split ≠ 2)
    (hl : c.layer + 1 < (layersOf (active s) n).length) :
    ∃ e, (passBarrier c n l view s).neu.cmds = [e] ∧ e.layer = c.layer + 1 ∧
      e.arrays.all (fun x => decide (x.tiles = 0)) = true ∧ (passBarrier c n l view s).mem = s.mem ∧
      (passBarrier c n l view s).ven = s.ven := by
  have hcount : (resultCounted c {} s).neu.cmds =
      [{ c with satRaised := c.satRaised || false, fpRaised := c.fpRaised || false }] := by
    rw [resultCounted, updNeu_single (by exact hc)]
    rfl
  obtain ⟨e, hcmds, hlayer, harrays, hmem, hven⟩ := nextLayer_goesOn (view := view) hcount hn (Nat.ne_of_lt hl)
  rw [passBarrier_sumless h]
  refine ⟨e, hcmds, hlayer, ?_, hmem, hven⟩
  rw [harrays]
  simp [layerStarted]

section
variable {seq : Word32} {d : Nat} (hn : nodeOf (active s).nodes n.nodeId = some n)
  (hc : neuAt s (PourRef.mk n.slot seq.toNat) n.nodeId = some c)
include hn hc

theorem exec_neuLayerBarrier_due (hl : layerNow (active s) n c = some l) (hd : layerEnd (active s) l c = some d) :
    exec (.neuLayerBarrier n.nodeId seq view) s =
      if c.goes (decide (c.layer + 1 = (layersOf (active s) n).length)) (now s) && decide (d ≤ now s) then
        .next (passBarrier c n l view s) else .next s := by
  show execNeuLayerBarrier n.nodeId seq view s = _
  rw [execNeuLayerBarrier, hn]
  dsimp only
  rw [hc]
  dsimp only
  rw [hl]
  dsimp only
  rw [hd]

theorem exec_neuLayerBarrier_passes (hl : layerNow (active s) n c = some l) (hd : layerEnd (active s) l c = some d)
    (hs : c.stop = none) (h : d ≤ now s) :
    exec (.neuLayerBarrier n.nodeId seq view) s = .next (passBarrier c n l view s) := by
  rw [exec_neuLayerBarrier_due hn hc hl hd, if_pos (by simp [NeuCmd.goes, hs, h])]

theorem exec_neuLayerBarrier_early (hl : layerNow (active s) n c = some l) (hd : layerEnd (active s) l c = some d)
    (h : now s < d) : exec (.neuLayerBarrier n.nodeId seq view) s = .next s := by
  rw [exec_neuLayerBarrier_due hn hc hl hd, if_neg (by simp [h])]

theorem exec_neuArrayStopped_ends {h : StopKind} (hs : c.stop = some h) : exec (.neuArrayStopped n.nodeId seq) s = .next
    (let e := neuEnd { c with arrays := c.arrays.map fun x => { x with stages := [] } } h.status
        (if h = .refused then 3 else c.detail) (TokenView.mk none false) (discardStages c none s)
     if h = .refused then abortPour 0x0303 c.pour e else e) := by
  show execNeuArrayStopped n.nodeId seq s = _
  rw [execNeuArrayStopped, hn]
  dsimp only
  rw [hc]
  dsimp only
  rw [hs]

end

end

/-- Settles O38: an engine's token is `venEnd`, a tile's end `endTile` and a barrier's `passBarrier`. -/
theorem enginesEndTheirCommands : Obligations.EnginesEndTheirCommands := by
  intro s n u view
  refine ⟨fun k c q p hc hq hn hu => ⟨fun how => exec_venCommandEnd_busy how view hc hq hn hu, fun hi hs hd =>
      ⟨fun hf hv => ?finished, fun hf => ?unfinished, fun ht => ?early⟩, fun stop => ?status,
        fun unc stop => ⟨rfl, rfl⟩⟩,
    fun k how => exec_venCommandEnd_idle how view, fun a c x l hc ha hx hn hu hl => ⟨fun e hs hi =>
      ⟨fun hr hd => ?tile, fun ht => ?tileEarly⟩, fun how hh hb => exec_neuTileEnd_fault hc ha hx hn hu hl hh hb⟩,
    fun seq c l d hn hc hl hd hs => ⟨exec_neuLayerBarrier_passes hn hc hl hd hs, exec_neuLayerBarrier_early hn hc hl hd,
      fun ht h2 hlast hone => ?barrier⟩,
    fun seq c h hn hc hs => exec_neuArrayStopped_ends hn hc hs⟩
  case finished =>
    rw [exec_venCommandEnd_busy .ok view hc hq hn hu, venEnd_clean hi hs hd (.inl hv), if_pos hf]
  case unfinished =>
    rw [exec_venCommandEnd_busy .ok view hc hq hn hu, venEnd_clean hi hs hd (.inr hf), if_neg (by simp [hf])]
  case early =>
    have hf := venFinished_early (s := s) (p := p) (q := q) (w := venWhole s p q n) ht
    rw [exec_venCommandEnd_busy .ok view hc hq hn hu, venEnd_clean hi hs hd (.inr hf), if_neg (by simp [hf])]
  case status =>
    cases stop with
    | none => rfl
    | some k => cases k <;> rfl
  case tile =>
    have hex : exec (.neuTileEnd a (.ok e)) s = .next (passTile c n l a.val u x (tileEcc e s)) := by
      rw [exec_neuTileEnd_ok hc ha hx hn hu hl, if_pos (by simp [hs, hr]), endTile_passes hi hd]
    obtain ⟨d, y, hcmds, hruns, htiles, hstages, hmask, hlayer⟩ :=
      passTile_single (n := n) (l := l) (u := u) (s := tileEcc e s) hc ha hx
    obtain ⟨hpours, hgrants, hecc⟩ := passTile_keeps c n l a.val u x (tileEcc e s)
    exact ⟨_, d, y, hex, hcmds, hruns, htiles, hstages, hmask, hlayer, passTile_mem .., hpours, hgrants, hecc⟩
  case tileEarly =>
    rw [exec_neuTileEnd_ok hc ha hx hn hu hl, tileReady_early ht, if_neg (by simp)]
  case barrier =>
    obtain ⟨e, hrest⟩ := passBarrier_goesOn (view := view) hone (neuAt_names hc).2 h2 hlast
    exact ⟨_, e, exec_neuLayerBarrier_passes hn hc hl hd hs ht, hrest⟩

end Sys2Proof.Machine
end

section
/-! Triggers open pours, the age monitor's origin, node selection and the drain (R211, R213, R214, R216, R217, R226,
R374). -/

namespace Sys2Proof.Machine

/-! ### A trigger of a timer graph -/

/-- R211: the timer graph's period has passed. -/
def timerPassed (slot period : Nat) (s : State) : State :=
  updSlot slot (fun x => { x with timerAt := (nth s.fgs.slots slot {}).timerAt + period }) s

theorem timerPassed_length {slot period : Nat} {s : State} (h : slot < s.fgs.slots.length) :
    slot < (timerPassed slot period s).fgs.slots.length := by
  rw [timerPassed, updSlot, upd_length]
  exact h

theorem timerPassed_nextSeq {slot period : Nat} {s : State} (h : slot < s.fgs.slots.length) :
    (nth (timerPassed slot period s).fgs.slots slot {}).nextSeq = (nth s.fgs.slots slot {}).nextSeq := by
  rw [timerPassed, updSlot, nth_upd_same _ {} h]

section
variable {s : State} {slot : Fin 8} {g : GraphRec} (hg : graphOf (active s) slot.val = some g)
include hg

theorem exec_fgsTimerTrigger_due (hk : g.triggerKind = 2)
    (ht : (nth s.fgs.slots slot.val {}).timerAt + g.triggerArg ≤ now s) :
    exec (.fgsTimerTrigger slot) s =
      .next (plainTrigger slot.val (now s) none (timerPassed slot.val g.triggerArg s)) := by
  show execFgsTimerTrigger slot s = _
  rw [execFgsTimerTrigger, hg]
  exact if_pos ⟨hk, ht⟩

theorem exec_fgsTimerTrigger_early (ht : now s < (nth s.fgs.slots slot.val {}).timerAt + g.triggerArg) :
    exec (.fgsTimerTrigger slot) s = .next s := by
  show execFgsTimerTrigger slot s = _
  rw [execFgsTimerTrigger, hg]
  exact if_neg fun h => Nat.not_lt.2 h.2 ht

end

section
variable {s : State} {slot stamp : Nat}

theorem plainTrigger_defers (h : defersNow s = true) : plainTrigger slot stamp none s =
    deferTrigger { source := ((graphOf (active s) slot).map sourceOf).getD (1, slot), stamp := stamp, buffers := [],
                   damaged := none, fsPair := (0, 0), frames := [], paired := false, owner := none } s := if_pos h

theorem deferTrigger_first {d : Deferred} (h : s.pat.deferred = []) :
    deferTrigger d s = { s with pat := { s.pat with deferred := [d] } } := by
  unfold deferTrigger
  rw [if_neg (by simp [h]), h]
  rfl

theorem plainTrigger_refuses (hd : defersNow s = false) (hr : refusing s = true) :
    plainTrigger slot stamp none s = raise 0x0807 s :=
  (if_neg (Bool.eq_false_iff.1 hd)).trans (if_pos hr)

theorem plainTrigger_accepts (hd : defersNow s = false) (hr : refusing s = false) :
    plainTrigger slot stamp none s = acceptTrigger slot stamp [] none s :=
  (if_neg (Bool.eq_false_iff.1 hd)).trans (if_neg (Bool.eq_false_iff.1 hr))

/-- R213: the pour_seq of a slot passes. -/
def seqPassed (slot : Nat) (s : State) : State :=
  updSlot slot (fun g => { g with
    nextSeq := ((nth s.fgs.slots slot {}).nextSeq + 1) % 2 ^ 32, lastSeq := (nth s.fgs.slots slot {}).nextSeq }) s

theorem seqPassed_nextSeq (h : slot < s.fgs.slots.length) : (nth (seqPassed slot s).fgs.slots slot {}).nextSeq =
    ((nth s.fgs.slots slot {}).nextSeq + 1) % 2 ^ 32 := by
  rw [seqPassed, updSlot, nth_upd_same _ {} h]

/-- R381: announcing a pour's records adds to the age monitor's announcements alone. -/
theorem announceIn_asy (p : Pattern) (r : PourRef) (fs : Nat) (s : State) :
    ∃ asy, announceIn p r fs s = { s with asy := asy } := by
  unfold announceIn
  split <;> exact ⟨_, rfl⟩

theorem dropTrigger_drops (slot fs : Nat) (s : State) :
    ∃ asy, dropTrigger slot fs s = raise 0x0801 { seqPassed slot s with asy := asy } := by
  obtain ⟨asy, h⟩ := announceIn_asy (active s) { slot := slot, seq := (nth s.fgs.slots slot {}).nextSeq } fs
    (seqPassed slot s)
  exact ⟨asy, congrArg (raise 0x0801) h⟩

/-! ### A pour opens -/

/-- R214: the pour that a trigger without frames opens. -/
def openedPour (slot fs : Nat) (s : State) : Pour :=
  { ref := { slot := slot, seq := (nth s.fgs.slots slot {}).nextSeq }, openAt := now s, fsOpen := fs, frames := [],
    owner := none, nodes := ((active s).nodes.filter fun n => n.slot == slot).map fun n => { node := n.nodeId } }

theorem clearFlags_flags (p : Pattern) (seq : Nat) (fs : List Nat) (s : State) : ∃ flags,
    fs.foldl (fun s f => if persistent p f then s else putFlag f seq 0 s) s =
      { s with fgs := { s.fgs with flags := flags } } := by
  induction fs generalizing s with
  | nil => exact ⟨_, rfl⟩
  | cons f fs ih =>
    rw [List.foldl_cons]
    split
    · exact ih s
    · obtain ⟨flags, h⟩ := ih (putFlag f seq 0 s)
      exact ⟨flags, h⟩

/-- R214, R421: the counters of the pour's parity are cleared. -/
def flagsCleared (slot : Nat) (s : State) : State :=
  clearDevFlags (active s) slot ((nth s.fgs.slots slot {}).nextSeq % 2)
    ((graphFlags (active s) slot).foldl (fun u f =>
      if persistent (active s) f then u else putFlag f (nth s.fgs.slots slot {}).nextSeq 0 u) (seqPassed slot s))

theorem flagsCleared_flags (slot : Nat) (s : State) : ∃ flags dev, flagsCleared slot s =
    { s with fgs := { (seqPassed slot s).fgs with flags := flags, devFlags := dev } } := by
  obtain ⟨flags, h⟩ := clearFlags_flags (active s) (nth s.fgs.slots slot {}).nextSeq (graphFlags (active s) slot)
    (seqPassed slot s)
  rw [flagsCleared, h]
  exact ⟨flags, _, rfl⟩

/-- R214: the pour joins those in flight. -/
def pourJoined (slot fs : Nat) (s w : State) : State :=
  { w with fgs := { w.fgs with pours := w.fgs.pours ++ [{ openedPour slot fs s with openAt := now w }] } }

/-- R214, R289, R381: the pour's tasks take their slots, and its records are announced. -/
def pourAnnounced (slot fs : Nat) (s : State) : State :=
  announce (openedPour slot fs s).ref fs
    (placeTasks (active s) (openedPour slot fs s).ref (pourJoined slot fs s (flagsCleared slot s)))

theorem openPour_eq (slot fs : Nat) (s : State) : openPour slot fs [] none s =
    if (openFlask (openedPour slot fs s).ref true (pourAnnounced slot fs s)).cyc.aborted.contains slot then
      abortPour 0x0806 (openedPour slot fs s).ref (openFlask (openedPour slot fs s).ref true (pourAnnounced slot fs s))
    else openFlask (openedPour slot fs s).ref true (pourAnnounced slot fs s) := rfl

theorem openFlask_none {r : PourRef} {s : State} (h : flaskGraph (active s) r.slot = false) (owner : Bool) :
    openFlask r owner s = s := if_pos (by simp [h])

/-- R214: what opening a pour of a graph that is no flask graph changes: the slot's numbering, the parity's counters,
the pours, the tasks and the announcements. -/
theorem openPour_opens {fs : Nat} (hf : flaskGraph (active s) slot = false) (ha : slot ∉ s.cyc.aborted) :
    ∃ flags dev tasks asy, openPour slot fs [] none s = { s with
      fgs := { (seqPassed slot s).fgs with
        flags := flags, devFlags := dev, pours := s.fgs.pours ++ [openedPour slot fs s] },
      sch := { s.sch with tasks := tasks }, asy := asy } := by
  obtain ⟨flags, dev, hflags⟩ := flagsCleared_flags slot s
  obtain ⟨asy, hasy⟩ : ∃ asy, pourAnnounced slot fs s =
      { placeTasks (active s) (openedPour slot fs s).ref (pourJoined slot fs s (flagsCleared slot s)) with
        asy := asy } :=
    announceIn_asy ..
  rw [hflags] at hasy
  rw [openPour_eq, hasy, openFlask_none (by exact hf)]
  have hc : ¬s.cyc.aborted.contains slot = true := by simpa using ha
  exact ⟨flags, dev, _, asy, if_neg hc⟩

end

section
variable {s : State} {slot : Nat}

theorem acceptTrigger_drops {fs : Nat} (h : 2 ≤ (slotPours s slot).length) :
    acceptTrigger slot fs [] none s = dropTrigger slot fs s := if_pos h

theorem acceptTrigger_opens {fs : Nat} (h : (slotPours s slot).length < 2) :
    acceptTrigger slot fs [] none s = openPour slot fs [] none s := if_neg (Nat.not_le.2 h)

end

/-! ### Origins and node selection -/

section
variable {s : State} {slot : Fin 8} {seq : Word32} {q : Pour} (hq : pourAt s (PourRef.mk slot.val seq.toNat) = some q)
include hq

theorem exec_ageOriginReturn_first (ho : q.origin = none) : exec (.ageOriginReturn slot seq) s =
    .next (updPour (PourRef.mk slot.val seq.toNat)
      (fun x => { x with origin := some (x.fsOpen - expMaxOf (active s) slot.val) }) s) := by
  show execAgeOriginReturn slot seq s = _
  rw [execAgeOriginReturn, hq]
  exact if_pos (by simp [ho])

theorem exec_ageOriginReturn_again (ho : q.origin.isSome = true) : exec (.ageOriginReturn slot seq) s = .next s := by
  show execAgeOriginReturn slot seq s = _
  rw [execAgeOriginReturn, hq]
  exact if_neg (by rw [Option.isNone_iff_eq_none]; exact Option.isSome_iff_ne_none.1 ho)

end

section
variable {s : State}

theorem exec_fgsNodeSelect_picks {ecc : Ecc} {c : Candidate} (he : ecc ≠ .uncorrectable)
    (hc : pickNode (active s) (startables s (active s)) = some c) :
    exec (.fgsNodeSelect ecc) s = .next (selectNode c (noteEcc ecc s)) := by
  show execFgsNodeSelect ecc s = _
  rw [execFgsNodeSelect, if_neg he, hc]

theorem exec_fgsNodeSelect_none {ecc : Ecc} (he : ecc ≠ .uncorrectable)
    (hc : pickNode (active s) (startables s (active s)) = none) : exec (.fgsNodeSelect ecc) s = .next s := by
  show execFgsNodeSelect ecc s = _
  rw [execFgsNodeSelect, if_neg he, hc]

theorem exec_fgsNodeSelect_uncorrectable : exec (.fgsNodeSelect .uncorrectable) s = .next (fgsTableError s) := by
  show execFgsNodeSelect .uncorrectable s = _
  rw [execFgsNodeSelect, if_pos rfl]

/-- R228: without a pour in flight an uncorrectable table error is only the detection. -/
theorem fgsTableError_idle (h : s.fgs.pours = []) : fgsTableError s = detectS1 0x0809 0 s := by
  have hp : pairBits [] = 0 := rfl
  simp only [fgsTableError, h, List.filterMap_nil, List.map_nil, List.foldl_nil, hp]

theorem drained_draining : drained (writeDrain true s) = true ↔ s.fgs.pours = [] := by
  show ((true || _) && s.fgs.pours.isEmpty) = true ↔ _
  rw [Bool.true_or, Bool.true_and, List.isEmpty_iff]

end

/-- Settles O39: a due trigger is `plainTrigger`, by whether a swap defers it, it is refused, dropped, or opens a
pour. -/
theorem triggersOpenPours : Obligations.TriggersOpenPours := by
  intro s slot g
  refine ⟨fun hg hk hl => ⟨fun ht => ⟨exec_fgsTimerTrigger_due hg hk ht, fun hr hd => ?refuses, fun hd hq => ?defers,
      fun hr hd h2 => ?drops, fun hr hd h2 hf ha => ?opens⟩, exec_fgsTimerTrigger_early hg⟩,
    fun seq q hq => ⟨exec_ageOriginReturn_first hq, exec_ageOriginReturn_again hq⟩,
    fun ecc c => exec_fgsNodeSelect_picks, fun ecc => exec_fgsNodeSelect_none, exec_fgsNodeSelect_uncorrectable,
    fun hp hn h6 => ⟨_, exec_fgsNodeSelect_uncorrectable, ?_⟩, fun who on => rfl, fun who => ⟨_, rfl, drained_draining⟩⟩
  case refuses =>
    have hx := exec_fgsTimerTrigger_due hg hk ht
    rw [plainTrigger_refuses (by exact hd) (by exact hr), timerPassed] at hx
    exact hx
  case defers =>
    have hx := exec_fgsTimerTrigger_due hg hk ht
    rw [plainTrigger_defers (by exact hd), deferTrigger_first (by exact hq)] at hx
    refine ⟨_, _, hx, rfl, ?_, rfl, rfl, rfl⟩
    show ((graphOf (active s) slot.val).map sourceOf).getD (1, slot.val) = sourceOf g
    rw [hg]
    rfl
  case drops =>
    obtain ⟨asy, hdrop⟩ := dropTrigger_drops slot.val (now s) (timerPassed slot.val g.triggerArg s)
    have hx := exec_fgsTimerTrigger_due hg hk ht
    rw [plainTrigger_accepts (by exact hd) (by exact hr), acceptTrigger_drops (by exact h2), hdrop] at hx
    refine ⟨_, hx, raise_fgs_pours .., ?_, raise_mem .., raise_sch_tasks ..⟩
    rw [raise_fgs_slots]
    exact (seqPassed_nextSeq (timerPassed_length hl)).trans (by rw [timerPassed_nextSeq hl])
  case opens =>
    obtain ⟨flags, dev, tasks, asy, hopen⟩ :=
      openPour_opens (s := timerPassed slot.val g.triggerArg s) (fs := now s) hf ha
    have hx := exec_fgsTimerTrigger_due hg hk ht
    rw [plainTrigger_accepts (by exact hd) (by exact hr), acceptTrigger_opens (by exact h2), hopen] at hx
    refine ⟨_, _, hx, rfl, congrArg (PourRef.mk slot.val) (timerPassed_nextSeq hl), rfl, rfl, rfl, rfl, ?_, ?_,
      rfl, rfl⟩
    · simp [openedPour]
    · exact (seqPassed_nextSeq (timerPassed_length hl)).trans (by rw [timerPassed_nextSeq hl])
  · rw [fgsTableError_idle hp]
    exact detectS1_enters 0x0809 0 s hn h6

end Sys2Proof.Machine
end

section
/-! Flags, deadlines and aborts within a pour, its retirement, and the loss of a graph (R156, R215, R219 to R227). -/

namespace Sys2Proof.Machine

/-- What every step of a fold keeps, the fold keeps. -/
theorem foldl_keeps {α β : Type} (view : State → β) {f : State → α → State} (hf : ∀ s a, view (f s a) = view s)
    (l : List α) (s : State) : view (l.foldl f s) = view s := by
  induction l generalizing s with
  | nil => rfl
  | cons a l ih => rw [List.foldl_cons, ih, hf]

/-! ### What the scheduler's steps leave of the pattern -/

theorem finishTask_pat (slot gen status : Nat) (s : State) : (finishTask slot gen status s).pat = s.pat := by
  unfold finishTask
  dsimp only
  repeat' split
  all_goals rfl

theorem makeReady_pat (slot gen : Nat) (s : State) : (makeReady slot gen s).pat = s.pat := by
  unfold makeReady
  split
  · rfl
  · split
    · split
      · exact finishTask_pat ..
      · rfl
    · rfl

theorem flagWaits_pat (s : State) : (flagWaits s).pat = s.pat := by
  unfold flagWaits
  refine foldl_keeps State.pat (fun s t => ?_) _ s
  rw [makeReady_pat]
  rfl

theorem settleNode_pat (r : PourRef) (n : Nat) (s : State) : (settleNode r n s).pat = s.pat := by
  unfold settleNode
  repeat' split
  all_goals rfl

theorem settleTasks_pat (s : State) : (settleTasks s).pat = s.pat := by
  unfold settleTasks
  exact foldl_keeps State.pat (fun s _ => foldl_keeps State.pat (fun s _ => settleNode_pat _ _ s) _ s) _ s

theorem wakeWaits_pat (s : State) : (wakeWaits s).pat = s.pat :=
  (settleTasks_pat (flagWaits s)).trans (flagWaits_pat s)

theorem active_congr {s t : State} (h : t.pat = s.pat) : active t = active s := by rw [active, active, h]

/-! ### The writes of a node and its sets -/

/-- The sequencer, the pattern and the time-stamp counter are as they were. -/
structure SequencerKept (s t : State) : Prop where
  fgs : t.fgs = s.fgs
  pat : t.pat = s.pat
  clock : t.clock = s.clock

theorem sequencerKept_refl (s : State) : SequencerKept s s := ⟨rfl, rfl, rfl⟩

theorem sequencerKept_trans {s t u : State} (h : SequencerKept s t) (k : SequencerKept t u) : SequencerKept s u :=
  ⟨k.fgs.trans h.fgs, k.pat.trans h.pat, k.clock.trans h.clock⟩

theorem sequencerKept_foldl {α : Type} {f : State → α → State} (hf : ∀ s a, SequencerKept s (f s a)) (l : List α)
    (s : State) :
    SequencerKept s (l.foldl f s) :=
  ⟨foldl_keeps State.fgs (fun s a => (hf s a).fgs) l s, foldl_keeps State.pat (fun s a => (hf s a).pat) l s,
    foldl_keeps State.clock (fun s a => (hf s a).clock) l s⟩

theorem physWrite_sequencer (s : State) (a : Nat) (bs : List Byte) : SequencerKept s (physWrite s a bs) := by
  unfold physWrite
  split <;> exact ⟨rfl, rfl, rfl⟩

theorem applyWrites_sequencer (id : Nat) (s : State) (ws : Writes) : SequencerKept s (applyWrites id s ws) := by
  refine sequencerKept_foldl (fun s w => ?_) ws s
  split
  · exact sequencerKept_refl s
  · exact physWrite_sequencer ..

theorem venFlush_sequencer (k u : Nat) (c : VenCmd) (units : List Writes) (upto : Nat) (s : State) :
    SequencerKept s (venFlush k u c units upto s) := by
  obtain ⟨hf, hp, hc⟩ := applyWrites_sequencer (unitId u) s ((units.take upto).drop c.written).flatten
  exact ⟨hf, hp, hc⟩

theorem confirmPosted_sequencer (n : Option NodeRec) (s : State) : SequencerKept s (confirmPosted n s) := by
  unfold confirmPosted
  repeat' split
  all_goals exact ⟨rfl, rfl, rfl⟩

section
variable {s u : State} {p : Pattern} {q : Pour} {n : NodeRec} {flag : Nat}

theorem visionSet_sequencer (h : visionSet s p q n flag = some u) : SequencerKept s u := by
  unfold visionSet at h
  split at h
  · cases h
    exact sequencerKept_refl s
  · dsimp only at h
    split at h
    · split at h
      · cases h
        exact sequencerKept_refl s
      · cases h
    · split at h
      · cases h
        exact sequencerKept_refl s
      · split at h
        · cases h
          exact venFlush_sequencer ..
        · cases h

theorem arraySet_sequencer (h : arraySet s p q n flag = some u) : SequencerKept s u := by
  unfold arraySet at h
  split at h
  · cases h
    exact sequencerKept_refl s
  · dsimp only at h
    split at h
    · cases h
      exact sequencerKept_refl s
    · cases h

/-- R220: the writes of a node leave the sequencer's counters. -/
theorem writesMade_sequencer (h : writesMade s p q n flag = some u) : SequencerKept s u := by
  unfold writesMade at h
  split at h
  · exact visionSet_sequencer h
  · split at h
    · exact arraySet_sequencer h
    · cases h
      exact confirmPosted_sequencer ..

end

theorem remoteSets_sequencer (p : Pattern) (node f : Nat) (q : Pour) (s : State) :
    SequencerKept s (remoteSets p node f q s) := by
  unfold remoteSets
  refine sequencerKept_foldl (fun s c => ?_) _ s
  exact ⟨rfl, rfl, rfl⟩

section
variable {s w : State} (h : SequencerKept s w)
include h

theorem flagValue_kept (f seq : Nat) : flagValue w f seq = flagValue s f seq := by
  rw [flagValue, flagValue, flagCtr, flagCtr, h.fgs, active_congr h.pat]

theorem producing_kept (r : PourRef) (node : Nat) : producing w r node = producing s r node := by
  rw [producing, producing, pourAt, pourAt, h.fgs, active_congr h.pat, now, now, h.clock]

end

/-! ### Sets of a flag -/

section
variable {s w : State} {rec : FlagRec} {flag node : Nat} {r : PourRef} (hf : flagOf (active w) flag = some rec)
include hf

theorem setFlag_foreign (hp : rec.producer ≠ node) : setFlag node flag (some r) 1 w = raise 0x0805 w := by
  unfold setFlag
  rw [hf]
  exact if_pos (by simp [hp])

theorem setFlag_counts (hp : rec.producer = node) (hr : producing w r node = true) :
    setFlag node flag (some r) 1 w = countSets rec r 1 w := by
  unfold setFlag
  rw [hf]
  exact if_neg (by simp [hp, hr])

end

theorem flagOf_flag {p : Pattern} {flag : Nat} {rec : FlagRec} (h : flagOf p flag = some rec) : rec.flag = flag := by
  have := List.find?_some h
  simpa using this

theorem fireFlag_none {s : State} {f stamp : Nat} {owner : Option (Nat × PourRef)}
    (h : triggeredBy (active s) f = none) :
    fireFlag f stamp owner s = s := by
  rw [fireFlag, h]

theorem countSets_overset {rec : FlagRec} {r : PourRef} {k : Nat} {w : State}
    (h : rec.sets < flagValue w rec.flag r.seq + k) : countSets rec r k w = abortPour 0x0804 r (raise 0x0804 w) :=
      if_pos h

/-- R219: a set within the flag's sets counts, and lets the waits go on. -/
theorem countSets_counts {rec : FlagRec} {r : PourRef} {k : Nat} {w : State}
    (h : flagValue w rec.flag r.seq + k ≤ rec.sets) (ht : triggeredBy (active w) rec.flag = none) :
    countSets rec r k w = wakeWaits (putFlag rec.flag r.seq (flagValue w rec.flag r.seq + k) w) := by
  refine (if_neg (Nat.not_lt.2 h)).trans (fireFlag_none ?_)
  rw [active_congr (wakeWaits_pat _)]
  exact ht

/-! ### A running node -/

section
variable {s : State} {slot : Fin 8} {seq : Word32} {q : Pour} {n : NodeRec} {m : NodeRun}
  (hq : pourAt s (PourRef.mk slot.val seq.toNat) = some q)

theorem find_mem {α : Type} {p : α → Bool} {l : List α} {a : α} (h : l.find? p = some a) : a ∈ l ∧ p a = true :=
  ⟨List.mem_of_find?_eq_some h, List.find?_some h⟩

section
variable (hm : (q.nodes.find? fun m => m.node == n.nodeId) = some m) (hr : m.st = .running)
include hq hm hr

theorem producing_running : producing s (PourRef.mk slot.val seq.toNat) n.nodeId = true := by
  obtain ⟨hmem, hnode⟩ := find_mem hm
  rw [producing, hq]
  refine List.any_eq_true.2 ⟨m, hmem, ?_⟩
  rw [hnode, hr]
  rfl

omit hq in
/-- R215: a running node keeps its pour in flight. -/
theorem canRetire_running : canRetire s q = false := by
  obtain ⟨hmem, -⟩ := find_mem hm
  have hn : q.nodes.all (nodeDone q.aborted.isSome) = false := by
    refine List.all_eq_false.2 ⟨m, hmem, ?_⟩
    rw [nodeDone, hr]
    exact Bool.false_ne_true
  rw [canRetire, hn, Bool.false_and]

end

theorem exec_engineFlagSet_lost {node flag : Nat} (hn : nodeOf (active s).nodes node = some n)
    (hl : setsLost s (some n) = true) : exec (.engineFlagSet node flag seq) s = .next s := by
  show execEngineFlagSet node flag seq s = _
  rw [execEngineFlagSet, hn]
  exact if_pos hl

section
variable {flag : Nat} (hn : nodeOf (active s).nodes n.nodeId = some n) (hslot : n.slot = slot.val)
  (hp : producing s (PourRef.mk slot.val seq.toNat) n.nodeId = true) (hl : setsLost s (some n) = false)
include hq hn hslot hp hl

theorem exec_engineFlagSet_unwritten (hw : writesMade s (active s) q n flag = none) :
    exec (.engineFlagSet n.nodeId flag seq) s = .next s := by
  show execEngineFlagSet n.nodeId flag seq s = _
  rw [execEngineFlagSet, hn]
  refine (if_neg (Bool.eq_false_iff.1 hl)).trans ?_
  rw [hslot, hq]
  refine (if_neg (by simp [hp])).trans ?_
  rw [hw]

theorem exec_engineFlagSet_written {u : State} (hw : writesMade s (active s) q n flag = some u) :
    exec (.engineFlagSet n.nodeId flag seq) s = .next (setFlag n.nodeId flag (some (PourRef.mk slot.val seq.toNat)) 1
      (remoteSets (active s) n.nodeId flag q u)) := by
  show execEngineFlagSet n.nodeId flag seq s = _
  rw [execEngineFlagSet, hn]
  refine (if_neg (Bool.eq_false_iff.1 hl)).trans ?_
  rw [hslot, hq]
  refine (if_neg (by simp [hp])).trans ?_
  rw [hw]

end

/-! ### Deadlines -/

section
variable {o : Nat} (hn : nodeOf (active s).nodes n.nodeId = some n)
  (hm : (q.nodes.find? fun m => m.node == n.nodeId) = some m) (hr : m.st = .running) (ha : q.aborted = none)
  (ho : q.origin = some o)
include hq hn hm hr ha ho

omit hr ha in
theorem exec_fgsDeadline_early (ht : now s < o + deadlineOf (active s).deadlines n.nodeId) :
    exec (.fgsDeadline slot seq n.nodeId) s = .next s := by
  have hd : now s < absDeadline (active s) q n.nodeId := by rw [absDeadline, ho]; exact ht
  show execFgsDeadline slot seq n.nodeId s = _
  rw [execFgsDeadline, hq, hn]
  dsimp only
  rw [hm]
  exact if_pos (by simp [hd])

theorem exec_fgsDeadline_due (ht : o + deadlineOf (active s).deadlines n.nodeId ≤ now s) :
    exec (.fgsDeadline slot seq n.nodeId) s = if inRefine s (active s) q n = true then
        .next (cutNode (PourRef.mk slot.val seq.toNat) n.nodeId s)
      else .next (abortPour 0x0802 (PourRef.mk slot.val seq.toNat) (raise 0x0802
        { stopNeuBy .deadline (active s) (PourRef.mk slot.val seq.toNat) m s with
          fgs := { (stopNeuBy .deadline (active s) (PourRef.mk slot.val seq.toNat) m s).fgs with
            dlMiss := satAdd 16 (stopNeuBy .deadline (active s)
              (PourRef.mk slot.val seq.toNat) m s).fgs.dlMiss 1 } })) := by
  have hd : ¬now s < absDeadline (active s) q n.nodeId := by rw [absDeadline, ho]; exact Nat.not_lt.2 ht
  show execFgsDeadline slot seq n.nodeId s = _
  rw [execFgsDeadline, hq, hn]
  dsimp only
  rw [hm]
  dsimp only
  rw [hr]
  exact if_neg (by simp [ha, ho, hd])

end

include hq in
theorem exec_pourRetire_stays (hc : canRetire s q = false) : exec (.pourRetire slot seq) s = .next s := by
  show execPourRetire slot seq s = _
  rw [execPourRetire, hq]
  exact if_neg (by simp [hc])

include hq in
theorem exec_pourRetire_retires (hc : canRetire s q = true) :
    exec (.pourRetire slot seq) s = .next (retirePour q s) := by
  show execPourRetire slot seq s = _
  rw [execPourRetire, hq]
  exact if_pos hc

include hq in
theorem pourAt_ref : q.ref = PourRef.mk slot.val seq.toNat := by
  simpa using (find_mem hq).2

end

/-! ### Aborts by keeper firmware -/

section
variable {s : State} {who : Agent}

/-- R227: the slots whose pours are aborted in this ECLK. -/
def abortNoted (slots : List Nat) (s : State) : State :=
  { s with cyc := { s.cyc with aborted := slots ++ s.cyc.aborted } }

theorem exec_fgsAbortWrite_keeper (h : agentKeeper s who = true) (mask : Byte) :
    exec (.fgsAbortWrite who mask) s = .next (abortSlots mask.toNat s) := if_pos h

theorem exec_fgsAbortWrite_other (h : agentKeeper s who = false) (mask : Byte) :
    exec (.fgsAbortWrite who mask) s = .next s := if_neg (by simp [h])

/-- R224: with one pour in flight only that one can be aborted. -/
theorem abortSlots_single {q : Pour} (h : s.fgs.pours = [q]) (mask : Nat) : abortSlots mask s =
    if ((List.range 8).filter (bitAt mask)).contains q.ref.slot then
      abortPour 0x0806 q.ref (abortNoted ((List.range 8).filter (bitAt mask)) s)
    else abortNoted ((List.range 8).filter (bitAt mask)) s := by
  unfold abortSlots
  dsimp only
  rw [h, ← abortNoted]
  by_cases hc : ((List.range 8).filter (bitAt mask)).contains q.ref.slot = true
  · rw [if_pos hc, List.filter_cons, if_pos hc, List.filter_nil]
    rfl
  · rw [if_neg hc, List.filter_cons, if_neg hc, List.filter_nil]
    rfl

theorem mask_contains (mask : Byte) (slot : Fin 8) :
    ((List.range 8).filter (bitAt mask.toNat)).contains slot.val = mask.getLsbD slot.val := by
  have hb : bitAt mask.toNat slot.val = mask.getLsbD slot.val := by
    rw [bitAt, BitVec.getLsbD, Nat.testBit_eq_decide_div_mod_eq]
  rw [Bool.eq_iff_iff]
  simp [List.mem_filter, hb]

end

/-- Settles O40: the set of a running node takes effect in the state of its writes, which leave the counters alone. -/
theorem poursRunAndEnd : Obligations.PoursRunAndEnd := by
  intro s slot seq q n m hq hn hslot hm hr ha
  have hp := producing_running hq hm hr
  refine ⟨fun flag rec hf => ⟨exec_engineFlagSet_lost hn, exec_engineFlagSet_unwritten hq hn hslot hp,
      fun u w hl hw hrem => ?_⟩, fun o ho => ⟨fun ht => ⟨fun hi => ?_, fun hi v hv => ?_⟩,
      exec_fgsDeadline_early hq hn hm ho⟩,
    exec_pourRetire_stays hq (canRetire_running hm hr), fun who mask => ⟨fun hk => exec_fgsAbortWrite_keeper hk mask,
      fun hk hone slots hslots => ?_, fun hk => exec_fgsAbortWrite_other hk mask⟩⟩
  · have hkept : SequencerKept s w := hrem ▸ sequencerKept_trans (writesMade_sequencer hw) (remoteSets_sequencer ..)
    have hfw : flagOf (active w) flag = some rec := by rw [active_congr hkept.pat, hf]
    have hpw : producing w (PourRef.mk slot.val seq.toNat) n.nodeId = true := by rw [producing_kept hkept, hp]
    have hv := flagValue_kept hkept flag seq.toNat
    have hx := exec_engineFlagSet_written hq hn hslot hp hl hw
    rw [← hrem] at hx
    obtain rfl := flagOf_flag hf
    refine ⟨fun hprod hsets htr => ?_, fun hprod hsets => ?_, fun hprod => ?_⟩
    · rw [hx, setFlag_counts hfw hprod hpw,
        countSets_counts (by rw [hv]; exact hsets) (by rw [active_congr hkept.pat]; exact htr), hv]
    · rw [hx, setFlag_counts hfw hprod hpw, countSets_overset (by rw [hv]; exact hsets)]
    · rw [hx, setFlag_foreign hfw hprod]
  · rw [exec_fgsDeadline_due hq hn hm hr ha ho ht, if_pos hi]
  · rw [exec_fgsDeadline_due hq hn hm hr ha ho ht, if_neg (by simp [hi]), hv]
  · have hx := exec_fgsAbortWrite_keeper hk mask
    rw [abortSlots_single hone, pourAt_ref hq, mask_contains, ← hslots] at hx
    exact ⟨fun hb => by rw [hx, if_pos hb]; rfl, fun hb => by rw [hx, if_neg (Bool.eq_false_iff.1 hb)]; rfl⟩

/-! ### Retirement -/

/-- R156: the runs of damaged frames of the ports end. -/
def endDamageRuns (ports : List Nat) (s : State) : State :=
  ports.foldl (fun s c => { s with cams := upd s.cams c fun k => { k with damageRun := 0, lostRaised := false } }) s

/-- Only the camera receivers differ. -/
def CamsOnly (s t : State) : Prop := ∃ cams, t = { s with cams := cams }

theorem endDamageRuns_camsOnly (ports : List Nat) (s : State) : CamsOnly s (endDamageRuns ports s) := by
  induction ports generalizing s with
  | nil => exact ⟨_, rfl⟩
  | cons c ports ih => exact (ih { s with cams := upd s.cams c _ }).imp fun cams h => h

/-- Ending the runs of further ports leaves a run that has ended. -/
theorem endDamageRuns_keeps (ports : List Nat) {s : State} {c : Nat} (h : (nth s.cams c {}).damageRun = 0) :
    (nth (endDamageRuns ports s).cams c {}).damageRun = 0 := by
  induction ports generalizing s with
  | nil => exact h
  | cons p ports ih =>
    refine ih ?_
    by_cases hc : c = p
    · obtain rfl := hc
      by_cases hl : c < s.cams.length
      · exact congrArg Camera.damageRun (nth_upd_same _ _ hl)
      · simp [nth, Nat.le_of_not_lt hl]
    · exact (congrArg Camera.damageRun (nth_upd_other _ _ _ hc)).trans h

theorem endDamageRuns_ends {ports : List Nat} {c : Nat} (hc : c ∈ ports) (s : State) :
    (nth (endDamageRuns ports s).cams c {}).damageRun = 0 := by
  induction ports generalizing s with
  | nil => cases hc
  | cons p ports ih =>
    rcases List.mem_cons.1 hc with rfl | hc
    · refine endDamageRuns_keeps ports ?_
      by_cases hl : c < s.cams.length
      · exact congrArg Camera.damageRun (nth_upd_same _ _ hl)
      · simp [nth, Nat.le_of_not_lt hl]
    · exact ih hc _

/-- R215: the pour leaves. -/
def pourLeft (q : Pour) (s : State) : State :=
  { s with fgs := { s.fgs with pours := s.fgs.pours.filter fun o => o.ref != q.ref } }

/-- R215, R225: the pour counts as the last good one of its slot. -/
def pourCounted (q : Pour) (s : State) : State :=
  let s := updSlot q.ref.slot (fun g =>
    { g with abortRun := 0, lostRaised := false, lastGood := some q.ref.seq, lastUnits := q.units }) s
  { s with asy := { s.asy with retired := (q.ref :: s.asy.retired).take 64 } }

/-- R222: a pour with a node cut waits for that node's end. -/
def pourLeaving (q : Pour) (s : State) : State :=
  if q.nodes.any fun m => m.st == NodeSt.cut then
    { s with fgs := { s.fgs with leaving := s.fgs.leaving ++ [q] } }
  else s

theorem retirePour_good {q : Pour} (h : q.aborted = none) (s : State) :
    retirePour q s = pourLeaving q (endDamageRuns (portsOf (active s) q.ref.slot) (pourCounted q (pourLeft q s))) := by
  unfold retirePour
  rw [h]
  rfl

/-- R225: what became of an aborted pour leaves the slots' counts. -/
theorem retirePour_aborted {q : Pour} (h : q.aborted.isSome = true) (s : State) :
    ∃ ports, retirePour q s = pourLeaving q (endDamageRuns ports (pourLeft q s)) := by
  obtain ⟨c, hc⟩ := Option.isSome_iff_exists.1 h
  unfold retirePour
  rw [hc]
  cases hd : damageCause c
  · refine ⟨portsOf (active s) q.ref.slot, ?_⟩
    dsimp only
    rw [hd]
    rfl
  · refine ⟨[], ?_⟩
    dsimp only
    rw [hd]
    rfl

/-- What a retirement does of which the statement speaks whatever became of the pour. -/
structure Retired (q : Pour) (s t : State) : Prop where
  pours : t.fgs.pours = s.fgs.pours.filter fun o => o.ref != q.ref
  leaving : t.fgs.leaving = s.fgs.leaving ++ (if (q.nodes.any fun m => m.st == NodeSt.cut) = true then [q] else [])
  mem : t.mem = s.mem
  sys : t.sys = s.sys
  hif : t.hif = s.hif
  sfp : t.sfp = s.sfp
  sch : t.sch = s.sch
  ven : t.ven = s.ven
  neu : t.neu = s.neu

/-- The pour's leaving adds to the list of those that leave and changes nothing else. -/
theorem pourLeaving_eq (q : Pour) (s : State) : pourLeaving q s = { s with fgs := { s.fgs with
    leaving := s.fgs.leaving ++ (if (q.nodes.any fun m => m.st == NodeSt.cut) = true then [q] else []) } } := by
  unfold pourLeaving
  split
  · rfl
  · rw [List.append_nil]

theorem pourLeaving_retired {q : Pour} {s u t : State} (h : CamsOnly u t) (hp : u.fgs.pours = (pourLeft q s).fgs.pours)
    (hl : u.fgs.leaving = s.fgs.leaving) (hrest : u = { s with fgs := u.fgs, asy := u.asy }) :
    Retired q s (pourLeaving q t) := by
  obtain ⟨cams, rfl⟩ := h
  rw [pourLeaving_eq]
  exact ⟨hp, congrArg (· ++ _) hl, (by rw [hrest]), (by rw [hrest]), (by rw [hrest]), (by rw [hrest]), (by rw [hrest]),
    (by rw [hrest]), (by rw [hrest])⟩

section
variable {s : State} {slot : Fin 8}

theorem exec_fgsGraphLost_lost (hr : max 1 s.fgs.abortLimit.toNat ≤ (nth s.fgs.slots slot.val {}).abortRun)
    (hl : (nth s.fgs.slots slot.val {}).lostRaised = false) : exec (.fgsGraphLost slot) s = .next (detectS1 0x0808
      (pairBits [((graphOf (active s) slot.val).map GraphRec.pairId).getD 0xFF])
      (updSlot slot.val (fun g => { g with lostRaised := true }) s)) := by
  show execFgsGraphLost slot s = _
  unfold execFgsGraphLost
  exact if_pos ⟨hr, hl⟩

theorem exec_fgsGraphLost_not (h : ¬(max 1 s.fgs.abortLimit.toNat ≤ (nth s.fgs.slots slot.val {}).abortRun ∧
    (nth s.fgs.slots slot.val {}).lostRaised = false)) : exec (.fgsGraphLost slot) s = .next s := by
  show execFgsGraphLost slot s = _
  unfold execFgsGraphLost
  exact if_neg h

end

/-- Settles O41: a retirement is the pour's leaving, with the counts of its slot and ports where it was not aborted. -/
theorem poursRetireAndGraphsAreLost : Obligations.PoursRetireAndGraphsAreLost := by
  intro s slot hs
  refine ⟨fun seq q hq => ⟨exec_pourRetire_stays hq, fun hc => ⟨_, exec_pourRetire_retires hq hc, ?_⟩⟩,
    fun hr hl hn h6 => ⟨_, exec_fgsGraphLost_lost hr hl, detectS1_enters _ _ _ hn h6⟩,
    fun hl => exec_fgsGraphLost_not fun h => Bool.false_ne_true (h.2.symm.trans hl),
    fun hr => exec_fgsGraphLost_not fun h => absurd h.1 (Nat.not_le.2 hr)⟩
  have href := pourAt_ref hq
  cases ha : q.aborted with
  | none =>
    rw [retirePour_good ha]
    have hcam := endDamageRuns_camsOnly (portsOf (active s) q.ref.slot) (pourCounted q (pourLeft q s))
    have hret := pourLeaving_retired (s := s) hcam rfl rfl rfl
    obtain ⟨hp, hl, hm, hy, hh, hf, hk, hv, hu⟩ := hret
    rw [← href]
    refine ⟨hp, hl, fun _ => ?_, fun h => (by simp at h), hm, hy, hh, hf, hk, hv, hu⟩
    have hport : ∀ c ∈ portsOf (active s) slot.val, (nth (endDamageRuns (portsOf (active s) q.ref.slot)
        (pourCounted q (pourLeft q s))).cams c {}).damageRun = 0 := fun c hc =>
      endDamageRuns_ends (by rw [href]; exact hc) _
    obtain ⟨cams, hcam⟩ := hcam
    rw [hcam] at hport ⊢
    rw [pourLeaving_eq]
    have hslot : nth (upd s.fgs.slots q.ref.slot fun g =>
        { g with abortRun := 0, lostRaised := false, lastGood := some q.ref.seq, lastUnits := q.units }) slot.val {} =
        { nth s.fgs.slots slot.val {} with
          abortRun := 0, lostRaised := false, lastGood := some q.ref.seq, lastUnits := q.units } := by
      rw [href]
      exact nth_upd_same _ _ hs
    exact ⟨congrArg GraphSlot.abortRun hslot, congrArg GraphSlot.lostRaised hslot,
      (congrArg GraphSlot.lastGood hslot).trans (by rw [href]), rfl, hport⟩
  | some c =>
    obtain ⟨ports, hx⟩ := retirePour_aborted (q := q) (by rw [ha]; rfl) s
    rw [hx]
    have hcam := endDamageRuns_camsOnly ports (pourLeft q s)
    obtain ⟨hp, hl, hm, hy, hh, hf, hk, hv, hu⟩ := pourLeaving_retired (s := s) hcam rfl rfl rfl
    rw [← href]
    refine ⟨hp, hl, fun h => (by simp at h), fun _ => ?_, hm, hy, hh, hf, hk, hv, hu⟩
    obtain ⟨cams, hcam⟩ := hcam
    rw [hcam, pourLeaving_eq]
    exact ⟨rfl, rfl⟩

end Sys2Proof.Machine
end

section
/-! Riser threads: issue, exception entry, branches, loops, modes, traps and special registers (R265 to R280). -/

namespace Sys2Proof.Machine

/-! ### A thread that loses its reservation -/

/-- R316, R417: without the reservations of a thread, here and in a peer's monitor. -/
def unreserved (t : Nat) (s : State) : State :=
  let u := updThread t (fun th => { th with remote := none }) s
  { u with rsr := { u.rsr with resvs := s.rsr.resvs.filter fun r => r.owner != { thread := t } } }

theorem updThread_id {s : State} {t : Nat} {f : Thread → Thread} (h : f (threadAt s t) = threadAt s t) :
    updThread t f s = s :=
  (updThread_congr (g := id) h).trans (by simp [updThread, upd])

/-- R272, R417: but for the message to the peer, the thread is without its reservations. -/
theorem dropResv_eq (t : Nat) (s : State) : ∃ lnk, dropResv t s = { unreserved t s with lnk := lnk } := by
  unfold dropResv
  cases h : (threadAt s t).remote with
  | none =>
    have hid : updThread t (fun th => { th with remote := none }) s = s :=
      updThread_id (by rw [← h])
    refine ⟨s.lnk, ?_⟩
    unfold unreserved
    rw [hid]
  | some n => exact ⟨_, rfl⟩

section
variable {s : State} {t : Nat} (ht : t < s.rsr.threads.length)

theorem unreserved_others {q : Nat} (hq : q ≠ t) : threadAt (unreserved t s) q = threadAt s q :=
  threadAt_updThread_other (s := s) hq

include ht in
theorem unreserved_thread : threadAt (unreserved t s) t = { threadAt s t with remote := none } :=
  threadAt_updThread_same (s := s) ht

theorem unreserved_resvs : ∀ r ∈ (unreserved t s).rsr.resvs, r.owner ≠ { thread := t } := by
  intro r hr
  have := (List.mem_filter.1 hr).2
  simpa using this

/-! ### Exception entry -/

/-- R277: outside a handler an exception is taken. -/
theorem takeException_outside (h : inHandler (threadAt s t) = false) (code detail addr epc : Nat) (ds : Bool) :
    ∃ lnk, takeException t code detail addr epc ds s = { updThread t
      (enterHandler s.rsr.vec.toNat code detail addr epc ds (now s + 6)) (unreserved t s) with
        lnk := lnk
        rsr := { (updThread t (enterHandler s.rsr.vec.toNat code detail addr epc ds (now s + 6))
          (unreserved t s)).rsr with
          excCnt := satAdd 32 s.rsr.excCnt 1 } } := by
  obtain ⟨lnk, hd⟩ := dropResv_eq t s
  refine ⟨lnk, ?_⟩
  unfold takeException
  rw [if_neg (by simp [h])]
  dsimp only
  rw [hd]
  rfl

/-- R279: within a handler it is a double fault. -/
theorem takeException_within (h : inHandler (threadAt s t) = true) (code detail addr epc : Nat) (ds : Bool) :
    takeException t code detail addr epc ds s = haltThread t (raise 0x0A01 s) := if_pos h

include ht in
theorem takeException_tookException (h : inHandler (threadAt s t) = false) (code detail addr epc : Nat) (ds : Bool) :
    TookException t code detail addr epc ds s (takeException t code detail addr epc ds s) := by
  obtain ⟨lnk, hx⟩ := takeException_outside h code detail addr epc ds
  rw [hx]
  have hr : t < (unreserved t s).rsr.threads.length := by
    simpa [unreserved, updThread] using ht
  constructor
  · refine (threadAt_updThread_same hr).trans ?_
    rw [unreserved_thread ht]
    rfl
  · intro q hq
    exact (threadAt_updThread_other hq).trans (unreserved_others hq)
  · exact unreserved_resvs
  · rfl
  · rfl
  · rfl

theorem fault_straight (h : (threadAt s t).branch = none) (code detail addr : Nat) :
    fault t code detail addr s = takeException t code detail addr (threadAt s t).pc false s := by
  rw [fault, h]

/-- R280: in a delay slot the branch is to run again. -/
theorem fault_delaySlot {b target : Nat} (h : (threadAt s t).branch = some (b, target)) (code detail addr : Nat) :
    fault t code detail addr s = takeException t code detail addr b true s := by
  rw [fault, h]

theorem fault_within (h : inHandler (threadAt s t) = true) (code detail addr : Nat) :
    fault t code detail addr s = haltThread t (raise 0x0A01 s) := by
  cases hb : (threadAt s t).branch with
  | none => rw [fault_straight hb, takeException_within h]
  | some b => rw [fault_delaySlot hb, takeException_within h]

end

/-! ### Issue -/

theorem issue_barred {s : State} {t : Nat} (h : mayIssue s t = false) (body : State → State) : issue t body s = s :=
  if_pos (by rw [h]; rfl)

/-- R332, R340: a fetch that is refused is a fault. -/
theorem issue_refused {s u : State} {t : Nat} {f : AccessFault} (h : mayIssue s t = true)
    (hc : checkAccess t (threadAt s t).keeper .execute (threadAt s t).pc 4 false
      (noteIssue t (updThread t (fun th => { th with lastPc := th.pc }) (countSel 7 1 s))) = (.error f, u))
    (body : State → State) : issue t body s = accessFault t 0x03 (threadAt s t).pc f u := by
  unfold issue
  rw [if_neg (by simp [h])]
  dsimp only
  rw [hc]

/-- The instructions of which the statement speaks are issued. -/
theorem exec_issues {c : Instr} {s : State} {t : Fin 256} (h : ∃ x gs off sr gd lvl len m cond,
    c ∈ [Instr.bcc t cond gs gd x, .bal t off, .jr t gs, .jalr t gs, .loopn t lvl gs len, .mode t m, .trap t len,
      .xret t,
      .mfs t gd sr, .mts t sr gs, .sealStores t, .ioseal t]) : ∃ body, exec c s = .next (issue t.val body s) := by
  obtain ⟨x, gs, off, sr, gd, lvl, len, m, cond, h⟩ := h
  simp only [List.mem_cons, List.not_mem_nil, or_false] at h
  rcases h with rfl | rfl | rfl | rfl | rfl | rfl | rfl | rfl | rfl | rfl | rfl | rfl <;> exact ⟨_, rfl⟩

/-- Settles O42: every one of the instructions is issued, and a fault is an exception entry. -/
theorem instructionsIssueOrFault : Obligations.InstructionsIssueOrFault := by
  intro s t c hc
  obtain ⟨body, hx⟩ := exec_issues (s := s) hc
  refine ⟨fun hm => by rw [hx, issue_barred hm], fun u hu => ?_, fun f u hm hf => by rw [hx, issue_refused hm hf],
    fun u code detail addr hm hi => ?_, fun u code detail addr hi => fault_within hi code detail addr⟩
  · refine ⟨fetched_thread hu, fun q hq => fetched_others hu hq, ?_⟩
    rw [fetched_walk hu]
    exact ⟨rfl, rfl, rfl, rfl⟩
  · have ht := threadAt_running (mayIssue_running hm)
    refine ⟨fun hb => ?_, fun b target hb => ?_⟩
    · rw [fault_straight hb]
      exact takeException_tookException ht hi ..
    · rw [fault_delaySlot hb]
      exact takeException_tookException ht hi ..

end Sys2Proof.Machine
end

section
/-! Branches, loops, modes, traps, returns and special registers of Riser threads (R270 to R280). -/

namespace Sys2Proof.Machine

section
variable {s u : State} {t : Fin 256} {th : Thread} (hu : Fetched t.val s u)

/-! ### Branches -/

theorem branchStarted_eq (target : Thread → Nat) (h : threadAt u t.val = th) :
    updThread t.val (startBranch (target th)) u =
      updThread t.val (fun x => { x with branch := some (x.pc, target x), pc := addr48 (x.pc + 4) }) u :=
  updThread_congr (by rw [h]; rfl)

/-- R271: with its link value in g31. -/
theorem branchLinked_eq (target : Thread → Nat) (h : threadAt u t.val = th) :
    updThread t.val (startBranch (target th)) (writeG t.val 31 (linkValue th) u) =
      updThread t.val (fun x => { x with
        branch := some (x.pc, target x), pc := addr48 (x.pc + 4),
        g := upd x.g 31 fun _ => BitVec.ofNat 64 (addr48 (x.pc + 8)) }) u := by
  refine (updThread_updThread u t.val _ _).trans (updThread_congr ?_)
  rw [h]
  rfl

section
variable (h : threadAt u t.val = th)
include hu h

theorem exec_bcc_barred (hb : branchBarred th = true) (cond : BitVec 3) (ga gb : BitVec 5) (off : BitVec 13) :
    exec (.bcc t cond ga gb off) s = .next (illegal t.val u) := by
  show Host.Outcome.next (issue t.val _ s) = _
  rw [issue_fetched hu, bccBody, h]
  cases branchCond cond (readG u t.val ga) (readG u t.val gb) with
  | none => rfl
  | some c => exact congrArg _ (if_pos hb)

theorem exec_bal_barred (hb : branchBarred th = true) (off : BitVec 26) :
    exec (.bal t off) s = .next (illegal t.val u) := by
  show Host.Outcome.next (issue t.val _ s) = _
  rw [issue_fetched hu, balBody, h]
  exact congrArg _ (if_pos hb)

theorem issue_jump_barred (hb : branchBarred th = true) (gs : BitVec 5) (link : Bool) :
    issue t.val (jumpBody t.val gs link) s = illegal t.val u := by
  rw [issue_fetched hu, jumpBody, h]
  exact if_pos (by rw [hb]; rfl)

section
variable (hb : branchBarred th = false)
include hb

theorem exec_bcc_goes {cond : BitVec 3} {ga gb : BitVec 5} {c : Bool}
    (hc : branchCond cond (readG u t.val ga) (readG u t.val gb) = some c) (off : BitVec 13) :
    exec (.bcc t cond ga gb off) s = .next (updThread t.val (fun x => { x with
      branch := some (x.pc, if c then offsetTarget x off.toInt else addr48 (x.pc + 8)),
      pc := addr48 (x.pc + 4) }) u) := by
  show Host.Outcome.next (issue t.val _ s) = _
  rw [issue_fetched hu, bccBody, h, hc]
  refine congrArg _ ((if_neg (by simp [hb])).trans ?_)
  exact branchStarted_eq (fun x => if c then offsetTarget x off.toInt else addr48 (x.pc + 8)) h

theorem exec_bal_goes (off : BitVec 26) : exec (.bal t off) s = .next (updThread t.val (fun x => { x with
    branch := some (x.pc, offsetTarget x off.toInt), pc := addr48 (x.pc + 4),
    g := upd x.g 31 fun _ => BitVec.ofNat 64 (addr48 (x.pc + 8)) }) u) := by
  show Host.Outcome.next (issue t.val _ s) = _
  rw [issue_fetched hu, balBody, h]
  refine congrArg _ ((if_neg (by simp [hb])).trans ?_)
  exact branchLinked_eq (fun x => offsetTarget x off.toInt) h

/-- R271: a jump to an address that is no multiple of 4 raises ALIGN. -/
theorem issue_jump_misaligned {gs : BitVec 5} (ha : (readG u t.val gs).toNat % 4 ≠ 0) {link : Bool}
    (hl : (link && gs == 31) = false) :
    issue t.val (jumpBody t.val gs link) s = fault t.val 0x06 0 (readG u t.val gs).toNat u := by
  rw [issue_fetched hu, jumpBody, h]
  rw [if_neg (by rw [hb, hl]; exact Bool.false_ne_true), if_pos ha]

theorem exec_jr_goes {gs : BitVec 5} (ha : (readG u t.val gs).toNat % 4 = 0) :
    exec (.jr t gs) s = .next (updThread t.val (fun x => { x with
      branch := some (x.pc, addr48 (readG u t.val gs).toNat), pc := addr48 (x.pc + 4) }) u) := by
  show Host.Outcome.next (issue t.val _ s) = _
  rw [issue_fetched hu, jumpBody, h]
  rw [if_neg (by simp [hb]), if_neg (by simp [ha])]
  exact congrArg _ (branchStarted_eq (fun _ => addr48 (readG u t.val gs).toNat) h)

theorem exec_jalr_goes {gs : BitVec 5} (ha : (readG u t.val gs).toNat % 4 = 0) (hg : gs ≠ 31) :
    exec (.jalr t gs) s = .next (updThread t.val (fun x => { x with
      branch := some (x.pc, addr48 (readG u t.val gs).toNat), pc := addr48 (x.pc + 4),
      g := upd x.g 31 fun _ => BitVec.ofNat 64 (addr48 (x.pc + 8)) }) u) := by
  show Host.Outcome.next (issue t.val _ s) = _
  rw [issue_fetched hu, jumpBody, h]
  rw [if_neg (by rw [hb, beq_eq_false_iff_ne.2 hg]; exact Bool.false_ne_true), if_neg (by simp [ha])]
  exact congrArg _ (branchLinked_eq (fun _ => addr48 (readG u t.val gs).toNat) h)

end

omit h in
/-- R271: JALR of g31 is reserved. -/
theorem exec_jalr_reserved : exec (.jalr t 31) s = .next (illegal t.val u) := by
  show Host.Outcome.next (issue t.val _ s) = _
  rw [issue_fetched hu, jumpBody]
  exact congrArg _ (if_pos (by rw [Bool.or_eq_true]; exact .inr rfl))

omit h in
/-- R271: condition 7 is reserved. -/
theorem exec_bcc_reserved (ga gb : BitVec 5) (off : BitVec 13) :
    exec (.bcc t 7 ga gb off) s = .next (illegal t.val u) := by
  show Host.Outcome.next (issue t.val _ s) = _
  rw [issue_fetched hu]
  rfl

/-! ### Loops -/

theorem exec_loopn_barred {lvl : BitVec 1} {len : BitVec 16}
    (hb : loopBarred th lvl len.toNat (addr48 (th.pc + 4 * len.toNat)) = true) (gs : BitVec 5) :
    exec (.loopn t lvl gs len) s = .next (illegal t.val u) := by
  show Host.Outcome.next (issue t.val _ s) = _
  rw [issue_fetched hu, loopnBody, h]
  exact congrArg _ (if_pos hb)

theorem exec_loopn_begins {lvl : BitVec 1} {len : BitVec 16}
    (hb : loopBarred th lvl len.toNat (addr48 (th.pc + 4 * len.toNat)) = false) (gs : BitVec 5) :
    exec (.loopn t lvl gs len) s = .next (updThread t.val (setLoop lvl (readG u t.val gs)
      (BitVec.ofNat 64 (addr48 (th.pc + 4 * len.toNat) + put 48 16 len.toNat))
      (if readG u t.val gs = 0 then addr48 (addr48 (th.pc + 4 * len.toNat) + 4) else addr48 (th.pc + 4))) u) := by
  show Host.Outcome.next (issue t.val _ s) = _
  rw [issue_fetched hu, loopnBody, h]
  exact congrArg _ (if_neg (by simp [hb]))

end

theorem loopBarred_empty (lvl : BitVec 1) (e : Nat) : loopBarred th lvl 0 e = true := by
  simp [loopBarred]

theorem addr48_lt (a : Nat) : addr48 a < 2 ^ 48 := Nat.mod_lt _ (by decide)

/-- R269: the register of a loop's end holds its end and its length. -/
theorem loopEnd_packed {e : Nat} (he : e < 2 ^ 48) (len : BitVec 16) :
    loopEnd (BitVec.ofNat 64 (e + put 48 16 len.toNat)) = e := by
  have := len.isLt
  rw [loopEnd, bits, put, BitVec.toNat_ofNat]
  omega

theorem loopLen_packed {e : Nat} (he : e < 2 ^ 48) (len : BitVec 16) :
    loopLen (BitVec.ofNat 64 (e + put 48 16 len.toNat)) = len.toNat := by
  have := len.isLt
  rw [loopLen, bits, put, BitVec.toNat_ofNat]
  omega

/-! ### Modes -/

section
variable (h : threadAt u t.val = th)
include hu h

theorem exec_mode_barred
    (hb : misplaced th = true ∨ activeEnd th [th.pc, addr48 (th.pc + 4), addr48 (th.pc + 8)] = true) (m : BitVec 1) :
    exec (.mode t m) s = .next (illegal t.val u) := by
  show Host.Outcome.next (issue t.val _ s) = _
  rw [issue_fetched hu, modeBody, h]
  exact congrArg _ (if_pos (by rwa [Bool.or_eq_true]))

section
variable (hm : misplaced th = false) (he : activeEnd th [th.pc, addr48 (th.pc + 4), addr48 (th.pc + 8)] = false)
include hm he

theorem exec_mode_changes {m : BitVec 1} (hk : m = 0 ∨ th.keeper = true) :
    exec (.mode t m) s = .next (updThread t.val (fun x => { x with
      shadow := 2, newMode := m == 1, pc := addr48 (x.pc + 4) }) u) := by
  show Host.Outcome.next (issue t.val _ s) = _
  rw [issue_fetched hu, modeBody, h]
  rw [if_neg (by simp [hm, he]), if_neg (by rcases hk with rfl | hk <;> simp [*])]

/-- R276: a change to keeper mode needs keeper mode. -/
theorem exec_mode_priv (hk : th.keeper = false) : exec (.mode t 1) s = .next (fault t.val 0x02 0 0 u) := by
  show Host.Outcome.next (issue t.val _ s) = _
  rw [issue_fetched hu, modeBody, h]
  rw [if_neg (by simp [hm, he]), if_pos (by simp [hk])]
  rfl

end

/-! ### Traps and returns -/

theorem exec_trap_barred (hm : misplaced th = true) (code : BitVec 16) :
    exec (.trap t code) s = .next (illegal t.val u) := by
  show Host.Outcome.next (issue t.val _ s) = _
  rw [issue_fetched hu, trapBody, h]
  exact congrArg _ (if_pos hm)

theorem exec_trap_within (hm : misplaced th = false) (hi : inHandler th = true) (code : BitVec 16) :
    exec (.trap t code) s = .next (fault t.val 0x07 0 0 u) := by
  show Host.Outcome.next (issue t.val _ s) = _
  rw [issue_fetched hu, trapBody, h]
  dsimp only
  rw [if_neg (by simp [hm]), if_pos hi]

theorem exec_trap_taken (hm : misplaced th = false) (hi : inHandler th = false) (code : BitVec 16) :
    exec (.trap t code) s = .next (takeException t.val 0x07 (code.toNat % 256) 0 (loopEval th th.pc).2 false
      (updThread t.val (fun _ => (loopEval th th.pc).1) u)) := by
  show Host.Outcome.next (issue t.val _ s) = _
  rw [issue_fetched hu, trapBody, h]
  dsimp only
  rw [if_neg (by simp [hm]), if_neg (by simp [hi])]

theorem exec_xret_barred (hm : misplaced th = true) : exec (.xret t) s = .next (illegal t.val u) := by
  show Host.Outcome.next (issue t.val _ s) = _
  rw [issue_fetched hu, xretBody, h]
  exact congrArg _ (if_pos hm)

theorem exec_xret_priv (hm : misplaced th = false) (hk : th.keeper = false) :
    exec (.xret t) s = .next (fault t.val 0x02 0 0 u) := by
  show Host.Outcome.next (issue t.val _ s) = _
  rw [issue_fetched hu, xretBody, h]
  rw [if_neg (by simp [hm]), if_pos (by simp [hk])]
  rfl

theorem exec_xret_returns (hm : misplaced th = false) (hk : th.keeper = true) :
    exec (.xret t) s = .next (updThread t.val (leaveHandler (now u + 4)) (dropResv t.val u)) := by
  show Host.Outcome.next (issue t.val _ s) = _
  rw [issue_fetched hu, xretBody, h]
  rw [if_neg (by simp [hm]), if_neg (by simp [hk])]

/-! ### Special registers -/

theorem exec_mfs_reads {sr : BitVec 5} (hs : sr.toNat < 7) (hk : th.keeper = true) (gd : BitVec 5) :
    exec (.mfs t gd sr) s = .next (updThread t.val advance (writeG t.val gd (readSpecial th sr) u)) := by
  show Host.Outcome.next (issue t.val _ s) = _
  rw [issue_fetched hu, mfsBody, h]
  rw [if_neg (Nat.not_le.2 hs), if_neg (by simp [hk])]
  rfl

theorem exec_mts_writes {sr : BitVec 5} (hs : sr.toNat < 7) (hk : th.keeper = true) (gs : BitVec 5) :
    exec (.mts t sr gs) s = .next (updThread t.val (fun x => advance (writeSpecial sr (readG u t.val gs) x)) u) := by
  show Host.Outcome.next (issue t.val _ s) = _
  rw [issue_fetched hu, mtsBody, h]
  rw [if_neg (Nat.not_le.2 hs), if_neg (by simp [hk]), complete, updThread_updThread]

theorem exec_mfs_priv {sr : BitVec 5} (hs : sr.toNat < 7) (hk : th.keeper = false) (gd : BitVec 5) :
    exec (.mfs t gd sr) s = .next (fault t.val 0x02 0 0 u) := by
  show Host.Outcome.next (issue t.val _ s) = _
  rw [issue_fetched hu, mfsBody, h]
  rw [if_neg (Nat.not_le.2 hs), if_pos (by simp [hk])]
  rfl

theorem exec_mts_priv {sr : BitVec 5} (hs : sr.toNat < 7) (hk : th.keeper = false) (gs : BitVec 5) :
    exec (.mts t sr gs) s = .next (fault t.val 0x02 0 0 u) := by
  show Host.Outcome.next (issue t.val _ s) = _
  rw [issue_fetched hu, mtsBody, h]
  rw [if_neg (Nat.not_le.2 hs), if_pos (by simp [hk])]
  rfl

end

include hu in
theorem exec_mfs_illegal {sr : BitVec 5} (hs : 7 ≤ sr.toNat) (gd : BitVec 5) :
    exec (.mfs t gd sr) s = .next (illegal t.val u) := by
  show Host.Outcome.next (issue t.val _ s) = _
  rw [issue_fetched hu, mfsBody]
  exact congrArg _ (if_pos hs)

include hu in
theorem exec_mts_illegal {sr : BitVec 5} (hs : 7 ≤ sr.toNat) (gs : BitVec 5) :
    exec (.mts t sr gs) s = .next (illegal t.val u) := by
  show Host.Outcome.next (issue t.val _ s) = _
  rw [issue_fetched hu, mtsBody]
  exact congrArg _ (if_pos hs)

end

/-- Settles O43: each instruction that its fetch admits takes its branch of the model. -/
theorem branchesLoopsAndModes : Obligations.BranchesLoopsAndModes := by
  intro s u t th hu h
  have ht := fetched_inRange hu
  refine ⟨fun hb => ⟨fun cond ga gb off c hc => exec_bcc_goes hu h hb hc off, exec_bal_goes hu h hb,
      fun gs ha => ⟨exec_jr_goes hu h hb ha, exec_jalr_goes hu h hb ha⟩,
      fun gs ha => ⟨congrArg _ (issue_jump_misaligned hu h hb ha rfl),
        fun hg => congrArg _ (issue_jump_misaligned hu h hb ha (link := true) (beq_eq_false_iff_ne.2 hg))⟩,
      exec_jalr_reserved hu, exec_bcc_reserved hu⟩,
    fun hb cond ga gb off off' gs => ⟨exec_bcc_barred hu h hb .., exec_bal_barred hu h hb _,
      congrArg _ (issue_jump_barred hu h hb gs false), congrArg _ (issue_jump_barred hu h hb gs true)⟩,
    fun lvl gs len hb => ⟨_, exec_loopn_begins hu h hb gs, ?_⟩,
    fun lvl gs len hb => exec_loopn_barred hu h hb gs,
    fun lvl gs => exec_loopn_barred hu h (loopBarred_empty ..) gs,
    fun m hb => exec_mode_barred hu h hb m,
    fun m hm he => ⟨exec_mode_changes hu h hm he, fun h1 => h1 ▸ exec_mode_priv hu h hm he⟩⟩
  rw [threadAt_updThread_same ht, h, setLoop]
  have he := addr48_lt (th.pc + 4 * len.toNat)
  by_cases hl : lvl = 0
  · rw [if_pos hl]
    exact ⟨rfl, fun _ => ⟨rfl, loopEnd_packed he len, loopLen_packed he len, rfl⟩,
      fun h1 => absurd (hl.symm.trans h1) (by decide), rfl, rfl⟩
  · rw [if_neg hl]
    exact ⟨rfl, fun h0 => absurd h0 hl, fun _ => ⟨rfl, loopEnd_packed he len, loopLen_packed he len, rfl⟩, rfl, rfl⟩

/-! ### What loop-end evaluation and entry keep -/

/-- R275: loop-end evaluation changes only the counts of the loops. -/
theorem loopEval_counts (th : Thread) (x : Nat) : ∃ a b, (loopEval th x).1 = { th with lc0 := a, lc1 := b } := by
  unfold loopEval
  dsimp only
  split
  · exact ⟨_, _, rfl⟩
  · split
    · exact ⟨_, _, rfl⟩
    · cases (th.lc1 != 0 && loopEnd th.le1 == x)
      all_goals
        repeat' split
        all_goals exact ⟨_, _, rfl⟩

/-- R277: entry saves the mode in emode's lowest bit and sets the handler bit. -/
theorem entryMode_bits (th : Thread) (ds : Bool) :
    (entryMode th ds).getLsbD 0 = th.keeper ∧ (entryMode th ds).getLsbD 1 = true := by
  have hsh : th.shadow % 4 < 4 := Nat.mod_lt _ (by decide)
  rw [entryMode, put, put, put, put, put]
  generalize (decide (th.shadow ≠ 0) && th.newMode) = b
  generalize hn : th.shadow % 2 ^ 2 = n
  simp only [BitVec.getLsbD_ofNat, Nat.testBit_eq_decide_div_mod_eq]
  cases th.keeper <;> simp [flagNat] <;> omega

/-- Settles O44: a trap is an exception entry behind loop-end evaluation; XRET restores what entry saved. -/
theorem trapsReturnsAndSpecialRegisters : Obligations.TrapsReturnsAndSpecialRegisters := by
  intro s u t th hu h
  have ht := fetched_inRange hu
  refine ⟨fun hm hi code => ⟨_, exec_trap_taken hu h hm hi code, ?_⟩, fun hm hi => exec_trap_within hu h hm hi,
    fun hm => ⟨exec_trap_barred hu h hm, exec_xret_barred hu h hm⟩,
    fun hm hk => ⟨_, exec_xret_returns hu h hm hk, ?_⟩,
    fun sr gd gs => ⟨fun hs hk => ⟨exec_mfs_reads hu h hs hk gd, exec_mts_writes hu h hs hk gs⟩,
      fun hs hk => ⟨exec_mfs_priv hu h hs hk gd, exec_mts_priv hu h hs hk gs⟩,
      fun hs => ⟨exec_mfs_illegal hu hs gd, exec_mts_illegal hu hs gs⟩⟩,
    exec_xret_priv hu h, fun v x => ⟨?_, ?_⟩⟩
  · obtain ⟨a, b, he⟩ := loopEval_counts th th.pc
    have hw : threadAt (updThread t.val (fun _ => (loopEval th th.pc).1) u) t.val = { th with lc0 := a, lc1 := b } := by
      rw [threadAt_updThread_same ht, he]
    obtain ⟨hthread, hothers, -, -, hmem, -⟩ := takeException_tookException
      (s := updThread t.val (fun _ => (loopEval th th.pc).1) u) (by simpa [updThread] using ht)
        (by rw [hw]; exact hi) 0x07 (code.toNat % 256) 0 (loopEval th th.pc).2 false
    rw [hw] at hthread
    obtain ⟨hb0, hb1⟩ := entryMode_bits { th with lc0 := a, lc1 := b } false
    rw [hthread]
    exact ⟨rfl, rfl, rfl, rfl, hb1, hb0, rfl, hmem, fun q hq => (hothers q hq).trans (threadAt_updThread_other hq)⟩
  · obtain ⟨lnk, hd⟩ := dropResv_eq t.val u
    have hr : t.val < (unreserved t.val u).rsr.threads.length := by simpa [unreserved, updThread] using ht
    have hx : threadAt (updThread t.val (leaveHandler (now u + 4)) (dropResv t.val u)) t.val =
        leaveHandler (now u + 4) { th with remote := none } := by
      rw [hd]
      refine (threadAt_updThread_same (s := unreserved t.val u) hr).trans ?_
      rw [unreserved_thread ht, h]
    rw [hx]
    refine ⟨rfl, rfl, ?_, rfl, rfl, rfl, rfl, dropResv_mem ..⟩
    simp [leaveHandler, inHandler]
  · simp [inHandler, writeSpecial]
  · show (v &&& 0x0000FFFFFFFFFFFC#64).toNat % 2 ^ 2 = 0
    rw [BitVec.toNat_and, Nat.and_mod_two_pow]
    exact Nat.and_zero _

end Sys2Proof.Machine
end

section
/-! Ordinary instructions, deliveries, releases and resets of Riser threads (R14, R269, R271, R281 to R287, R305). -/

namespace Sys2Proof.Machine

/-! ### Ordinary instructions -/

/-- R273, R275, R276: going on leaves the registers. -/
theorem advance_g (th : Thread) : (advance th).g = th.g := by
  unfold advance
  split
  · rfl
  · obtain ⟨a, b, he⟩ := loopEval_counts th th.pc
    dsimp only
    rw [he]
    unfold shadowStep
    split
    · rfl
    · split <;> rfl

section
variable {s u : State} {t : Fin 256}

theorem writeG_eq (t : Nat) (gd : BitVec 5) (v : Word64) (u : State) : writeG t gd v u =
    updThread t (fun th => { th with g := if gd = 0 then th.g else upd th.g gd.toNat fun _ => v }) u := by
  unfold writeG
  by_cases h : gd = 0
  · rw [if_pos h]
    refine (updThread_id ?_).symm
    rw [if_pos h]
  · rw [if_neg h]
    simp only [if_neg h]

theorem exec_ordinary_thread (ht : t.val < u.rsr.threads.length) (gd : BitVec 5) (v : Word64) :
    threadAt (complete t.val (writeG t.val gd v u)) t.val = advance { threadAt u t.val with
      g := if gd = 0 then (threadAt u t.val).g else upd (threadAt u t.val).g gd.toNat fun _ => v } := by
  rw [writeG_eq, complete, updThread_updThread, threadAt_updThread_same ht]

section
variable (ht : t.val < u.rsr.threads.length) (gd : BitVec 5) (v : Word64)
include ht

theorem complete_writeG_g : (threadAt (complete t.val (writeG t.val gd v u)) t.val).g =
    if gd = 0 then (threadAt u t.val).g else upd (threadAt u t.val).g gd.toNat fun _ => v := by
  rw [exec_ordinary_thread ht, advance_g]

theorem readG_complete_same (hg : (threadAt u t.val).g.length = 32) (h0 : gd ≠ 0) :
    readG (complete t.val (writeG t.val gd v u)) t.val gd = v := by
  rw [readG, if_neg h0, complete_writeG_g ht, if_neg h0]
  exact nth_upd_same _ _ (by rw [hg]; exact gd.isLt)

theorem readG_complete_other {r : BitVec 5} (hr : r ≠ gd) :
    readG (complete t.val (writeG t.val gd v u)) t.val r = readG u t.val r := by
  rw [readG, readG, complete_writeG_g ht]
  by_cases h0 : gd = 0
  · rw [if_pos h0]
  · rw [if_neg h0, nth_upd_other]
    exact fun h => hr (BitVec.eq_of_toNat_eq h)

end

variable (hu : Fetched t.val s u)
include hu

theorem exec_ordinary_fetched (op : OrdinaryOp) :
    exec (.ordinaryInstruction t op) s = .next (ordinaryBody t.val op u) := congrArg _ (issue_fetched hu _)

omit hu in
theorem thread_ofNat (t : Fin 256) : Fin.ofNat 256 t.val = t := Fin.ext (Nat.mod_eq_of_lt t.isLt)

theorem exec_ordinary_unlisted {w : Word32} (h : ∀ i, decodeRiser t w ≠ .listed i) :
    exec (.ordinaryInstruction t (.word w)) s = .next (illegal t.val u) := by
  rw [exec_ordinary_fetched hu]
  unfold ordinaryBody
  dsimp only
  rw [thread_ofNat]
  split
  · next i hi => exact absurd hi (h i)
  · rfl

theorem exec_ordinary_listed {w : Word32} {i : Instr} (h : decodeRiser t w = .listed i) :
    exec (.ordinaryInstruction t (.word w)) s = .next u := by
  rw [exec_ordinary_fetched hu]
  unfold ordinaryBody
  dsimp only
  rw [thread_ofNat, h]

end

/-! ### Deliveries -/

section
variable {s : State} {t : Fin 256} {d : AsyncDelivery} {ds : List AsyncDelivery}

theorem deliverable_outside {th : Thread} (h : deliverable th = true) : inHandler th = false := by
  simp only [deliverable, Bool.and_eq_true, Bool.not_eq_true'] at h
  exact h.1.1.1.1.2

theorem deliveryStands_free (h : d.task = none) : deliveryStands s d = true := by
  rw [deliveryStands, h]
  rfl

/-- R305: a delivery does not stand in the ECLK of its selection. -/
theorem deliveryStands_selected {k : Task} (h : d.task.bind (fun k => taskAt s k.1 k.2) = some k)
    (hk : k.deliveredAt = now s) : deliveryStands s d = false := by
  rw [deliveryStands, h]
  exact decide_eq_false (by rw [hk]; exact Nat.lt_irrefl _)

/-- R281: an event's delivery is an exception entry of the running thread. -/
theorem takeDelivery_free (h : d.task = none) : takeDelivery t.val d s =
    takeException t.val d.code.toNat d.detail.toNat 0 (threadAt s t.val).pc false
      (updThread t.val (fun th => { th with async := th.async.drop 1, st := .running }) s) := by
  unfold takeDelivery
  rw [h]
  rfl

section
variable (ha : (threadAt s t.val).async = d :: ds)
include ha

theorem threadAt_awaiting : t.val < s.rsr.threads.length := by
  rcases Nat.lt_or_ge t.val s.rsr.threads.length with h | h
  · exact h
  · simp [threadAt, nth, List.getD_eq_getElem?_getD, h] at ha

theorem exec_delivery_taken (hc : coresRun s = true) (hd : deliverable (threadAt s t.val) = true)
    (hs : deliveryStands s d = true) : exec (.asyncDeliveryTaken t) s = .next (takeDelivery t.val d s) := by
  show execAsyncDeliveryTaken t s = _
  unfold execAsyncDeliveryTaken
  dsimp only
  rw [ha]
  exact if_pos (by rw [hc, hd, hs]; rfl)

theorem exec_delivery_waits
    (h : coresRun s = false ∨ deliverable (threadAt s t.val) = false ∨ deliveryStands s d = false) :
    exec (.asyncDeliveryTaken t) s = .next s := by
  show execAsyncDeliveryTaken t s = _
  unfold execAsyncDeliveryTaken
  dsimp only
  rw [ha]
  exact if_neg (by rcases h with h | h | h <;> simp [h])

end

theorem exec_delivery_none (h : (threadAt s t.val).async = [] ∨ coresRun s = false) :
    exec (.asyncDeliveryTaken t) s = .next s := by
  cases ha : (threadAt s t.val).async with
  | nil =>
    show execAsyncDeliveryTaken t s = _
    unfold execAsyncDeliveryTaken
    dsimp only
    rw [ha]
  | cons d ds =>
    refine exec_delivery_waits ha (.inl (h.resolve_left ?_))
    rw [ha]
    exact List.cons_ne_nil _ _

end

/-! ### Releases -/

section
variable {s : State}

/-- R287: a list of threads released. -/
def releaseAll (ts : List Nat) (s : State) : State := ts.foldl (fun s t => releaseOne t s) s

/-- R287: a held thread starts in task mode, idle. -/
def freed (th : Thread) : Thread := if th.st == ThreadSt.held then { th with st := .idle, keeper := false } else th

theorem freed_held {th : Thread} (h : th.st = .held) : (freed th).st = .idle := by
  rw [freed, h]
  rfl

theorem freed_idle {th : Thread} (h : th.st = .idle) : (freed th).st = .idle := by
  rw [freed, h, if_neg (by decide), h]

theorem releaseOne_eq (t : Nat) (s : State) : releaseOne t s = updThread t freed s := rfl

/-- The release changes threads only. -/
theorem releaseAll_threads (ts : List Nat) (s : State) :
    ∃ l, l.length = s.rsr.threads.length ∧ releaseAll ts s = { s with rsr := { s.rsr with threads := l } } := by
  induction ts generalizing s with
  | nil => exact ⟨_, rfl, rfl⟩
  | cons t ts ih =>
    obtain ⟨l, hl, h⟩ := ih (releaseOne t s)
    exact ⟨l, hl.trans (upd_length ..), h⟩

theorem releaseAll_other {ts : List Nat} {q : Nat} (hq : q ∉ ts) (s : State) :
    threadAt (releaseAll ts s) q = threadAt s q := by
  induction ts generalizing s with
  | nil => rfl
  | cons t ts ih =>
    rw [List.mem_cons, not_or] at hq
    exact (ih hq.2 _).trans (threadAt_updThread_other hq.1)

theorem releaseAll_idle (ts : List Nat) {q : Nat} (hr : q < s.rsr.threads.length) (h : (threadAt s q).st = .idle) :
    (threadAt (releaseAll ts s) q).st = .idle := by
  induction ts generalizing s with
  | nil => exact h
  | cons t ts ih =>
    refine ih (s := releaseOne t s) (by simpa [releaseOne, updThread] using hr) ?_
    rw [releaseOne_eq]
    by_cases hq : q = t
    · rw [← hq, threadAt_updThread_same hr, freed_idle h]
    · rw [threadAt_updThread_other hq, h]

/-- R287: a held thread of the list is idle. -/
theorem releaseAll_frees {ts : List Nat} {q : Nat} (hq : q ∈ ts) (hr : q < s.rsr.threads.length)
    (h : (threadAt s q).st = .held) : (threadAt (releaseAll ts s) q).st = .idle := by
  induction ts generalizing s with
  | nil => cases hq
  | cons t ts ih =>
    have hlen : q < (releaseOne t s).rsr.threads.length := by simpa [releaseOne, updThread] using hr
    by_cases he : q = t
    · refine releaseAll_idle (s := releaseOne t s) ts hlen ?_
      rw [releaseOne_eq, ← he, threadAt_updThread_same hr, freed_held h]
    · refine ih (s := releaseOne t s) ((List.mem_cons.1 hq).resolve_left he) hlen ?_
      rw [releaseOne_eq, threadAt_updThread_other he, h]

/-- R287: the threads of a mask of a word. -/
def maskThreads (w : Nat) (mask : Word32) : List Nat :=
  ((List.range 32).filter fun (b : Nat) => mask.getLsbD b).map fun b => 32 * w + b

theorem mem_maskThreads {w b : Nat} (hb : b < 32) (mask : Word32) :
    32 * w + b ∈ maskThreads w mask ↔ mask.getLsbD b = true := by
  simp [maskThreads, List.mem_filter, hb]

theorem maskThreads_word {w q : Nat} {mask : Word32} (h : q ∈ maskThreads w mask) : q / 32 = w := by
  simp only [maskThreads, List.mem_map, List.mem_filter, List.mem_range] at h
  obtain ⟨b, ⟨hb, -⟩, rfl⟩ := h
  omega

/-- R287: the release is noted in its register and for a reset of this ECLK. -/
def releaseNoted (w : Nat) (mask : Word32) (s : State) : State :=
  { s with
    rsr := { s.rsr with rel := upd s.rsr.rel w fun r => r ||| mask }
    cyc := { s.cyc with released := maskThreads w mask ++ s.cyc.released } }

theorem releaseThreads_eq (w : Nat) (mask : Word32) (s : State) :
    releaseThreads w mask s = releaseAll (maskThreads w mask) (releaseNoted w mask s) := rfl

theorem exec_threadRelease_keeper {who : Agent} (h : agentKeeper s who = true) (word : Fin 8) (mask : Word32) :
    exec (.threadRelease who word mask) s = .next (releaseThreads word.val mask s) := if_pos h

theorem exec_threadRelease_refused {who : Agent} (h : agentKeeper s who = false) (word : Fin 8) (mask : Word32) :
    exec (.threadRelease who word mask) s = .next (refuseRsr who s) := if_neg (by simp [h])

theorem exec_threadReset_keeper {who : Agent} (h : agentKeeper s who = true) (t : Fin 256) :
    exec (.threadReset who t) s = .next (resetThread t.val s) := if_pos h

theorem exec_threadReset_refused {who : Agent} (h : agentKeeper s who = false) (t : Fin 256) :
    exec (.threadReset who t) s = .next (refuseRsr who s) := if_neg (by simp [h])

end

/-! ### Resets -/

section
variable {s : State} {t : Nat}

/-- R283: a thread held, with its exception state cleared. -/
def heldAgain (th : Thread) : Thread :=
  { th with
    st := .held, keeper := false, branch := none, shadow := 0, newMode := false, epc := 0, ecause := 0, emode := 0,
    ioOpen := false, ioUsed := false, waiting := .none, remote := none, async := [] }

/-- R279, R285: with no delivery and no task a thread has none to lose. -/
theorem loseTasks_none (ha : (threadAt s t).async = []) (hp : (nth s.sch.ports t {}).task = none) :
    loseTasks t s = s := by
  have hid : updThread t (fun th => { th with async := [] }) s = s := updThread_id (by rw [← ha])
  unfold loseTasks
  dsimp only
  rw [ha, hid, List.foldl_nil, hp]

/-- R283: what a reset leaves of a thread without deliveries and without a task, before a release of the same ECLK. -/
def heldState (t : Nat) (s : State) : State :=
  { updThread t heldAgain s with
    rsr := { (updThread t heldAgain s).rsr with resvs := s.rsr.resvs.filter fun r => r.owner != { thread := t } } }

theorem resetThread_free (hr : t < s.rsr.threads.length) (ha : (threadAt s t).async = [])
    (hp : (nth s.sch.ports t {}).task = none) : ∃ lnk, resetThread t s =
      if s.cyc.released.contains t then releaseOne t { heldState t s with lnk := lnk }
      else { heldState t s with
        lnk := lnk
        rsr := { (heldState t s).rsr with
          rel := upd s.rsr.rel (t / 32) fun r => r &&& ~~~(BitVec.ofNat 32 (2 ^ (t % 32))) } } := by
  obtain ⟨lnk, hd⟩ := dropResv_eq t s
  refine ⟨lnk, ?_⟩
  have hheld : updThread t (fun th => { th with
      st := .held, keeper := false, branch := none, shadow := 0, newMode := false, epc := 0, ecause := 0, emode := 0,
      ioOpen := false, ioUsed := false, waiting := .none }) { unreserved t s with lnk := lnk } =
      { heldState t s with lnk := lnk } := by
    have hth : upd (upd s.rsr.threads t fun th => { th with remote := none }) t (fun th => { th with
        st := .held, keeper := false, branch := none, shadow := 0, newMode := false, epc := 0, ecause := 0, emode := 0,
        ioOpen := false, ioUsed := false, waiting := .none }) = upd s.rsr.threads t heldAgain := by
      rw [upd_upd]
      refine upd_congr {} ?_
      have ha' : (nth s.rsr.threads t {}).async = [] := ha
      simp only [heldAgain, ha']
    unfold updThread unreserved
    dsimp only [updThread]
    rw [hth]
    rfl
  have hasync : (threadAt { heldState t s with lnk := lnk } t).async = [] :=
    congrArg Thread.async (threadAt_updThread_same (s := s) (f := heldAgain) hr)
  unfold resetThread
  dsimp only
  rw [hd, hheld, loseTasks_none hasync hp]
  rfl

end

/-- Settles O45: deliveries and traps are exception entries; releases and resets change the threads that they name. -/
theorem threadsMove : Obligations.ThreadsMove := by
  intro s t
  refine ⟨fun u hu hg => ⟨fun gd v => ⟨_, exec_ordinary_fetched hu _, readG_complete_same (fetched_inRange hu) gd v hg,
        fun r hr => readG_complete_other (fetched_inRange hu) gd v hr, rfl,
          exec_ordinary_thread (fetched_inRange hu) gd v,
        fun q hq => ?_, writeG_mem ..⟩,
      fun w hw => exec_ordinary_unlisted hu hw, fun w i hi => exec_ordinary_listed hu hi,
      exec_ordinary_fetched hu _, exec_ordinary_fetched hu _⟩,
    fun hm op => congrArg _ (issue_barred hm _),
    fun d ds ha hc => ⟨fun hd => ⟨exec_delivery_taken ha hc hd, fun hn => ?_⟩,
      fun h => exec_delivery_waits ha (.inr h), fun k hb hk => deliveryStands_selected hb hk⟩,
    exec_delivery_none, fun who word mask hk hlen hrel => ⟨_, exec_threadRelease_keeper hk word mask, ?_⟩,
    fun q word mask hk hr => ⟨by rw [exec_threadRelease_refused (by exact hk), refuseRsr_running hr],
      by rw [exec_threadReset_refused (by exact hk), refuseRsr_running hr]⟩,
    fun who word mask hk hq => ⟨by rw [exec_threadRelease_refused hk, refuseRsr_other hq s],
      by rw [exec_threadReset_refused hk, refuseRsr_other hq s]⟩,
    fun who hk => exec_threadReset_keeper hk t,
    fun who hk hlen ha hp => ⟨_, exec_threadReset_keeper hk t, ?_⟩⟩
  · show threadAt (complete t.val (writeG t.val gd v u)) q = _
    rw [writeG_eq, complete, threadAt_updThread_other hq, threadAt_updThread_other hq]
  · have hr := threadAt_awaiting ha
    refine ⟨_, exec_delivery_taken ha hc hd (deliveryStands_free hn), ?_⟩
    rw [takeDelivery_free hn]
    have hw : threadAt (updThread t.val (fun th => { th with async := th.async.drop 1, st := .running }) s) t.val =
        { threadAt s t.val with async := ds, st := .running } := by
      rw [threadAt_updThread_same hr, ha]
      rfl
    obtain ⟨hthread, hothers, -, -, hmem, -⟩ := takeException_tookException
      (s := updThread t.val (fun th => { th with async := th.async.drop 1, st := .running }) s)
      (by simpa [updThread] using hr) (by rw [hw]; exact (deliverable_outside hd :)) d.code.toNat d.detail.toNat 0
      (threadAt s t.val).pc false
    rw [hthread, hw]
    exact ⟨rfl, rfl, rfl, rfl, rfl, rfl, fun q hq => (hothers q hq).trans (threadAt_updThread_other hq), hmem⟩
  · have hlt : ∀ b, b < 32 → 32 * word.val + b < (releaseNoted word.val mask s).rsr.threads.length := fun b hb => by
      have := word.isLt
      show _ < s.rsr.threads.length
      omega
    obtain ⟨l, -, hx⟩ := releaseAll_threads (maskThreads word.val mask) (releaseNoted word.val mask s)
    rw [releaseThreads_eq]
    refine ⟨?_, fun b hb hst => ?_, fun q hq => ?_, ?_, ?_⟩
    · rw [hx]
      exact nth_upd_same _ _ (by rw [hrel]; exact word.isLt)
    · cases hm : mask.getLsbD b with
      | true =>
        exact releaseAll_frees ((mem_maskThreads hb mask).2 hm) (hlt b hb) hst
      | false =>
        rw [releaseAll_other (fun h => by rw [(mem_maskThreads hb mask).1 h] at hm; cases hm)]
        exact hst
    · exact releaseAll_other (fun h => hq (maskThreads_word h)) _
    · rw [hx]
      rfl
    · rw [hx]
      rfl
  · have hr : t.val < s.rsr.threads.length := by rw [hlen]; exact t.isLt
    obtain ⟨lnk, hx⟩ := resetThread_free hr ha hp
    have hth : threadAt (heldState t.val s) t.val = heldAgain (threadAt s t.val) := threadAt_updThread_same hr
    have hoth : ∀ q, q ≠ t.val → threadAt (heldState t.val s) q = threadAt s q := fun q hq =>
      threadAt_updThread_other hq
    rw [hx]
    by_cases hrel : t.val ∈ s.cyc.released
    · rw [if_pos (List.contains_iff_mem.2 hrel), if_pos hrel, releaseOne_eq]
      have hlt : t.val < (State.rsr { heldState t.val s with lnk := lnk }).threads.length := by
        simpa [heldState, updThread] using hr
      have hfree : threadAt (updThread t.val freed { heldState t.val s with lnk := lnk }) t.val =
          freed (heldAgain (threadAt s t.val)) := (threadAt_updThread_same hlt).trans (congrArg freed hth)
      rw [hfree]
      exact ⟨rfl, rfl, rfl, rfl, rfl, rfl, fun q hq => (threadAt_updThread_other hq).trans (hoth q hq),
        unreserved_resvs, rfl, rfl⟩
    · rw [if_neg (by simpa using hrel), if_neg hrel]
      refine ⟨congrArg Thread.st hth, congrArg Thread.keeper hth, congrArg Thread.epc hth, congrArg Thread.ecause hth,
        congrArg Thread.emode hth, (congrArg Thread.g hth :), hoth, unreserved_resvs, rfl, rfl⟩

end Sys2Proof.Machine
end

section
/-! Stores of threads and of peers that reach Crucible (R310, R416). The model writes them through PAT's own access,
so a region that admits the writer and not PAT (R337) admits the store at its check and then denies its write. -/

namespace Sys2Proof.Machine

/-- Crucible with one region, which admits the initiator IDs of a range and no other. -/
def onlyFor (lo hi : BitVec 10) (s : State) : State :=
  { s with fwl := { s.fwl with
    regions := [{
      base := 0x20000, limit := 0x237FF, idLo := lo, idHi := hi, en := true, r := true, w := true, x := true }] } }

/-! ### A store of a thread -/

/-- A store of one byte, 1, at the base of Crucible. -/
def byteStore : QueuedStore := ⟨0x20000000, 0x20000000, 1, 1, false, false, false⟩

/-- Thread 0 with that store queued; the region admits all threads. -/
def storeWaits : State := onlyFor 0 0xFF (updThread 0 (fun th => { th with stores := [byteStore] }) tUp)

/-- The region admits the store's own access. -/
theorem storeWaits_admitted : firewall storeWaits 0 false .write byteStore.paddr byteStore.bytes = none := by decide

/-- The device after the store is made visible. -/
def storeShown : State := releaseStore 0 byteStore .clean storeWaits

theorem exec_storeVisible_shown : exec (.storeVisible 0 .clean) storeWaits = .next storeShown := by
  show execStoreVisible 0 .clean storeWaits = _
  have hunseen : unseen storeWaits (0 : Fin 256).val = [byteStore] := by decide
  unfold execStoreVisible
  rw [hunseen]
  exact if_pos (by decide)

/-- R340: the write was denied: the byte is what it was. -/
theorem storeShown_unwritten : storeShown.mem.readByte 0x20000000 = 0 := by decide +kernel

/-- Refutes O46: a store in a region of the threads is made visible and leaves memory as it is. -/
theorem not_loadsStoresAndReservations : ¬ Obligations.LoadsStoresAndReservations := by
  intro h
  obtain ⟨-, -, -, -, -, -, -, -, -, -, -, -, hvisible, -⟩ := h storeWaits storeWaits storeWaits 0 0 (by decide)
  obtain ⟨w, hw, hmem, -⟩ := hvisible byteStore [] (by decide) (by decide) (.inl (by decide))
  have hshown : storeShown = w := Host.Outcome.next.inj (exec_storeVisible_shown.symm.trans hw)
  have hbyte := storeShown_unwritten
  rw [hshown, hmem] at hbyte
  exact absurd hbyte (by decide)

/-! ### A write of a peer -/

/-- A device whose link to chip 1 is trained; the region admits that chip alone. -/
def peerWrites : State := onlyFor 0x1D0 0x1D0 tPeerUp

/-- What the check of the peer's write leaves. -/
def peerChecked : State :=
  (checkAccess (agentId (.peer 1 0)) (decide ((0 : Fin 5).val = 1)) .write 0x20000000 1 false peerWrites).2

theorem peerWrites_admitted : checkAccess (agentId (.peer 1 0)) (decide ((0 : Fin 5).val = 1)) .write
    (0x20000000 : BitVec 48).toNat [(1 : Byte)].length false peerWrites = (.ok 0x20000000, peerChecked) :=
  admitted_of (by decide)

/-- The device after the write. -/
def peerAnswered : State :=
  answerPeer 1 (some []) (placeStore { who := .peer 1 0, keeper := false } 0x20000000 [1] peerChecked)

theorem exec_peerAccess_answered :
    exec (.peerAccess 1 0 .write 0x20000000 0 [1] .clean) peerWrites = .next peerAnswered := rfl

/-- R340: the write was denied: the byte is what it was. -/
theorem peerAnswered_unwritten : peerAnswered.mem.readByte 0x20000000 = 0 := by decide +kernel

/-- Refutes O47: a write of a peer in a region of that peer is admitted and leaves memory as it is. -/
theorem not_flagSetsHoldsAndPeerAccesses : ¬ Obligations.FlagSetsHoldsAndPeerAccesses := by
  intro h
  obtain ⟨-, -, -, -, -, -, hpeer, -⟩ := h peerWrites peerWrites peerChecked 0 0 0x20000000
  obtain ⟨-, hwrite, -⟩ := hpeer 1 0 0x20000000 [1] .clean (by decide) (by decide)
  obtain ⟨w, hw, hmem, -⟩ := hwrite (by decide) peerWrites_admitted (.inl (by decide))
  have hanswered : peerAnswered = w := Host.Outcome.next.inj (exec_peerAccess_answered.symm.trans hw)
  have hbyte := peerAnswered_unwritten
  rw [hanswered, hmem] at hbyte
  exact absurd hbyte (by decide)

end Sys2Proof.Machine
end

section
/-! The Task Scheduler: spawns, ends, operands, links and cancellations (R291 to R295, R301 to R307). -/

namespace Sys2Proof.Machine

theorem noteEcc_clean (s : State) : noteEcc .clean s = s := rfl

/-- R516: a corrected word changes the counters only. -/
theorem noteEcc_sch (ecc : Ecc) (s : State) : (noteEcc ecc s).sch = s.sch := by
  unfold noteEcc
  split <;> rfl

theorem taskAt_noteEcc (ecc : Ecc) (s : State) (slot gen : Nat) :
    taskAt (noteEcc ecc s) slot gen = taskAt s slot gen := by
  rw [taskAt, noteEcc_sch, taskAt]

/-! ### Tasks of the table -/

/-- The slot and generation that name a task. -/
def named (slot gen : Nat) (t : Task) : Bool := t.slot == slot && t.gen == gen

theorem find_updFirst {α : Type} {p : α → Bool} {f : α → α} {l : List α} {a : α} (h : l.find? p = some a)
    (hf : p (f a) = true) : (updFirst p f l).find? p = some (f a) := by
  induction l with
  | nil => cases h
  | cons b l ih =>
    by_cases hb : p b = true
    · rw [List.find?_cons_of_pos hb] at h
      obtain rfl := Option.some.inj h
      rw [updFirst, if_pos hb, List.find?_cons_of_pos hf]
    · rw [List.find?_cons_of_neg hb] at h
      rw [updFirst, if_neg hb, List.find?_cons_of_neg hb, ih h]

theorem updFirst_updFirst {α : Type} {p : α → Bool} {f g : α → α} (hf : ∀ a, p a = true → p (f a) = true) (l : List α) :
    updFirst p g (updFirst p f l) = updFirst p (fun a => g (f a)) l := by
  induction l with
  | nil => rfl
  | cons b l ih =>
    by_cases hb : p b = true
    · rw [updFirst, if_pos hb, updFirst, if_pos (hf b hb), updFirst, if_pos hb]
    · rw [updFirst, if_neg hb, updFirst, if_neg hb, updFirst, if_neg hb, ih]

section
variable {s : State} {slot gen : Nat} {k : Task}

theorem taskAt_named (h : taskAt s slot gen = some k) : named slot gen k = true := List.find?_some h

theorem taskAt_updTask {f : Task → Task} (h : taskAt s slot gen = some k) (hf : named slot gen (f k) = true) :
    taskAt (updTask slot gen f s) slot gen = some (f k) := find_updFirst (p := named slot gen) h hf

theorem updTask_updTask {f g : Task → Task} (hf : ∀ a, named slot gen a = true → named slot gen (f a) = true) :
    updTask slot gen g (updTask slot gen f s) = updTask slot gen (fun a => g (f a)) s := by
  unfold updTask
  dsimp only
  exact congrArg (fun l => { s with sch := { s.sch with tasks := l } }) (updFirst_updFirst (p := named slot gen) hf _)

/-! ### Readiness -/

section
variable (h : taskAt s slot gen = some k)
include h

theorem makeReady_waits (hn : (k.st == TaskSt.waiting && readyNow k) = false) : makeReady slot gen s = s := by
  rw [makeReady, h]
  exact if_neg (by simp [hn])

/-- R293: a task whose conditions hold becomes ready. -/
theorem makeReady_ready (hs : k.st = .waiting) (hr : readyNow k = true) (hp : k.poisoned = false) :
    makeReady slot gen s =
    updTask slot gen (fun t => { t with st := .ready, readyAt := now s, waitFrom := now s }) s := by
  rw [makeReady, h]
  refine (if_pos (by rw [hs, hr]; rfl)).trans ?_
  exact if_neg (by simp [hp])

/-! ### The end of a task -/

/-- R301: the thread of a running task that ends. -/
def threadFreed (slot gen : Nat) (k : Task) (s : State) : State :=
  match k.thread with
  | some th =>
    if k.st == TaskSt.running then
      updPort th (fun p => { p with task := none }) (updThread th (idleThread (slot, gen)) s)
    else s
  | none => s

/-- R301: a task without links frees its slot. -/
theorem finishTask_linkless (status : Nat) (hl : k.links = []) :
    finishTask slot gen status s = dropTask slot gen (threadFreed slot gen k s) := by
  unfold finishTask
  rw [h]
  dsimp only
  have hw : ∀ value first, linkWork k status value first = [] := fun value first => by rw [linkWork, hl]; rfl
  rw [hw, List.append_nil]
  rfl

theorem endTask_alone (status : Nat) (hp : k.pour = none) :
    endTask slot gen status s = finishTask slot gen status s := by
  rw [endTask, h]
  dsimp only
  rw [hp]

theorem cancelAndSettle_alone (hp : k.pour = none) : cancelAndSettle slot gen s = cancelTask slot gen s := by
  rw [cancelAndSettle, h]
  dsimp only
  rw [hp]

theorem cancelTask_ready (hs : k.st = .ready) : cancelTask slot gen s = finishTask slot gen 1 s := by
  rw [cancelTask, h]
  dsimp only
  rw [hs]

/-- R304: a running task is told. -/
theorem cancelTask_running {th : Nat} (hs : k.st = .running) (ht : k.thread = some th)
    (ha : (threadAt s th).async = []) :
    cancelTask slot gen s =
      updThread th (fun r => { r with async := r.async ++ [AsyncDelivery.mk 0x11 1 none none] }) s := by
  rw [cancelTask, h]
  dsimp only
  rw [hs, ht]
  dsimp only
  rw [ha]
  rfl

end

end

/-! ### Spawns -/

section
variable {s : State} {t : Fin 256}

theorem exec_spawn : exec (.spawn t) s = .next (submitSpawn t.val s) := rfl

theorem submitSpawn_full (h : freeSlot s = none) : submitSpawn t.val s = refuseSpawn t.val 0x0B01 s := by
  unfold submitSpawn
  rw [h]

theorem submitSpawn_fields (h : freeSlot s ≠ none) (hf : spawnFieldsOk (nth s.sch.ports t.val {}).desc = false) :
    submitSpawn t.val s = refuseSpawn t.val 0x0B02 s := by
  obtain ⟨n, hn⟩ := Option.ne_none_iff_exists'.1 h
  unfold submitSpawn
  rw [hn]
  exact if_pos (by rw [hf]; rfl)

section
variable {n : Nat} {k : Task} (h : freeSlot s = some n) (hf : spawnFieldsOk (nth s.sch.ports t.val {}).desc = true)
  (hk : spawnedTask (nth s.sch.ports t.val {}).desc n (nextGen s n) (portTask s t.val) = k)
include h hf hk

theorem submitSpawn_waits (hw : k.flagWait.isSome = true)
    (hl : 256 ≤ (s.sch.tasks.filter fun q => q.flagWait.isSome).length) :
    submitSpawn t.val s = refuseSpawn t.val 0x0B07 s := by
  unfold submitSpawn
  rw [h]
  refine (if_neg (by rw [hf]; decide)).trans ?_
  dsimp only
  rw [hk]
  exact if_pos (by rw [hw, decide_eq_true hl]; rfl)

theorem submitSpawn_allocates
    (hw : k.flagWait = none ∨ (s.sch.tasks.filter fun q => q.flagWait.isSome).length < 256) :
    submitSpawn t.val s =
      allocTask k (updPort t.val (fun p => { p with result := spawnResult n (nextGen s n) }) s) := by
  unfold submitSpawn
  rw [h]
  refine (if_neg (by rw [hf]; decide)).trans ?_
  dsimp only
  rw [hk]
  refine if_neg fun hb => ?_
  rw [Bool.and_eq_true] at hb
  rcases hw with hw | hw
  · rw [hw] at hb
    cases hb.1
  · exact absurd (of_decide_eq_true hb.2) (Nat.not_le.2 hw)

end

/-! ### Ends -/

theorem exec_taskEnd_idle (h : (nth s.sch.ports t.val {}).task = none) (status : BitVec 2) (ecc : Ecc) :
    exec (.taskEnd t status ecc) s = .next s := by
  show execTaskEnd t status ecc s = _
  unfold execTaskEnd
  rw [h]
  cases ecc <;> rfl

section
variable {slot gen : Nat} (h : (nth s.sch.ports t.val {}).task = some (slot, gen))
include h

theorem exec_taskEnd_uncorrectable (status : BitVec 2) :
    exec (.taskEnd t status .uncorrectable) s = .next (tableError slot gen s) := by
  show execTaskEnd t status .uncorrectable s = _
  unfold execTaskEnd
  rw [h]

theorem exec_taskEnd_port (status : BitVec 2) {ecc : Ecc} (he : ecc ≠ .uncorrectable) : exec (.taskEnd t status ecc) s =
    .next (if status.toNat < 3 then endTask slot gen status.toNat (noteEcc ecc s) else noteEcc ecc s) := by
  have hx : exec (.taskEnd t status ecc) s = .next (portEnd t.val status.toNat (noteEcc ecc s)) := by
    show execTaskEnd t status ecc s = _
    unfold execTaskEnd
    rw [h]
    cases ecc with
    | uncorrectable => exact absurd rfl he
    | _ => rfl
  rw [hx, portEnd, noteEcc_sch, h]

end

/-! ### Operands -/

section
variable {slot : BitVec 13} {index : BitVec 2} {gen : Byte} {k : Task}

theorem exec_operandSend_uncorrectable (h : taskAt s slot.toNat gen.toNat = some k) (value : Word32) :
    exec (.operandSend t slot index gen value .uncorrectable) s = .next (tableError slot.toNat gen.toNat s) :=
  if_pos ⟨rfl, by rw [h]; rfl⟩

theorem exec_operandSend_clean (value : Word32) : exec (.operandSend t slot index gen value .clean) s =
    .next (settleTasks (deliverOperand slot.toNat gen.toNat index.toNat value 0 s)) := by
  show execOperandSend t slot index gen value .clean s = _
  exact if_neg fun h => by cases h.1

/-- R294: an operand of no task is an event. -/
theorem exec_operandSend_stray (h : taskAt s slot.toNat gen.toNat = none) (value : Word32) (ecc : Ecc) :
    exec (.operandSend t slot index gen value ecc) s = .next (settleTasks (raise 0x0B05 (noteEcc ecc s))) := by
  refine (if_neg fun h' => by rw [h] at h'; cases h'.2).trans ?_
  rw [sendOperand, deliverOperand, taskAt_noteEcc, h]

end

section
variable {slot gen index : Nat} {k : Task} (h : taskAt s slot gen = some k) (hm : k.matching = true)
  (hi : index < k.nOperands)
include h hm hi

theorem deliverOperand_late (hs : k.st ≠ .waiting) (value : Word32) (status : Nat) :
    deliverOperand slot gen index value status s = raise 0x0B04 s := by
  rw [deliverOperand, h]
  refine (if_neg (by simp [hm, hi])).trans (if_pos ?_)
  simp [hs]

theorem deliverOperand_joins (hs : k.st = .waiting) (hd : k.operands.any (fun o => o.1 == index) = false)
    (hu : matchUsed s < 2048) (value : Word32) : deliverOperand slot gen index value 0 s =
      makeReady slot gen (updTask slot gen (fun t => { t with operands := t.operands ++ [(index, value)] }) s) := by
  rw [deliverOperand, h]
  refine (if_neg (by simp [hm, hi])).trans ((if_neg ?_).trans (if_neg (Nat.not_le.2 hu)))
  rw [hs, hd]
  decide

end

section
variable {slot gen index : Nat} {value : Word32} {k : Task} (h : taskAt s slot gen = some k)
include h

theorem taskAt_operand :
    taskAt (updTask slot gen (fun t => { t with operands := t.operands ++ [(index, value)] }) s) slot gen =
    some { k with operands := k.operands ++ [(index, value)] } := taskAt_updTask h (by exact (taskAt_named h :))

omit h in
theorem readyNow_operand (hm : k.matching = true) : readyNow { k with operands := k.operands ++ [(index, value)] } =
    (k.started && (k.operands.length + 1 == k.nOperands)) := by
  rw [readyNow, if_pos hm, List.length_append]
  rfl

theorem makeReady_operand_waits (hm : k.matching = true) (hn : k.operands.length + 1 ≠ k.nOperands) :
    makeReady slot gen (updTask slot gen (fun t => { t with operands := t.operands ++ [(index, value)] }) s) =
      updTask slot gen (fun t => { t with operands := t.operands ++ [(index, value)] }) s := by
  refine makeReady_waits (taskAt_operand h) ?_
  rw [readyNow_operand hm, beq_eq_false_iff_ne.2 hn, Bool.and_false, Bool.and_false]

/-- R294: the last operand makes the task ready. -/
theorem makeReady_operand_ready (hm : k.matching = true) (hs : k.st = .waiting)
    (hn : k.operands.length + 1 = k.nOperands)
    (hg : k.started = true) (hp : k.poisoned = false) :
    makeReady slot gen (updTask slot gen (fun t => { t with operands := t.operands ++ [(index, value)] }) s) =
      updTask slot gen (fun t => { t with
        operands := t.operands ++ [(index, value)], st := .ready, readyAt := now s, waitFrom := now s }) s := by
  refine (makeReady_ready (taskAt_operand h) hs ?_ hp).trans (updTask_updTask fun a ha => ha)
  rw [readyNow_operand hm, hg, hn, beq_self_eq_true]
  rfl

end

/-! ### Cancellation -/

section
variable {who : Agent} {slot : BitVec 13} {gen : Byte}

theorem exec_schCancel_denied (h : agentKeeper s who = false) : exec (.schCancel who slot gen) s = .next s :=
  if_neg (by simp [h])

theorem exec_schCancel_stray (h : agentKeeper s who = true) (hk : taskAt s slot.toNat gen.toNat = none) :
    exec (.schCancel who slot gen) s = .next (raise 0x0B05 s) := by
  refine (if_pos h).trans ?_
  rw [cancelWrite, hk]

theorem exec_schCancel_task {k : Task} (h : agentKeeper s who = true) (hk : taskAt s slot.toNat gen.toNat = some k) :
    exec (.schCancel who slot gen) s = .next (cancelAndSettle slot.toNat gen.toNat s) := by
  refine (if_pos h).trans ?_
  rw [cancelWrite, hk]

end

/-! ### Links -/

theorem exec_successorLink_none (h : s.sch.links = []) (ecc : Ecc) : exec (.successorLink ecc) s = .next s := by
  show execSuccessorLink ecc s = _
  rw [execSuccessorLink, h]

/-- R301: the next link is taken up in this ECLK. -/
def linkTaken (ls : List LinkWork) (s : State) : State :=
  { s with sch := { s.sch with links := ls, linkAt := some (now s) } }

section
variable {l : LinkWork} {ls : List LinkWork} (h : s.sch.links = l :: ls)
include h

theorem exec_successorLink_waits (hw : s.sch.linkAt = some (now s) ∨ now s < l.dueAt) (ecc : Ecc) :
    exec (.successorLink ecc) s = .next s := by
  show execSuccessorLink ecc s = _
  rw [execSuccessorLink, h]
  exact if_pos hw

theorem exec_successorLink_sent (ha : s.sch.linkAt ≠ some (now s)) (hd : l.dueAt ≤ now s) (ecc : Ecc) :
    exec (.successorLink ecc) s =
      .next (if ((linkOrError ecc l (linkTaken ls s)).sch.links.any fun q => q.source == l.source) = true then
        linkOrError ecc l (linkTaken ls s)
      else dropTask l.source.1 l.source.2 (linkOrError ecc l (linkTaken ls s))) := by
  show execSuccessorLink ecc s = _
  rw [execSuccessorLink, h]
  exact (if_neg (not_or.2 ⟨ha, Nat.not_lt.2 hd⟩)).trans (apply_ite Host.Outcome.next _ _ _).symm

omit h in
theorem linkOrError_stray (hk : taskAt s l.slot l.gen = none) :
    linkOrError .clean l (linkTaken ls s) = raise 0x0B05 (linkTaken ls s) := by
  refine (if_neg fun h => by cases h.1).trans ?_
  have hk' : taskAt (linkTaken ls s) l.slot l.gen = none := hk
  rw [noteEcc_clean, sendLink, hk']

omit h in
theorem linkOrError_task {k : Task} {ecc : Ecc} (he : ecc ≠ .uncorrectable) (hk : taskAt s l.slot l.gen = some k) :
    linkOrError ecc l (linkTaken ls s) =
      (if k.matching then settleTasks
        (deliverOperand l.slot l.gen l.index l.value l.status (noteEcc ecc (linkTaken ls s)))
        else settleTasks (deliverToken l.slot l.gen l.index l.status (noteEcc ecc (linkTaken ls s)))) := by
  refine (if_neg fun h => he h.1).trans ?_
  have hk' : taskAt (linkTaken ls s) l.slot l.gen = some k := hk
  rw [sendLink, taskAt_noteEcc, hk']
  rfl

end

end

/-- Settles O48: each command takes its branch of the scheduler, whose tables are found again after a change. -/
theorem tasksSpawnMatchAndEnd : Obligations.TasksSpawnMatchAndEnd := by
  intro s t slot gen
  refine ⟨fun n k hn hf hk => ⟨fun hw hl => ?_, fun hw => ?_⟩, fun hn => ?_, fun hn hf => ?_,
    fun k status hp hk => ⟨fun hlt hpour hl hs ht => ?_, fun ecc he => ⟨fun hlt => ?_, fun h3 => ?_⟩,
      exec_taskEnd_uncorrectable hp status⟩,
    fun status ecc h => exec_taskEnd_idle h status ecc,
    fun k index value hk hm hi hs hd hu => ⟨fun hn => ?_, fun hn hg hp => ?_⟩,
    fun k index value hk => ⟨exec_operandSend_uncorrectable hk value, fun hm hi hs => ?_⟩,
    fun hk index value who ecc => ⟨exec_operandSend_stray hk value ecc, fun h => exec_schCancel_stray h hk⟩,
    fun k who hk h => ⟨exec_schCancel_task h hk, fun hs hp hl ht => ?_, fun th hs hp ht ha => ?_⟩,
    fun who h => exec_schCancel_denied h,
    fun l ls hl => ⟨fun ha hd hk hq => ?_, fun ha hd hq hk => ?_, fun ecc k u he ha hd hk hu => ⟨_, rfl, ?_⟩,
      fun ecc hw => exec_successorLink_waits hl hw ecc⟩,
    exec_successorLink_none⟩
  · rw [exec_spawn, submitSpawn_waits hn hf hk hw hl, refuseSpawn]
  · rw [exec_spawn, submitSpawn_allocates hn hf hk hw, spawnResult]
  · rw [exec_spawn, submitSpawn_full hn, refuseSpawn]
  · rw [exec_spawn, submitSpawn_fields hn hf, refuseSpawn]
  · rw [exec_taskEnd_port hp status (by decide), if_pos hlt, noteEcc_clean, endTask_alone hk _ hpour,
      finishTask_linkless hk _ hl, threadFreed, ht, hs]
    rfl
  · rw [exec_taskEnd_port hp status he, if_pos hlt]
  · rw [exec_taskEnd_port hp status he, h3, if_neg (by decide)]
  · rw [exec_operandSend_clean, deliverOperand_joins hk hm hi hs hd hu, makeReady_operand_waits hk hm hn]
  · rw [exec_operandSend_clean, deliverOperand_joins hk hm hi hs hd hu, makeReady_operand_ready hk hm hs hn hg hp]
  · rw [exec_operandSend_clean, deliverOperand_late hk hm hi hs]
  · rw [exec_schCancel_task h hk, cancelAndSettle_alone hk hp, cancelTask_ready hk hs, finishTask_linkless hk _ hl,
    threadFreed, ht]
  · rw [exec_schCancel_task h hk, cancelAndSettle_alone hk hp, cancelTask_running hk hs ht ha]
  · have hlinks : (raise 0x0B05 (linkTaken ls s)).sch.links = ls := raise_sch_links ..
    rw [exec_successorLink_sent hl ha hd, linkOrError_stray hk, hlinks, if_neg (by simp [hq])]
    rfl
  · have hlinks : (raise 0x0B05 (linkTaken ls s)).sch.links = ls := raise_sch_links ..
    rw [exec_successorLink_sent hl ha hd, linkOrError_stray hk, hlinks, if_pos hq]
    rfl
  · rw [exec_successorLink_sent hl ha hd, linkOrError_task he hk, hu, ← linkTaken]

end Sys2Proof.Machine
end

section
/-! Delivery of tasks, invalidation of translations and locks of regions (R296 to R300, R335, R338, R342, R513). -/

namespace Sys2Proof.Machine

/-! ### Selection -/

section
variable {s : State}

theorem exec_schDelivery_barred (h : s.sch.deliveredAt = some (now s) ∨ coresRun s = false) (ecc : Ecc) :
    exec (.schDelivery ecc) s = .next s := by
  show execSchDelivery ecc s = _
  exact if_pos (by rcases h with h | h <;> simp [h])

/-- R297, R300: the groups with a task to select and room for one more. -/
def readyGroups (s : State) : List Nat :=
  (List.range 16).filter fun g => (firstTask s g).isSome && decide (groupRunning s g < groupLimit s g)

/-- R299: those that pre-empt a task of a group. -/
def preemptors (s : State) (v : Task) : List Nat :=
  (readyGroups s).filter fun g => (groupAt s g).preempt && decide (groupWeight s v.group < groupWeight s g)

section
variable (hd : s.sch.deliveredAt ≠ some (now s)) (hc : coresRun s = true)
include hd hc

theorem delivery_open : ¬(!coresRun s || s.sch.deliveredAt == some (now s)) = true := by simp [hc, hd]

/-- R298: the task of the chosen group goes to the idle thread. -/
theorem exec_schDelivery_idle {th g : Nat} {gs : List Group} {k : Task} (hi : pickIdle s = some th)
    (hg : chooseGroup s (readyGroups s) = (some g, gs)) (hk : firstTask s g = some k) (ecc : Ecc) :
    exec (.schDelivery ecc) s = .next (deliverOrError ecc k th
      (AsyncDelivery.mk 0x10 (BitVec.ofNat 8 (flagNat k.resumed)) (some (k.slot, k.gen)) none) gs s) := by
  show execSchDelivery ecc s = _
  unfold execSchDelivery
  rw [if_neg (delivery_open hd hc), hi]
  dsimp only
  rw [← readyGroups, hg]
  dsimp only [Option.bind_some]
  rw [hk]

/-- R299: with no idle thread it goes to the running task that may be pre-empted. -/
theorem exec_schDelivery_preempts {v k : Task} {th g : Nat} {gs : List Group} (hi : pickIdle s = none)
    (hv : pickVictim s = some v) (ht : v.thread = some th) (hg : chooseGroup s (preemptors s v) = (some g, gs))
    (hk : firstTask s g = some k) (ecc : Ecc) : exec (.schDelivery ecc) s = .next (deliverOrError ecc k th
      (AsyncDelivery.mk 0x11 0 (some (k.slot, k.gen)) (some (v.slot, v.gen))) gs s) := by
  show execSchDelivery ecc s = _
  unfold execSchDelivery
  rw [if_neg (delivery_open hd hc), hi, hv]
  dsimp only
  rw [← readyGroups, ← preemptors, hg]
  dsimp only [Option.bind_some]
  rw [hk, ht]

theorem exec_schDelivery_full (hi : pickIdle s = none) (hv : pickVictim s = none) (ecc : Ecc) :
    exec (.schDelivery ecc) s = .next s := by
  show execSchDelivery ecc s = _
  unfold execSchDelivery
  rw [if_neg (delivery_open hd hc), hi, hv]

end

/-! ### Delivery -/

section
variable {k : Task} {th : Nat} {d : AsyncDelivery} {gs : List Group}

/-- R296: the task's group gives up its credit and the delivery of this ECLK is noted. -/
def selectionNoted (k : Task) (gs : List Group) (s : State) : State :=
  { s with sch := { s.sch with
    groups := gs, deliveredAt := some (now s), waitMax := max s.sch.waitMax (min (now s - k.waitFrom) (2 ^ 32 - 1)) } }

theorem bindTask_eq : bindTask k th d gs s = updThread th (fun r => { r with async := r.async ++ [d] }) (countSel 8 1
    (updTask k.slot k.gen (fun t => { t with st := .running, thread := some th, deliveredAt := now s })
      (selectionNoted k gs s))) := rfl

theorem threadAt_bindTask (ht : th < s.rsr.threads.length) :
    threadAt (bindTask k th d gs s) th = { threadAt s th with async := (threadAt s th).async ++ [d] } :=
  threadAt_updThread_same (s := countSel 8 1 (updTask k.slot k.gen _ (selectionNoted k gs s))) ht

theorem taskAt_bindTask (hk : taskAt s k.slot k.gen = some k) : taskAt (bindTask k th d gs s) k.slot k.gen =
    some { k with st := .running, thread := some th, deliveredAt := now s } := by
  refine find_updFirst (p := named k.slot k.gen) (l := s.sch.tasks) hk ?_
  simp [named]

end

/-! ### Invalidation and locks -/

section
variable {who : Agent}

theorem exec_xltInv_keeper (h : agentKeeper s who = true) (ctx : BitVec 6) (everything : Bool) :
    exec (.xltInv who ctx everything) s = .next (startInv ctx.toNat everything s) := if_pos h

theorem exec_xltInv_refused (h : agentKeeper s who = false) (ctx : BitVec 6) (everything : Bool) :
    exec (.xltInv who ctx everything) s = .next (refuseRsr who s) := if_neg (by simp [h])

theorem exec_fwlLock_keeper (h : agentKeeper s who = true) (r : Fin 64) :
    exec (.fwlLock who r) s = .next (writeRegion r.val (fun q => { q with lock := true }) s) := if_pos h

theorem exec_fwlLock_refused (h : agentKeeper s who = false) (r : Fin 64) :
    exec (.fwlLock who r) s = .next (refuseRsr who s) := if_neg (by simp [h])

end

/-- R342: the regions of before rule until the ECLK ends. -/
theorem keepFwl_first (h : ∀ o, s.fwl.old = some o → o.1 ≠ now s) :
    keepFwl s = { s with fwl := { s.fwl with old := some (now s, s.fwl.regions) } } := by
  unfold keepFwl
  split
  · next o _ ho => exact if_neg (h _ ho)
  · rfl

theorem writeRegion_locked {r : Nat} (h : (nth s.fwl.regions r {}).lock = true) (f : Region → Region) :
    writeRegion r f s = raise 0x0C13 s := if_pos h

theorem writeRegion_open {r : Nat} (h : (nth s.fwl.regions r {}).lock = false)
    (ho : ∀ o, s.fwl.old = some o → o.1 ≠ now s) (f : Region → Region) : writeRegion r f s =
      { s with fwl := { s.fwl with old := some (now s, s.fwl.regions), regions := upd s.fwl.regions r f } } := by
  unfold writeRegion
  rw [if_neg (Bool.eq_false_iff.1 h), keepFwl_first ho]

section
variable (ctx : Nat)

theorem startInv_cache (c : CacheEntry) : c ∈ (startInv ctx false s).xlt.cache ↔ c ∈ s.xlt.cache ∧ c.ctx ≠ ctx := by
  refine List.mem_filter.trans (and_congr_right fun _ => ?_)
  simp

theorem startInv_dying (c : CacheEntry) :
    c ∈ (startInv ctx false s).xlt.dying ↔ c ∈ s.xlt.dying ∨ c ∈ s.xlt.cache ∧ c.ctx = ctx := by
  have hc : c ∈ (s.xlt.cache.filter fun c => [ctx].contains c.ctx) ↔ c ∈ s.xlt.cache ∧ c.ctx = ctx := by
    refine List.mem_filter.trans (and_congr_right fun _ => ?_)
    simp
  exact List.mem_append.trans (Or.comm.trans (or_congr_right hc))

theorem startInv_busy : ctx ∈ (startInv ctx false s).xlt.invBusy :=
  List.mem_dedup.2 (List.mem_append_left _ (List.mem_singleton_self ctx))

/-- R335: an invalidation leaves the roots, memory and the threads. -/
theorem startInv_kept (everything : Bool) : (startInv ctx everything s).xlt.roots = s.xlt.roots ∧
    (startInv ctx everything s).mem = s.mem ∧ (startInv ctx everything s).rsr = s.rsr := by
  unfold startInv
  dsimp only
  exact ⟨rfl, rfl, rfl⟩

theorem startInv_all_cache : ∀ c ∈ (startInv ctx true s).xlt.cache, 64 ≤ c.ctx := by
  intro c hc
  have := (List.mem_filter.1 hc).2
  simpa using this

theorem startInv_all_busy : ∀ c < 64, c ∈ (startInv ctx true s).xlt.invBusy := by
  intro c hc
  unfold startInv
  simp only [if_true, List.mem_dedup, List.mem_append, List.mem_range]
  exact .inl hc

end

end

/-- Settles O49: the scheduler's selection names its task and thread; an invalidation and a lock change what they
name. -/
theorem tasksDeliveredAndRegionsLocked : Obligations.TasksDeliveredAndRegionsLocked := by
  intro s
  refine ⟨fun h ecc => exec_schDelivery_barred h ecc,
    fun cands gs g k hd hc hcands => ⟨fun th hi hg hk => ?_, fun v th hi hv ht hg hk => ?_,
      fun hi hv => exec_schDelivery_full hd hc hi hv _⟩,
    fun k th d gs hk ht => ⟨threadAt_bindTask ht, taskAt_bindTask hk, rfl, rfl, rfl⟩,
    fun who ctx h => ⟨⟨_, exec_xltInv_keeper h ctx false, startInv_cache ctx.toNat, startInv_dying ctx.toNat,
        startInv_busy ctx.toNat, rfl, rfl, rfl, rfl⟩,
      ⟨_, exec_xltInv_keeper h ctx true, startInv_all_cache (s := s) ctx.toNat,
        startInv_all_busy (s := s) ctx.toNat, startInv_kept ctx.toNat true⟩⟩,
    rfl, fun who r h hlen => ⟨fun hl ho => ?_, fun hl => ?_⟩,
    fun who ctx everything r h hq => ⟨?_, ?_⟩, fun q ctx everything r h hr => ⟨?_, ?_⟩⟩
  · have hx := fun ecc => exec_schDelivery_idle hd hc hi (hcands ▸ hg) hk ecc
    exact ⟨hx .clean, hx .uncorrectable⟩
  · exact exec_schDelivery_preempts hd hc hi hv ht (by rw [preemptors, readyGroups, hcands]; exact hg) hk .clean
  · rw [exec_fwlLock_keeper h, writeRegion_open hl ho]
  · rw [exec_fwlLock_keeper h, writeRegion_locked hl]
  · rw [exec_xltInv_refused h, refuseRsr_other hq]
  · rw [exec_fwlLock_refused h, refuseRsr_other hq]
  · rw [exec_xltInv_refused (by exact h), refuseRsr_running hr]
  · rw [exec_fwlLock_refused (by exact h), refuseRsr_running hr]

end Sys2Proof.Machine
end

section
/-! The commands of a Runner channel (R84, R91, R346, R347, R350, R356, R366, R483). -/

namespace Sys2Proof.Machine

/-! ### Channels and their requests -/

section
variable {s : State} {ch : Nat}

theorem chAt_updCh_same {f : DmaCh → DmaCh} (h : ch < s.dma.chs.length) : chAt (updCh ch f s) ch = f (chAt s ch) :=
  nth_upd_same f {} h

theorem ladleRequest_fits {t : Nat} (h : canFit s t = true) (id cls : Nat) (deadline : Option Nat)
    (serves : Option PourRef) :
    ladleRequest id cls deadline t serves s = ({ s with ldl := { s.ldl with queue := s.ldl.queue ++
      [{ id := id, cls := cls, deadline := deadline, madeAt := now s, tickets := t, serves := serves }] } }, true) :=
  if_pos h

/-- The request of a software channel. -/
def softRequest (ch : Nat) (s : State) : Request :=
  { id := dmaId ch, cls := if (chAt s ch).hipri then 0 else 2, deadline := none, madeAt := now s,
    tickets := classCost (cfgClass (chAt s ch)), serves := none }

/-- R84, R347: a software channel whose tickets can fit waits for them. -/
theorem requestChannel_waits (hs : (chAt s ch).serves = none)
    (hf : canFit s (classCost (cfgClass (chAt s ch))) = true) :
    requestChannel ch s = updCh ch (fun c => { c with st := .waitGrant, tickets := classCost (cfgClass (chAt s ch)) })
      { s with ldl := { s.ldl with queue := s.ldl.queue ++ [softRequest ch s] } } := by
  unfold requestChannel
  dsimp only
  rw [hs]
  dsimp only
  rw [ladleRequest_fits hf]
  rfl

/-! ### Start, stop, doorbell and clear_err -/

theorem startChannel_owned (h : (chAt s ch).owned = true) : startChannel ch s = raise 0x0D06 s := if_pos h

theorem softStop_owned (h : (chAt s ch).owned = true) : softStop ch s = raise 0x0D06 s := if_pos h

section
variable (h : (chAt s ch).owned = false)
include h

theorem startChannel_starts (hi : (chAt s ch).st = .idle) (hs : s.dma.stopped = false) (hc : changing s = false) :
    startChannel ch s = requestChannel ch (updCh ch softStart s) := by
  refine (if_neg (Bool.eq_false_iff.1 h)).trans (if_neg ?_)
  rw [hi, hs, hc]
  decide

theorem startChannel_barred (hb : (chAt s ch).st ≠ .idle ∨ s.dma.stopped = true ∨ changing s = true) :
    startChannel ch s = s := by
  refine (if_neg (Bool.eq_false_iff.1 h)).trans (if_pos ?_)
  rcases hb with hb | hb | hb <;> simp [hb]

theorem softStop_ended (hb : (chAt s ch).st = .idle ∨ (chAt s ch).st = .error) : softStop ch s = s := by
  refine (if_neg (Bool.eq_false_iff.1 h)).trans (if_pos ?_)
  rcases hb with hb | hb <;> rw [hb] <;> decide

theorem softStop_stops (hi : (chAt s ch).st ≠ .idle) (he : (chAt s ch).st ≠ .error) :
    softStop ch s = assignPaths (stopChannel ch 4 s) := by
  refine (if_neg (Bool.eq_false_iff.1 h)).trans (if_neg ?_)
  simp [hi, he]

end

theorem ringDoorbell_fetches (hr : (chAt s ch).ring = true) (hb : (chAt s ch).owned = false ∨ (chAt s ch).st ≠ .idle) :
    ringDoorbell ch s = assignPaths (updCh ch (fun c => { c with needDoorbell := false }) s) := by
  refine (if_neg ?_).trans (if_pos hr)
  rcases hb with hb | hb <;> simp [hb]

theorem ringDoorbell_idle (ho : (chAt s ch).owned = true) (hi : (chAt s ch).st = .idle) : ringDoorbell ch s = s :=
  if_pos (by rw [ho, hi]; rfl)

/-- R350: a channel without a ring has no head to fetch. -/
theorem ringDoorbell_ringless (hr : (chAt s ch).ring = false) : ringDoorbell ch s = s := by
  unfold ringDoorbell
  dsimp only
  rw [hr]
  exact ite_self _

theorem clearError_clears (h : (chAt s ch).st = .error) :
    clearError ch s = updCh ch (fun c => { c with st := .idle, cur := none }) s := if_pos (by rw [h]; rfl)

theorem clearError_ignored (h : (chAt s ch).st ≠ .error) : clearError ch s = s := if_neg (by simp [h])

/-! ### Resume -/

theorem resumeDma_refused (h : s.dma.errValid = true ∨ (s.dma.chs.any fun c => c.st == .error) = true) :
    resumeDma s = raise 0x0D07 s := by
  refine if_pos ?_
  rcases h with h | h <;> rw [h]
  · exact Bool.true_or _
  · exact Bool.or_true _

/-- R366: a halted channel asks again for its tickets. -/
def askAgain (u : State) (k : Nat) : State := if (chAt u k).st == .halted then requestChannel k u else u

theorem askAgain_none (ks : List Nat) (h : ∀ k, (chAt s k).st ≠ .halted) : ks.foldl askAgain s = s := by
  induction ks with
  | nil => rfl
  | cons k ks ih =>
    have hk : askAgain s k = s := if_neg (by simp [h k])
    rw [List.foldl_cons, hk, ih]

section
variable (hv : s.dma.errValid = false) (he : (s.dma.chs.any fun c => c.st == .error) = false)
include hv he

theorem resume_open : ¬(s.dma.errValid || s.dma.chs.any fun c => c.st == .error) = true := by
  rw [hv, he]
  exact Bool.false_ne_true

theorem resumeDma_ignored (h : s.dma.stopped = false ∨ changing s = true) : resumeDma s = s := by
  refine (if_neg (resume_open hv he)).trans (if_pos ?_)
  rcases h with h | h <;> simp [h]

theorem resumeDma_resumes (hs : s.dma.stopped = true) (hc : changing s = false) :
    resumeDma s = (List.range 32).foldl askAgain { s with dma := { s.dma with stopped := false } } := by
  refine (if_neg (resume_open hv he)).trans (if_neg ?_)
  rw [hs, hc]
  decide

/-- R366: with no channel halted Runner goes on. -/
theorem resumeDma_unhalted (h : ∀ k, (chAt s k).st ≠ .halted) (hc : changing s = false) :
    resumeDma s = { s with dma := { s.dma with stopped := false } } := by
  cases hs : s.dma.stopped with
  | false =>
    rw [resumeDma_ignored hv he (.inl hs), ← hs]
  | true =>
    rw [resumeDma_resumes hv he hs hc]
    exact askAgain_none _ h

end

/-! ### Who may command -/

section
variable {who : Agent} {k : Fin 32}

theorem exec_dma_commands (h : agentKeeperOrHost s who = true) :
    exec (.dmaStart who k) s = .next (startChannel k.val s) ∧
    exec (.dmaStop who k) s = .next (softStop k.val s) ∧ exec (.dmaDoorbell who k) s = .next (ringDoorbell k.val s) ∧
    exec (.dmaClearErr who k) s = .next (clearError k.val s) := ⟨if_pos h, if_pos h, if_pos h, if_pos h⟩

theorem exec_dma_denied (h : agentKeeperOrHost s who = false) : exec (.dmaStart who k) s = .next s ∧
    exec (.dmaStop who k) s = .next s ∧ exec (.dmaDoorbell who k) s = .next s ∧ exec (.dmaClearErr who k) s = .next s :=
  have hn := Bool.eq_false_iff.1 h
  ⟨if_neg hn, if_neg hn, if_neg hn, if_neg hn⟩

theorem exec_dmaResume_keeper (h : agentKeeper s who = true) : exec (.dmaResume who) s = .next (resumeDma s) := if_pos h

theorem exec_dmaResume_denied (h : agentKeeper s who = false) : exec (.dmaResume who) s = .next s :=
  if_neg (Bool.eq_false_iff.1 h)

end

end

/-- Settles O50: each command is the branch that the channel's state selects. -/
theorem runnerCommands : Obligations.RunnerCommands := by
  intro s who ch
  refine ⟨fun h => ?_, fun h => ?_, exec_dmaResume_denied, exec_dma_denied⟩
  · obtain ⟨hstart, hstop, hbell, hclear⟩ := exec_dma_commands (k := ch) h
    rw [hstart, hstop, hbell, hclear]
    refine ⟨fun ho => ⟨by rw [startChannel_owned ho], by rw [softStop_owned ho]⟩,
      fun ho => ⟨fun hi hs hc => ?_, fun hb => by rw [startChannel_barred ho hb],
        fun hb => by rw [softStop_ended ho hb],
        fun hi he => by rw [softStop_stops ho hi he], fun hr => by rw [ringDoorbell_fetches hr (.inl ho)]⟩,
      fun ho hr => ⟨fun hi => by rw [ringDoorbell_idle ho hi], fun hi => by rw [ringDoorbell_fetches hr (.inr hi)]⟩,
      fun hr => by rw [ringDoorbell_ringless hr], fun he => by rw [clearError_clears he],
      fun he => by rw [clearError_ignored he]⟩
    rw [startChannel_starts ho hi hs hc]
    refine ⟨rfl, fun hlen hserve hfit => ?_⟩
    have hlt : ch.val < s.dma.chs.length := by rw [hlen]; exact ch.isLt
    have hch : chAt (updCh ch.val softStart s) ch.val = softStart (chAt s ch.val) := chAt_updCh_same hlt
    have hw := requestChannel_waits (s := updCh ch.val softStart s) (ch := ch.val) (by rw [hch]; exact hserve)
      (by rw [hch]; exact hfit)
    refine ⟨_, _, rfl, ?_, (by rw [hw]; rfl), rfl, ?_, ?_, rfl, ?_⟩
    · rw [hw]
      exact congrArg DmaCh.st (chAt_updCh_same (by rw [updCh, upd_length]; exact hlt))
    · rw [softRequest, hch]
      rfl
    · rw [softRequest, hch]
      rfl
    · rw [hw]
      rfl
  · rw [exec_dmaResume_keeper h]
    refine ⟨fun hv => by rw [resumeDma_refused (.inl hv)], fun he => by rw [resumeDma_refused (.inr he)], fun hv he =>
      ⟨fun hb => by rw [resumeDma_ignored hv he hb], fun hs hc => ?_,
        fun hh hc => by rw [resumeDma_unhalted hv he hh hc]⟩⟩
    rw [resumeDma_resumes hv he hs hc]
    rfl

end Sys2Proof.Machine
end

section
/-! Training, residuals and status of the links of a flask (R412, R414, R416, R424 to R427). -/

namespace Sys2Proof.Machine

section
variable {s : State} {l : Nat}

theorem linkAt_updLink_same {f : Link → Link} (h : l < s.lnk.links.length) :
    linkAt (updLink l f s) l = f (linkAt s l) :=
  nth_upd_same f {} h

theorem linkAt_updLink_other {f : Link → Link} {k : Nat} (h : k ≠ l) : linkAt (updLink l f s) k = linkAt s k :=
  nth_upd_other _ f {} h

end

/-! ### Training -/

section
variable {s : State} {l : Fin 3} {inp : TrainInputs}

theorem exec_linkTrainAttempt_barred
    (h : mayTrain s l.val = false ∨ cabled s l.val = false ∨ now s < (linkAt s l.val).trainFrom + 1440000) :
    exec (.linkTrainAttempt l inp) s = .next s := by
  show execLinkTrainAttempt l inp s = _
  refine if_pos ?_
  rcases h with h | h | h <;> simp [h, trainSpan]

section
variable (hm : mayTrain s l.val = true) (hc : cabled s l.val = true)
  (ht : (linkAt s l.val).trainFrom + 1440000 ≤ now s)
include hm hc ht

theorem attempt_open :
    ¬(!mayTrain s l.val || !cabled s l.val || decide (now s < (linkAt s l.val).trainFrom + trainSpan)) = true := by
  rw [hm, hc, trainSpan, decide_eq_false (Nat.not_lt.2 ht)]
  decide

theorem exec_linkTrainAttempt_fails (hl : inp.lanes.toNat % 16 ≠ 15) :
    exec (.linkTrainAttempt l inp) s = .next (failTraining l.val inp.lanes s) := by
  show execLinkTrainAttempt l inp s = _
  exact (if_neg (attempt_open hm hc ht)).trans (if_pos hl)

section
variable (hl : inp.lanes.toNat % 16 = 15)
include hl

theorem exec_linkTrainAttempt_wrongPeer (hp : inp.peerIndex.toNat ≠ farChip s l.val) :
    exec (.linkTrainAttempt l inp) s = .next (raise 0x1002 (failTraining l.val inp.lanes s)) := by
  show execLinkTrainAttempt l inp s = _
  exact (if_neg (attempt_open hm hc ht)).trans ((if_neg (not_not_intro hl)).trans (if_pos hp))

theorem exec_linkTrainAttempt_passes (hp : inp.peerIndex.toNat = farChip s l.val) :
    exec (.linkTrainAttempt l inp) s = .next (passTraining l.val inp s) := by
  show execLinkTrainAttempt l inp s = _
  exact (if_neg (attempt_open hm hc ht)).trans ((if_neg (not_not_intro hl)).trans (if_neg (not_not_intro hp)))

end

end

/-- R414: the link as it comes up. -/
def linkUp (inp : TrainInputs) (k : Link) : Link :=
  { k with
    trained := true, peer := inp.peerIndex, lanes := inp.lanes, attempts := 0, waiting := false,
    slowRetry := false, lostAt := none, grp1 := false, grantHere := false, grantPeer := false,
    peerStarting := inp.peerStarting, peerTag := inp.peerTag }

theorem mayTrain_mode {n : Nat} (h : mayTrain s n = true) : s.pwr.cur = .run ∨ s.pwr.cur = .trim := by
  simp only [mayTrain, Bool.and_eq_true, Bool.or_eq_true, beq_iff_eq] at h
  exact h.2

/-- R79: the standing grant has the lane group 0 of one link more. -/
theorem standLinks_one (h : s.pwr.cur = .run ∨ s.pwr.cur = .trim) :
    standLinks 1 s = noteWindow { s with ldl := { s.ldl with standing := s.ldl.standing + 6 } } := by
  unfold standLinks
  rw [if_pos h]
  have hst : ((s.ldl.standing : Int) + 6 * 1).toNat = s.ldl.standing + 6 := by omega
  rw [hst]

/-- R425: a chip that is aligned is not aligned again. -/
theorem alignOnce_aligned (h : s.lnk.aligned = true) (n : Nat) (sum : Int) : alignOnce n sum s = s :=
  if_pos (by rw [h]; rfl)

theorem passTraining_aligned (hm : mayTrain s l.val = true) (ha : s.lnk.aligned = true) : ∃ ldl ref,
    passTraining l.val inp s = { updLink l.val (linkUp inp) s with
      ldl := ldl, lnk := { (updLink l.val (linkUp inp) s).lnk with ref := ref } } ∧
    ldl.standing = s.ldl.standing + 6 ∧ ldl.lastRampEnd = max s.ldl.lastRampEnd (now s + 180) := by
  have hmode : (noteReference (updLink l.val (linkUp inp) s)).pwr.cur = .run ∨
      (noteReference (updLink l.val (linkUp inp) s)).pwr.cur = .trim := (mayTrain_mode hm :)
  unfold passTraining
  dsimp only
  rw [alignOnce_aligned]
  · refine ⟨_, _, congrArg (fun u : State => { u with
      ldl := { u.ldl with lastRampEnd := max u.ldl.lastRampEnd (now u + 180) } }) (standLinks_one hmode), rfl, rfl⟩
  · exact (congrArg (fun u : State => u.lnk.aligned) (standLinks_one hmode)).trans ha

/-! ### Retries -/

theorem exec_linkTrainRetry_none (h : (linkAt s l.val).waiting = false) : exec (.linkTrainRetry l) s = .next s := by
  show execLinkTrainRetry l s = _
  exact if_pos (by rw [h]; rfl)

section
variable (hw : (linkAt s l.val).waiting = true)
include hw

/-- R414: the fourth failure is an event. -/
theorem exec_linkTrainRetry_fourth (ha : 4 ≤ (linkAt s l.val).attempts) (hs : (linkAt s l.val).slowRetry = false) :
    exec (.linkTrainRetry l) s = .next (raise 0x1001 (updLink l.val (fun k => { k with slowRetry := true }) s)) := by
  show execLinkTrainRetry l s = _
  exact (if_neg (by rw [hw]; decide)).trans (if_pos ⟨ha, hs⟩)

section
variable (hn : (linkAt s l.val).attempts < 4 ∨ (linkAt s l.val).slowRetry = true) {wait : Nat}
  (hwait : wait = if (linkAt s l.val).slowRetry then 120000000 else Config.oneMs)
include hn hwait

theorem retry_due : execLinkTrainRetry l s = if (linkAt s l.val).failedAt + wait ≤ now s then
    .next (updLink l.val (fun k => { k with waiting := false, trainFrom := now s }) s) else .next s := by
  subst hwait
  refine (if_neg (by rw [hw]; decide)).trans (if_neg fun h => ?_)
  rcases hn with hn | hn
  · exact absurd h.1 (Nat.not_le.2 hn)
  · exact Bool.false_ne_true (h.2.symm.trans hn)

theorem exec_linkTrainRetry_retries (hd : (linkAt s l.val).failedAt + wait ≤ now s) : exec (.linkTrainRetry l) s =
    .next (updLink l.val (fun k => { k with waiting := false, trainFrom := now s }) s) :=
  (retry_due hw hn hwait).trans (if_pos hd)

theorem exec_linkTrainRetry_waits (hd : now s < (linkAt s l.val).failedAt + wait) :
    exec (.linkTrainRetry l) s = .next s := (retry_due hw hn hwait).trans (if_neg (Nat.not_le.2 hd))

end

end

end

/-! ### Residuals -/

section
variable {s : State} {sum : Int}

/-- R426: the residual stands in its registers. -/
def residualSet (resid : Int) (s : State) : State :=
  { s with lnk := { s.lnk with
    resid := BitVec.ofInt 16 resid,
    residMax := if s.lnk.residMax.toNat < min resid.natAbs 0xFFFF then BitVec.ofNat 16 (min resid.natAbs 0xFFFF)
      else s.lnk.residMax } }

/-- R450: its trace record may go with it. -/
theorem noteResidual_traceOnly (resid : Int) (s : State) :
    TraceOnly (residualSet resid s) (noteResidual false resid s) := by
  unfold noteResidual
  dsimp only
  rw [← residualSet]
  split
  · unfold traceSync
    split
    · exact pushTrace_traceOnly ..
    · exact ⟨_, _, _, rfl⟩
  · exact ⟨_, _, _, rfl⟩

/-- The state in which a residual has been noted. -/
def residualNoted (sum : Int) (s : State) : State :=
  noteResidual false (roundEven sum 32) { s with lnk := { s.lnk with residAt := some (now s) } }

theorem residualNoted_eq (sum : Int) (s : State) : ∃ m tap hif cyc, residualNoted sum s = { s with
    lnk := { s.lnk with residAt := some (now s), resid := BitVec.ofInt 16 (roundEven sum 32), residMax := m }
    tap := tap, hif := hif, cyc := cyc } := by
  obtain ⟨tap, hif, cyc, h⟩ :=
    noteResidual_traceOnly (roundEven sum 32) { s with lnk := { s.lnk with residAt := some (now s) } }
  exact ⟨_, tap, hif, cyc, h⟩

/-- R434: a drift more. -/
def driftCounted (s : State) : State := { s with lnk := { s.lnk with driftRun := s.lnk.driftRun + 1 } }

theorem exec_residualMeasure_barred
    (h : s.lnk.aligned = false ∨ referenceChip s = chipIndex s ∨ everyMs s.lnk.residAt s = false) :
    exec (.residualMeasure sum) s = .next s := by
  show execResidualMeasure sum s = _
  refine if_pos ?_
  rcases h with h | h | h <;> simp [h]

section
variable (ha : s.lnk.aligned = true) (hr : referenceChip s ≠ chipIndex s) (he : everyMs s.lnk.residAt s = true)
include ha hr he

theorem residual_open : ¬(!s.lnk.aligned || referenceChip s == chipIndex s || !everyMs s.lnk.residAt s) = true := by
  rw [ha, he, beq_eq_false_iff_ne.2 hr]
  decide

theorem exec_residualMeasure_within (hs : sum.natAbs ≤ 608) : exec (.residualMeasure sum) s =
    .next { residualNoted sum s with lnk := { (residualNoted sum s).lnk with driftRun := 0 } } := by
  show execResidualMeasure sum s = _
  exact (if_neg (residual_open ha hr he)).trans (if_pos hs)

theorem exec_residualMeasure_drifts (hs : 608 < sum.natAbs) : exec (.residualMeasure sum) s =
    .next (if holdsFlaskGraph (driftCounted (residualNoted sum s)) then
      detectS1 0x1006 (flaskPairs (driftCounted (residualNoted sum s))) (driftCounted (residualNoted sum s))
    else raise 0x1006 (driftCounted (residualNoted sum s))) := by
  show execResidualMeasure sum s = _
  exact (if_neg (residual_open ha hr he)).trans (if_neg (Nat.not_le.2 hs))

end

theorem driftCounted_eq (sum : Int) (s : State) : ∃ m tap hif cyc, driftCounted (residualNoted sum s) = { s with
    lnk := { s.lnk with
      residAt := some (now s), resid := BitVec.ofInt 16 (roundEven sum 32), residMax := m,
      driftRun := s.lnk.driftRun + 1 }
    tap := tap, hif := hif, cyc := cyc } := by
  obtain ⟨m, tap, hif, cyc, h⟩ := residualNoted_eq sum s
  exact ⟨m, tap, hif, cyc, by rw [h]; rfl⟩

/-! ### Status -/

theorem exec_peerStatusSend_waits (h : everyMs s.lnk.statusAt s = false) : exec .peerStatusSend s = .next s :=
  if_pos (by rw [h]; rfl)

theorem exec_peerStatusSend_due (h : everyMs s.lnk.statusAt s = true) {u : State}
    (hu : u = { s with lnk := { s.lnk with statusAt := some (now s) } }) : exec .peerStatusSend s =
      .next ((trainedLinks s).foldl (fun u k => sendPeer (farChip u k) (statusWords u) u) u) := by
  subst hu
  exact if_neg (by rw [h]; decide)

section
variable {chip : Fin 4} {st : BitVec 2} {tag : Option Word32} {swapped : Bool}

theorem exec_peerStatusReceive_unlinked
    (h : chip.val = chipIndex s ∨ (linkAt s (linkTo (chipIndex s) chip.val)).trained = false) :
    exec (.peerStatusReceive chip st tag swapped) s = .next s := if_pos h

theorem exec_peerStatusReceive_kept (hc : chip.val ≠ chipIndex s)
    (ht : (linkAt s (linkTo (chipIndex s) chip.val)).trained = true) {u : State} (hu : u = { s with lnk := { s.lnk with
      peerState := putPeerState s.lnk.peerState chip.val st, peerTags := s.lnk.peerTags.set chip.val tag,
      peerSwapped := s.lnk.peerSwapped.set chip.val swapped } }) :
    exec (.peerStatusReceive chip st tag swapped) s = .next (if swapped = true then notePeerUp chip.val u else u) := by
  subst hu
  refine if_neg (not_or.2 ⟨hc, ?_⟩)
  rw [ht]
  decide

end

end

/-- Settles O56: an attempt, a retry, a residual and a status take the branches of their conditions. -/
theorem linksTrainAndReport : Obligations.LinksTrainAndReport := by
  intro s l
  refine ⟨fun inp hm hc hlen ht => ⟨exec_linkTrainAttempt_passes hm hc ht,
      fun hl hp ha => ⟨_, exec_linkTrainAttempt_passes hm hc ht hl hp, ?_⟩, exec_linkTrainAttempt_fails hm hc ht,
      exec_linkTrainAttempt_wrongPeer hm hc ht⟩,
    fun inp => exec_linkTrainAttempt_barred,
    fun hw => ⟨exec_linkTrainRetry_fourth hw,
      fun ha hs => exec_linkTrainRetry_retries hw (.inl ha) (by rw [hs]; rfl),
      fun hs => exec_linkTrainRetry_retries hw (.inr hs) (by rw [hs]; rfl),
      fun hs => exec_linkTrainRetry_waits hw (.inr hs) (by rw [hs]; rfl),
      fun ha hs => exec_linkTrainRetry_waits hw (.inl ha) (by rw [hs]; rfl)⟩,
    exec_linkTrainRetry_none,
    fun sum ha hr he => ⟨fun hs => ⟨_, exec_residualMeasure_within ha hr he hs, ?_⟩, fun hs hf => ?_,
      fun hs hf hn h6 => ?_⟩,
    fun sum => exec_residualMeasure_barred,
    fun u he hu => ⟨exec_peerStatusSend_due he hu, fun hl => ?_, fun hl => ?_⟩, exec_peerStatusSend_waits,
    fun chip st tag swapped u hc ht hu => exec_peerStatusReceive_kept hc ht hu,
    fun chip st tag swapped => exec_peerStatusReceive_unlinked, fun ht => if_pos ht,
    fun ht => ⟨if_neg (Bool.eq_false_iff.1 ht), if_pos (by rw [ht]; rfl)⟩⟩
  · obtain ⟨ldl, ref, hx, hstand, hramp⟩ := passTraining_aligned (inp := inp) hm ha
    rw [hx]
    have hup : linkAt (updLink l.val (linkUp inp) s) l.val = linkUp inp (linkAt s l.val) := linkAt_updLink_same hlen
    exact ⟨congrArg Link.trained hup, congrArg Link.lanes hup, congrArg Link.attempts hup, congrArg Link.peer hup,
      hstand,
      hramp, fun k hk => linkAt_updLink_other hk, rfl, rfl⟩
  · obtain ⟨m, tap, hif, cyc, hx⟩ := residualNoted_eq sum s
    rw [hx]
    exact ⟨rfl, rfl, rfl, rfl⟩
  · obtain ⟨m, tap, hif, cyc, hx⟩ := driftCounted_eq sum s
    have hf' : holdsFlaskGraph (driftCounted (residualNoted sum s)) = false := by rw [hx]; exact hf
    refine ⟨_, exec_residualMeasure_drifts ha hr he hs, ?_⟩
    rw [if_neg (Bool.eq_false_iff.1 hf')]
    rw [raise_asy, raise_mem]
    obtain ⟨_, _, _, _, _, _, _, _, _, _, _, _, _, _, _, _, _, _, hd⟩ :=
      detectionOnly_of_events (raise_events 0x1006 (driftCounted (residualNoted sum s)))
    rw [hd, hx]
    exact ⟨rfl, rfl, rfl, rfl⟩
  · obtain ⟨m, tap, hif, cyc, hx⟩ := driftCounted_eq sum s
    have hf' : holdsFlaskGraph (driftCounted (residualNoted sum s)) = true := by rw [hx]; exact hf
    refine ⟨_, exec_residualMeasure_drifts ha hr he hs, ?_⟩
    rw [if_pos hf']
    have hs1 := detectS1_enters 0x1006 (flaskPairs (driftCounted (residualNoted sum s)))
      (driftCounted (residualNoted sum s))
      (by rw [hx]; exact hn) (by rw [hx]; exact h6)
    obtain ⟨_, _, _, _, _, _, _, _, _, _, _, _, _, _, _, k, _, _, hd⟩ := detectS1_detectionOnly 0x1006
      (flaskPairs (driftCounted (residualNoted sum s))) (driftCounted (residualNoted sum s))
    have hlnk := congrArg State.lnk hd
    refine ⟨(congrArg Lnk.driftRun hlnk).trans (by rw [hx]), (congrArg Lnk.resid hlnk).trans (by rw [hx]), hs1.state,
      hs1.faultPairs.trans (by rw [hx]; rfl), hs1.lines, hs1.memory.trans (by rw [hx])⟩
  · rw [exec_peerStatusSend_due he hu, hl, hu]
    rfl
  · rw [exec_peerStatusSend_due he hu, hl]
    rfl

end Sys2Proof.Machine
end

section
/-! What peers of a flask send, and the loss of links, as they act on pours and swaps (R78, R82, R419 to R435). -/

namespace Sys2Proof.Machine

/-! ### Loss of links and lane groups -/

section
variable {s : State} {l : Fin 3}

theorem dropLink_pat (l : Nat) (s : State) : (dropLink l s).pat = s.pat := by
  obtain ⟨gs, e, h, -⟩ := ladleStop_frame (laneGroupId l) true (standLinks (-1) s)
  have hs : (standLinks (-1) s).pat = s.pat := by
    unfold standLinks
    split <;> rfl
  exact (congrArg State.pat h :).trans hs

/-- R432: the loss of the link is an event, or a detection where a record needs the link. -/
def linkLost (l : Nat) (s : State) : State :=
  if recordUses (active s) (farChip s l) = true then detectS1 0x1004 (flaskPairs (dropLink l s)) (dropLink l s)
  else raise 0x1004 (dropLink l s)

theorem linkLost_active (l : Nat) (s : State) : active (linkLost l s) = active s := by
  have hd : active (dropLink l s) = active s := active_congr (dropLink_pat l s)
  unfold linkLost
  split
  · obtain ⟨e, h⟩ := detectS1_pat 0x1004 (flaskPairs (dropLink l s)) (dropLink l s)
    rw [active, h]
    exact hd
  · obtain ⟨e, h⟩ := raise_pat 0x1004 (dropLink l s)
    rw [active, h]
    exact hd

theorem exec_linkDown_trained (h : (linkAt s l.val).trained = true) : exec (.linkDown l) s =
    .next (if farChip s l.val < (active s).hdr.flaskSize then
      abortExchanges (linkLost l.val s) else linkLost l.val s) := by
  have hx : exec (.linkDown l) s = .next (if farChip s l.val < (active (linkLost l.val s)).hdr.flaskSize then
      abortExchanges (linkLost l.val s) else linkLost l.val s) := by
    show execLinkDown l s = _
    exact if_neg (by rw [h]; decide)
  rw [hx, linkLost_active]

theorem exec_laneGroup1Lost_lost (h : (linkAt s l.val).trained = true) (hl : 16 ≤ (linkAt s l.val).lanes.toNat) :
    exec (.laneGroup1Lost l) s = .next (raise 0x1003 (updLink l.val (fun k => { k with
      lanes := k.lanes &&& 0x0F, grp1 := false, grantHere := false, grantPeer := false })
        (ladleStop (laneGroupId l.val) true s))) := by
  show execLaneGroup1Lost l s = _
  refine if_neg ?_
  have hd : (linkAt s l.val).lanes.toNat / 16 ≠ 0 := by omega
  simp [h, hd]

theorem exec_laneGroup1Lost_none (h : (linkAt s l.val).trained = false ∨ (linkAt s l.val).lanes.toNat < 16) :
    exec (.laneGroup1Lost l) s = .next s := by
  show execLaneGroup1Lost l s = _
  refine if_pos ?_
  rcases h with h | h
  · rw [h]
    rfl
  · rw [Nat.div_eq_of_lt h]
    exact Bool.or_true _

theorem exec_laneGroup1Join_none (h : (linkAt s l.val).trained = false ∨ (linkAt s l.val).lanes.toNat / 16 ≠ 15) :
    exec (.laneGroup1Join l) s = .next s := by
  show execLaneGroup1Join l s = _
  refine if_neg ?_
  rcases h with h | h <;> simp [h]

theorem exec_laneGroup1Join_joins (h : (linkAt s l.val).trained = true) (hl : (linkAt s l.val).lanes.toNat / 16 = 15) :
    exec (.laneGroup1Join l) s = .next (joinGroup l.val (updLink l.val (fun k => { k with grantPeer := true }) s)) := by
  show execLaneGroup1Join l s = _
  exact if_pos (by rw [h, hl]; rfl)

end

/-! ### Remote sets -/

section
variable {s : State} {chip flag origin : Nat} {ref : PourRef}

theorem remoteSet_unknown (h : flagOf (active s) flag = none) : remoteSet chip flag ref origin s = raise 0x0805 s := by
  unfold remoteSet
  dsimp only
  rw [h]

section
variable {rec : FlagRec} (h : flagOf (active s) flag = some rec)
include h

/-- R419: only a flag without a producer on this chip takes remote sets. -/
theorem remoteSet_produced (hp : rec.producer ≠ 0xFFFF) : remoteSet chip flag ref origin s = raise 0x0805 s := by
  unfold remoteSet
  dsimp only
  rw [h]
  exact if_pos hp

section
variable (hp : rec.producer = 0xFFFF)
include hp

section
variable (hf : persistent (active s) flag = true)
include hf

theorem remoteSet_persistent (hv : flagValue s flag 0 + 1 ≤ rec.sets) : remoteSet chip flag ref origin s =
    fireFlag flag origin (some (chip, ref)) (wakeWaits (putFlag flag 0 (flagValue s flag 0 + 1) s)) := by
  unfold remoteSet
  dsimp only
  rw [h]
  exact (if_neg (not_not_intro hp)).trans ((if_pos hf).trans (if_neg (Nat.not_lt.2 hv)))

theorem remoteSet_persistent_overset (hv : rec.sets < flagValue s flag 0 + 1) :
    remoteSet chip flag ref origin s = raise 0x0804 s := by
  unfold remoteSet
  dsimp only
  rw [h]
  exact (if_neg (not_not_intro hp)).trans ((if_pos hf).trans (if_pos hv))

end

variable (hf : persistent (active s) flag = false)
include hf

theorem remoteSet_unopened (hq : pourOfOwner s ref = none) : remoteSet chip flag ref origin s = raise 0x0805 s := by
  unfold remoteSet
  dsimp only
  rw [h]
  refine (if_neg (not_not_intro hp)).trans ((if_neg (Bool.eq_false_iff.1 hf)).trans ?_)
  rw [hq]

theorem remoteSet_pour {q : Pour} (hq : pourOfOwner s ref = some q) : remoteSet chip flag ref origin s =
    if rec.sets < flagValue s flag q.ref.seq + 1 then abortPour 0x0804 q.ref (raise 0x0804 s)
    else wakeWaits (putFlag flag q.ref.seq (flagValue s flag q.ref.seq + 1) s) := by
  unfold remoteSet
  dsimp only
  rw [h]
  refine (if_neg (not_not_intro hp)).trans ((if_neg (Bool.eq_false_iff.1 hf)).trans ?_)
  rw [hq]

end

end

end

section
variable {s : State} {chip : Fin 4} {slot : Fin 8} {seq : Word32}

theorem exec_remoteFlagSet_heard (h : fromPeer s chip.val = true) (flag origin : Nat) :
    exec (.remoteFlagSet chip flag slot seq origin) s =
      .next (remoteSet chip.val flag (PourRef.mk slot.val seq.toNat) origin s) := if_pos h

theorem exec_remoteFlagSet_unheard (h : fromPeer s chip.val = false) (flag origin : Nat) :
    exec (.remoteFlagSet chip flag slot seq origin) s = .next s := if_neg (Bool.eq_false_iff.1 h)

/-! ### Aborts and failed units of peers -/

theorem exec_peerAbort_none (h : pourOfOwner s (PourRef.mk slot.val seq.toNat) = none) :
    exec (.peerAbort chip slot seq) s = .next s := by
  show execPeerAbort chip slot seq s = _
  unfold execPeerAbort
  rw [h]

theorem exec_peerAbort_aborts (hp : fromPeer s chip.val = true) {q : Pour}
    (h : pourOfOwner s (PourRef.mk slot.val seq.toNat) = some q) (ha : q.aborted = none) :
    exec (.peerAbort chip slot seq) s = .next (abortPour 0x100A q.ref (raise 0x100A s)) := by
  show execPeerAbort chip slot seq s = _
  unfold execPeerAbort
  rw [h]
  exact if_pos (by rw [hp, ha]; rfl)

theorem exec_peerAbort_unheard (hp : fromPeer s chip.val = false) : exec (.peerAbort chip slot seq) s = .next s := by
  cases h : pourOfOwner s (PourRef.mk slot.val seq.toNat) with
  | none => exact exec_peerAbort_none h
  | some q =>
    show execPeerAbort chip slot seq s = _
    unfold execPeerAbort
    rw [h]
    exact if_neg (by rw [hp]; exact Bool.false_ne_true)

theorem filter_none_of_any {α : Type} {p : α → Bool} {l : List α} (h : l.any p = false) : l.filter p = [] :=
  List.filter_eq_nil_iff.2 (List.any_eq_false.1 h)

/-- R435: a unit of a peer that served nothing live recalls what it served. -/
theorem exec_remoteUnitFailed_unserved (h : fromPeer s chip.val = true) {u : Fin 35}
    (hp : (s.fgs.pours.any fun q => q.remoteUnits.contains (chip.val, u.val)) = false)
    (ha : (s.asy.handed.any fun q => q.remoteUnits.contains (chip.val, u.val)) = false)
    (hb : (s.asy.batches.any fun b => b.remoteUnits.contains (chip.val, u.val)) = false) :
    exec (.remoteUnitFailed chip u) s = .next (recallPours (fun e => e.remoteUnits.contains (chip.val, u.val)) s) := by
  show execRemoteUnitFailed chip u s = _
  unfold execRemoteUnitFailed
  rw [if_neg (by rw [h]; decide)]
  dsimp only
  rw [List.filter_append, filter_none_of_any hp, filter_none_of_any ha, filter_none_of_any hb]
  rfl

theorem exec_remoteUnitFailed_unheard (h : fromPeer s chip.val = false) (u : Fin 35) :
    exec (.remoteUnitFailed chip u) s = .next s := if_pos (by rw [h]; rfl)

end

/-! ### Exchange lines -/

theorem exec_xchgLine_single {s : State} {line : ExchangeLine} {n : NodeRec} {q : Pour}
    (hn : (splitNodes (active s))[line.q.val]?.bind (nodeOf (active s).nodes) = some n) (hq : s.fgs.pours = [q])
    (hs : q.ref.slot = n.slot) (ho : ownerSeq s q.ref = line.seq.toNat) :
    exec (.xchgLine line) s = if fromPeer s line.chip.val then .next (takeLine line n q s) else .next s := by
  show execXchgLine line s = _
  unfold execXchgLine
  dsimp only
  rw [hn]
  dsimp only
  rw [hq, List.find?_cons_of_pos (by rw [hs, ho]; simp)]

/-! ### The coordinated swap -/

section
variable {s : State}

theorem exec_flaskSwapAnnounce_none (h : s.pat.pending = none) : exec .flaskSwapAnnounce s = .next s := by
  show execFlaskSwapAnnounce s = _
  unfold execFlaskSwapAnnounce
  rw [h]

theorem exec_flaskSwapTake_none (h : s.lnk.announcedAt = none) : exec .flaskSwapTake s = .next s := by
  show execFlaskSwapTake s = _
  unfold execFlaskSwapTake
  rw [h]

section
variable {p : Pattern} (hp : s.pat.pending = some p)
include hp

theorem exec_flaskSwapAnnounce_held (hc : s.pat.committed = false) : exec .flaskSwapAnnounce s = .next s := by
  show execFlaskSwapAnnounce s = _
  unfold execFlaskSwapAnnounce
  rw [hp]
  exact if_pos (.inr (.inr (.inr hc)))

theorem exec_flaskSwapAnnounce_released (hz : 2 ≤ p.hdr.flaskSize) (hs : s.pat.swapAt = none)
    (ha : s.lnk.announcedAt = none) (hc : s.pat.committed = true) :
    exec .flaskSwapAnnounce s = .next (announceSwap p s) := by
  show execFlaskSwapAnnounce s = _
  unfold execFlaskSwapAnnounce
  rw [hp]
  refine if_neg fun h => ?_
  rw [hs, ha, swapReleased, hc] at h
  rcases h with h | h | h | h
  · exact absurd hz (Nat.not_le.2 h)
  · cases h
  · cases h
  · cases h

omit hp in
/-- R429: with every tag agreed the swap is announced. -/
theorem announceSwap_agreed (ha : s.pat.active.isSome = true)
    (ht : ∀ c ∈ peersOf p s, nth s.lnk.peerTags c none = some (BitVec.ofNat 32 p.hdr.flaskTag)) :
    announceSwap p s = { s with lnk := { s.lnk with announcedAt := some (now s) } } := by
  have htags : (peersOf p s).map (fun c => nth s.lnk.peerTags c none) =
      (peersOf p s).map fun _ => some (BitVec.ofNat 32 p.hdr.flaskTag) := List.map_congr_left ht
  have hrun : runningTag p s = none := if_pos ha
  unfold announceSwap
  dsimp only
  rw [hrun, htags]
  refine (if_neg ?_).trans (if_pos ?_)
  · simp
  · simp

theorem exec_flaskSwapTake_announced {a : Nat} (ha : s.lnk.announcedAt = some a) (hs : s.pat.swapAt = none) :
    exec .flaskSwapTake s = if a + 2400 ≤ now s then .next (requestSwap { s with lnk := { s.lnk with
      announcedAt := none, tagMismatch := false, peerSwapped := List.replicate 4 false } }) else .next s := by
  show execFlaskSwapTake s = _
  unfold execFlaskSwapTake
  rw [ha]
  by_cases ht : a + 2400 ≤ now s
  · rw [if_pos ht]
    exact if_pos ⟨ht, by rw [hp]; rfl, hs⟩
  · rw [if_neg ht]
    exact if_neg fun h => ht h.1

end

end

/-- Settles O57: what a peer sends is judged by its link, the flag's record and the pour that it names. -/
theorem flaskEventsActOnPours : Obligations.FlaskEventsActOnPours := by
  intro s l chip slot seq
  refine ⟨fun ht u hu => ?_, exec_laneGroup1Lost_lost, exec_laneGroup1Lost_none,
    fun h => if_neg (Bool.eq_false_iff.1 h), exec_laneGroup1Join_none, fun h => if_pos h, exec_laneGroup1Join_joins,
    fun hp => ⟨fun flag origin hf => ?_, fun flag origin rec hf hr hps => ⟨fun hv => ?_, fun hv => ?_⟩,
      fun flag origin rec hf => ⟨fun h => ?_, fun hr hps q hq => ⟨fun hv => ?_, fun hv => ?_⟩⟩,
      exec_peerAbort_none, fun q hq ha => exec_peerAbort_aborts hp hq ha,
      fun u hpours hh hb => exec_remoteUnitFailed_unserved hp hpours hh hb⟩,
    fun line n q hn hq hs ho => ⟨fun hp => ?_, fun hp => ?_⟩,
    fun p hp hz hs ha => ⟨exec_flaskSwapAnnounce_released hp hz hs ha, fun hc hact ht => ?_,
      exec_flaskSwapAnnounce_held hp⟩,
    exec_flaskSwapAnnounce_none, exec_flaskSwapTake_none,
    fun a p ha hp hs => ⟨fun ht => ?_, fun ht => ?_⟩,
    fun hp flag origin u => ⟨exec_remoteFlagSet_unheard hp flag origin, exec_peerAbort_unheard hp,
      exec_remoteUnitFailed_unheard hp u⟩⟩
  · rw [exec_linkDown_trained ht]
    rw [← linkLost] at hu
    rw [hu]
    exact ⟨fun h => by rw [if_neg (Nat.not_lt.2 h)], fun h => by rw [if_pos h]⟩
  · rw [exec_remoteFlagSet_heard hp, remoteSet_unknown hf]
  · rw [exec_remoteFlagSet_heard hp, remoteSet_persistent hf hr hps hv]
  · rw [exec_remoteFlagSet_heard hp, remoteSet_persistent_overset hf hr hps hv]
  · rw [exec_remoteFlagSet_heard hp]
    by_cases hr : rec.producer = 0xFFFF
    · obtain ⟨hps, hq⟩ := h.resolve_left (not_not_intro hr)
      rw [remoteSet_unopened hf hr hps hq]
    · rw [remoteSet_produced hf hr]
  · rw [exec_remoteFlagSet_heard hp, remoteSet_pour hf hr hps hq, if_neg (Nat.not_lt.2 hv)]
  · rw [exec_remoteFlagSet_heard hp, remoteSet_pour hf hr hps hq, if_pos hv]
  · rw [exec_xchgLine_single hn hq hs ho, if_pos hp]
  · rw [exec_xchgLine_single hn hq hs ho, if_neg (Bool.eq_false_iff.1 hp)]
  · rw [exec_flaskSwapAnnounce_released hp hz hs ha hc, announceSwap_agreed hact ht]
  · rw [exec_flaskSwapTake_announced hp ha hs, if_pos ht]
    rfl
  · rw [exec_flaskSwapTake_announced hp ha hs, if_neg (Nat.not_le.2 ht)]

end Sys2Proof.Machine
end

section
/-! Writes of the host that reach Crucible (R457, R458). As with threads and peers the model writes them through PAT's
own access, so a region that admits the host and not PAT (R337) admits the write at its check and then denies it. -/

namespace Sys2Proof.Machine

/-- A device whose host link is up, with BAR2 at the base of Crucible; the region admits the host alone. -/
def hostWrites : State := onlyFor 0x1A0 0x1A0 (tHif (fun h => { h with linkUp := true, bar2Base := 0x20000000 }) tUp)

/-- What the check of the host's write leaves. -/
def hostChecked : State := (checkAccess 0x1A0 false .write (barAddr hostWrites .bar2 0) 1 false hostWrites).2

theorem hostWrites_admitted : checkAccess 0x1A0 false .write (barAddr hostWrites .bar2 0) [(1 : Byte)].length false
    hostWrites = (.ok 0x20000000, hostChecked) := admitted_of (by decide)

/-- The device after the write. -/
def hostWritten : State := hostPerform (.write [1]) 0x20000000 hostChecked

theorem exec_hostAccess_written : exec (.hostAccess .bar2 0 (.write [1]) .clean) hostWrites = .next hostWritten := rfl

/-- R340: the write was denied: the byte is what it was. -/
theorem hostWritten_unwritten : hostWritten.mem.readByte 0x20000000 = 0 := by decide +kernel

/-- Refutes O59: a write of the host in a region of the host is admitted and leaves memory as it is. -/
theorem not_hostReachesTheDevice : ¬ Obligations.HostReachesTheDevice := by
  intro h
  obtain ⟨haccess, -⟩ := h hostWrites
  obtain ⟨-, -, -, -, hwrite⟩ := haccess .bar2 0 (.write [1]) rfl (by decide) (by decide)
  obtain ⟨t, ht, hmem, -⟩ :=
    hwrite [1] 0x20000000 hostChecked rfl rfl hostWrites_admitted (by decide) (.inl (by decide))
  have hwritten : hostWritten = t := Host.Outcome.next.inj (exec_hostAccess_written.symm.trans ht)
  have hbyte := hostWritten_unwritten
  rw [hwritten, hmem] at hbyte
  exact absurd hbyte (by decide)

end Sys2Proof.Machine
end
